-- ==== Sys2Proof/Word.lean ====
section
/-! DEFINITION. The word types of the FD4 (R13, R132, R187 of spec/) and nothing else. -/

namespace Sys2Proof

/-- One byte; a multi-byte value stores its least significant byte lowest (R10). -/
abbrev Byte := BitVec 8

/-- An instruction word, header or slot (R82, R86). -/
abbrev Word32 := BitVec 32

/-- A scalar or system register (R132). -/
abbrev Word := BitVec 64

/-- A predicate: one bit per byte lane (R132). -/
abbrev Pred := BitVec 256

/-- A vector register of 256 bytes (R187). -/
abbrev Vec := BitVec 2048

end Sys2Proof
end

