-- ==== Sys2Proof/Machine/SysReg.lean ====
section
/-! DEFINITION. The system register map: which numbers are assigned (R161, R276, R376, R405, R465 and the chapters
they name), which copy of a register an access reaches, and the reset values (R12, R162). -/

namespace Sys2Proof

/-- Whose copy of a register an access reaches. -/
inductive RegScope where
  | ctx | core | die | package
deriving DecidableEq, Repr

/-- The access of one class of context, in the codes of R12; `none` is the dash of R161 (PRIV). -/
inductive RegAccess where
  | ro | rw | wo | none
deriving DecidableEq, Repr

/-- One row of the map: numbers `lo` to `hi`, the copy, and the two access codes. -/
structure RegRow where
  lo : Nat
  hi : Nat
  scope : RegScope
  tenant : RegAccess
  sup : RegAccess
deriving DecidableEq, Repr

/-- The rows a tenant may name (R161, R275, R276, R405, R465). -/
def tenantRows : List RegRow :=
  [ ⟨0x000, 0x001, .ctx, .ro, .ro⟩, ⟨0x002, 0x00B, .ctx, .rw, .rw⟩, ⟨0x010, 0x017, .ctx, .ro, .ro⟩,
    ⟨0x018, 0x019, .ctx, .rw, .rw⟩, ⟨0x01A, 0x01B, .ctx, .ro, .ro⟩, ⟨0x020, 0x021, .package, .ro, .ro⟩,
    ⟨0x022, 0x023, .package, .rw, .rw⟩, ⟨0x024, 0x024, .ctx, .rw, .rw⟩, ⟨0x025, 0x025, .package, .ro, .ro⟩,
    ⟨0x030, 0x030, .core, .ro, .ro⟩, ⟨0x040, 0x047, .ctx, .rw, .rw⟩, ⟨0x048, 0x04F, .ctx, .ro, .ro⟩ ]

/-- The supervisor's rows 0x800 to 0x8FF (R161, R276, R363, R420, R424, R433, R74). -/
def supRowsLow : List RegRow :=
  [ ⟨0x800, 0x800, .core, .none, .rw⟩, ⟨0x802, 0x802, .die, .none, .rw⟩, ⟨0x810, 0x812, .package, .none, .rw⟩,
    ⟨0x820, 0x883, .package, .none, .rw⟩, ⟨0x890, 0x891, .die, .none, .rw⟩, ⟨0x8A0, 0x8BF, .package, .none, .rw⟩,
    ⟨0x8C0, 0x8C7, .package, .none, .rw⟩, ⟨0x8C8, 0x8C8, .ctx, .none, .rw⟩, ⟨0x8C9, 0x8CA, .package, .none, .rw⟩,
    ⟨0x8CB, 0x8CB, .die, .none, .ro⟩, ⟨0x8D0, 0x8D0, .core, .none, .rw⟩, ⟨0x8D4, 0x8D4, .package, .none, .wo⟩,
    ⟨0x8D5, 0x8D6, .die, .none, .rw⟩, ⟨0x8D7, 0x8D7, .package, .none, .wo⟩, ⟨0x8D8, 0x8D8, .die, .none, .rw⟩,
    ⟨0x8E0, 0x8EF, .die, .none, .rw⟩, ⟨0x8F0, 0x8F0, .die, .none, .wo⟩, ⟨0x8F1, 0x8F1, .die, .none, .ro⟩,
    ⟨0x8F2, 0x8F2, .die, .none, .rw⟩ ]

/-- The supervisor's rows from 0x900 (R275, R376, R417, R419, R434, R435, R46, R465). -/
def supRowsHigh : List RegRow :=
  [ ⟨0x900, 0x91F, .package, .none, .rw⟩, ⟨0x940, 0x948, .package, .none, .rw⟩, ⟨0x950, 0x97F, .package, .none, .rw⟩,
    ⟨0x980, 0x98F, .die, .none, .rw⟩, ⟨0x991, 0x998, .package, .none, .rw⟩, ⟨0x9A0, 0x9A0, .package, .none, .rw⟩,
    ⟨0x9A1, 0x9A1, .package, .none, .ro⟩, ⟨0x9B0, 0x9B2, .die, .none, .rw⟩, ⟨0x9C0, 0x9CF, .package, .none, .rw⟩,
    ⟨0x9D0, 0x9DF, .die, .none, .rw⟩, ⟨0xA00, 0xA00, .package, .none, .ro⟩, ⟨0xA01, 0xA02, .core, .none, .rw⟩,
    ⟨0xA03, 0xA03, .core, .none, .wo⟩, ⟨0xA04, 0xA04, .core, .none, .ro⟩, ⟨0xA09, 0xA09, .package, .none, .rw⟩,
    ⟨0xA0A, 0xA0A, .die, .none, .rw⟩, ⟨0xA0B, 0xA0B, .die, .none, .ro⟩, ⟨0xA10, 0xA11, .package, .none, .rw⟩,
    ⟨0xA20, 0xA4D, .package, .none, .ro⟩, ⟨0xA4E, 0xA4E, .package, .none, .wo⟩ ]

/-- The row of a register number, `none` when the number is unassigned (R148). -/
def SysReg.row (n : Nat) : Option RegRow :=
  (tenantRows ++ supRowsLow ++ supRowsHigh).find? fun r => decide (r.lo ≤ n ∧ n ≤ r.hi)

/-- Is the register number assigned (R148)? -/
def SysReg.assigned (n : Nat) : Bool := (SysReg.row n).isSome

/-- The reset values of the registers that have a copy outside the contexts, where it is not zero
(R125, R48, R57, R62, R161, R247, R376, R417, R435, R464). -/
def SysReg.reset (n : Nat) : Word :=
  if n = 0x800 then 0x100000#64                              -- ISSCFG.QUANTUM = 16
  else if n = 0x802 then 1000#64                             -- AGELIM
  else if n = 0x812 then 1#64                                -- PANCTL.VER
  else if 0x820 ≤ n ∧ n ≤ 0x82F then 1000#64                 -- PCFG.GRACE
  else if 0x870 ≤ n ∧ n ≤ 0x87F then 10000#64                -- HANGTO
  else if 0x8A0 ≤ n ∧ n ≤ 0x8BF then 0x1000#64               -- ABWIN, SPWIN LIMIT = 16
  else if n = 0x940 then 0x800000000#64                      -- FABID.FL = 8
  else if 0x950 ≤ n ∧ n ≤ 0x96F then BitVec.ofNat 64 (n - 0x950)  -- PORTCFGn.PLANE = n
  else if 0x991 ≤ n ∧ n ≤ 0x998 then 0x3E800100000#64        -- ERRCFG WINDOW 1,000, THRESH 16
  else if n = 0x9B0 then 15625#64                            -- SAMPCFG.PERIOD
  else if n = 0xA0A then 0x640000#64                         -- THRCFG.TMAX = 100
  else 0#64

end Sys2Proof
end

