-- ==== Sys2Proof/Syntax.lean ====
section
/-! DEFINITION. The syntax of the machine: one constructor of `Instr` for every row of spec/opcode_table.json,
the 199 encoded instructions (04_fetching_bundles.md, R99 to R104) and the 100 steps that have no encoding
(95_what_each_step_holds.md). Operands carry the field widths of the forms of R94; a reserved field has no operand. -/

namespace Sys2Proof

/-- A scalar register field, s0 to s31 (R94). -/
abbrev SReg := BitVec 5
/-- A vector register field, v0 to v31 (R94). -/
abbrev VReg := BitVec 5
/-- A vector operand code (R96). -/
abbrev VOp := BitVec 6
/-- A predicate field, p0 to p7 (R94). -/
abbrev PReg := BitVec 3

/-- A scalar guard: bit 0 of predicate `p`, inverted when `inv` is set (R95). -/
structure Guard where
  p : PReg
  inv : Bool
deriving DecidableEq, Repr

/-- A fabric packet (R378): the header's fields, the payload, and the lane-group poison that SENDV
carries (R388 says that it travels; no header field is named for it). For RESULT, `aux` holds the
status fields of R393. `tag` is the tag by which a reply names its request (R378 gives a reply's ADDR to it and names no
field of the request; assumption log 14). -/
structure Packet where
  op : Byte
  sinc : Byte
  tinc : Byte
  len : Byte
  key : BitVec 32
  ts : BitVec 32
  route : BitVec 32
  addr : Word
  aux : Word
  payload : List Byte
  poison : BitVec 4
  tag : BitVec 16
deriving DecidableEq, Repr

/-- The events a link-state update announces (R395, R398). -/
inductive LinkEvent where
  | linkDown | linkUp | peerDownLink | peerDownReset | peerUp
deriving DecidableEq, Repr

/-- A link-state update (R395): its sequence number, the package, plane, event, incarnation and slot, and the plane that
carries it, none for one that the package originates. -/
structure LinkUpdate where
  seq : Nat
  pkg : Nat
  plane : Nat
  event : LinkEvent
  inc : Byte
  slot : Word
  via : Option Nat
deriving DecidableEq, Repr

/-- The registers a REGISTER_WRITE step can name (R12): a system register written by context `x`,
a register of queue page `q` written by the host, or a register of partition page `n`. -/
inductive RegName where
  | sys (x num : Nat)
  | queue (q off : Nat)
  /-- An access of the page of queue `q` that is not one aligned access of 8 bytes (R38). -/
  | queueSize (q : Nat)
  | part (n off : Nat)
deriving DecidableEq, Repr

/-- The rows of the opcode table. -/
inductive Instr where
  -- Class 000: scalar register instructions (R135 to R138)
  /-- `ADD sd, sa, sb` (OPC 0x00, R135). -/
  | add (g : Guard) (d a b : SReg)
  /-- `SUB sd, sa, sb` (OPC 0x01, R135). -/
  | sub (g : Guard) (d a b : SReg)
  /-- `AND sd, sa, sb` (OPC 0x02, R135). -/
  | and (g : Guard) (d a b : SReg)
  /-- `OR sd, sa, sb` (OPC 0x03, R135). -/
  | or (g : Guard) (d a b : SReg)
  /-- `XOR sd, sa, sb` (OPC 0x04, R135). -/
  | xor (g : Guard) (d a b : SReg)
  /-- `SHL sd, sa, sb` (OPC 0x05, R135). -/
  | shl (g : Guard) (d a b : SReg)
  /-- `SHR sd, sa, sb` (OPC 0x06, R135). -/
  | shr (g : Guard) (d a b : SReg)
  /-- `SAR sd, sa, sb` (OPC 0x07, R135). -/
  | sar (g : Guard) (d a b : SReg)
  /-- `MUL sd, sa, sb` (OPC 0x08, R135). -/
  | mul (g : Guard) (d a b : SReg)
  /-- `MULH sd, sa, sb` (OPC 0x09, R135). -/
  | mulh (g : Guard) (d a b : SReg)
  /-- `MULHN sd, sa, sb` (OPC 0x0A, R135). -/
  | mulhn (g : Guard) (d a b : SReg)
  /-- `DIV sd, sa, sb` (OPC 0x0B, R135). -/
  | div (g : Guard) (d a b : SReg)
  /-- `DIVN sd, sa, sb` (OPC 0x0C, R135). -/
  | divn (g : Guard) (d a b : SReg)
  /-- `REM sd, sa, sb` (OPC 0x0D, R135). -/
  | rem (g : Guard) (d a b : SReg)
  /-- `REMN sd, sa, sb` (OPC 0x0E, R135). -/
  | remn (g : Guard) (d a b : SReg)
  /-- `MIN sd, sa, sb` (OPC 0x0F, R135). -/
  | min (g : Guard) (d a b : SReg)
  /-- `MAX sd, sa, sb` (OPC 0x10, R135). -/
  | max (g : Guard) (d a b : SReg)
  /-- `MINN sd, sa, sb` (OPC 0x11, R135). -/
  | minn (g : Guard) (d a b : SReg)
  /-- `MAXN sd, sa, sb` (OPC 0x12, R135). -/
  | maxn (g : Guard) (d a b : SReg)
  /-- `SEL sd, sa, sb, pk` (OPC 0x13, R135). -/
  | sel (g : Guard) (d a b : SReg) (k : PReg)
  /-- `CLZ sd, sa` (OPC 0x14, R135). -/
  | clz (g : Guard) (d a : SReg)
  /-- `CTZ sd, sa` (OPC 0x15, R135). -/
  | ctz (g : Guard) (d a : SReg)
  /-- `POPC sd, sa` (OPC 0x16, R135). -/
  | popc (g : Guard) (d a : SReg)
  /-- `CMP.cc pd, sa, sb`; `cc` is fn (OPC 0x17, R137). -/
  | cmpCc (g : Guard) (cc : BitVec 4) (pd : PReg) (a b : SReg)
  /-- `PAND pd, pa, pb` (OPC 0x18, R138). -/
  | pand (g : Guard) (pd pa pb : PReg)
  /-- `POR pd, pa, pb` (OPC 0x19, R138). -/
  | por (g : Guard) (pd pa pb : PReg)
  /-- `PXOR pd, pa, pb` (OPC 0x1A, R138). -/
  | pxor (g : Guard) (pd pa pb : PReg)
  /-- `PNOT pd, pa` (OPC 0x1B, R138). -/
  | pnot (g : Guard) (pd pa : PReg)
  /-- `MOVP.PS sd, pa, q` (OPC 0x1C, R138). -/
  | movpPs (g : Guard) (d : SReg) (pa : PReg) (q : BitVec 2)
  /-- `MOVP.SP pd, sa, q` (OPC 0x1C, R138). -/
  | movpSp (g : Guard) (pd : PReg) (a : SReg) (q : BitVec 2)
  /-- `MOVP.BC pd, sa` (OPC 0x1C, R138). -/
  | movpBc (g : Guard) (pd : PReg) (a : SReg)
  -- Class 001: scalar immediate instructions (R139)
  /-- `ADDI sd, sa, imm` (OPC 0x20, R139). -/
  | addi (d a : SReg) (imm : BitVec 13)
  /-- `ANDI sd, sa, imm` (OPC 0x21, R139). -/
  | andi (d a : SReg) (imm : BitVec 13)
  /-- `ORI sd, sa, imm` (OPC 0x22, R139). -/
  | ori (d a : SReg) (imm : BitVec 13)
  /-- `XORI sd, sa, imm` (OPC 0x23, R139). -/
  | xori (d a : SReg) (imm : BitVec 13)
  /-- `SHLI sd, sa, n` (OPC 0x24, R139). -/
  | shli (d a : SReg) (n : BitVec 6)
  /-- `SHRI sd, sa, n` (OPC 0x25, R139). -/
  | shri (d a : SReg) (n : BitVec 6)
  /-- `SARI sd, sa, n` (OPC 0x26, R139). -/
  | sari (d a : SReg) (n : BitVec 6)
  /-- `MOVI sd, imm` (OPC 0x27, R139). -/
  | movi (d : SReg) (imm : BitVec 18)
  /-- `SHI sd, imm` (OPC 0x28, R139). -/
  | shi (d : SReg) (imm : BitVec 18)
  -- Class 010: control and system instructions (R141 to R160)
  /-- `BR label`; `off` counts words (OPC 0x40, R141). -/
  | br (g : Guard) (off : BitVec 19)
  /-- `BRL label` (OPC 0x41, R141). -/
  | brl (g : Guard) (off : BitVec 19)
  /-- `BRS sd, sa` (OPC 0x42, R141). -/
  | brs (g : Guard) (d a : SReg)
  /-- `LOOP Ln, sa` (OPC 0x43, R142). -/
  | loop (g : Guard) (n : BitVec 2) (a : SReg)
  /-- `LOOPI Ln, count` (OPC 0x44, R142). -/
  | loopi (n : BitVec 2) (count : BitVec 13)
  /-- `PPT` (OPC 0x45, R144). -/
  | ppt
  /-- `YIELD` (OPC 0x46, R145). -/
  | yield
  /-- `EXIT` (OPC 0x47, R146). -/
  | exit
  /-- `TSTAMP sd` (OPC 0x48, R147). -/
  | tstamp (g : Guard) (d : SReg)
  /-- `TSTAMP.SET sd, sa` (OPC 0x48, R147). -/
  | tstampSet (g : Guard) (d a : SReg)
  /-- `SREAD sd, NAME` (OPC 0x49, R148). -/
  | sread (d : SReg) (num : BitVec 12)
  /-- `SWRITE NAME, sa` (OPC 0x4A, R148). -/
  | swrite (num : BitVec 12) (a : SReg)
  /-- `TRAP imm` (OPC 0x4B, R150). -/
  | trap (imm : BitVec 18)
  /-- `SVC imm` (OPC 0x4C, R151). -/
  | svc (imm : BitVec 18)
  /-- `ERET` (OPC 0x4D, R152). -/
  | eret
  /-- `FCR.SET sa, fields` (OPC 0x4E, R153). -/
  | fcrSet (g : Guard) (a : SReg) (fields : BitVec 4)
  /-- `FCR.GET sd` (OPC 0x4F, R153). -/
  | fcrGet (g : Guard) (d : SReg)
  /-- `PAN.ACK sd` (OPC 0x50, R154). -/
  | panAck (g : Guard) (d : SReg)
  /-- `PAN.READ sd, sa, sel` (OPC 0x51, R155). -/
  | panRead (g : Guard) (d a : SReg) (ps : BitVec 2)
  /-- `POIS.TEST sd, x`; `kind` 0 scalar, 1 vector, 2 predicate (OPC 0x52, R156). -/
  | poisTest (g : Guard) (kind : BitVec 2) (d : SReg) (x : BitVec 5)
  /-- `POIS.CLR x` (OPC 0x52, R156). -/
  | poisClr (g : Guard) (kind : BitVec 2) (x : BitVec 5)
  /-- `POIS.SET x` (OPC 0x52, R156). -/
  | poisSet (g : Guard) (kind : BitVec 2) (x : BitVec 5)
  /-- `PREEMPT sd, sa, sb, stop` (OPC 0x53, R158). -/
  | preemptStop (g : Guard) (d a b : SReg)
  /-- `PREEMPT sd, sa, sb, resume` (OPC 0x53, R158). -/
  | preemptResume (g : Guard) (d a b : SReg)
  /-- `PREEMPT sd, sa, sb, state` (OPC 0x53, R158). -/
  | preemptState (g : Guard) (d a b : SReg)
  /-- `CTX.SAVE sd, sa, sb` (OPC 0x54, R159). -/
  | ctxSave (g : Guard) (d a b : SReg)
  /-- `CTX.LOAD sd, sa, sb` (OPC 0x55, R159). -/
  | ctxLoad (g : Guard) (d a b : SReg)
  /-- `HALT` (OPC 0x56, R160). -/
  | halt
  -- Class 011: vector A (R194 to R202)
  /-- `VADD vd, a, b` (OPC 0x60, R194). -/
  | vadd (pg : PReg) (t : BitVec 3) (d : VReg) (a b : VOp)
  /-- `VSUB vd, a, b` (OPC 0x61, R194). -/
  | vsub (pg : PReg) (t : BitVec 3) (d : VReg) (a b : VOp)
  /-- `VMUL vd, a, b` (OPC 0x62, R194). -/
  | vmul (pg : PReg) (t : BitVec 3) (d : VReg) (a b : VOp)
  /-- `VMULH vd, a, b` (OPC 0x63, R194). -/
  | vmulh (pg : PReg) (t : BitVec 3) (d : VReg) (a b : VOp)
  /-- `VMIN vd, a, b` (OPC 0x64, R194). -/
  | vmin (pg : PReg) (t : BitVec 3) (d : VReg) (a b : VOp)
  /-- `VMAX vd, a, b` (OPC 0x65, R194). -/
  | vmax (pg : PReg) (t : BitVec 3) (d : VReg) (a b : VOp)
  /-- `VAND vd, a, b` (OPC 0x66, R194). -/
  | vand (pg : PReg) (t : BitVec 3) (d : VReg) (a b : VOp)
  /-- `VOR vd, a, b` (OPC 0x67, R194). -/
  | vor (pg : PReg) (t : BitVec 3) (d : VReg) (a b : VOp)
  /-- `VXOR vd, a, b` (OPC 0x68, R194). -/
  | vxor (pg : PReg) (t : BitVec 3) (d : VReg) (a b : VOp)
  /-- `VNOT vd, a` (OPC 0x69, R194). -/
  | vnot (pg : PReg) (t : BitVec 3) (d : VReg) (a : VOp)
  /-- `VSHL vd, a, b` (OPC 0x6A, R194). -/
  | vshl (pg : PReg) (t : BitVec 3) (d : VReg) (a b : VOp)
  /-- `VSHR vd, a, b` (OPC 0x6B, R194). -/
  | vshr (pg : PReg) (t : BitVec 3) (d : VReg) (a b : VOp)
  /-- `VSAR vd, a, b` (OPC 0x6C, R194). -/
  | vsar (pg : PReg) (t : BitVec 3) (d : VReg) (a b : VOp)
  /-- `VCMP.cc pd, a, b` (OPC 0x6D, R196). -/
  | vcmpCc (cc : BitVec 2) (pg : PReg) (t : BitVec 3) (pd : PReg) (a b : VOp)
  /-- `VADDS vd, a, b` (OPC 0x6E, R194). -/
  | vadds (pg : PReg) (t : BitVec 3) (d : VReg) (a b : VOp)
  /-- `VSUBS vd, a, b` (OPC 0x6F, R194). -/
  | vsubs (pg : PReg) (t : BitVec 3) (d : VReg) (a b : VOp)
  /-- `FADD vd, a, b` (OPC 0x70, R198). -/
  | fadd (pg : PReg) (t : BitVec 3) (d : VReg) (a b : VOp)
  /-- `FSUB vd, a, b` (OPC 0x71, R198). -/
  | fsub (pg : PReg) (t : BitVec 3) (d : VReg) (a b : VOp)
  /-- `FMUL vd, a, b` (OPC 0x72, R198). -/
  | fmul (pg : PReg) (t : BitVec 3) (d : VReg) (a b : VOp)
  /-- `FMA vd, a, b` (OPC 0x73, R198). -/
  | fma (pg : PReg) (t : BitVec 3) (d : VReg) (a b : VOp)
  /-- `FMS vd, a, b` (OPC 0x74, R198). -/
  | fms (pg : PReg) (t : BitVec 3) (d : VReg) (a b : VOp)
  /-- `FNMA vd, a, b` (OPC 0x75, R198). -/
  | fnma (pg : PReg) (t : BitVec 3) (d : VReg) (a b : VOp)
  /-- `FNMS vd, a, b` (OPC 0x76, R198). -/
  | fnms (pg : PReg) (t : BitVec 3) (d : VReg) (a b : VOp)
  /-- `FMIN vd, a, b` (OPC 0x77, R199). -/
  | fmin (pg : PReg) (t : BitVec 3) (d : VReg) (a b : VOp)
  /-- `FMAX vd, a, b` (OPC 0x78, R199). -/
  | fmax (pg : PReg) (t : BitVec 3) (d : VReg) (a b : VOp)
  /-- `FABS vd, a` (OPC 0x79, R199). -/
  | fabs (pg : PReg) (t : BitVec 3) (d : VReg) (a : VOp)
  /-- `FNEG vd, a` (OPC 0x7A, R199). -/
  | fneg (pg : PReg) (t : BitVec 3) (d : VReg) (a : VOp)
  /-- `FCMP.cc pd, a, b` (OPC 0x7B, R200). -/
  | fcmpCc (cc : BitVec 2) (pg : PReg) (t : BitVec 3) (pd : PReg) (a b : VOp)
  /-- `FCLASS vd, a` (OPC 0x7C, R201). -/
  | fclass (pg : PReg) (t : BitVec 3) (d : VReg) (a : VOp)
  /-- `FRND vd, a` (OPC 0x7D, R202). -/
  | frnd (pg : PReg) (t : BitVec 3) (d : VReg) (a : VOp)
  /-- `FSCALE vd, a, b` (OPC 0x7E, R202). -/
  | fscale (pg : PReg) (t : BitVec 3) (d : VReg) (a b : VOp)
  -- Class 100: vector B (R203 to R219)
  /-- `VSEL vd, a, b, pK` (OPC 0x80, R203). -/
  | vsel (t : BitVec 3) (d : VReg) (a b : VOp) (k : PReg)
  /-- `VMOV vd, a` (OPC 0x81, R203). -/
  | vmov (pg : PReg) (t : BitVec 3) (d : VReg) (a : VOp)
  /-- `VBCAST vd, sN` (OPC 0x82, R203). -/
  | vbcast (pg : PReg) (t : BitVec 3) (d : VReg) (n : SReg)
  /-- `VIMM vd, imm` (OPC 0x83, R203). -/
  | vimm (t : BitVec 3) (d : VReg) (imm : BitVec 12)
  /-- `VEXT sd, a, sb` (OPC 0x84, R205). -/
  | vext (t : BitVec 3) (d : SReg) (a : VOp) (b : SReg)
  /-- `VINS vd, sa, sb` (OPC 0x85, R205). -/
  | vins (t : BitVec 3) (d : VReg) (a b : SReg)
  /-- `VPERM vd, a, b` (OPC 0x86, R206). -/
  | vperm (pg : PReg) (t : BitVec 3) (d : VReg) (a b : VOp)
  /-- `VSLIDE_UP vd, a, sb` (OPC 0x87, R206). -/
  | vslideUp (pg : PReg) (t : BitVec 3) (d : VReg) (a : VOp) (b : SReg)
  /-- `VSLIDE_DN vd, a, sb` (OPC 0x88, R206). -/
  | vslideDn (pg : PReg) (t : BitVec 3) (d : VReg) (a : VOp) (b : SReg)
  /-- `VROT vd, a, sb` (OPC 0x89, R206). -/
  | vrot (pg : PReg) (t : BitVec 3) (d : VReg) (a : VOp) (b : SReg)
  /-- `VZIP vd, a, b` (OPC 0x8A, R207). -/
  | vzip (pg : PReg) (t : BitVec 3) (d : VReg) (a b : VOp)
  /-- `VUNZIP vd, a, b` (OPC 0x8B, R207). -/
  | vunzip (pg : PReg) (t : BitVec 3) (d : VReg) (a b : VOp)
  /-- `VTRN vd, a, b` (OPC 0x8C, R207). -/
  | vtrn (pg : PReg) (t : BitVec 3) (d : VReg) (a b : VOp)
  /-- `VRADD vd, a` (OPC 0x8D, R208). -/
  | vradd (pg : PReg) (t : BitVec 3) (d : VReg) (a : VOp)
  /-- `VRMIN vd, a` (OPC 0x8E, R208). -/
  | vrmin (pg : PReg) (t : BitVec 3) (d : VReg) (a : VOp)
  /-- `VRMAX vd, a` (OPC 0x8F, R208). -/
  | vrmax (pg : PReg) (t : BitVec 3) (d : VReg) (a : VOp)
  /-- `VSCAN_ADD vd, a` (OPC 0x90, R211). -/
  | vscanAdd (pg : PReg) (t : BitVec 3) (d : VReg) (a : VOp)
  /-- `VDOT4 vd, a, b` (OPC 0x91, R212). -/
  | vdot4 (pg : PReg) (t : BitVec 3) (d : VReg) (a b : VOp)
  /-- `VHASH vd, a, b` (OPC 0x92, R213). -/
  | vhash (pg : PReg) (t : BitVec 3) (d : VReg) (a b : VOp)
  /-- `PCNT sd, pa` (OPC 0x93, R214). -/
  | pcnt (pg : PReg) (t : BitVec 3) (d : SReg) (pa : PReg)
  /-- `PFIRST sd, pa` (OPC 0x94, R214). -/
  | pfirst (pg : PReg) (t : BitVec 3) (d : SReg) (pa : PReg)
  /-- `VSHLI vd, a, c` (OPC 0x95, R204). -/
  | vshli (t : BitVec 3) (d : VReg) (a : VOp) (c : BitVec 6)
  /-- `VSHRI vd, a, c` (OPC 0x96, R204). -/
  | vshri (t : BitVec 3) (d : VReg) (a : VOp) (c : BitVec 6)
  /-- `VSARI vd, a, c` (OPC 0x97, R204). -/
  | vsari (t : BitVec 3) (d : VReg) (a : VOp) (c : BitVec 6)
  /-- `CVT vd, a, DTY, STY, mode` (OPC 0x98, R216). -/
  | cvt (d : VReg) (a : VOp) (dty sty : BitVec 4) (rm : BitVec 2) (defer ov : Bool)
  /-- `MXPACK vd, a, ET, f32|bf16, mode` (OPC 0x99, R217). -/
  | mxpack (d : VReg) (a : VOp) (et : BitVec 3) (bf : Bool) (rm : BitVec 2) (defer ov : Bool)
  /-- `MXUNPACK vd, a, ET, f32|bf16, mode` (OPC 0x9A, R218). -/
  | mxunpack (d : VReg) (a : VOp) (et : BitVec 3) (bf : Bool) (rm : BitVec 2) (defer : Bool)
  /-- `B16PACK vd, a, mode` (OPC 0x9B, R219). -/
  | b16pack (d : VReg) (a : VOp) (rm : BitVec 2) (defer : Bool)
  /-- `FRADD vd, a` (OPC 0x9C, R209). -/
  | fradd (pg : PReg) (t : BitVec 3) (d : VReg) (a : VOp)
  /-- `FRMIN vd, a` (OPC 0x9D, R210). -/
  | frmin (pg : PReg) (t : BitVec 3) (d : VReg) (a : VOp)
  /-- `FRMAX vd, a` (OPC 0x9E, R210). -/
  | frmax (pg : PReg) (t : BitVec 3) (d : VReg) (a : VOp)
  -- Class 101: special functions (R237 to R243)
  /-- `SF.EVAL vd, a, tabK` (OPC 0xA0, R237). -/
  | sfEval (pg : PReg) (t : BitVec 3) (d : VReg) (a : VOp) (k : BitVec 2)
  /-- `SF.EVALX vd, a, sN, tabK`; `pr` is the scalar pair P (OPC 0xA1, R237). -/
  | sfEvalx (pg : PReg) (t : BitVec 3) (d : VReg) (a : VOp) (pr : BitVec 4) (k : BitVec 2)
  /-- `SFT.LOAD sd, sa, sb` (OPC 0xA2, R240). -/
  | sftLoad (g : Guard) (d a b : SReg)
  /-- `SFT.BIND sd, sa, tabK` (OPC 0xA3, R241). -/
  | sftBind (g : Guard) (d a : SReg) (k : BitVec 2)
  /-- `SFT.BIND.OFF sd, tabK` (OPC 0xA3, R241). -/
  | sftBindOff (g : Guard) (d : SReg) (k : BitVec 2)
  /-- `SFT.INFO sd, tabK, w` (OPC 0xA4, R242). -/
  | sftInfo (g : Guard) (d : SReg) (k w : BitVec 2)
  /-- `SFT.CHK sd, sa` (OPC 0xA5, R243). -/
  | sftChk (g : Guard) (d a : SReg)
  -- Class 110: memory, atomics, synchronisation (R283 to R291, R352 to R366)
  /-- `LD.w` with `d` the register, `b` the base (OPC 0xC0, R283). -/
  | ld (g : Guard) (w : BitVec 2) (sp : Bool) (d b : SReg) (off : BitVec 6)
  /-- `ST.w` with `d` the register, `b` the base (OPC 0xC1, R283). -/
  | st (g : Guard) (w : BitVec 2) (sp : Bool) (d b : SReg) (off : BitVec 6)
  /-- `VLD vd, [sB + off]` (OPC 0xC2, R284). -/
  | vld (g : Guard) (sp : Bool) (d : VReg) (b : SReg) (off : BitVec 6)
  /-- `VST vd, [sB + off]` (OPC 0xC3, R284). -/
  | vst (g : Guard) (sp : Bool) (d : VReg) (b : SReg) (off : BitVec 6)
  /-- `VLDS.w vd, [sB], sC` (OPC 0xC4, R285). -/
  | vlds (g : Guard) (w : BitVec 2) (sp : Bool) (d : VReg) (b c : SReg)
  /-- `VGATHER.w vd, [sB], vC` (OPC 0xC5, R286). -/
  | vgather (g : Guard) (w : BitVec 2) (sp : Bool) (d : VReg) (b : SReg) (c : VReg)
  /-- `VSCATTER.w [sB], vC, vD` (OPC 0xC6, R286). -/
  | vscatter (g : Guard) (w : BitVec 2) (sp : Bool) (d : VReg) (b : SReg) (c : VReg)
  /-- `GLD.w` on a global address (OPC 0xC7, R283). -/
  | gld (g : Guard) (w : BitVec 2) (d b : SReg) (off : BitVec 6)
  /-- `GST.w` on a global address (OPC 0xC8, R283). -/
  | gst (g : Guard) (w : BitVec 2) (d b : SReg) (off : BitVec 6)
  /-- `CHPOP vd, hN` (OPC 0xC9, R288). -/
  | chpop (g : Guard) (d : VReg) (n : BitVec 3)
  /-- `CHPOP.DROP hN` (OPC 0xC9, R288). -/
  | chpopDrop (g : Guard) (n : BitVec 3)
  /-- `CHPUSH hN, vD` (OPC 0xCA, R289). -/
  | chpush (g : Guard) (n : BitVec 3) (d : VReg)
  /-- `CHPUSH.AB hN, [sB]` (OPC 0xCA, R289). -/
  | chpushAb (g : Guard) (n : BitVec 3) (b : SReg)
  /-- `CHPUSH.SP hN, sp[sB]` (OPC 0xCA, R289). -/
  | chpushSp (g : Guard) (n : BitVec 3) (b : SReg)
  /-- `CHPEEK vd, hN, sB` (OPC 0xCB, R290). -/
  | chpeek (g : Guard) (d : VReg) (n : BitVec 3) (b : SReg)
  /-- `CHSTAT sd, hN` (OPC 0xCC, R291). -/
  | chstat (g : Guard) (d : SReg) (n : BitVec 3)
  /-- `LD.ACQ.w sd, [sB + off]`; `gl` is the G bit of off6 (OPC 0xCD, R352). -/
  | ldAcq (g : Guard) (w : BitVec 2) (sp gl : Bool) (d b : SReg) (off : BitVec 2)
  /-- `ST.REL.w.S [sB + off], sD` (OPC 0xCE, R352). -/
  | stRel (g : Guard) (w : BitVec 2) (sp gl : Bool) (scope : BitVec 3) (d b : SReg) (off : BitVec 2)
  /-- `AADD.w.o sd, [sB], sC`; `ord` is f[3:2], `dw` is f[0] (OPC 0xCF, R356). -/
  | aadd (g : Guard) (ord : BitVec 2) (sp dw : Bool) (d b c : SReg)
  /-- `AAND.w.o sd, [sB], sC`; `ord` is f[3:2], `dw` is f[0] (OPC 0xD0, R356). -/
  | aand (g : Guard) (ord : BitVec 2) (sp dw : Bool) (d b c : SReg)
  /-- `AOR.w.o sd, [sB], sC`; `ord` is f[3:2], `dw` is f[0] (OPC 0xD1, R356). -/
  | aor (g : Guard) (ord : BitVec 2) (sp dw : Bool) (d b c : SReg)
  /-- `AXOR.w.o sd, [sB], sC`; `ord` is f[3:2], `dw` is f[0] (OPC 0xD2, R356). -/
  | axor (g : Guard) (ord : BitVec 2) (sp dw : Bool) (d b c : SReg)
  /-- `AMIN.w.o sd, [sB], sC`; `ord` is f[3:2], `dw` is f[0] (OPC 0xD3, R356). -/
  | amin (g : Guard) (ord : BitVec 2) (sp dw : Bool) (d b c : SReg)
  /-- `AMAX.w.o sd, [sB], sC`; `ord` is f[3:2], `dw` is f[0] (OPC 0xD4, R356). -/
  | amax (g : Guard) (ord : BitVec 2) (sp dw : Bool) (d b c : SReg)
  /-- `AXCH.w.o sd, [sB], sC`; `ord` is f[3:2], `dw` is f[0] (OPC 0xD5, R356). -/
  | axch (g : Guard) (ord : BitVec 2) (sp dw : Bool) (d b c : SReg)
  /-- `ACAS.w.o sd, [sB], sC` (OPC 0xD6, R356). -/
  | acas (g : Guard) (ord : BitVec 2) (sp dw : Bool) (d b c : SReg)
  /-- `ADECP.w.o sd, [sB]` (OPC 0xD7, R356). -/
  | adecp (g : Guard) (ord : BitVec 2) (sp dw : Bool) (d b : SReg)
  /-- `AMXACC.ET.o sd, g[sB], vC` (OPC 0xD8, R358). -/
  | amxacc (g : Guard) (ord et : BitVec 2) (d b : SReg) (c : VReg)
  /-- `FENCE.S sd` (OPC 0xD9, R353). -/
  | fence (g : Guard) (scope : BitVec 3) (d : SReg)
  /-- `WAITV.w sd, g[sB], sC` (OPC 0xDA, R360). -/
  | waitv (g : Guard) (dw : Bool) (d b c : SReg)
  /-- `NOTIFY.ONE sd, g[sB]` / `NOTIFY.ALL` (OPC 0xDB, R361). -/
  | notify (g : Guard) (all : Bool) (d b : SReg)
  /-- `SYN.ADD sd, sB, sC` (OPC 0xDC, R364). -/
  | synAdd (g : Guard) (d b c : SReg)
  /-- `SYN.WAIT sd, sB, sC` (OPC 0xDD, R364). -/
  | synWait (g : Guard) (d b c : SReg)
  /-- `SYN.GET sd, sB` (OPC 0xDE, R364). -/
  | synGet (g : Guard) (d b : SReg)
  /-- `BAR sd` / `BAR.GRP sd` (OPC 0xDF, R366). -/
  | bar (g : Guard) (grp : Bool) (d : SReg)
  -- Class 111: engine and fabric (R294 to R303, R325 to R335, R386 to R393)
  /-- `COPY.x sA, sB, sD` (OPC 0xE0, R294). -/
  | copy (g : Guard) (acq rel : Bool) (a b d : SReg)
  /-- `COPYW.x sA, sB, sD` (OPC 0xE1, R294). -/
  | copyw (g : Guard) (acq rel : Bool) (a b d : SReg)
  /-- `LAD.RUN Lj, sA, sB, sD` (OPC 0xE2, R298). -/
  | ladRun (g : Guard) (j : Bool) (a b d : SReg)
  /-- `LAD.STOP Lj` (OPC 0xE3, R299). -/
  | ladStop (g : Guard) (j : Bool)
  /-- `LAD.STAT sd, Lj` (OPC 0xE4, R300). -/
  | ladStat (g : Guard) (d : SReg) (j : Bool)
  /-- `PREF.x sA, sB` (OPC 0xE5, R297). -/
  | pref (g : Guard) (acq : Bool) (a b : SReg)
  /-- `ROWCPY.x sA, sB, sD` (OPC 0xE6, R301). -/
  | rowcpy (g : Guard) (acq rel : Bool) (a b d : SReg)
  /-- `ROWINIT.x sA, sB, sD` (OPC 0xE7, R301). -/
  | rowinit (g : Guard) (acq rel : Bool) (a b d : SReg)
  /-- `GRD.LEASE` (OPC 0xE8, R327). -/
  | grdLease (g : Guard)
  /-- `GRD.FREE` (OPC 0xE9, R327). -/
  | grdFree (g : Guard)
  /-- `GRD.WLOAD sA` (OPC 0xEA, R328). -/
  | grdWload (g : Guard) (a : SReg)
  /-- `GRD.SCL sA` (OPC 0xEB, R329). -/
  | grdScl (g : Guard) (a : SReg)
  /-- `GRD.SCL.ALL sB` (OPC 0xEB, R329). -/
  | grdSclAll (g : Guard) (b : SReg)
  /-- `GRD.MUL.x sA, sB, sD` (OPC 0xEC, R330). -/
  | grdMul (g : Guard) (acq rel : Bool) (a b d : SReg)
  /-- `GRD.ZERO sD` (OPC 0xED, R331). -/
  | grdZero (g : Guard) (d : SReg)
  /-- `GRD.DRAIN.x sA, sD` (OPC 0xEE, R332). -/
  | grdDrain (g : Guard) (acq rel : Bool) (a d : SReg)
  /-- `GRD.CHK sd, sA` (OPC 0xEF, R333). -/
  | grdChk (g : Guard) (d a : SReg)
  /-- `GRD.SAVE.x sA, sD` (OPC 0xF0, R334). -/
  | grdSave (g : Guard) (acq rel : Bool) (a d : SReg)
  /-- `GRD.REST.x sA, sD` (OPC 0xF1, R334). -/
  | grdRest (g : Guard) (acq rel : Bool) (a d : SReg)
  /-- `GRD.STAT sd, sA` / `GRD.STAT.CLR` (OPC 0xF2, R335). -/
  | grdStat (g : Guard) (clr : Bool) (d a : SReg)
  /-- `SEND.w.x sA, sB, sD` (OPC 0xF3, R388). -/
  | send (g : Guard) (w : BitVec 2) (rel : Bool) (a b d : SReg)
  /-- `SENDV.x sA, vB, sD` (OPC 0xF4, R388). -/
  | sendv (g : Guard) (rel : Bool) (a : SReg) (b : VReg) (d : SReg)
  /-- `RLD sA, sD` (OPC 0xF5, R389). -/
  | rld (g : Guard) (a d : SReg)
  /-- `RRED.x sA, vB, sD` (OPC 0xF6, R390). -/
  | rred (g : Guard) (rel : Bool) (a : SReg) (b : VReg) (d : SReg)
  /-- `RECV vd, hN, sA` (OPC 0xF7, R391). -/
  | recv (g : Guard) (d : VReg) (n : BitVec 3) (a : SReg)
  /-- `MLDR sd, vA, sB` (OPC 0xF8, R393). -/
  | mldr (g : Guard) (d : SReg) (a : VReg) (b : SReg)
  /-- `FAB.STAT sd, sA` (OPC 0xF9, R392). -/
  | fabStat (g : Guard) (d a : SReg)
  -- Steps without an encoding
  /-- BUNDLE_ISSUE (R116): The next bundle of context `x` issues as a whole. -/
  | bundleIssue (x : Nat)
  /-- ISSUE_SLOT_CHANGE (R123): The issue slot of core `k` passes to a new owner. -/
  | issueSlotChange (k : Nat)
  /-- QUANTUM_EXPIRY (R123): The tenure of the owner of core `k` reaches the quantum. -/
  | quantumExpiry (k : Nat)
  /-- ELASTIC_RESULT_ARRIVAL (R114): The result of elastic operation `id` arrives. -/
  | elasticResultArrival (id : Nat)
  /-- ACCESS_PERFORMED (R339): Elastic access `id` is performed at its location. -/
  | accessPerformed (id : Nat)
  /-- LADLE_RUN_START (R298): Ladle `l` (package-wide number) starts its oldest queued run. -/
  | ladleRunStart (l : Nat)
  /-- LADLE_BUNDLE_ISSUE (R255): Ladle `l` issues one bundle. -/
  | ladleBundleIssue (l : Nat)
  /-- CHANNEL_ELEMENT_ARRIVAL (R259): The reserved element `id` arrives in its channel slot. -/
  | channelElementArrival (id : Nat)
  /-- COPY_COMPLETE (R296): Engine command `id` (COPY, COPYW or PREF) completes. -/
  | copyComplete (id : Nat)
  /-- ROW_OPERATION_COMPLETE (R303): Row operation `id` completes. -/
  | rowOperationComplete (id : Nat)
  /-- GRIDDLE_COMMAND_COMPLETE (R311): The oldest queued command of octet `o` completes. -/
  | griddleCommandComplete (o : Nat)
  /-- LEASE_GRANT (R308): The free lease of octet `o` is granted. -/
  | leaseGrant (o : Nat)
  /-- LEASE_BUDGET_EXPIRY (R309): The lease budget of core `k` has run out. -/
  | leaseBudgetExpiry (k : Nat)
  /-- KICK (R44): The host writes `v` to KICK of queue `q`. -/
  | kick (q : Nat) (v : Word)
  /-- KICK_START (R45): The oldest pending kick of queue `q` starts. -/
  | kickStart (q : Nat)
  /-- PLACEMENT (R66): A placement opportunity on die `d`. -/
  | placement (d : Nat)
  /-- AGELIM_EXPIRY (R48): The head of class `cls` on die `d` has waited AGELIM. -/
  | agelimExpiry (d cls : Nat)
  /-- MEMBER_EXIT (R427): The exiting context `x` has nothing left in flight. -/
  | memberExit (x : Nat)
  /-- NODE_RETIRE (R430): The node of gang `g` retires. -/
  | nodeRetire (g : Nat)
  /-- REPLAY_COMPLETE (R49): The finished replay of queue `q` completes. -/
  | replayComplete (q : Nat)
  /-- QGRAPH_WRITE (R43): The host writes QGRAPH of queue `q`. -/
  | qgraphWrite (q : Nat) (v : Word)
  /-- QCBASE_WRITE (R43): The host writes QCBASE of queue `q`. -/
  | qcbaseWrite (q : Nat) (v : Word)
  /-- QCSIZE_WRITE (R43): The host writes QCSIZE of queue `q`. -/
  | qcsizeWrite (q : Nat) (v : Word)
  /-- HOST_MEM_READ (R36): The host reads `n` bytes at HDM offset `h`. -/
  | hostMemRead (h n : Nat)
  /-- HOST_MEM_WRITE (R36): The host writes `bytes` at HDM offset `h`. -/
  | hostMemWrite (h : Nat) (bytes : List Byte)
  /-- PCTL_RST (R51): The host sets PCTL.RST of partition `n`. -/
  | pctlRst (n : Nat)
  /-- PRST (R51): Supervisor context `x` writes PRST. -/
  | prst (x : Nat) (v : Word)
  /-- PARTITION_RESET_COMPLETE (R51): The reset of partition `n` completes. -/
  | partitionResetComplete (n : Nat)
  /-- QSET_WRITE (R162): Supervisor context `x` writes QSET. -/
  | qsetWrite (x : Nat) (v : Word)
  /-- LREG_WRITE (R46): Supervisor context `x` writes LREG`n`. -/
  | lregWrite (x n : Nat) (v : Word)
  /-- PANTRY_COMMIT (R57): Supervisor context `x` writes PANCTL. -/
  | pantryCommit (x : Nat) (v : Word)
  /-- PANTRY_PUBLISH (R56): The change being applied is published. -/
  | pantryPublish
  /-- OP_SETTLE_COMPLETE (R77): Domain `m` (core number, or 512 + octet) has settled. -/
  | opSettleComplete (m : Nat)
  /-- GRACE_EXPIRY (R60): The grace time of context `x` expires. -/
  | graceExpiry (x : Nat)
  /-- PCFG_WRITE (R62): Supervisor context `x` writes PCFG`n`. -/
  | pcfgWrite (x n : Nat) (v : Word)
  /-- CRES_WRITE (R63): Supervisor context `x` writes CRES`n`. -/
  | cresWrite (x n : Nat) (v : Word)
  /-- REPLACE (R74): Supervisor context `x` writes REPLACE. -/
  | replace (x : Nat) (v : Word)
  /-- REPLACE_COMPLETE (R74): The re-placement in progress on die `d` ends. -/
  | replaceComplete (d : Nat)
  /-- ISSCFG_WRITE (R125): Supervisor context `x` writes ISSCFG. -/
  | isscfgWrite (x : Nat) (v : Word)
  /-- SPLIT_LEVEL_STEP (R464): The throttle interval of core `k` ends; `up` tells the direction. -/
  | splitLevelStep (k : Nat) (up : Bool)
  /-- TEMPSTAT_UPDATE (R464): The hottest sensor of die `d` is read. -/
  | tempstatUpdate (d : Nat)
  /-- CHCFG_WRITE (R258): Context `x` writes CHCFG`n`. -/
  | chcfgWrite (x n : Nat) (v : Word)
  /-- SPCFG_WRITE (R253): Supervisor context `x` writes SPCFG. -/
  | spcfgWrite (x : Nat) (v : Word)
  /-- TLBINV (R271): Supervisor context `x` writes TLBINV. -/
  | tlbinv (x : Nat) (v : Word)
  /-- TLBINV_COMPLETE (R271): The oldest pending invalidation of die `d` completes. -/
  | tlbinvComplete (d : Nat)
  /-- RING_REGISTER_WRITE (R275): Context `x` writes ring register `num`. -/
  | ringRegisterWrite (x num : Nat) (v : Word)
  /-- RING_HEAD_WRITE (R275): Context `x` writes ring head register `num`. -/
  | ringHeadWrite (x num : Nat) (v : Word)
  /-- SYNOBJ_WRITE (R363): Supervisor context `x` writes SYNOBJ. -/
  | synobjWrite (x : Nat) (v : Word)
  /-- HANG_TIMEOUT (R367): The stall of context `x` has lasted HANGTO. -/
  | hangTimeout (x : Nat)
  /-- PREEMPT_DEADLINE (R158): The deadline of the STOP pending for context `x` passes. -/
  | preemptDeadline (x : Nat)
  /-- PREEMPTION_COMPLETE (R408): The pre-emption of context `x` completes. -/
  | preemptionComplete (x : Nat)
  /-- UNCORR (R420): Context `x` takes an uncorrectable error in its control state. -/
  | uncorr (x : Nat)
  /-- LOCKSTEP_MISMATCH (R416): The commit signatures of the pair of context `x` differ. -/
  | lockstepMismatch (x : Nat)
  /-- ROLLREQ (R420): Supervisor context `x` writes ROLLREQ. -/
  | rollreq (x : Nat) (v : Word)
  /-- GANG_ROLLBACK (R421): Steps 1 to 4 of the rollback of gang `g`. -/
  | gangRollback (g : Nat)
  /-- ROLLBACK_RESTART (R421): Steps 5 and 6 of the rollback of gang `g`. -/
  | rollbackRestart (g : Nat)
  /-- NODEKILL (R433): Supervisor context `x` writes NODEKILL. -/
  | nodekill (x : Nat) (v : Word)
  /-- ERROR_THRESHOLD (R418): The error counts of Pantry record `r` have reached a threshold. -/
  | errorThreshold (r : Nat)
  /-- ERROR_WINDOW_EXPIRY (R417): The error window of record kind `k` ends. -/
  | errorWindowExpiry (k : Nat)
  /-- HBM_LANE_DRIFT (R264): Stack `sk` has a lane drift beyond correction. -/
  | hbmLaneDrift (sk : Nat)
  /-- MIGRATION_START (R424): Supervisor context `x` writes MIGCTL. -/
  | migrationStart (x : Nat) (v : Word)
  /-- MIGRATION_COMPLETE (R425): The migration on die `d` ends. -/
  | migrationComplete (d : Nat)
  /-- POWER_ESTIMATE_UPDATE (R434): The power estimate of core `k` is updated. -/
  | powerEstimateUpdate (k : Nat)
  /-- PC_SAMPLE (R435): Every sampling core of die `d` writes one sample. -/
  | pcSample (d : Nat)
  /-- FABID_WRITE (R376): Supervisor context `x` writes FABID. -/
  | fabidWrite (x : Nat) (v : Word)
  /-- TABLOAD (R374): Supervisor context `x` writes TABLOAD. -/
  | tabload (x : Nat) (v : Word)
  /-- TABLOAD_COMPLETE (R374): The slot-table load in progress ends. -/
  | tabloadComplete
  /-- FABGRP_JOIN (R393): Supervisor context `x` writes FABGRP. -/
  | fabgrpJoin (x : Nat) (v : Word)
  /-- PACKET_DEPART (R375): A waiting packet departs port `p` at phase `ph`. -/
  | packetDepart (p ph : Nat)
  /-- FABRIC_WRITE (R388): A WRITE packet arrives at port `p`. -/
  | fabricWrite (p : Nat) (pkt : Packet)
  /-- FABRIC_READ (R381): A READ packet arrives at port `p`. -/
  | fabricRead (p : Nat) (pkt : Packet)
  /-- FABRIC_ATOMIC (R381): An ATOMIC packet arrives at port `p`. -/
  | fabricAtomic (p : Nat) (pkt : Packet)
  /-- FABRIC_REDUCE (R390): A REDUCE packet arrives at port `p`. -/
  | fabricReduce (p : Nat) (pkt : Packet)
  /-- ACK (R379): An ACK arrives at port `p`. -/
  | ack (p : Nat) (pkt : Packet)
  /-- NACK (R382): A NACK arrives at port `p`. -/
  | nack (p : Nat) (pkt : Packet)
  /-- DATA (R379): A DATA reply arrives at port `p`. -/
  | data (p : Nat) (pkt : Packet)
  /-- RESULT (R393): A RESULT arrives at port `p`. -/
  | result (p : Nat) (pkt : Packet)
  /-- LSU (R395): A link-state update arrives. -/
  | lsu (u : LinkUpdate)
  /-- LINK_DEAD (R395): The data-link layer of port `p` gives up. -/
  | linkDead (p : Nat)
  /-- LINK_RETRY (R394): A link-level retry happens on port `p`. -/
  | linkRetry (p : Nat)
  /-- DRAIN_ROUND_EXPIRY (R396): The current 20 µs round of the `i`-th drain ends. -/
  | drainRoundExpiry (i : Nat)
  /-- LINK_TRAIN (R463): Supervisor context `x` writes LINKCTL with GO. -/
  | linkTrain (x : Nat) (v : Word)
  /-- LINK_DOWN (R463): Supervisor context `x` writes LINKCTL with DOWN. -/
  | linkDown (x : Nat) (v : Word)
  /-- LINK_TRAINING_COMPLETE (R463): Training of port `p` ends in `state` with `width` lanes, switch port `sport` and delay `dly`. -/
  | linkTrainingComplete (p state width sport dly : Nat)
  /-- PACKAGE_RESET (R450): Power-on or CXL conventional reset. -/
  | packageReset
  /-- BOOT_VERIFY (R452): The boot goes one stage on, from ROM to FETCH, to VERIFY and to BIST. -/
  | bootVerify
  /-- BIST (R454): Self-test runs; `fails` lists the failing cores with their BIST bits. -/
  | bist (fails : List (Nat × Byte))
  /-- MARCH_TIMEOUT (R458): The 50 ms of stage MARCH have passed. -/
  | marchTimeout
  /-- BOOT_PANTRY (R459): The boot ROM builds Pantry version 1 and starts the supervisor. -/
  | bootPantry
  /-- REPADD (R457): Supervisor context `x` writes REPADD. -/
  | repadd (x : Nat) (v : Word)
  /-- BOOTSUM_WRITE (R458): Supervisor context `x` writes BOOTSUM. -/
  | bootsumWrite (x : Nat) (v : Word)
  /-- TESTCFG_WRITE (R455): Supervisor context `x` writes TESTCFG. -/
  | testcfgWrite (x : Nat) (v : Word)
  /-- ATTESTATION_START (R462): Supervisor context `x` writes ATTCTL. -/
  | attestationStart (x : Nat) (v : Word)
  /-- ATTESTATION_COMPLETE (R462): The attestation report is written. -/
  | attestationComplete
  /-- EPC_WRITE (R152): Context `x` writes EPC. -/
  | epcWrite (x : Nat) (v : Word)
  /-- LCNT_WRITE (R143): Context `x` writes LCNT`n`. -/
  | lcntWrite (x n : Nat) (v : Word)
  /-- FCR_WRITE (R153): Context `x` writes FCR. -/
  | fcrWrite (x : Nat) (v : Word)
  /-- REGISTER_WRITE (R12): A write of `v` to a register without a row of its own. -/
  | registerWrite (r : RegName) (v : Word)
  /-- FRAME_BOUNDARY (R374): A frame of the pod slot clock starts. -/
  | frameBoundary
  /-- MEM_TRAINING_COMPLETE (R451): HBM and die-bridge training ends; `weak` lists the stacks with fewer than 32 channels, with their number, and `bridge` says on how many lanes the bridge trained, and whether at reduced width or rate. -/
  | memTrainingComplete (weak : List (Nat × Nat)) (bridge : Nat × Bool)
deriving DecidableEq, Repr

end Sys2Proof
end

