-- ==== Sys2Proof/WellFormed.lean ====
section
/-! DEFINITION. What a slot word's operands must satisfy beyond their widths: step 6(b) of R102
(04_fetching_bundles.md) and the limits the instructions' own rules set at decode. A step without an encoding
is well formed when its indices name units of the package (R3, R52). -/

namespace Sys2Proof

/-- Vector operand codes 58 to 63 are ILLEGAL (R96). -/
def opOk (a : VOp) : Bool := decide (a.toNat < 58)

/-- The FLT map of R98 assigns t = 0, 1, 2. -/
def fltOk (t : BitVec 3) : Bool := decide (t.toNat < 3)

/-- VDOT4 and VHASH take t = 2 or 6 (R212, R213). -/
def word32Type (t : BitVec 3) : Bool := t == 2#3 || t == 6#3

/-- A register field that must be even (R207, R294, R356, R386). -/
def evenReg (d : BitVec 5) : Bool := !d.getLsbD 0

/-- The width in bytes of an INT map code (R98). -/
def intWidth (t : BitVec 3) : Nat := 2 ^ (t.toNat % 4)

/-- A shift count of VSHLI, VSHRI, VSARI lies below the element width (R204). -/
def shiftFits (t : BitVec 3) (c : BitVec 6) : Bool := decide (c.toNat < 8 * intWidth t)

/-- D = 1 defers to FCR, and RM and OV must then be 0 (R215). -/
def deferOk (defer : Bool) (rm : BitVec 2) (ov : Bool) : Bool := !defer || (rm == 0#2 && !ov)

/-- The register POIS names: kind 3 is ILLEGAL, and a predicate uses the low three bits (R94, R156). -/
def poisOperandOk (kind : BitVec 2) (x : BitVec 5) : Bool :=
  kind != 3#2 && (kind != 2#2 || decide (x.toNat < 8))

/-- The number of contexts of the package (R1). -/
def numContexts : Nat := 2048
/-- The number of cores (R1). -/
def numCores : Nat := 512

/-- The operand checks of an instruction (R102, step 6(b)). -/
def Instr.wf : Instr → Bool
  | .add _ _ _ _ => true
  | .sub _ _ _ _ => true
  | .and _ _ _ _ => true
  | .or _ _ _ _ => true
  | .xor _ _ _ _ => true
  | .shl _ _ _ _ => true
  | .shr _ _ _ _ => true
  | .sar _ _ _ _ => true
  | .mul _ _ _ _ => true
  | .mulh _ _ _ _ => true
  | .mulhn _ _ _ _ => true
  | .div _ _ _ _ => true
  | .divn _ _ _ _ => true
  | .rem _ _ _ _ => true
  | .remn _ _ _ _ => true
  | .min _ _ _ _ => true
  | .max _ _ _ _ => true
  | .minn _ _ _ _ => true
  | .maxn _ _ _ _ => true
  | .sel _ _ _ _ _ => true
  | .clz _ _ _ => true
  | .ctz _ _ _ => true
  | .popc _ _ _ => true
  | .cmpCc _ cc pd _ _ => decide (cc.toNat < 8) && pd != 0#3
  | .pand _ pd _ _ => pd != 0#3
  | .por _ pd _ _ => pd != 0#3
  | .pxor _ pd _ _ => pd != 0#3
  | .pnot _ pd _ => pd != 0#3
  | .movpPs _ _ _ _ => true
  | .movpSp _ pd _ _ => pd != 0#3
  | .movpBc _ pd _ => pd != 0#3
  | .addi _ _ _ => true
  | .andi _ _ _ => true
  | .ori _ _ _ => true
  | .xori _ _ _ => true
  | .shli _ _ _ => true
  | .shri _ _ _ => true
  | .sari _ _ _ => true
  | .movi _ _ => true
  | .shi _ _ => true
  | .br _ _ => true
  | .brl _ _ => true
  | .brs _ _ _ => true
  | .loop _ _ _ => true
  | .loopi _ _ => true
  | .ppt => true
  | .yield => true
  | .exit => true
  | .tstamp _ _ => true
  | .tstampSet _ _ _ => true
  | .sread _ num => SysReg.assigned num.toNat
  | .swrite num _ => SysReg.assigned num.toNat
  | .trap _ => true
  | .svc _ => true
  | .eret => true
  | .fcrSet _ _ fields => fields != 0#4
  | .fcrGet _ _ => true
  | .panAck _ _ => true
  | .panRead _ _ a ps => ps != 3#2 && (ps != 2#2 || a == 0#5)
  | .poisTest _ kind _ x => poisOperandOk kind x
  | .poisClr _ kind x => poisOperandOk kind x
  | .poisSet _ kind x => poisOperandOk kind x
  | .preemptStop _ _ _ _ => true
  | .preemptResume _ _ _ _ => true
  | .preemptState _ _ _ _ => true
  | .ctxSave _ _ _ _ => true
  | .ctxLoad _ _ _ _ => true
  | .halt => true
  | .vadd _ _ _ a b => opOk a && opOk b
  | .vsub _ _ _ a b => opOk a && opOk b
  | .vmul _ _ _ a b => opOk a && opOk b
  | .vmulh _ _ _ a b => opOk a && opOk b
  | .vmin _ _ _ a b => opOk a && opOk b
  | .vmax _ _ _ a b => opOk a && opOk b
  | .vand _ _ _ a b => opOk a && opOk b
  | .vor _ _ _ a b => opOk a && opOk b
  | .vxor _ _ _ a b => opOk a && opOk b
  | .vnot _ _ _ a => opOk a
  | .vshl _ _ _ a b => opOk a && opOk b
  | .vshr _ _ _ a b => opOk a && opOk b
  | .vsar _ _ _ a b => opOk a && opOk b
  | .vcmpCc _ _ _ pd a b => opOk a && opOk b && pd != 0#3
  | .vadds _ _ _ a b => opOk a && opOk b
  | .vsubs _ _ _ a b => opOk a && opOk b
  | .fadd _ t _ a b => opOk a && opOk b && fltOk t
  | .fsub _ t _ a b => opOk a && opOk b && fltOk t
  | .fmul _ t _ a b => opOk a && opOk b && fltOk t
  | .fma _ t _ a b => opOk a && opOk b && fltOk t
  | .fms _ t _ a b => opOk a && opOk b && fltOk t
  | .fnma _ t _ a b => opOk a && opOk b && fltOk t
  | .fnms _ t _ a b => opOk a && opOk b && fltOk t
  | .fmin _ t _ a b => opOk a && opOk b && fltOk t
  | .fmax _ t _ a b => opOk a && opOk b && fltOk t
  | .fabs _ t _ a => opOk a && fltOk t
  | .fneg _ t _ a => opOk a && fltOk t
  | .fcmpCc _ _ t pd a b => opOk a && opOk b && fltOk t && pd != 0#3
  | .fclass _ t _ a => opOk a && fltOk t
  | .frnd _ t _ a => opOk a && fltOk t
  | .fscale _ t _ a b => opOk a && opOk b && fltOk t
  | .vsel _ _ a b _ => opOk a && opOk b
  | .vmov _ _ _ a => opOk a
  | .vbcast _ _ _ _ => true
  | .vimm _ _ _ => true
  | .vext _ _ a _ => opOk a
  | .vins _ _ _ _ => true
  | .vperm _ _ _ a b => opOk a && opOk b
  | .vslideUp _ _ _ a _ => opOk a
  | .vslideDn _ _ _ a _ => opOk a
  | .vrot _ _ _ a _ => opOk a
  | .vzip _ _ d a b => opOk a && opOk b && evenReg d
  | .vunzip _ _ d a b => opOk a && opOk b && evenReg d
  | .vtrn _ _ d a b => opOk a && opOk b && evenReg d
  | .vradd _ _ _ a => opOk a
  | .vrmin _ _ _ a => opOk a
  | .vrmax _ _ _ a => opOk a
  | .vscanAdd _ _ _ a => opOk a
  | .vdot4 _ t _ a b => opOk a && opOk b && word32Type t
  | .vhash _ t _ a b => opOk a && opOk b && word32Type t
  | .pcnt _ _ _ _ => true
  | .pfirst _ _ _ _ => true
  | .vshli t _ a c => opOk a && shiftFits t c
  | .vshri t _ a c => opOk a && shiftFits t c
  | .vsari t _ a c => opOk a && shiftFits t c
  | .cvt _ a dty _ rm defer ov => opOk a && deferOk defer rm ov && (!ov || decide (11 ≤ dty.toNat))
  | .mxpack _ a et _ rm defer ov => opOk a && deferOk defer rm ov && decide (et.toNat ≤ 5) && (!ov || et != 5#3)
  | .mxunpack _ a et bf rm defer => opOk a && deferOk defer rm false && et != 7#3 && (et != 6#3 || !bf)
  | .b16pack _ a rm defer => opOk a && deferOk defer rm false
  | .fradd _ t _ a => opOk a && fltOk t
  | .frmin _ t _ a => opOk a && fltOk t
  | .frmax _ t _ a => opOk a && fltOk t
  | .sfEval _ t _ a _ => opOk a && t != 7#3
  | .sfEvalx _ t _ a _ _ => opOk a && t != 7#3
  | .sftLoad _ _ _ _ => true
  | .sftBind _ _ _ _ => true
  | .sftBindOff _ _ _ => true
  | .sftInfo _ _ _ _ => true
  | .sftChk _ _ _ => true
  | .ld _ _ _ _ _ _ => true
  | .st _ _ _ _ _ _ => true
  | .vld _ _ _ _ _ => true
  | .vst _ _ _ _ _ => true
  | .vlds _ _ _ _ _ _ => true
  | .vgather _ _ _ _ _ _ => true
  | .vscatter _ _ _ _ _ _ => true
  | .gld _ _ _ _ _ => true
  | .gst _ _ _ _ _ => true
  | .chpop _ _ _ => true
  | .chpopDrop _ _ => true
  | .chpush _ _ _ => true
  | .chpushAb _ _ _ => true
  | .chpushSp _ _ _ => true
  | .chpeek _ _ _ _ => true
  | .chstat _ _ _ => true
  | .ldAcq _ _ sp gl _ _ _ => !(gl && sp)
  | .stRel _ _ sp gl _ _ _ _ => !(gl && sp)
  | .aadd _ _ _ _ _ _ _ => true
  | .aand _ _ _ _ _ _ _ => true
  | .aor _ _ _ _ _ _ _ => true
  | .axor _ _ _ _ _ _ _ => true
  | .amin _ _ _ _ _ _ _ => true
  | .amax _ _ _ _ _ _ _ => true
  | .axch _ _ _ _ _ _ _ => true
  | .acas _ _ _ _ _ _ c => evenReg c
  | .adecp _ _ _ _ _ _ => true
  | .amxacc _ _ et _ _ _ => et != 3#2
  | .fence _ _ _ => true
  | .waitv _ _ _ _ _ => true
  | .notify _ _ _ _ => true
  | .synAdd _ _ _ _ => true
  | .synWait _ _ _ _ => true
  | .synGet _ _ _ => true
  | .bar _ _ _ => true
  | .copy _ _ _ _ _ _ => true
  | .copyw _ _ _ _ _ d => evenReg d
  | .ladRun _ _ _ _ _ => true
  | .ladStop _ _ => true
  | .ladStat _ _ _ => true
  | .pref _ _ _ _ => true
  | .rowcpy _ _ _ _ _ _ => true
  | .rowinit _ _ _ _ _ _ => true
  | .grdLease _ => true
  | .grdFree _ => true
  | .grdWload _ _ => true
  | .grdScl _ _ => true
  | .grdSclAll _ _ => true
  | .grdMul _ _ _ _ _ _ => true
  | .grdZero _ _ => true
  | .grdDrain _ _ _ _ _ => true
  | .grdChk _ _ _ => true
  | .grdSave _ _ _ _ _ => true
  | .grdRest _ _ _ _ _ => true
  | .grdStat _ _ _ _ => true
  | .send _ _ _ _ _ d => evenReg d
  | .sendv _ _ _ _ d => evenReg d
  | .rld _ _ _ => true
  | .rred _ _ _ _ _ => true
  | .recv _ _ _ _ => true
  | .mldr _ _ _ _ => true
  | .fabStat _ _ _ => true
  | .bundleIssue x => decide (x < numContexts)
  | .issueSlotChange k => decide (k < numCores)
  | .quantumExpiry k => decide (k < numCores)
  | .elasticResultArrival _ => true
  | .accessPerformed _ => true
  | .ladleRunStart l => decide (l < 1024)
  | .ladleBundleIssue l => decide (l < 1024)
  | .channelElementArrival _ => true
  | .copyComplete _ => true
  | .rowOperationComplete _ => true
  | .griddleCommandComplete o => decide (o < 64)
  | .leaseGrant o => decide (o < 64)
  | .leaseBudgetExpiry k => decide (k < numCores)
  | .kick q _ => decide (q < 65536)
  | .kickStart q => decide (q < 65536)
  | .placement d => decide (d < 2)
  | .agelimExpiry d cls => decide (d < 2) && decide (cls < 4)
  | .memberExit x => decide (x < numContexts)
  | .nodeRetire _ => true
  | .replayComplete q => decide (q < 65536)
  | .qgraphWrite q _ => decide (q < 65536)
  | .qcbaseWrite q _ => decide (q < 65536)
  | .qcsizeWrite q _ => decide (q < 65536)
  | .hostMemRead _ _ => true
  | .hostMemWrite _ _ => true
  | .pctlRst n => decide (n < 16)
  | .prst x _ => decide (x < numContexts)
  | .partitionResetComplete n => decide (n < 16)
  | .qsetWrite x _ => decide (x < numContexts)
  | .lregWrite x n _ => decide (x < numContexts) && decide (n < 16)
  | .pantryCommit x _ => decide (x < numContexts)
  | .pantryPublish => true
  | .opSettleComplete m => decide (m < 576)
  | .graceExpiry x => decide (x < numContexts)
  | .pcfgWrite x n _ => decide (x < numContexts) && decide (n < 16)
  | .cresWrite x n _ => decide (x < numContexts) && decide (n < 8)
  | .replace x _ => decide (x < numContexts)
  | .replaceComplete d => decide (d < 2)
  | .isscfgWrite x _ => decide (x < numContexts)
  | .splitLevelStep k _ => decide (k < numCores)
  | .tempstatUpdate d => decide (d < 2)
  | .chcfgWrite x n _ => decide (x < numContexts) && decide (n < 8)
  | .spcfgWrite x _ => decide (x < numContexts)
  | .tlbinv x _ => decide (x < numContexts)
  | .tlbinvComplete d => decide (d < 2)
  | .ringRegisterWrite x _ _ => decide (x < numContexts)
  | .ringHeadWrite x _ _ => decide (x < numContexts)
  | .synobjWrite x _ => decide (x < numContexts)
  | .hangTimeout x => decide (x < numContexts)
  | .preemptDeadline x => decide (x < numContexts)
  | .preemptionComplete x => decide (x < numContexts)
  | .uncorr x => decide (x < numContexts)
  | .lockstepMismatch x => decide (x < numContexts)
  | .rollreq x _ => decide (x < numContexts)
  | .gangRollback _ => true
  | .rollbackRestart _ => true
  | .nodekill x _ => decide (x < numContexts)
  | .errorThreshold r => decide (r < 1655)
  | .errorWindowExpiry k => decide (1 ≤ k ∧ k ≤ 8)
  | .hbmLaneDrift sk => decide (sk < 12)
  | .migrationStart x _ => decide (x < numContexts)
  | .migrationComplete d => decide (d < 2)
  | .powerEstimateUpdate k => decide (k < numCores)
  | .pcSample d => decide (d < 2)
  | .fabidWrite x _ => decide (x < numContexts)
  | .tabload x _ => decide (x < numContexts)
  | .tabloadComplete => true
  | .fabgrpJoin x _ => decide (x < numContexts)
  | .packetDepart p _ => decide (p < 32)
  | .fabricWrite p _ => decide (p < 32)
  | .fabricRead p _ => decide (p < 32)
  | .fabricAtomic p _ => decide (p < 32)
  | .fabricReduce p _ => decide (p < 32)
  | .ack p _ => decide (p < 32)
  | .nack p _ => decide (p < 32)
  | .data p _ => decide (p < 32)
  | .result p _ => decide (p < 32)
  | .lsu _ => true
  | .linkDead p => decide (p < 32)
  | .linkRetry p => decide (p < 32)
  | .drainRoundExpiry _ => true
  | .linkTrain x _ => decide (x < numContexts)
  | .linkDown x _ => decide (x < numContexts)
  | .linkTrainingComplete p _ _ _ _ => decide (p < 32)
  | .packageReset => true
  | .bootVerify => true
  | .bist _ => true
  | .marchTimeout => true
  | .bootPantry => true
  | .repadd x _ => decide (x < numContexts)
  | .bootsumWrite x _ => decide (x < numContexts)
  | .testcfgWrite x _ => decide (x < numContexts)
  | .attestationStart x _ => decide (x < numContexts)
  | .attestationComplete => true
  | .epcWrite x _ => decide (x < numContexts)
  | .lcntWrite x n _ => decide (x < numContexts) && decide (n < 4)
  | .fcrWrite x _ => decide (x < numContexts)
  | .registerWrite _ _ => true
  | .frameBoundary => true
  | .memTrainingComplete _ _ => true

end Sys2Proof
end

