-- ==== Sys2Proof/Decode.lean ====
section
/-! DEFINITION. Decoding and encoding of slot words and bundle headers (04_fetching_bundles.md, R82, R86, R94, R99 to R101).
The decoder is total: it answers an instruction or names what it rejects. The encoder is written from the same tables. -/

namespace Sys2Proof

/-- Why a slot word is rejected (R102, step 6(b)); each raises ILLEGAL. -/
inductive DecodeError where
  /-- The OPC value is a dash in R99. -/
  | unusedOpcode
  /-- A reserved or unassigned operand field is non-zero. -/
  | reservedField
  /-- An operand value the instruction's rule refuses. -/
  | badOperand
deriving DecidableEq, Repr

/-- The fields of form S3 (R94), from the highest bit down. -/
structure FormS3 where
  sd : BitVec 5
  sa : BitVec 5
  sb : BitVec 5
  gn : BitVec 1
  gp : BitVec 3
  fn : BitVec 4
deriving DecidableEq, Repr

/-- The fields of an operand body of form S3. -/
def FormS3.of (o : BitVec 23) : FormS3 where
  sd := o.extractLsb' 18 5
  sa := o.extractLsb' 13 5
  sb := o.extractLsb' 8 5
  gn := o.extractLsb' 7 1
  gp := o.extractLsb' 4 3
  fn := o.extractLsb' 0 4

/-- The operand body of form S3. -/
def FormS3.enc (f : FormS3) : BitVec 23 := f.sd ++ f.sa ++ f.sb ++ f.gn ++ f.gp ++ f.fn

/-- The scalar guard of form S3 (R95). -/
def FormS3.guard (f : FormS3) : Guard := ⟨f.gp, f.gn == 1#1⟩

/-- The fields of form SI (R94), from the highest bit down. -/
structure FormSI where
  sd : BitVec 5
  sa : BitVec 5
  imm : BitVec 13
deriving DecidableEq, Repr

/-- The fields of an operand body of form SI. -/
def FormSI.of (o : BitVec 23) : FormSI where
  sd := o.extractLsb' 18 5
  sa := o.extractLsb' 13 5
  imm := o.extractLsb' 0 13

/-- The operand body of form SI. -/
def FormSI.enc (f : FormSI) : BitVec 23 := f.sd ++ f.sa ++ f.imm

/-- The fields of form SL (R94), from the highest bit down. -/
structure FormSL where
  sd : BitVec 5
  imm : BitVec 18
deriving DecidableEq, Repr

/-- The fields of an operand body of form SL. -/
def FormSL.of (o : BitVec 23) : FormSL where
  sd := o.extractLsb' 18 5
  imm := o.extractLsb' 0 18

/-- The operand body of form SL. -/
def FormSL.enc (f : FormSL) : BitVec 23 := f.sd ++ f.imm

/-- The fields of form V3 (R94), from the highest bit down. -/
structure FormV3 where
  vd : BitVec 5
  a : BitVec 6
  b : BitVec 6
  pg : BitVec 3
  t : BitVec 3
deriving DecidableEq, Repr

/-- The fields of an operand body of form V3. -/
def FormV3.of (o : BitVec 23) : FormV3 where
  vd := o.extractLsb' 18 5
  a := o.extractLsb' 12 6
  b := o.extractLsb' 6 6
  pg := o.extractLsb' 3 3
  t := o.extractLsb' 0 3

/-- The operand body of form V3. -/
def FormV3.enc (f : FormV3) : BitVec 23 := f.vd ++ f.a ++ f.b ++ f.pg ++ f.t

/-- The fields of form VI (R94), from the highest bit down. -/
structure FormVI where
  vd : BitVec 5
  a : BitVec 6
  imm : BitVec 12
deriving DecidableEq, Repr

/-- The fields of an operand body of form VI. -/
def FormVI.of (o : BitVec 23) : FormVI where
  vd := o.extractLsb' 18 5
  a := o.extractLsb' 12 6
  imm := o.extractLsb' 0 12

/-- The operand body of form VI. -/
def FormVI.enc (f : FormVI) : BitVec 23 := f.vd ++ f.a ++ f.imm

/-- The fields of form VC (R94), from the highest bit down. -/
structure FormVC where
  vd : BitVec 5
  a : BitVec 6
  ctl : BitVec 12
deriving DecidableEq, Repr

/-- The fields of an operand body of form VC. -/
def FormVC.of (o : BitVec 23) : FormVC where
  vd := o.extractLsb' 18 5
  a := o.extractLsb' 12 6
  ctl := o.extractLsb' 0 12

/-- The operand body of form VC. -/
def FormVC.enc (f : FormVC) : BitVec 23 := f.vd ++ f.a ++ f.ctl

/-- The fields of form B (R94), from the highest bit down. -/
structure FormB where
  gp : BitVec 3
  gn : BitVec 1
  off : BitVec 19
deriving DecidableEq, Repr

/-- The fields of an operand body of form B. -/
def FormB.of (o : BitVec 23) : FormB where
  gp := o.extractLsb' 20 3
  gn := o.extractLsb' 19 1
  off := o.extractLsb' 0 19

/-- The operand body of form B. -/
def FormB.enc (f : FormB) : BitVec 23 := f.gp ++ f.gn ++ f.off

/-- The scalar guard of form B (R95). -/
def FormB.guard (f : FormB) : Guard := ⟨f.gp, f.gn == 1#1⟩

/-- The fields of form MI (R94), from the highest bit down. -/
structure FormMI where
  d : BitVec 5
  b : BitVec 5
  gn : BitVec 1
  gp : BitVec 3
  sp : BitVec 1
  w : BitVec 2
  off : BitVec 6
deriving DecidableEq, Repr

/-- The fields of an operand body of form MI. -/
def FormMI.of (o : BitVec 23) : FormMI where
  d := o.extractLsb' 18 5
  b := o.extractLsb' 13 5
  gn := o.extractLsb' 12 1
  gp := o.extractLsb' 9 3
  sp := o.extractLsb' 8 1
  w := o.extractLsb' 6 2
  off := o.extractLsb' 0 6

/-- The operand body of form MI. -/
def FormMI.enc (f : FormMI) : BitVec 23 := f.d ++ f.b ++ f.gn ++ f.gp ++ f.sp ++ f.w ++ f.off

/-- The scalar guard of form MI (R95). -/
def FormMI.guard (f : FormMI) : Guard := ⟨f.gp, f.gn == 1#1⟩

/-- The fields of form MR (R94), from the highest bit down. -/
structure FormMR where
  d : BitVec 5
  b : BitVec 5
  c : BitVec 5
  gn : BitVec 1
  gp : BitVec 3
  f : BitVec 4
deriving DecidableEq, Repr

/-- The fields of an operand body of form MR. -/
def FormMR.of (o : BitVec 23) : FormMR where
  d := o.extractLsb' 18 5
  b := o.extractLsb' 13 5
  c := o.extractLsb' 8 5
  gn := o.extractLsb' 7 1
  gp := o.extractLsb' 4 3
  f := o.extractLsb' 0 4

/-- The operand body of form MR. -/
def FormMR.enc (f : FormMR) : BitVec 23 := f.d ++ f.b ++ f.c ++ f.gn ++ f.gp ++ f.f

/-- The scalar guard of form MR (R95). -/
def FormMR.guard (f : FormMR) : Guard := ⟨f.gp, f.gn == 1#1⟩

/-- The fields of form E (R94), from the highest bit down. -/
structure FormE where
  d : BitVec 5
  a : BitVec 5
  b : BitVec 5
  gn : BitVec 1
  gp : BitVec 3
  acq : BitVec 1
  rel : BitVec 1
  f : BitVec 2
deriving DecidableEq, Repr

/-- The fields of an operand body of form E. -/
def FormE.of (o : BitVec 23) : FormE where
  d := o.extractLsb' 18 5
  a := o.extractLsb' 13 5
  b := o.extractLsb' 8 5
  gn := o.extractLsb' 7 1
  gp := o.extractLsb' 4 3
  acq := o.extractLsb' 3 1
  rel := o.extractLsb' 2 1
  f := o.extractLsb' 0 2

/-- The operand body of form E. -/
def FormE.enc (f : FormE) : BitVec 23 := f.d ++ f.a ++ f.b ++ f.gn ++ f.gp ++ f.acq ++ f.rel ++ f.f

/-- The scalar guard of form E (R95). -/
def FormE.guard (f : FormE) : Guard := ⟨f.gp, f.gn == 1#1⟩

/-- The opcode field of a slot word, CLASS and ROW together (R86). -/
def opcOf (w : Word32) : BitVec 8 := w.extractLsb' 23 8

/-- The operand field of a slot word (R86). -/
def operandsOf (w : Word32) : BitVec 23 := w.extractLsb' 0 23

/-- The stop bit of a slot word (R85). -/
def stopOf (w : Word32) : Bool := w.getLsbD 31

/-- An instruction whose fields are in place, if its operands are well formed. -/
def checked (i : Instr) : Except DecodeError Instr := if i.wf then .ok i else .error .badOperand

/-- The rows of class 000: ROW `r` with operands `o` (R99, R100). -/
def decodeClass0 (r : Nat) (o : BitVec 23) : Except DecodeError Instr :=
  match r with
  | 0 =>
    let f := FormS3.of o
    if f.fn == 0#4 then checked (.add f.guard f.sd f.sa f.sb)
    else .error .reservedField
  | 1 =>
    let f := FormS3.of o
    if f.fn == 0#4 then checked (.sub f.guard f.sd f.sa f.sb)
    else .error .reservedField
  | 2 =>
    let f := FormS3.of o
    if f.fn == 0#4 then checked (.and f.guard f.sd f.sa f.sb)
    else .error .reservedField
  | 3 =>
    let f := FormS3.of o
    if f.fn == 0#4 then checked (.or f.guard f.sd f.sa f.sb)
    else .error .reservedField
  | 4 =>
    let f := FormS3.of o
    if f.fn == 0#4 then checked (.xor f.guard f.sd f.sa f.sb)
    else .error .reservedField
  | 5 =>
    let f := FormS3.of o
    if f.fn == 0#4 then checked (.shl f.guard f.sd f.sa f.sb)
    else .error .reservedField
  | 6 =>
    let f := FormS3.of o
    if f.fn == 0#4 then checked (.shr f.guard f.sd f.sa f.sb)
    else .error .reservedField
  | 7 =>
    let f := FormS3.of o
    if f.fn == 0#4 then checked (.sar f.guard f.sd f.sa f.sb)
    else .error .reservedField
  | 8 =>
    let f := FormS3.of o
    if f.fn == 0#4 then checked (.mul f.guard f.sd f.sa f.sb)
    else .error .reservedField
  | 9 =>
    let f := FormS3.of o
    if f.fn == 0#4 then checked (.mulh f.guard f.sd f.sa f.sb)
    else .error .reservedField
  | 10 =>
    let f := FormS3.of o
    if f.fn == 0#4 then checked (.mulhn f.guard f.sd f.sa f.sb)
    else .error .reservedField
  | 11 =>
    let f := FormS3.of o
    if f.fn == 0#4 then checked (.div f.guard f.sd f.sa f.sb)
    else .error .reservedField
  | 12 =>
    let f := FormS3.of o
    if f.fn == 0#4 then checked (.divn f.guard f.sd f.sa f.sb)
    else .error .reservedField
  | 13 =>
    let f := FormS3.of o
    if f.fn == 0#4 then checked (.rem f.guard f.sd f.sa f.sb)
    else .error .reservedField
  | 14 =>
    let f := FormS3.of o
    if f.fn == 0#4 then checked (.remn f.guard f.sd f.sa f.sb)
    else .error .reservedField
  | 15 =>
    let f := FormS3.of o
    if f.fn == 0#4 then checked (.min f.guard f.sd f.sa f.sb)
    else .error .reservedField
  | 16 =>
    let f := FormS3.of o
    if f.fn == 0#4 then checked (.max f.guard f.sd f.sa f.sb)
    else .error .reservedField
  | 17 =>
    let f := FormS3.of o
    if f.fn == 0#4 then checked (.minn f.guard f.sd f.sa f.sb)
    else .error .reservedField
  | 18 =>
    let f := FormS3.of o
    if f.fn == 0#4 then checked (.maxn f.guard f.sd f.sa f.sb)
    else .error .reservedField
  | 19 =>
    let f := FormS3.of o
    if f.fn.extractLsb' 3 1 == 0#1 then checked (.sel f.guard f.sd f.sa f.sb (f.fn.extractLsb' 0 3))
    else .error .reservedField
  | 20 =>
    let f := FormS3.of o
    if f.sb == 0#5 && f.fn == 0#4 then checked (.clz f.guard f.sd f.sa)
    else .error .reservedField
  | 21 =>
    let f := FormS3.of o
    if f.sb == 0#5 && f.fn == 0#4 then checked (.ctz f.guard f.sd f.sa)
    else .error .reservedField
  | 22 =>
    let f := FormS3.of o
    if f.sb == 0#5 && f.fn == 0#4 then checked (.popc f.guard f.sd f.sa)
    else .error .reservedField
  | 23 =>
    let f := FormS3.of o
    if f.sd.extractLsb' 3 2 == 0#2 then checked (.cmpCc f.guard f.fn (f.sd.extractLsb' 0 3) f.sa f.sb)
    else .error .reservedField
  | 24 =>
    let f := FormS3.of o
    if f.sd.extractLsb' 3 2 == 0#2 && f.sa.extractLsb' 3 2 == 0#2 && f.sb.extractLsb' 3 2 == 0#2 && f.fn == 0#4 then checked (.pand f.guard (f.sd.extractLsb' 0 3) (f.sa.extractLsb' 0 3) (f.sb.extractLsb' 0 3))
    else .error .reservedField
  | 25 =>
    let f := FormS3.of o
    if f.sd.extractLsb' 3 2 == 0#2 && f.sa.extractLsb' 3 2 == 0#2 && f.sb.extractLsb' 3 2 == 0#2 && f.fn == 0#4 then checked (.por f.guard (f.sd.extractLsb' 0 3) (f.sa.extractLsb' 0 3) (f.sb.extractLsb' 0 3))
    else .error .reservedField
  | 26 =>
    let f := FormS3.of o
    if f.sd.extractLsb' 3 2 == 0#2 && f.sa.extractLsb' 3 2 == 0#2 && f.sb.extractLsb' 3 2 == 0#2 && f.fn == 0#4 then checked (.pxor f.guard (f.sd.extractLsb' 0 3) (f.sa.extractLsb' 0 3) (f.sb.extractLsb' 0 3))
    else .error .reservedField
  | 27 =>
    let f := FormS3.of o
    if f.sd.extractLsb' 3 2 == 0#2 && f.sa.extractLsb' 3 2 == 0#2 && f.sb == 0#5 && f.fn == 0#4 then checked (.pnot f.guard (f.sd.extractLsb' 0 3) (f.sa.extractLsb' 0 3))
    else .error .reservedField
  | 28 =>
    let f := FormS3.of o
    if f.sa.extractLsb' 3 2 == 0#2 && f.sb == 0#5 && f.fn.extractLsb' 0 2 == 0#2 then checked (.movpPs f.guard f.sd (f.sa.extractLsb' 0 3) (f.fn.extractLsb' 2 2))
    else if f.sd.extractLsb' 3 2 == 0#2 && f.sb == 0#5 && f.fn.extractLsb' 0 2 == 1#2 then checked (.movpSp f.guard (f.sd.extractLsb' 0 3) f.sa (f.fn.extractLsb' 2 2))
    else if f.sd.extractLsb' 3 2 == 0#2 && f.sb == 0#5 && f.fn == 2#4 then checked (.movpBc f.guard (f.sd.extractLsb' 0 3) f.sa)
    else .error .reservedField
  | _ => .error .unusedOpcode

/-- The rows of class 001: ROW `r` with operands `o` (R99, R100). -/
def decodeClass1 (r : Nat) (o : BitVec 23) : Except DecodeError Instr :=
  match r with
  | 0 =>
    let f := FormSI.of o
    checked (.addi f.sd f.sa f.imm)
  | 1 =>
    let f := FormSI.of o
    checked (.andi f.sd f.sa f.imm)
  | 2 =>
    let f := FormSI.of o
    checked (.ori f.sd f.sa f.imm)
  | 3 =>
    let f := FormSI.of o
    checked (.xori f.sd f.sa f.imm)
  | 4 =>
    let f := FormSI.of o
    if f.imm.extractLsb' 6 7 == 0#7 then checked (.shli f.sd f.sa (f.imm.extractLsb' 0 6))
    else .error .reservedField
  | 5 =>
    let f := FormSI.of o
    if f.imm.extractLsb' 6 7 == 0#7 then checked (.shri f.sd f.sa (f.imm.extractLsb' 0 6))
    else .error .reservedField
  | 6 =>
    let f := FormSI.of o
    if f.imm.extractLsb' 6 7 == 0#7 then checked (.sari f.sd f.sa (f.imm.extractLsb' 0 6))
    else .error .reservedField
  | 7 =>
    let f := FormSL.of o
    checked (.movi f.sd f.imm)
  | 8 =>
    let f := FormSL.of o
    checked (.shi f.sd f.imm)
  | _ => .error .unusedOpcode

/-- The rows of class 010: ROW `r` with operands `o` (R99, R100). -/
def decodeClass2 (r : Nat) (o : BitVec 23) : Except DecodeError Instr :=
  match r with
  | 0 =>
    let f := FormB.of o
    checked (.br f.guard f.off)
  | 1 =>
    let f := FormB.of o
    checked (.brl f.guard f.off)
  | 2 =>
    let f := FormS3.of o
    if f.sb == 0#5 && f.fn == 0#4 then checked (.brs f.guard f.sd f.sa)
    else .error .reservedField
  | 3 =>
    let f := FormS3.of o
    if f.sd == 0#5 && f.sb == 0#5 && f.fn.extractLsb' 2 2 == 0#2 then checked (.loop f.guard (f.fn.extractLsb' 0 2) f.sa)
    else .error .reservedField
  | 4 =>
    let f := FormSI.of o
    if f.sd.extractLsb' 2 3 == 0#3 && f.sa == 0#5 then checked (.loopi (f.sd.extractLsb' 0 2) f.imm)
    else .error .reservedField
  | 5 =>
    if o == 0#23 then checked .ppt
    else .error .reservedField
  | 6 =>
    if o == 0#23 then checked .yield
    else .error .reservedField
  | 7 =>
    if o == 0#23 then checked .exit
    else .error .reservedField
  | 8 =>
    let f := FormS3.of o
    if f.sa == 0#5 && f.sb == 0#5 && f.fn == 0#4 then checked (.tstamp f.guard f.sd)
    else if f.sb == 0#5 && f.fn == 1#4 then checked (.tstampSet f.guard f.sd f.sa)
    else .error .reservedField
  | 9 =>
    let f := FormSI.of o
    if f.sa == 0#5 && f.imm.extractLsb' 12 1 == 0#1 then checked (.sread f.sd (f.imm.extractLsb' 0 12))
    else .error .reservedField
  | 10 =>
    let f := FormSI.of o
    if f.sd == 0#5 && f.imm.extractLsb' 12 1 == 0#1 then checked (.swrite (f.imm.extractLsb' 0 12) f.sa)
    else .error .reservedField
  | 11 =>
    let f := FormSL.of o
    if f.sd == 0#5 then checked (.trap f.imm)
    else .error .reservedField
  | 12 =>
    let f := FormSL.of o
    if f.sd == 0#5 then checked (.svc f.imm)
    else .error .reservedField
  | 13 =>
    if o == 0#23 then checked .eret
    else .error .reservedField
  | 14 =>
    let f := FormS3.of o
    if f.sd == 0#5 && f.sb == 0#5 then checked (.fcrSet f.guard f.sa f.fn)
    else .error .reservedField
  | 15 =>
    let f := FormS3.of o
    if f.sa == 0#5 && f.sb == 0#5 && f.fn == 0#4 then checked (.fcrGet f.guard f.sd)
    else .error .reservedField
  | 16 =>
    let f := FormS3.of o
    if f.sa == 0#5 && f.sb == 0#5 && f.fn == 0#4 then checked (.panAck f.guard f.sd)
    else .error .reservedField
  | 17 =>
    let f := FormS3.of o
    if f.sb == 0#5 && f.fn.extractLsb' 2 2 == 0#2 then checked (.panRead f.guard f.sd f.sa (f.fn.extractLsb' 0 2))
    else .error .reservedField
  | 18 =>
    let f := FormS3.of o
    if f.sb == 0#5 && f.fn.extractLsb' 0 2 == 0#2 then checked (.poisTest f.guard (f.fn.extractLsb' 2 2) f.sd f.sa)
    else if f.sd == 0#5 && f.sb == 0#5 && f.fn.extractLsb' 0 2 == 1#2 then checked (.poisClr f.guard (f.fn.extractLsb' 2 2) f.sa)
    else if f.sd == 0#5 && f.sb == 0#5 && f.fn.extractLsb' 0 2 == 2#2 then checked (.poisSet f.guard (f.fn.extractLsb' 2 2) f.sa)
    else .error .reservedField
  | 19 =>
    let f := FormS3.of o
    if f.fn == 0#4 then checked (.preemptStop f.guard f.sd f.sa f.sb)
    else if f.fn == 1#4 then checked (.preemptResume f.guard f.sd f.sa f.sb)
    else if f.fn == 2#4 then checked (.preemptState f.guard f.sd f.sa f.sb)
    else .error .reservedField
  | 20 =>
    let f := FormS3.of o
    if f.fn == 0#4 then checked (.ctxSave f.guard f.sd f.sa f.sb)
    else .error .reservedField
  | 21 =>
    let f := FormS3.of o
    if f.fn == 0#4 then checked (.ctxLoad f.guard f.sd f.sa f.sb)
    else .error .reservedField
  | 22 =>
    if o == 0#23 then checked .halt
    else .error .reservedField
  | _ => .error .unusedOpcode

/-- The rows of class 011: ROW `r` with operands `o` (R99, R100). -/
def decodeClass3 (r : Nat) (o : BitVec 23) : Except DecodeError Instr :=
  match r with
  | 0 =>
    let f := FormV3.of o
    checked (.vadd f.pg f.t f.vd f.a f.b)
  | 1 =>
    let f := FormV3.of o
    checked (.vsub f.pg f.t f.vd f.a f.b)
  | 2 =>
    let f := FormV3.of o
    checked (.vmul f.pg f.t f.vd f.a f.b)
  | 3 =>
    let f := FormV3.of o
    checked (.vmulh f.pg f.t f.vd f.a f.b)
  | 4 =>
    let f := FormV3.of o
    checked (.vmin f.pg f.t f.vd f.a f.b)
  | 5 =>
    let f := FormV3.of o
    checked (.vmax f.pg f.t f.vd f.a f.b)
  | 6 =>
    let f := FormV3.of o
    checked (.vand f.pg f.t f.vd f.a f.b)
  | 7 =>
    let f := FormV3.of o
    checked (.vor f.pg f.t f.vd f.a f.b)
  | 8 =>
    let f := FormV3.of o
    checked (.vxor f.pg f.t f.vd f.a f.b)
  | 9 =>
    let f := FormV3.of o
    if f.b == 0#6 then checked (.vnot f.pg f.t f.vd f.a)
    else .error .reservedField
  | 10 =>
    let f := FormV3.of o
    checked (.vshl f.pg f.t f.vd f.a f.b)
  | 11 =>
    let f := FormV3.of o
    checked (.vshr f.pg f.t f.vd f.a f.b)
  | 12 =>
    let f := FormV3.of o
    checked (.vsar f.pg f.t f.vd f.a f.b)
  | 13 =>
    let f := FormV3.of o
    checked (.vcmpCc (f.vd.extractLsb' 3 2) f.pg f.t (f.vd.extractLsb' 0 3) f.a f.b)
  | 14 =>
    let f := FormV3.of o
    checked (.vadds f.pg f.t f.vd f.a f.b)
  | 15 =>
    let f := FormV3.of o
    checked (.vsubs f.pg f.t f.vd f.a f.b)
  | 16 =>
    let f := FormV3.of o
    checked (.fadd f.pg f.t f.vd f.a f.b)
  | 17 =>
    let f := FormV3.of o
    checked (.fsub f.pg f.t f.vd f.a f.b)
  | 18 =>
    let f := FormV3.of o
    checked (.fmul f.pg f.t f.vd f.a f.b)
  | 19 =>
    let f := FormV3.of o
    checked (.fma f.pg f.t f.vd f.a f.b)
  | 20 =>
    let f := FormV3.of o
    checked (.fms f.pg f.t f.vd f.a f.b)
  | 21 =>
    let f := FormV3.of o
    checked (.fnma f.pg f.t f.vd f.a f.b)
  | 22 =>
    let f := FormV3.of o
    checked (.fnms f.pg f.t f.vd f.a f.b)
  | 23 =>
    let f := FormV3.of o
    checked (.fmin f.pg f.t f.vd f.a f.b)
  | 24 =>
    let f := FormV3.of o
    checked (.fmax f.pg f.t f.vd f.a f.b)
  | 25 =>
    let f := FormV3.of o
    if f.b == 0#6 then checked (.fabs f.pg f.t f.vd f.a)
    else .error .reservedField
  | 26 =>
    let f := FormV3.of o
    if f.b == 0#6 then checked (.fneg f.pg f.t f.vd f.a)
    else .error .reservedField
  | 27 =>
    let f := FormV3.of o
    checked (.fcmpCc (f.vd.extractLsb' 3 2) f.pg f.t (f.vd.extractLsb' 0 3) f.a f.b)
  | 28 =>
    let f := FormV3.of o
    if f.b == 0#6 then checked (.fclass f.pg f.t f.vd f.a)
    else .error .reservedField
  | 29 =>
    let f := FormV3.of o
    if f.b == 0#6 then checked (.frnd f.pg f.t f.vd f.a)
    else .error .reservedField
  | 30 =>
    let f := FormV3.of o
    checked (.fscale f.pg f.t f.vd f.a f.b)
  | _ => .error .unusedOpcode

/-- The rows of class 100: ROW `r` with operands `o` (R99, R100). -/
def decodeClass4 (r : Nat) (o : BitVec 23) : Except DecodeError Instr :=
  match r with
  | 0 =>
    let f := FormV3.of o
    checked (.vsel f.t f.vd f.a f.b f.pg)
  | 1 =>
    let f := FormV3.of o
    if f.b == 0#6 then checked (.vmov f.pg f.t f.vd f.a)
    else .error .reservedField
  | 2 =>
    let f := FormV3.of o
    if f.a.extractLsb' 5 1 == 0#1 && f.b == 0#6 then checked (.vbcast f.pg f.t f.vd (f.a.extractLsb' 0 5))
    else .error .reservedField
  | 3 =>
    let f := FormVI.of o
    if f.a.extractLsb' 3 3 == 0#3 then checked (.vimm (f.a.extractLsb' 0 3) f.vd f.imm)
    else .error .reservedField
  | 4 =>
    let f := FormV3.of o
    if f.b.extractLsb' 5 1 == 0#1 && f.pg == 0#3 then checked (.vext f.t f.vd f.a (f.b.extractLsb' 0 5))
    else .error .reservedField
  | 5 =>
    let f := FormV3.of o
    if f.a.extractLsb' 5 1 == 0#1 && f.b.extractLsb' 5 1 == 0#1 && f.pg == 0#3 then checked (.vins f.t f.vd (f.a.extractLsb' 0 5) (f.b.extractLsb' 0 5))
    else .error .reservedField
  | 6 =>
    let f := FormV3.of o
    checked (.vperm f.pg f.t f.vd f.a f.b)
  | 7 =>
    let f := FormV3.of o
    if f.b.extractLsb' 5 1 == 0#1 then checked (.vslideUp f.pg f.t f.vd f.a (f.b.extractLsb' 0 5))
    else .error .reservedField
  | 8 =>
    let f := FormV3.of o
    if f.b.extractLsb' 5 1 == 0#1 then checked (.vslideDn f.pg f.t f.vd f.a (f.b.extractLsb' 0 5))
    else .error .reservedField
  | 9 =>
    let f := FormV3.of o
    if f.b.extractLsb' 5 1 == 0#1 then checked (.vrot f.pg f.t f.vd f.a (f.b.extractLsb' 0 5))
    else .error .reservedField
  | 10 =>
    let f := FormV3.of o
    checked (.vzip f.pg f.t f.vd f.a f.b)
  | 11 =>
    let f := FormV3.of o
    checked (.vunzip f.pg f.t f.vd f.a f.b)
  | 12 =>
    let f := FormV3.of o
    checked (.vtrn f.pg f.t f.vd f.a f.b)
  | 13 =>
    let f := FormV3.of o
    if f.b == 0#6 then checked (.vradd f.pg f.t f.vd f.a)
    else .error .reservedField
  | 14 =>
    let f := FormV3.of o
    if f.b == 0#6 then checked (.vrmin f.pg f.t f.vd f.a)
    else .error .reservedField
  | 15 =>
    let f := FormV3.of o
    if f.b == 0#6 then checked (.vrmax f.pg f.t f.vd f.a)
    else .error .reservedField
  | 16 =>
    let f := FormV3.of o
    if f.b == 0#6 then checked (.vscanAdd f.pg f.t f.vd f.a)
    else .error .reservedField
  | 17 =>
    let f := FormV3.of o
    checked (.vdot4 f.pg f.t f.vd f.a f.b)
  | 18 =>
    let f := FormV3.of o
    checked (.vhash f.pg f.t f.vd f.a f.b)
  | 19 =>
    let f := FormV3.of o
    if f.a.extractLsb' 3 3 == 0#3 && f.b == 0#6 then checked (.pcnt f.pg f.t f.vd (f.a.extractLsb' 0 3))
    else .error .reservedField
  | 20 =>
    let f := FormV3.of o
    if f.a.extractLsb' 3 3 == 0#3 && f.b == 0#6 then checked (.pfirst f.pg f.t f.vd (f.a.extractLsb' 0 3))
    else .error .reservedField
  | 21 =>
    let f := FormVI.of o
    if f.imm.extractLsb' 9 3 == 0#3 then checked (.vshli (f.imm.extractLsb' 6 3) f.vd f.a (f.imm.extractLsb' 0 6))
    else .error .reservedField
  | 22 =>
    let f := FormVI.of o
    if f.imm.extractLsb' 9 3 == 0#3 then checked (.vshri (f.imm.extractLsb' 6 3) f.vd f.a (f.imm.extractLsb' 0 6))
    else .error .reservedField
  | 23 =>
    let f := FormVI.of o
    if f.imm.extractLsb' 9 3 == 0#3 then checked (.vsari (f.imm.extractLsb' 6 3) f.vd f.a (f.imm.extractLsb' 0 6))
    else .error .reservedField
  | 24 =>
    let f := FormVC.of o
    checked (.cvt f.vd f.a (f.ctl.extractLsb' 8 4) (f.ctl.extractLsb' 0 4) (f.ctl.extractLsb' 6 2) (f.ctl.extractLsb' 5 1 == 1#1) (f.ctl.extractLsb' 4 1 == 1#1))
  | 25 =>
    let f := FormVC.of o
    if f.ctl.extractLsb' 0 4 == 0#4 then checked (.mxpack f.vd f.a (f.ctl.extractLsb' 9 3) (f.ctl.extractLsb' 8 1 == 1#1) (f.ctl.extractLsb' 6 2) (f.ctl.extractLsb' 5 1 == 1#1) (f.ctl.extractLsb' 4 1 == 1#1))
    else .error .reservedField
  | 26 =>
    let f := FormVC.of o
    if f.ctl.extractLsb' 0 5 == 0#5 then checked (.mxunpack f.vd f.a (f.ctl.extractLsb' 9 3) (f.ctl.extractLsb' 8 1 == 1#1) (f.ctl.extractLsb' 6 2) (f.ctl.extractLsb' 5 1 == 1#1))
    else .error .reservedField
  | 27 =>
    let f := FormVC.of o
    if f.ctl.extractLsb' 8 4 == 0#4 && f.ctl.extractLsb' 0 5 == 0#5 then checked (.b16pack f.vd f.a (f.ctl.extractLsb' 6 2) (f.ctl.extractLsb' 5 1 == 1#1))
    else .error .reservedField
  | 28 =>
    let f := FormV3.of o
    if f.b == 0#6 then checked (.fradd f.pg f.t f.vd f.a)
    else .error .reservedField
  | 29 =>
    let f := FormV3.of o
    if f.b == 0#6 then checked (.frmin f.pg f.t f.vd f.a)
    else .error .reservedField
  | 30 =>
    let f := FormV3.of o
    if f.b == 0#6 then checked (.frmax f.pg f.t f.vd f.a)
    else .error .reservedField
  | _ => .error .unusedOpcode

/-- The rows of class 101: ROW `r` with operands `o` (R99, R100). -/
def decodeClass5 (r : Nat) (o : BitVec 23) : Except DecodeError Instr :=
  match r with
  | 0 =>
    let f := FormV3.of o
    if f.b.extractLsb' 0 4 == 0#4 then checked (.sfEval f.pg f.t f.vd f.a (f.b.extractLsb' 4 2))
    else .error .reservedField
  | 1 =>
    let f := FormV3.of o
    checked (.sfEvalx f.pg f.t f.vd f.a (f.b.extractLsb' 2 4) (f.b.extractLsb' 0 2))
  | 2 =>
    let f := FormS3.of o
    if f.fn == 0#4 then checked (.sftLoad f.guard f.sd f.sa f.sb)
    else .error .reservedField
  | 3 =>
    let f := FormS3.of o
    if f.sb == 0#5 && f.fn.extractLsb' 2 2 == 0#2 then checked (.sftBind f.guard f.sd f.sa (f.fn.extractLsb' 0 2))
    else if f.sa == 0#5 && f.sb == 0#5 && f.fn.extractLsb' 2 2 == 1#2 then checked (.sftBindOff f.guard f.sd (f.fn.extractLsb' 0 2))
    else .error .reservedField
  | 4 =>
    let f := FormS3.of o
    if f.sa == 0#5 && f.sb == 0#5 then checked (.sftInfo f.guard f.sd (f.fn.extractLsb' 0 2) (f.fn.extractLsb' 2 2))
    else .error .reservedField
  | 5 =>
    let f := FormS3.of o
    if f.sb == 0#5 && f.fn == 0#4 then checked (.sftChk f.guard f.sd f.sa)
    else .error .reservedField
  | _ => .error .unusedOpcode

/-- The rows of class 110: ROW `r` with operands `o` (R99, R100). -/
def decodeClass6 (r : Nat) (o : BitVec 23) : Except DecodeError Instr :=
  match r with
  | 0 =>
    let f := FormMI.of o
    checked (.ld f.guard f.w (f.sp == 1#1) f.d f.b f.off)
  | 1 =>
    let f := FormMI.of o
    checked (.st f.guard f.w (f.sp == 1#1) f.d f.b f.off)
  | 2 =>
    let f := FormMI.of o
    if f.w == 0#2 then checked (.vld f.guard (f.sp == 1#1) f.d f.b f.off)
    else .error .reservedField
  | 3 =>
    let f := FormMI.of o
    if f.w == 0#2 then checked (.vst f.guard (f.sp == 1#1) f.d f.b f.off)
    else .error .reservedField
  | 4 =>
    let f := FormMR.of o
    if f.f.extractLsb' 3 1 == 0#1 then checked (.vlds f.guard (f.f.extractLsb' 0 2) (f.f.extractLsb' 2 1 == 1#1) f.d f.b f.c)
    else .error .reservedField
  | 5 =>
    let f := FormMR.of o
    if f.f.extractLsb' 3 1 == 0#1 then checked (.vgather f.guard (f.f.extractLsb' 0 2) (f.f.extractLsb' 2 1 == 1#1) f.d f.b f.c)
    else .error .reservedField
  | 6 =>
    let f := FormMR.of o
    if f.f.extractLsb' 3 1 == 0#1 then checked (.vscatter f.guard (f.f.extractLsb' 0 2) (f.f.extractLsb' 2 1 == 1#1) f.d f.b f.c)
    else .error .reservedField
  | 7 =>
    let f := FormMI.of o
    if f.sp == 0#1 then checked (.gld f.guard f.w f.d f.b f.off)
    else .error .reservedField
  | 8 =>
    let f := FormMI.of o
    if f.sp == 0#1 then checked (.gst f.guard f.w f.d f.b f.off)
    else .error .reservedField
  | 9 =>
    let f := FormMR.of o
    if f.b == 0#5 && f.c.extractLsb' 3 2 == 0#2 && f.f == 0#4 then checked (.chpop f.guard f.d (f.c.extractLsb' 0 3))
    else if f.d == 0#5 && f.b == 0#5 && f.c.extractLsb' 3 2 == 0#2 && f.f == 1#4 then checked (.chpopDrop f.guard (f.c.extractLsb' 0 3))
    else .error .reservedField
  | 10 =>
    let f := FormMR.of o
    if f.b == 0#5 && f.c.extractLsb' 3 2 == 0#2 && f.f == 0#4 then checked (.chpush f.guard (f.c.extractLsb' 0 3) f.d)
    else if f.d == 0#5 && f.c.extractLsb' 3 2 == 0#2 && f.f == 1#4 then checked (.chpushAb f.guard (f.c.extractLsb' 0 3) f.b)
    else if f.d == 0#5 && f.c.extractLsb' 3 2 == 0#2 && f.f == 3#4 then checked (.chpushSp f.guard (f.c.extractLsb' 0 3) f.b)
    else .error .reservedField
  | 11 =>
    let f := FormMR.of o
    if f.c.extractLsb' 3 2 == 0#2 && f.f == 0#4 then checked (.chpeek f.guard f.d (f.c.extractLsb' 0 3) f.b)
    else .error .reservedField
  | 12 =>
    let f := FormMR.of o
    if f.b == 0#5 && f.c.extractLsb' 3 2 == 0#2 && f.f == 0#4 then checked (.chstat f.guard f.d (f.c.extractLsb' 0 3))
    else .error .reservedField
  | 13 =>
    let f := FormMI.of o
    if f.off.extractLsb' 3 3 == 0#3 then checked (.ldAcq f.guard f.w (f.sp == 1#1) (f.off.extractLsb' 2 1 == 1#1) f.d f.b (f.off.extractLsb' 0 2))
    else .error .reservedField
  | 14 =>
    let f := FormMI.of o
    checked (.stRel f.guard f.w (f.sp == 1#1) (f.off.extractLsb' 2 1 == 1#1) (f.off.extractLsb' 3 3) f.d f.b (f.off.extractLsb' 0 2))
  | 15 =>
    let f := FormMR.of o
    checked (.aadd f.guard (f.f.extractLsb' 2 2) (f.f.extractLsb' 1 1 == 1#1) (f.f.extractLsb' 0 1 == 1#1) f.d f.b f.c)
  | 16 =>
    let f := FormMR.of o
    checked (.aand f.guard (f.f.extractLsb' 2 2) (f.f.extractLsb' 1 1 == 1#1) (f.f.extractLsb' 0 1 == 1#1) f.d f.b f.c)
  | 17 =>
    let f := FormMR.of o
    checked (.aor f.guard (f.f.extractLsb' 2 2) (f.f.extractLsb' 1 1 == 1#1) (f.f.extractLsb' 0 1 == 1#1) f.d f.b f.c)
  | 18 =>
    let f := FormMR.of o
    checked (.axor f.guard (f.f.extractLsb' 2 2) (f.f.extractLsb' 1 1 == 1#1) (f.f.extractLsb' 0 1 == 1#1) f.d f.b f.c)
  | 19 =>
    let f := FormMR.of o
    checked (.amin f.guard (f.f.extractLsb' 2 2) (f.f.extractLsb' 1 1 == 1#1) (f.f.extractLsb' 0 1 == 1#1) f.d f.b f.c)
  | 20 =>
    let f := FormMR.of o
    checked (.amax f.guard (f.f.extractLsb' 2 2) (f.f.extractLsb' 1 1 == 1#1) (f.f.extractLsb' 0 1 == 1#1) f.d f.b f.c)
  | 21 =>
    let f := FormMR.of o
    checked (.axch f.guard (f.f.extractLsb' 2 2) (f.f.extractLsb' 1 1 == 1#1) (f.f.extractLsb' 0 1 == 1#1) f.d f.b f.c)
  | 22 =>
    let f := FormMR.of o
    checked (.acas f.guard (f.f.extractLsb' 2 2) (f.f.extractLsb' 1 1 == 1#1) (f.f.extractLsb' 0 1 == 1#1) f.d f.b f.c)
  | 23 =>
    let f := FormMR.of o
    if f.c == 0#5 then checked (.adecp f.guard (f.f.extractLsb' 2 2) (f.f.extractLsb' 1 1 == 1#1) (f.f.extractLsb' 0 1 == 1#1) f.d f.b)
    else .error .reservedField
  | 24 =>
    let f := FormMR.of o
    checked (.amxacc f.guard (f.f.extractLsb' 2 2) (f.f.extractLsb' 0 2) f.d f.b f.c)
  | 25 =>
    let f := FormMR.of o
    if f.b == 0#5 && f.c == 0#5 && f.f.extractLsb' 3 1 == 0#1 then checked (.fence f.guard (f.f.extractLsb' 0 3) f.d)
    else .error .reservedField
  | 26 =>
    let f := FormMR.of o
    if f.f.extractLsb' 1 3 == 0#3 then checked (.waitv f.guard (f.f.extractLsb' 0 1 == 1#1) f.d f.b f.c)
    else .error .reservedField
  | 27 =>
    let f := FormMR.of o
    if f.c == 0#5 && f.f.extractLsb' 1 3 == 0#3 then checked (.notify f.guard (f.f.extractLsb' 0 1 == 1#1) f.d f.b)
    else .error .reservedField
  | 28 =>
    let f := FormMR.of o
    if f.f == 0#4 then checked (.synAdd f.guard f.d f.b f.c)
    else .error .reservedField
  | 29 =>
    let f := FormMR.of o
    if f.f == 0#4 then checked (.synWait f.guard f.d f.b f.c)
    else .error .reservedField
  | 30 =>
    let f := FormMR.of o
    if f.c == 0#5 && f.f == 0#4 then checked (.synGet f.guard f.d f.b)
    else .error .reservedField
  | 31 =>
    let f := FormMR.of o
    if f.b == 0#5 && f.c == 0#5 && f.f.extractLsb' 1 3 == 0#3 then checked (.bar f.guard (f.f.extractLsb' 0 1 == 1#1) f.d)
    else .error .reservedField
  | _ => .error .unusedOpcode

/-- The rows of class 111: ROW `r` with operands `o` (R99, R100). -/
def decodeClass7 (r : Nat) (o : BitVec 23) : Except DecodeError Instr :=
  match r with
  | 0 =>
    let f := FormE.of o
    if f.f == 0#2 then checked (.copy f.guard (f.acq == 1#1) (f.rel == 1#1) f.a f.b f.d)
    else .error .reservedField
  | 1 =>
    let f := FormE.of o
    if f.f == 0#2 then checked (.copyw f.guard (f.acq == 1#1) (f.rel == 1#1) f.a f.b f.d)
    else .error .reservedField
  | 2 =>
    let f := FormE.of o
    if f.acq == 0#1 && f.rel == 0#1 && f.f.extractLsb' 1 1 == 0#1 then checked (.ladRun f.guard (f.f.extractLsb' 0 1 == 1#1) f.a f.b f.d)
    else .error .reservedField
  | 3 =>
    let f := FormE.of o
    if f.d == 0#5 && f.a == 0#5 && f.b == 0#5 && f.acq == 0#1 && f.rel == 0#1 && f.f.extractLsb' 1 1 == 0#1 then checked (.ladStop f.guard (f.f.extractLsb' 0 1 == 1#1))
    else .error .reservedField
  | 4 =>
    let f := FormE.of o
    if f.a == 0#5 && f.b == 0#5 && f.acq == 0#1 && f.rel == 0#1 && f.f.extractLsb' 1 1 == 0#1 then checked (.ladStat f.guard f.d (f.f.extractLsb' 0 1 == 1#1))
    else .error .reservedField
  | 5 =>
    let f := FormE.of o
    if f.d == 0#5 && f.rel == 0#1 && f.f == 0#2 then checked (.pref f.guard (f.acq == 1#1) f.a f.b)
    else .error .reservedField
  | 6 =>
    let f := FormE.of o
    if f.f == 0#2 then checked (.rowcpy f.guard (f.acq == 1#1) (f.rel == 1#1) f.a f.b f.d)
    else .error .reservedField
  | 7 =>
    let f := FormE.of o
    if f.f == 0#2 then checked (.rowinit f.guard (f.acq == 1#1) (f.rel == 1#1) f.a f.b f.d)
    else .error .reservedField
  | 8 =>
    let f := FormE.of o
    if f.d == 0#5 && f.a == 0#5 && f.b == 0#5 && f.acq == 0#1 && f.rel == 0#1 && f.f == 0#2 then checked (.grdLease f.guard)
    else .error .reservedField
  | 9 =>
    let f := FormE.of o
    if f.d == 0#5 && f.a == 0#5 && f.b == 0#5 && f.acq == 0#1 && f.rel == 0#1 && f.f == 0#2 then checked (.grdFree f.guard)
    else .error .reservedField
  | 10 =>
    let f := FormE.of o
    if f.d == 0#5 && f.b == 0#5 && f.acq == 0#1 && f.rel == 0#1 && f.f == 0#2 then checked (.grdWload f.guard f.a)
    else .error .reservedField
  | 11 =>
    let f := FormE.of o
    if f.d == 0#5 && f.b == 0#5 && f.acq == 0#1 && f.rel == 0#1 && f.f == 0#2 then checked (.grdScl f.guard f.a)
    else if f.d == 0#5 && f.a == 0#5 && f.acq == 0#1 && f.rel == 0#1 && f.f == 1#2 then checked (.grdSclAll f.guard f.b)
    else .error .reservedField
  | 12 =>
    let f := FormE.of o
    if f.f == 0#2 then checked (.grdMul f.guard (f.acq == 1#1) (f.rel == 1#1) f.a f.b f.d)
    else .error .reservedField
  | 13 =>
    let f := FormE.of o
    if f.a == 0#5 && f.b == 0#5 && f.acq == 0#1 && f.rel == 0#1 && f.f == 0#2 then checked (.grdZero f.guard f.d)
    else .error .reservedField
  | 14 =>
    let f := FormE.of o
    if f.b == 0#5 && f.f == 0#2 then checked (.grdDrain f.guard (f.acq == 1#1) (f.rel == 1#1) f.a f.d)
    else .error .reservedField
  | 15 =>
    let f := FormE.of o
    if f.b == 0#5 && f.acq == 0#1 && f.rel == 0#1 && f.f == 0#2 then checked (.grdChk f.guard f.d f.a)
    else .error .reservedField
  | 16 =>
    let f := FormE.of o
    if f.b == 0#5 && f.f == 0#2 then checked (.grdSave f.guard (f.acq == 1#1) (f.rel == 1#1) f.a f.d)
    else .error .reservedField
  | 17 =>
    let f := FormE.of o
    if f.b == 0#5 && f.f == 0#2 then checked (.grdRest f.guard (f.acq == 1#1) (f.rel == 1#1) f.a f.d)
    else .error .reservedField
  | 18 =>
    let f := FormE.of o
    if f.b == 0#5 && f.acq == 0#1 && f.rel == 0#1 && f.f.extractLsb' 1 1 == 0#1 then checked (.grdStat f.guard (f.f.extractLsb' 0 1 == 1#1) f.d f.a)
    else .error .reservedField
  | 19 =>
    let f := FormE.of o
    if f.acq == 0#1 then checked (.send f.guard f.f (f.rel == 1#1) f.a f.b f.d)
    else .error .reservedField
  | 20 =>
    let f := FormE.of o
    if f.acq == 0#1 && f.f == 0#2 then checked (.sendv f.guard (f.rel == 1#1) f.a f.b f.d)
    else .error .reservedField
  | 21 =>
    let f := FormE.of o
    if f.b == 0#5 && f.acq == 0#1 && f.rel == 0#1 && f.f == 0#2 then checked (.rld f.guard f.a f.d)
    else .error .reservedField
  | 22 =>
    let f := FormE.of o
    if f.acq == 0#1 && f.f == 0#2 then checked (.rred f.guard (f.rel == 1#1) f.a f.b f.d)
    else .error .reservedField
  | 23 =>
    let f := FormE.of o
    if f.b.extractLsb' 3 2 == 0#2 && f.acq == 0#1 && f.rel == 0#1 && f.f == 0#2 then checked (.recv f.guard f.d (f.b.extractLsb' 0 3) f.a)
    else .error .reservedField
  | 24 =>
    let f := FormE.of o
    if f.acq == 0#1 && f.rel == 0#1 && f.f == 0#2 then checked (.mldr f.guard f.d f.a f.b)
    else .error .reservedField
  | 25 =>
    let f := FormE.of o
    if f.b == 0#5 && f.acq == 0#1 && f.rel == 0#1 && f.f == 0#2 then checked (.fabStat f.guard f.d f.a)
    else .error .reservedField
  | _ => .error .unusedOpcode

/-- The instruction a slot word holds, whatever its stop bit (R86, R99). -/
def decodeSlot (w : Word32) : Except DecodeError Instr :=
  let opc := opcOf w
  let o := operandsOf w
  let r := (opc.extractLsb' 0 5).toNat
  match (opc.extractLsb' 5 3).toNat with
  | 0 => decodeClass0 r o
  | 1 => decodeClass1 r o
  | 2 => decodeClass2 r o
  | 3 => decodeClass3 r o
  | 4 => decodeClass4 r o
  | 5 => decodeClass5 r o
  | 6 => decodeClass6 r o
  | _ => decodeClass7 r o

/-- The OPC value of an instruction (R99); `none` for a step without an encoding. -/
def Instr.opc : Instr → Option (BitVec 8)
  | .add .. => some 0x00#8
  | .sub .. => some 0x01#8
  | .and .. => some 0x02#8
  | .or .. => some 0x03#8
  | .xor .. => some 0x04#8
  | .shl .. => some 0x05#8
  | .shr .. => some 0x06#8
  | .sar .. => some 0x07#8
  | .mul .. => some 0x08#8
  | .mulh .. => some 0x09#8
  | .mulhn .. => some 0x0A#8
  | .div .. => some 0x0B#8
  | .divn .. => some 0x0C#8
  | .rem .. => some 0x0D#8
  | .remn .. => some 0x0E#8
  | .min .. => some 0x0F#8
  | .max .. => some 0x10#8
  | .minn .. => some 0x11#8
  | .maxn .. => some 0x12#8
  | .sel .. => some 0x13#8
  | .clz .. => some 0x14#8
  | .ctz .. => some 0x15#8
  | .popc .. => some 0x16#8
  | .cmpCc .. => some 0x17#8
  | .pand .. => some 0x18#8
  | .por .. => some 0x19#8
  | .pxor .. => some 0x1A#8
  | .pnot .. => some 0x1B#8
  | .movpPs .. => some 0x1C#8
  | .movpSp .. => some 0x1C#8
  | .movpBc .. => some 0x1C#8
  | .addi .. => some 0x20#8
  | .andi .. => some 0x21#8
  | .ori .. => some 0x22#8
  | .xori .. => some 0x23#8
  | .shli .. => some 0x24#8
  | .shri .. => some 0x25#8
  | .sari .. => some 0x26#8
  | .movi .. => some 0x27#8
  | .shi .. => some 0x28#8
  | .br .. => some 0x40#8
  | .brl .. => some 0x41#8
  | .brs .. => some 0x42#8
  | .loop .. => some 0x43#8
  | .loopi .. => some 0x44#8
  | .ppt => some 0x45#8
  | .yield => some 0x46#8
  | .exit => some 0x47#8
  | .tstamp .. => some 0x48#8
  | .tstampSet .. => some 0x48#8
  | .sread .. => some 0x49#8
  | .swrite .. => some 0x4A#8
  | .trap .. => some 0x4B#8
  | .svc .. => some 0x4C#8
  | .eret => some 0x4D#8
  | .fcrSet .. => some 0x4E#8
  | .fcrGet .. => some 0x4F#8
  | .panAck .. => some 0x50#8
  | .panRead .. => some 0x51#8
  | .poisTest .. => some 0x52#8
  | .poisClr .. => some 0x52#8
  | .poisSet .. => some 0x52#8
  | .preemptStop .. => some 0x53#8
  | .preemptResume .. => some 0x53#8
  | .preemptState .. => some 0x53#8
  | .ctxSave .. => some 0x54#8
  | .ctxLoad .. => some 0x55#8
  | .halt => some 0x56#8
  | .vadd .. => some 0x60#8
  | .vsub .. => some 0x61#8
  | .vmul .. => some 0x62#8
  | .vmulh .. => some 0x63#8
  | .vmin .. => some 0x64#8
  | .vmax .. => some 0x65#8
  | .vand .. => some 0x66#8
  | .vor .. => some 0x67#8
  | .vxor .. => some 0x68#8
  | .vnot .. => some 0x69#8
  | .vshl .. => some 0x6A#8
  | .vshr .. => some 0x6B#8
  | .vsar .. => some 0x6C#8
  | .vcmpCc .. => some 0x6D#8
  | .vadds .. => some 0x6E#8
  | .vsubs .. => some 0x6F#8
  | .fadd .. => some 0x70#8
  | .fsub .. => some 0x71#8
  | .fmul .. => some 0x72#8
  | .fma .. => some 0x73#8
  | .fms .. => some 0x74#8
  | .fnma .. => some 0x75#8
  | .fnms .. => some 0x76#8
  | .fmin .. => some 0x77#8
  | .fmax .. => some 0x78#8
  | .fabs .. => some 0x79#8
  | .fneg .. => some 0x7A#8
  | .fcmpCc .. => some 0x7B#8
  | .fclass .. => some 0x7C#8
  | .frnd .. => some 0x7D#8
  | .fscale .. => some 0x7E#8
  | .vsel .. => some 0x80#8
  | .vmov .. => some 0x81#8
  | .vbcast .. => some 0x82#8
  | .vimm .. => some 0x83#8
  | .vext .. => some 0x84#8
  | .vins .. => some 0x85#8
  | .vperm .. => some 0x86#8
  | .vslideUp .. => some 0x87#8
  | .vslideDn .. => some 0x88#8
  | .vrot .. => some 0x89#8
  | .vzip .. => some 0x8A#8
  | .vunzip .. => some 0x8B#8
  | .vtrn .. => some 0x8C#8
  | .vradd .. => some 0x8D#8
  | .vrmin .. => some 0x8E#8
  | .vrmax .. => some 0x8F#8
  | .vscanAdd .. => some 0x90#8
  | .vdot4 .. => some 0x91#8
  | .vhash .. => some 0x92#8
  | .pcnt .. => some 0x93#8
  | .pfirst .. => some 0x94#8
  | .vshli .. => some 0x95#8
  | .vshri .. => some 0x96#8
  | .vsari .. => some 0x97#8
  | .cvt .. => some 0x98#8
  | .mxpack .. => some 0x99#8
  | .mxunpack .. => some 0x9A#8
  | .b16pack .. => some 0x9B#8
  | .fradd .. => some 0x9C#8
  | .frmin .. => some 0x9D#8
  | .frmax .. => some 0x9E#8
  | .sfEval .. => some 0xA0#8
  | .sfEvalx .. => some 0xA1#8
  | .sftLoad .. => some 0xA2#8
  | .sftBind .. => some 0xA3#8
  | .sftBindOff .. => some 0xA3#8
  | .sftInfo .. => some 0xA4#8
  | .sftChk .. => some 0xA5#8
  | .ld .. => some 0xC0#8
  | .st .. => some 0xC1#8
  | .vld .. => some 0xC2#8
  | .vst .. => some 0xC3#8
  | .vlds .. => some 0xC4#8
  | .vgather .. => some 0xC5#8
  | .vscatter .. => some 0xC6#8
  | .gld .. => some 0xC7#8
  | .gst .. => some 0xC8#8
  | .chpop .. => some 0xC9#8
  | .chpopDrop .. => some 0xC9#8
  | .chpush .. => some 0xCA#8
  | .chpushAb .. => some 0xCA#8
  | .chpushSp .. => some 0xCA#8
  | .chpeek .. => some 0xCB#8
  | .chstat .. => some 0xCC#8
  | .ldAcq .. => some 0xCD#8
  | .stRel .. => some 0xCE#8
  | .aadd .. => some 0xCF#8
  | .aand .. => some 0xD0#8
  | .aor .. => some 0xD1#8
  | .axor .. => some 0xD2#8
  | .amin .. => some 0xD3#8
  | .amax .. => some 0xD4#8
  | .axch .. => some 0xD5#8
  | .acas .. => some 0xD6#8
  | .adecp .. => some 0xD7#8
  | .amxacc .. => some 0xD8#8
  | .fence .. => some 0xD9#8
  | .waitv .. => some 0xDA#8
  | .notify .. => some 0xDB#8
  | .synAdd .. => some 0xDC#8
  | .synWait .. => some 0xDD#8
  | .synGet .. => some 0xDE#8
  | .bar .. => some 0xDF#8
  | .copy .. => some 0xE0#8
  | .copyw .. => some 0xE1#8
  | .ladRun .. => some 0xE2#8
  | .ladStop .. => some 0xE3#8
  | .ladStat .. => some 0xE4#8
  | .pref .. => some 0xE5#8
  | .rowcpy .. => some 0xE6#8
  | .rowinit .. => some 0xE7#8
  | .grdLease .. => some 0xE8#8
  | .grdFree .. => some 0xE9#8
  | .grdWload .. => some 0xEA#8
  | .grdScl .. => some 0xEB#8
  | .grdSclAll .. => some 0xEB#8
  | .grdMul .. => some 0xEC#8
  | .grdZero .. => some 0xED#8
  | .grdDrain .. => some 0xEE#8
  | .grdChk .. => some 0xEF#8
  | .grdSave .. => some 0xF0#8
  | .grdRest .. => some 0xF1#8
  | .grdStat .. => some 0xF2#8
  | .send .. => some 0xF3#8
  | .sendv .. => some 0xF4#8
  | .rld .. => some 0xF5#8
  | .rred .. => some 0xF6#8
  | .recv .. => some 0xF7#8
  | .mldr .. => some 0xF8#8
  | .fabStat .. => some 0xF9#8
  | .bundleIssue .. => none
  | .issueSlotChange .. => none
  | .quantumExpiry .. => none
  | .elasticResultArrival .. => none
  | .accessPerformed .. => none
  | .ladleRunStart .. => none
  | .ladleBundleIssue .. => none
  | .channelElementArrival .. => none
  | .copyComplete .. => none
  | .rowOperationComplete .. => none
  | .griddleCommandComplete .. => none
  | .leaseGrant .. => none
  | .leaseBudgetExpiry .. => none
  | .kick .. => none
  | .kickStart .. => none
  | .placement .. => none
  | .agelimExpiry .. => none
  | .memberExit .. => none
  | .nodeRetire .. => none
  | .replayComplete .. => none
  | .qgraphWrite .. => none
  | .qcbaseWrite .. => none
  | .qcsizeWrite .. => none
  | .hostMemRead .. => none
  | .hostMemWrite .. => none
  | .pctlRst .. => none
  | .prst .. => none
  | .partitionResetComplete .. => none
  | .qsetWrite .. => none
  | .lregWrite .. => none
  | .pantryCommit .. => none
  | .pantryPublish => none
  | .opSettleComplete .. => none
  | .graceExpiry .. => none
  | .pcfgWrite .. => none
  | .cresWrite .. => none
  | .replace .. => none
  | .replaceComplete .. => none
  | .isscfgWrite .. => none
  | .splitLevelStep .. => none
  | .tempstatUpdate .. => none
  | .chcfgWrite .. => none
  | .spcfgWrite .. => none
  | .tlbinv .. => none
  | .tlbinvComplete .. => none
  | .ringRegisterWrite .. => none
  | .ringHeadWrite .. => none
  | .synobjWrite .. => none
  | .hangTimeout .. => none
  | .preemptDeadline .. => none
  | .preemptionComplete .. => none
  | .uncorr .. => none
  | .lockstepMismatch .. => none
  | .rollreq .. => none
  | .gangRollback .. => none
  | .rollbackRestart .. => none
  | .nodekill .. => none
  | .errorThreshold .. => none
  | .errorWindowExpiry .. => none
  | .hbmLaneDrift .. => none
  | .migrationStart .. => none
  | .migrationComplete .. => none
  | .powerEstimateUpdate .. => none
  | .pcSample .. => none
  | .fabidWrite .. => none
  | .tabload .. => none
  | .tabloadComplete => none
  | .fabgrpJoin .. => none
  | .packetDepart .. => none
  | .fabricWrite .. => none
  | .fabricRead .. => none
  | .fabricAtomic .. => none
  | .fabricReduce .. => none
  | .ack .. => none
  | .nack .. => none
  | .data .. => none
  | .result .. => none
  | .lsu .. => none
  | .linkDead .. => none
  | .linkRetry .. => none
  | .drainRoundExpiry .. => none
  | .linkTrain .. => none
  | .linkDown .. => none
  | .linkTrainingComplete .. => none
  | .packageReset => none
  | .bootVerify .. => none
  | .bist .. => none
  | .marchTimeout => none
  | .bootPantry => none
  | .repadd .. => none
  | .bootsumWrite .. => none
  | .testcfgWrite .. => none
  | .attestationStart .. => none
  | .attestationComplete => none
  | .epcWrite .. => none
  | .lcntWrite .. => none
  | .fcrWrite .. => none
  | .registerWrite .. => none
  | .frameBoundary => none
  | .memTrainingComplete .. => none

/-- A slot word with its stop bit clear (R86). -/
def slotWord (opc : BitVec 8) (o : BitVec 23) : Word32 := 0#1 ++ opc ++ o

/-- The slot word of an instruction, stop bit clear; `none` for a step without an encoding. -/
def encode : Instr → Option Word32
  | .add g d a b => some (slotWord 0x00#8 (FormS3.enc ⟨d, a, b, BitVec.ofBool g.inv, g.p, 0#4⟩))
  | .sub g d a b => some (slotWord 0x01#8 (FormS3.enc ⟨d, a, b, BitVec.ofBool g.inv, g.p, 0#4⟩))
  | .and g d a b => some (slotWord 0x02#8 (FormS3.enc ⟨d, a, b, BitVec.ofBool g.inv, g.p, 0#4⟩))
  | .or g d a b => some (slotWord 0x03#8 (FormS3.enc ⟨d, a, b, BitVec.ofBool g.inv, g.p, 0#4⟩))
  | .xor g d a b => some (slotWord 0x04#8 (FormS3.enc ⟨d, a, b, BitVec.ofBool g.inv, g.p, 0#4⟩))
  | .shl g d a b => some (slotWord 0x05#8 (FormS3.enc ⟨d, a, b, BitVec.ofBool g.inv, g.p, 0#4⟩))
  | .shr g d a b => some (slotWord 0x06#8 (FormS3.enc ⟨d, a, b, BitVec.ofBool g.inv, g.p, 0#4⟩))
  | .sar g d a b => some (slotWord 0x07#8 (FormS3.enc ⟨d, a, b, BitVec.ofBool g.inv, g.p, 0#4⟩))
  | .mul g d a b => some (slotWord 0x08#8 (FormS3.enc ⟨d, a, b, BitVec.ofBool g.inv, g.p, 0#4⟩))
  | .mulh g d a b => some (slotWord 0x09#8 (FormS3.enc ⟨d, a, b, BitVec.ofBool g.inv, g.p, 0#4⟩))
  | .mulhn g d a b => some (slotWord 0x0A#8 (FormS3.enc ⟨d, a, b, BitVec.ofBool g.inv, g.p, 0#4⟩))
  | .div g d a b => some (slotWord 0x0B#8 (FormS3.enc ⟨d, a, b, BitVec.ofBool g.inv, g.p, 0#4⟩))
  | .divn g d a b => some (slotWord 0x0C#8 (FormS3.enc ⟨d, a, b, BitVec.ofBool g.inv, g.p, 0#4⟩))
  | .rem g d a b => some (slotWord 0x0D#8 (FormS3.enc ⟨d, a, b, BitVec.ofBool g.inv, g.p, 0#4⟩))
  | .remn g d a b => some (slotWord 0x0E#8 (FormS3.enc ⟨d, a, b, BitVec.ofBool g.inv, g.p, 0#4⟩))
  | .min g d a b => some (slotWord 0x0F#8 (FormS3.enc ⟨d, a, b, BitVec.ofBool g.inv, g.p, 0#4⟩))
  | .max g d a b => some (slotWord 0x10#8 (FormS3.enc ⟨d, a, b, BitVec.ofBool g.inv, g.p, 0#4⟩))
  | .minn g d a b => some (slotWord 0x11#8 (FormS3.enc ⟨d, a, b, BitVec.ofBool g.inv, g.p, 0#4⟩))
  | .maxn g d a b => some (slotWord 0x12#8 (FormS3.enc ⟨d, a, b, BitVec.ofBool g.inv, g.p, 0#4⟩))
  | .sel g d a b k => some (slotWord 0x13#8 (FormS3.enc ⟨d, a, b, BitVec.ofBool g.inv, g.p, (0#1 ++ k)⟩))
  | .clz g d a => some (slotWord 0x14#8 (FormS3.enc ⟨d, a, 0#5, BitVec.ofBool g.inv, g.p, 0#4⟩))
  | .ctz g d a => some (slotWord 0x15#8 (FormS3.enc ⟨d, a, 0#5, BitVec.ofBool g.inv, g.p, 0#4⟩))
  | .popc g d a => some (slotWord 0x16#8 (FormS3.enc ⟨d, a, 0#5, BitVec.ofBool g.inv, g.p, 0#4⟩))
  | .cmpCc g cc pd a b => some (slotWord 0x17#8 (FormS3.enc ⟨(0#2 ++ pd), a, b, BitVec.ofBool g.inv, g.p, cc⟩))
  | .pand g pd pa pb => some (slotWord 0x18#8 (FormS3.enc ⟨(0#2 ++ pd), (0#2 ++ pa), (0#2 ++ pb), BitVec.ofBool g.inv, g.p, 0#4⟩))
  | .por g pd pa pb => some (slotWord 0x19#8 (FormS3.enc ⟨(0#2 ++ pd), (0#2 ++ pa), (0#2 ++ pb), BitVec.ofBool g.inv, g.p, 0#4⟩))
  | .pxor g pd pa pb => some (slotWord 0x1A#8 (FormS3.enc ⟨(0#2 ++ pd), (0#2 ++ pa), (0#2 ++ pb), BitVec.ofBool g.inv, g.p, 0#4⟩))
  | .pnot g pd pa => some (slotWord 0x1B#8 (FormS3.enc ⟨(0#2 ++ pd), (0#2 ++ pa), 0#5, BitVec.ofBool g.inv, g.p, 0#4⟩))
  | .movpPs g d pa q => some (slotWord 0x1C#8 (FormS3.enc ⟨d, (0#2 ++ pa), 0#5, BitVec.ofBool g.inv, g.p, (q ++ 0#2)⟩))
  | .movpSp g pd a q => some (slotWord 0x1C#8 (FormS3.enc ⟨(0#2 ++ pd), a, 0#5, BitVec.ofBool g.inv, g.p, (q ++ 1#2)⟩))
  | .movpBc g pd a => some (slotWord 0x1C#8 (FormS3.enc ⟨(0#2 ++ pd), a, 0#5, BitVec.ofBool g.inv, g.p, 2#4⟩))
  | .addi d a imm => some (slotWord 0x20#8 (FormSI.enc ⟨d, a, imm⟩))
  | .andi d a imm => some (slotWord 0x21#8 (FormSI.enc ⟨d, a, imm⟩))
  | .ori d a imm => some (slotWord 0x22#8 (FormSI.enc ⟨d, a, imm⟩))
  | .xori d a imm => some (slotWord 0x23#8 (FormSI.enc ⟨d, a, imm⟩))
  | .shli d a n => some (slotWord 0x24#8 (FormSI.enc ⟨d, a, (0#7 ++ n)⟩))
  | .shri d a n => some (slotWord 0x25#8 (FormSI.enc ⟨d, a, (0#7 ++ n)⟩))
  | .sari d a n => some (slotWord 0x26#8 (FormSI.enc ⟨d, a, (0#7 ++ n)⟩))
  | .movi d imm => some (slotWord 0x27#8 (FormSL.enc ⟨d, imm⟩))
  | .shi d imm => some (slotWord 0x28#8 (FormSL.enc ⟨d, imm⟩))
  | .br g off => some (slotWord 0x40#8 (FormB.enc ⟨g.p, BitVec.ofBool g.inv, off⟩))
  | .brl g off => some (slotWord 0x41#8 (FormB.enc ⟨g.p, BitVec.ofBool g.inv, off⟩))
  | .brs g d a => some (slotWord 0x42#8 (FormS3.enc ⟨d, a, 0#5, BitVec.ofBool g.inv, g.p, 0#4⟩))
  | .loop g n a => some (slotWord 0x43#8 (FormS3.enc ⟨0#5, a, 0#5, BitVec.ofBool g.inv, g.p, (0#2 ++ n)⟩))
  | .loopi n count => some (slotWord 0x44#8 (FormSI.enc ⟨(0#3 ++ n), 0#5, count⟩))
  | .ppt => some (slotWord 0x45#8 0#23)
  | .yield => some (slotWord 0x46#8 0#23)
  | .exit => some (slotWord 0x47#8 0#23)
  | .tstamp g d => some (slotWord 0x48#8 (FormS3.enc ⟨d, 0#5, 0#5, BitVec.ofBool g.inv, g.p, 0#4⟩))
  | .tstampSet g d a => some (slotWord 0x48#8 (FormS3.enc ⟨d, a, 0#5, BitVec.ofBool g.inv, g.p, 1#4⟩))
  | .sread d num => some (slotWord 0x49#8 (FormSI.enc ⟨d, 0#5, (0#1 ++ num)⟩))
  | .swrite num a => some (slotWord 0x4A#8 (FormSI.enc ⟨0#5, a, (0#1 ++ num)⟩))
  | .trap imm => some (slotWord 0x4B#8 (FormSL.enc ⟨0#5, imm⟩))
  | .svc imm => some (slotWord 0x4C#8 (FormSL.enc ⟨0#5, imm⟩))
  | .eret => some (slotWord 0x4D#8 0#23)
  | .fcrSet g a fields => some (slotWord 0x4E#8 (FormS3.enc ⟨0#5, a, 0#5, BitVec.ofBool g.inv, g.p, fields⟩))
  | .fcrGet g d => some (slotWord 0x4F#8 (FormS3.enc ⟨d, 0#5, 0#5, BitVec.ofBool g.inv, g.p, 0#4⟩))
  | .panAck g d => some (slotWord 0x50#8 (FormS3.enc ⟨d, 0#5, 0#5, BitVec.ofBool g.inv, g.p, 0#4⟩))
  | .panRead g d a ps => some (slotWord 0x51#8 (FormS3.enc ⟨d, a, 0#5, BitVec.ofBool g.inv, g.p, (0#2 ++ ps)⟩))
  | .poisTest g kind d x => some (slotWord 0x52#8 (FormS3.enc ⟨d, x, 0#5, BitVec.ofBool g.inv, g.p, (kind ++ 0#2)⟩))
  | .poisClr g kind x => some (slotWord 0x52#8 (FormS3.enc ⟨0#5, x, 0#5, BitVec.ofBool g.inv, g.p, (kind ++ 1#2)⟩))
  | .poisSet g kind x => some (slotWord 0x52#8 (FormS3.enc ⟨0#5, x, 0#5, BitVec.ofBool g.inv, g.p, (kind ++ 2#2)⟩))
  | .preemptStop g d a b => some (slotWord 0x53#8 (FormS3.enc ⟨d, a, b, BitVec.ofBool g.inv, g.p, 0#4⟩))
  | .preemptResume g d a b => some (slotWord 0x53#8 (FormS3.enc ⟨d, a, b, BitVec.ofBool g.inv, g.p, 1#4⟩))
  | .preemptState g d a b => some (slotWord 0x53#8 (FormS3.enc ⟨d, a, b, BitVec.ofBool g.inv, g.p, 2#4⟩))
  | .ctxSave g d a b => some (slotWord 0x54#8 (FormS3.enc ⟨d, a, b, BitVec.ofBool g.inv, g.p, 0#4⟩))
  | .ctxLoad g d a b => some (slotWord 0x55#8 (FormS3.enc ⟨d, a, b, BitVec.ofBool g.inv, g.p, 0#4⟩))
  | .halt => some (slotWord 0x56#8 0#23)
  | .vadd pg t d a b => some (slotWord 0x60#8 (FormV3.enc ⟨d, a, b, pg, t⟩))
  | .vsub pg t d a b => some (slotWord 0x61#8 (FormV3.enc ⟨d, a, b, pg, t⟩))
  | .vmul pg t d a b => some (slotWord 0x62#8 (FormV3.enc ⟨d, a, b, pg, t⟩))
  | .vmulh pg t d a b => some (slotWord 0x63#8 (FormV3.enc ⟨d, a, b, pg, t⟩))
  | .vmin pg t d a b => some (slotWord 0x64#8 (FormV3.enc ⟨d, a, b, pg, t⟩))
  | .vmax pg t d a b => some (slotWord 0x65#8 (FormV3.enc ⟨d, a, b, pg, t⟩))
  | .vand pg t d a b => some (slotWord 0x66#8 (FormV3.enc ⟨d, a, b, pg, t⟩))
  | .vor pg t d a b => some (slotWord 0x67#8 (FormV3.enc ⟨d, a, b, pg, t⟩))
  | .vxor pg t d a b => some (slotWord 0x68#8 (FormV3.enc ⟨d, a, b, pg, t⟩))
  | .vnot pg t d a => some (slotWord 0x69#8 (FormV3.enc ⟨d, a, 0#6, pg, t⟩))
  | .vshl pg t d a b => some (slotWord 0x6A#8 (FormV3.enc ⟨d, a, b, pg, t⟩))
  | .vshr pg t d a b => some (slotWord 0x6B#8 (FormV3.enc ⟨d, a, b, pg, t⟩))
  | .vsar pg t d a b => some (slotWord 0x6C#8 (FormV3.enc ⟨d, a, b, pg, t⟩))
  | .vcmpCc cc pg t pd a b => some (slotWord 0x6D#8 (FormV3.enc ⟨(cc ++ pd), a, b, pg, t⟩))
  | .vadds pg t d a b => some (slotWord 0x6E#8 (FormV3.enc ⟨d, a, b, pg, t⟩))
  | .vsubs pg t d a b => some (slotWord 0x6F#8 (FormV3.enc ⟨d, a, b, pg, t⟩))
  | .fadd pg t d a b => some (slotWord 0x70#8 (FormV3.enc ⟨d, a, b, pg, t⟩))
  | .fsub pg t d a b => some (slotWord 0x71#8 (FormV3.enc ⟨d, a, b, pg, t⟩))
  | .fmul pg t d a b => some (slotWord 0x72#8 (FormV3.enc ⟨d, a, b, pg, t⟩))
  | .fma pg t d a b => some (slotWord 0x73#8 (FormV3.enc ⟨d, a, b, pg, t⟩))
  | .fms pg t d a b => some (slotWord 0x74#8 (FormV3.enc ⟨d, a, b, pg, t⟩))
  | .fnma pg t d a b => some (slotWord 0x75#8 (FormV3.enc ⟨d, a, b, pg, t⟩))
  | .fnms pg t d a b => some (slotWord 0x76#8 (FormV3.enc ⟨d, a, b, pg, t⟩))
  | .fmin pg t d a b => some (slotWord 0x77#8 (FormV3.enc ⟨d, a, b, pg, t⟩))
  | .fmax pg t d a b => some (slotWord 0x78#8 (FormV3.enc ⟨d, a, b, pg, t⟩))
  | .fabs pg t d a => some (slotWord 0x79#8 (FormV3.enc ⟨d, a, 0#6, pg, t⟩))
  | .fneg pg t d a => some (slotWord 0x7A#8 (FormV3.enc ⟨d, a, 0#6, pg, t⟩))
  | .fcmpCc cc pg t pd a b => some (slotWord 0x7B#8 (FormV3.enc ⟨(cc ++ pd), a, b, pg, t⟩))
  | .fclass pg t d a => some (slotWord 0x7C#8 (FormV3.enc ⟨d, a, 0#6, pg, t⟩))
  | .frnd pg t d a => some (slotWord 0x7D#8 (FormV3.enc ⟨d, a, 0#6, pg, t⟩))
  | .fscale pg t d a b => some (slotWord 0x7E#8 (FormV3.enc ⟨d, a, b, pg, t⟩))
  | .vsel t d a b k => some (slotWord 0x80#8 (FormV3.enc ⟨d, a, b, k, t⟩))
  | .vmov pg t d a => some (slotWord 0x81#8 (FormV3.enc ⟨d, a, 0#6, pg, t⟩))
  | .vbcast pg t d n => some (slotWord 0x82#8 (FormV3.enc ⟨d, (0#1 ++ n), 0#6, pg, t⟩))
  | .vimm t d imm => some (slotWord 0x83#8 (FormVI.enc ⟨d, (0#3 ++ t), imm⟩))
  | .vext t d a b => some (slotWord 0x84#8 (FormV3.enc ⟨d, a, (0#1 ++ b), 0#3, t⟩))
  | .vins t d a b => some (slotWord 0x85#8 (FormV3.enc ⟨d, (0#1 ++ a), (0#1 ++ b), 0#3, t⟩))
  | .vperm pg t d a b => some (slotWord 0x86#8 (FormV3.enc ⟨d, a, b, pg, t⟩))
  | .vslideUp pg t d a b => some (slotWord 0x87#8 (FormV3.enc ⟨d, a, (0#1 ++ b), pg, t⟩))
  | .vslideDn pg t d a b => some (slotWord 0x88#8 (FormV3.enc ⟨d, a, (0#1 ++ b), pg, t⟩))
  | .vrot pg t d a b => some (slotWord 0x89#8 (FormV3.enc ⟨d, a, (0#1 ++ b), pg, t⟩))
  | .vzip pg t d a b => some (slotWord 0x8A#8 (FormV3.enc ⟨d, a, b, pg, t⟩))
  | .vunzip pg t d a b => some (slotWord 0x8B#8 (FormV3.enc ⟨d, a, b, pg, t⟩))
  | .vtrn pg t d a b => some (slotWord 0x8C#8 (FormV3.enc ⟨d, a, b, pg, t⟩))
  | .vradd pg t d a => some (slotWord 0x8D#8 (FormV3.enc ⟨d, a, 0#6, pg, t⟩))
  | .vrmin pg t d a => some (slotWord 0x8E#8 (FormV3.enc ⟨d, a, 0#6, pg, t⟩))
  | .vrmax pg t d a => some (slotWord 0x8F#8 (FormV3.enc ⟨d, a, 0#6, pg, t⟩))
  | .vscanAdd pg t d a => some (slotWord 0x90#8 (FormV3.enc ⟨d, a, 0#6, pg, t⟩))
  | .vdot4 pg t d a b => some (slotWord 0x91#8 (FormV3.enc ⟨d, a, b, pg, t⟩))
  | .vhash pg t d a b => some (slotWord 0x92#8 (FormV3.enc ⟨d, a, b, pg, t⟩))
  | .pcnt pg t d pa => some (slotWord 0x93#8 (FormV3.enc ⟨d, (0#3 ++ pa), 0#6, pg, t⟩))
  | .pfirst pg t d pa => some (slotWord 0x94#8 (FormV3.enc ⟨d, (0#3 ++ pa), 0#6, pg, t⟩))
  | .vshli t d a c => some (slotWord 0x95#8 (FormVI.enc ⟨d, a, (0#3 ++ t ++ c)⟩))
  | .vshri t d a c => some (slotWord 0x96#8 (FormVI.enc ⟨d, a, (0#3 ++ t ++ c)⟩))
  | .vsari t d a c => some (slotWord 0x97#8 (FormVI.enc ⟨d, a, (0#3 ++ t ++ c)⟩))
  | .cvt d a dty sty rm defer ov => some (slotWord 0x98#8 (FormVC.enc ⟨d, a, (dty ++ rm ++ BitVec.ofBool defer ++ BitVec.ofBool ov ++ sty)⟩))
  | .mxpack d a et bf rm defer ov => some (slotWord 0x99#8 (FormVC.enc ⟨d, a, (et ++ BitVec.ofBool bf ++ rm ++ BitVec.ofBool defer ++ BitVec.ofBool ov ++ 0#4)⟩))
  | .mxunpack d a et bf rm defer => some (slotWord 0x9A#8 (FormVC.enc ⟨d, a, (et ++ BitVec.ofBool bf ++ rm ++ BitVec.ofBool defer ++ 0#5)⟩))
  | .b16pack d a rm defer => some (slotWord 0x9B#8 (FormVC.enc ⟨d, a, (0#4 ++ rm ++ BitVec.ofBool defer ++ 0#5)⟩))
  | .fradd pg t d a => some (slotWord 0x9C#8 (FormV3.enc ⟨d, a, 0#6, pg, t⟩))
  | .frmin pg t d a => some (slotWord 0x9D#8 (FormV3.enc ⟨d, a, 0#6, pg, t⟩))
  | .frmax pg t d a => some (slotWord 0x9E#8 (FormV3.enc ⟨d, a, 0#6, pg, t⟩))
  | .sfEval pg t d a k => some (slotWord 0xA0#8 (FormV3.enc ⟨d, a, (k ++ 0#4), pg, t⟩))
  | .sfEvalx pg t d a pr k => some (slotWord 0xA1#8 (FormV3.enc ⟨d, a, (pr ++ k), pg, t⟩))
  | .sftLoad g d a b => some (slotWord 0xA2#8 (FormS3.enc ⟨d, a, b, BitVec.ofBool g.inv, g.p, 0#4⟩))
  | .sftBind g d a k => some (slotWord 0xA3#8 (FormS3.enc ⟨d, a, 0#5, BitVec.ofBool g.inv, g.p, (0#2 ++ k)⟩))
  | .sftBindOff g d k => some (slotWord 0xA3#8 (FormS3.enc ⟨d, 0#5, 0#5, BitVec.ofBool g.inv, g.p, (1#2 ++ k)⟩))
  | .sftInfo g d k w => some (slotWord 0xA4#8 (FormS3.enc ⟨d, 0#5, 0#5, BitVec.ofBool g.inv, g.p, (w ++ k)⟩))
  | .sftChk g d a => some (slotWord 0xA5#8 (FormS3.enc ⟨d, a, 0#5, BitVec.ofBool g.inv, g.p, 0#4⟩))
  | .ld g w sp d b off => some (slotWord 0xC0#8 (FormMI.enc ⟨d, b, BitVec.ofBool g.inv, g.p, BitVec.ofBool sp, w, off⟩))
  | .st g w sp d b off => some (slotWord 0xC1#8 (FormMI.enc ⟨d, b, BitVec.ofBool g.inv, g.p, BitVec.ofBool sp, w, off⟩))
  | .vld g sp d b off => some (slotWord 0xC2#8 (FormMI.enc ⟨d, b, BitVec.ofBool g.inv, g.p, BitVec.ofBool sp, 0#2, off⟩))
  | .vst g sp d b off => some (slotWord 0xC3#8 (FormMI.enc ⟨d, b, BitVec.ofBool g.inv, g.p, BitVec.ofBool sp, 0#2, off⟩))
  | .vlds g w sp d b c => some (slotWord 0xC4#8 (FormMR.enc ⟨d, b, c, BitVec.ofBool g.inv, g.p, (0#1 ++ BitVec.ofBool sp ++ w)⟩))
  | .vgather g w sp d b c => some (slotWord 0xC5#8 (FormMR.enc ⟨d, b, c, BitVec.ofBool g.inv, g.p, (0#1 ++ BitVec.ofBool sp ++ w)⟩))
  | .vscatter g w sp d b c => some (slotWord 0xC6#8 (FormMR.enc ⟨d, b, c, BitVec.ofBool g.inv, g.p, (0#1 ++ BitVec.ofBool sp ++ w)⟩))
  | .gld g w d b off => some (slotWord 0xC7#8 (FormMI.enc ⟨d, b, BitVec.ofBool g.inv, g.p, 0#1, w, off⟩))
  | .gst g w d b off => some (slotWord 0xC8#8 (FormMI.enc ⟨d, b, BitVec.ofBool g.inv, g.p, 0#1, w, off⟩))
  | .chpop g d n => some (slotWord 0xC9#8 (FormMR.enc ⟨d, 0#5, (0#2 ++ n), BitVec.ofBool g.inv, g.p, 0#4⟩))
  | .chpopDrop g n => some (slotWord 0xC9#8 (FormMR.enc ⟨0#5, 0#5, (0#2 ++ n), BitVec.ofBool g.inv, g.p, 1#4⟩))
  | .chpush g n d => some (slotWord 0xCA#8 (FormMR.enc ⟨d, 0#5, (0#2 ++ n), BitVec.ofBool g.inv, g.p, 0#4⟩))
  | .chpushAb g n b => some (slotWord 0xCA#8 (FormMR.enc ⟨0#5, b, (0#2 ++ n), BitVec.ofBool g.inv, g.p, 1#4⟩))
  | .chpushSp g n b => some (slotWord 0xCA#8 (FormMR.enc ⟨0#5, b, (0#2 ++ n), BitVec.ofBool g.inv, g.p, 3#4⟩))
  | .chpeek g d n b => some (slotWord 0xCB#8 (FormMR.enc ⟨d, b, (0#2 ++ n), BitVec.ofBool g.inv, g.p, 0#4⟩))
  | .chstat g d n => some (slotWord 0xCC#8 (FormMR.enc ⟨d, 0#5, (0#2 ++ n), BitVec.ofBool g.inv, g.p, 0#4⟩))
  | .ldAcq g w sp gl d b off => some (slotWord 0xCD#8 (FormMI.enc ⟨d, b, BitVec.ofBool g.inv, g.p, BitVec.ofBool sp, w, (0#3 ++ BitVec.ofBool gl ++ off)⟩))
  | .stRel g w sp gl scope d b off => some (slotWord 0xCE#8 (FormMI.enc ⟨d, b, BitVec.ofBool g.inv, g.p, BitVec.ofBool sp, w, (scope ++ BitVec.ofBool gl ++ off)⟩))
  | .aadd g ord sp dw d b c => some (slotWord 0xCF#8 (FormMR.enc ⟨d, b, c, BitVec.ofBool g.inv, g.p, (ord ++ BitVec.ofBool sp ++ BitVec.ofBool dw)⟩))
  | .aand g ord sp dw d b c => some (slotWord 0xD0#8 (FormMR.enc ⟨d, b, c, BitVec.ofBool g.inv, g.p, (ord ++ BitVec.ofBool sp ++ BitVec.ofBool dw)⟩))
  | .aor g ord sp dw d b c => some (slotWord 0xD1#8 (FormMR.enc ⟨d, b, c, BitVec.ofBool g.inv, g.p, (ord ++ BitVec.ofBool sp ++ BitVec.ofBool dw)⟩))
  | .axor g ord sp dw d b c => some (slotWord 0xD2#8 (FormMR.enc ⟨d, b, c, BitVec.ofBool g.inv, g.p, (ord ++ BitVec.ofBool sp ++ BitVec.ofBool dw)⟩))
  | .amin g ord sp dw d b c => some (slotWord 0xD3#8 (FormMR.enc ⟨d, b, c, BitVec.ofBool g.inv, g.p, (ord ++ BitVec.ofBool sp ++ BitVec.ofBool dw)⟩))
  | .amax g ord sp dw d b c => some (slotWord 0xD4#8 (FormMR.enc ⟨d, b, c, BitVec.ofBool g.inv, g.p, (ord ++ BitVec.ofBool sp ++ BitVec.ofBool dw)⟩))
  | .axch g ord sp dw d b c => some (slotWord 0xD5#8 (FormMR.enc ⟨d, b, c, BitVec.ofBool g.inv, g.p, (ord ++ BitVec.ofBool sp ++ BitVec.ofBool dw)⟩))
  | .acas g ord sp dw d b c => some (slotWord 0xD6#8 (FormMR.enc ⟨d, b, c, BitVec.ofBool g.inv, g.p, (ord ++ BitVec.ofBool sp ++ BitVec.ofBool dw)⟩))
  | .adecp g ord sp dw d b => some (slotWord 0xD7#8 (FormMR.enc ⟨d, b, 0#5, BitVec.ofBool g.inv, g.p, (ord ++ BitVec.ofBool sp ++ BitVec.ofBool dw)⟩))
  | .amxacc g ord et d b c => some (slotWord 0xD8#8 (FormMR.enc ⟨d, b, c, BitVec.ofBool g.inv, g.p, (ord ++ et)⟩))
  | .fence g scope d => some (slotWord 0xD9#8 (FormMR.enc ⟨d, 0#5, 0#5, BitVec.ofBool g.inv, g.p, (0#1 ++ scope)⟩))
  | .waitv g dw d b c => some (slotWord 0xDA#8 (FormMR.enc ⟨d, b, c, BitVec.ofBool g.inv, g.p, (0#3 ++ BitVec.ofBool dw)⟩))
  | .notify g all d b => some (slotWord 0xDB#8 (FormMR.enc ⟨d, b, 0#5, BitVec.ofBool g.inv, g.p, (0#3 ++ BitVec.ofBool all)⟩))
  | .synAdd g d b c => some (slotWord 0xDC#8 (FormMR.enc ⟨d, b, c, BitVec.ofBool g.inv, g.p, 0#4⟩))
  | .synWait g d b c => some (slotWord 0xDD#8 (FormMR.enc ⟨d, b, c, BitVec.ofBool g.inv, g.p, 0#4⟩))
  | .synGet g d b => some (slotWord 0xDE#8 (FormMR.enc ⟨d, b, 0#5, BitVec.ofBool g.inv, g.p, 0#4⟩))
  | .bar g grp d => some (slotWord 0xDF#8 (FormMR.enc ⟨d, 0#5, 0#5, BitVec.ofBool g.inv, g.p, (0#3 ++ BitVec.ofBool grp)⟩))
  | .copy g acq rel a b d => some (slotWord 0xE0#8 (FormE.enc ⟨d, a, b, BitVec.ofBool g.inv, g.p, BitVec.ofBool acq, BitVec.ofBool rel, 0#2⟩))
  | .copyw g acq rel a b d => some (slotWord 0xE1#8 (FormE.enc ⟨d, a, b, BitVec.ofBool g.inv, g.p, BitVec.ofBool acq, BitVec.ofBool rel, 0#2⟩))
  | .ladRun g j a b d => some (slotWord 0xE2#8 (FormE.enc ⟨d, a, b, BitVec.ofBool g.inv, g.p, 0#1, 0#1, (0#1 ++ BitVec.ofBool j)⟩))
  | .ladStop g j => some (slotWord 0xE3#8 (FormE.enc ⟨0#5, 0#5, 0#5, BitVec.ofBool g.inv, g.p, 0#1, 0#1, (0#1 ++ BitVec.ofBool j)⟩))
  | .ladStat g d j => some (slotWord 0xE4#8 (FormE.enc ⟨d, 0#5, 0#5, BitVec.ofBool g.inv, g.p, 0#1, 0#1, (0#1 ++ BitVec.ofBool j)⟩))
  | .pref g acq a b => some (slotWord 0xE5#8 (FormE.enc ⟨0#5, a, b, BitVec.ofBool g.inv, g.p, BitVec.ofBool acq, 0#1, 0#2⟩))
  | .rowcpy g acq rel a b d => some (slotWord 0xE6#8 (FormE.enc ⟨d, a, b, BitVec.ofBool g.inv, g.p, BitVec.ofBool acq, BitVec.ofBool rel, 0#2⟩))
  | .rowinit g acq rel a b d => some (slotWord 0xE7#8 (FormE.enc ⟨d, a, b, BitVec.ofBool g.inv, g.p, BitVec.ofBool acq, BitVec.ofBool rel, 0#2⟩))
  | .grdLease g => some (slotWord 0xE8#8 (FormE.enc ⟨0#5, 0#5, 0#5, BitVec.ofBool g.inv, g.p, 0#1, 0#1, 0#2⟩))
  | .grdFree g => some (slotWord 0xE9#8 (FormE.enc ⟨0#5, 0#5, 0#5, BitVec.ofBool g.inv, g.p, 0#1, 0#1, 0#2⟩))
  | .grdWload g a => some (slotWord 0xEA#8 (FormE.enc ⟨0#5, a, 0#5, BitVec.ofBool g.inv, g.p, 0#1, 0#1, 0#2⟩))
  | .grdScl g a => some (slotWord 0xEB#8 (FormE.enc ⟨0#5, a, 0#5, BitVec.ofBool g.inv, g.p, 0#1, 0#1, 0#2⟩))
  | .grdSclAll g b => some (slotWord 0xEB#8 (FormE.enc ⟨0#5, 0#5, b, BitVec.ofBool g.inv, g.p, 0#1, 0#1, 1#2⟩))
  | .grdMul g acq rel a b d => some (slotWord 0xEC#8 (FormE.enc ⟨d, a, b, BitVec.ofBool g.inv, g.p, BitVec.ofBool acq, BitVec.ofBool rel, 0#2⟩))
  | .grdZero g d => some (slotWord 0xED#8 (FormE.enc ⟨d, 0#5, 0#5, BitVec.ofBool g.inv, g.p, 0#1, 0#1, 0#2⟩))
  | .grdDrain g acq rel a d => some (slotWord 0xEE#8 (FormE.enc ⟨d, a, 0#5, BitVec.ofBool g.inv, g.p, BitVec.ofBool acq, BitVec.ofBool rel, 0#2⟩))
  | .grdChk g d a => some (slotWord 0xEF#8 (FormE.enc ⟨d, a, 0#5, BitVec.ofBool g.inv, g.p, 0#1, 0#1, 0#2⟩))
  | .grdSave g acq rel a d => some (slotWord 0xF0#8 (FormE.enc ⟨d, a, 0#5, BitVec.ofBool g.inv, g.p, BitVec.ofBool acq, BitVec.ofBool rel, 0#2⟩))
  | .grdRest g acq rel a d => some (slotWord 0xF1#8 (FormE.enc ⟨d, a, 0#5, BitVec.ofBool g.inv, g.p, BitVec.ofBool acq, BitVec.ofBool rel, 0#2⟩))
  | .grdStat g clr d a => some (slotWord 0xF2#8 (FormE.enc ⟨d, a, 0#5, BitVec.ofBool g.inv, g.p, 0#1, 0#1, (0#1 ++ BitVec.ofBool clr)⟩))
  | .send g w rel a b d => some (slotWord 0xF3#8 (FormE.enc ⟨d, a, b, BitVec.ofBool g.inv, g.p, 0#1, BitVec.ofBool rel, w⟩))
  | .sendv g rel a b d => some (slotWord 0xF4#8 (FormE.enc ⟨d, a, b, BitVec.ofBool g.inv, g.p, 0#1, BitVec.ofBool rel, 0#2⟩))
  | .rld g a d => some (slotWord 0xF5#8 (FormE.enc ⟨d, a, 0#5, BitVec.ofBool g.inv, g.p, 0#1, 0#1, 0#2⟩))
  | .rred g rel a b d => some (slotWord 0xF6#8 (FormE.enc ⟨d, a, b, BitVec.ofBool g.inv, g.p, 0#1, BitVec.ofBool rel, 0#2⟩))
  | .recv g d n a => some (slotWord 0xF7#8 (FormE.enc ⟨d, a, (0#2 ++ n), BitVec.ofBool g.inv, g.p, 0#1, 0#1, 0#2⟩))
  | .mldr g d a b => some (slotWord 0xF8#8 (FormE.enc ⟨d, a, b, BitVec.ofBool g.inv, g.p, 0#1, 0#1, 0#2⟩))
  | .fabStat g d a => some (slotWord 0xF9#8 (FormE.enc ⟨d, a, 0#5, BitVec.ofBool g.inv, g.p, 0#1, 0#1, 0#2⟩))
  | .bundleIssue .. => none
  | .issueSlotChange .. => none
  | .quantumExpiry .. => none
  | .elasticResultArrival .. => none
  | .accessPerformed .. => none
  | .ladleRunStart .. => none
  | .ladleBundleIssue .. => none
  | .channelElementArrival .. => none
  | .copyComplete .. => none
  | .rowOperationComplete .. => none
  | .griddleCommandComplete .. => none
  | .leaseGrant .. => none
  | .leaseBudgetExpiry .. => none
  | .kick .. => none
  | .kickStart .. => none
  | .placement .. => none
  | .agelimExpiry .. => none
  | .memberExit .. => none
  | .nodeRetire .. => none
  | .replayComplete .. => none
  | .qgraphWrite .. => none
  | .qcbaseWrite .. => none
  | .qcsizeWrite .. => none
  | .hostMemRead .. => none
  | .hostMemWrite .. => none
  | .pctlRst .. => none
  | .prst .. => none
  | .partitionResetComplete .. => none
  | .qsetWrite .. => none
  | .lregWrite .. => none
  | .pantryCommit .. => none
  | .pantryPublish => none
  | .opSettleComplete .. => none
  | .graceExpiry .. => none
  | .pcfgWrite .. => none
  | .cresWrite .. => none
  | .replace .. => none
  | .replaceComplete .. => none
  | .isscfgWrite .. => none
  | .splitLevelStep .. => none
  | .tempstatUpdate .. => none
  | .chcfgWrite .. => none
  | .spcfgWrite .. => none
  | .tlbinv .. => none
  | .tlbinvComplete .. => none
  | .ringRegisterWrite .. => none
  | .ringHeadWrite .. => none
  | .synobjWrite .. => none
  | .hangTimeout .. => none
  | .preemptDeadline .. => none
  | .preemptionComplete .. => none
  | .uncorr .. => none
  | .lockstepMismatch .. => none
  | .rollreq .. => none
  | .gangRollback .. => none
  | .rollbackRestart .. => none
  | .nodekill .. => none
  | .errorThreshold .. => none
  | .errorWindowExpiry .. => none
  | .hbmLaneDrift .. => none
  | .migrationStart .. => none
  | .migrationComplete .. => none
  | .powerEstimateUpdate .. => none
  | .pcSample .. => none
  | .fabidWrite .. => none
  | .tabload .. => none
  | .tabloadComplete => none
  | .fabgrpJoin .. => none
  | .packetDepart .. => none
  | .fabricWrite .. => none
  | .fabricRead .. => none
  | .fabricAtomic .. => none
  | .fabricReduce .. => none
  | .ack .. => none
  | .nack .. => none
  | .data .. => none
  | .result .. => none
  | .lsu .. => none
  | .linkDead .. => none
  | .linkRetry .. => none
  | .drainRoundExpiry .. => none
  | .linkTrain .. => none
  | .linkDown .. => none
  | .linkTrainingComplete .. => none
  | .packageReset => none
  | .bootVerify .. => none
  | .bist .. => none
  | .marchTimeout => none
  | .bootPantry => none
  | .repadd .. => none
  | .bootsumWrite .. => none
  | .testcfgWrite .. => none
  | .attestationStart .. => none
  | .attestationComplete => none
  | .epcWrite .. => none
  | .lcntWrite .. => none
  | .fcrWrite .. => none
  | .registerWrite .. => none
  | .frameBoundary => none
  | .memTrainingComplete .. => none

/-- A bundle header (R82). -/
structure Header where
  ver : BitVec 2
  adv : BitVec 4
  pmask : Byte
  dmask : Byte
  dinc : BitVec 2
  opp : BitVec 3
  opv : Bool
  rsv : BitVec 4
deriving DecidableEq, Repr

/-- The fields of a header word (R82). -/
def Header.of (w : Word32) : Header where
  ver := w.extractLsb' 30 2
  adv := w.extractLsb' 26 4
  pmask := w.extractLsb' 18 8
  dmask := w.extractLsb' 10 8
  dinc := w.extractLsb' 8 2
  opp := w.extractLsb' 5 3
  opv := w.getLsbD 4
  rsv := w.extractLsb' 0 4

/-- The header word (R82). -/
def Header.enc (h : Header) : Word32 :=
  h.ver ++ h.adv ++ h.pmask ++ h.dmask ++ h.dinc ++ h.opp ++ BitVec.ofBool h.opv ++ h.rsv

/-- Does a position mask hold position `pos` (0 SA to 7 MB)? Bit 7 is SA (R82). -/
def maskHas (m : Byte) (pos : Nat) : Bool := decide (pos < 8) && m.getLsbD (7 - pos)

/-- The number of set bits of a position mask (R85). -/
def maskCount (m : Byte) : Nat := ((List.range 8).filter fun i => m.getLsbD i).length

/-- May class `c`, row `r` occupy position `pos` (R87)? -/
def positionOk (opc : BitVec 8) (pos : Nat) : Bool :=
  let r := (opc.extractLsb' 0 5).toNat
  match (opc.extractLsb' 5 3).toNat with
  | 0 | 1 => decide (pos ≤ 1)
  | 2 => decide (pos = 0)
  | 3 => decide (pos = 2 ∨ pos = 3) || (decide (pos = 4) && !decide (16 ≤ r ∧ r ≤ 30))
  | 4 => decide (pos = 2 ∨ pos = 3) || (decide (pos = 4) && !decide (24 ≤ r ∧ r ≤ 30))
  | 5 => decide (pos = 5)
  | _ => decide (pos = 6 ∨ pos = 7)

/-- Is the word of the MI form (R100)? -/
def isMiOpc (opc : BitVec 8) : Bool :=
  opc == 0xC0#8 || opc == 0xC1#8 || opc == 0xC2#8 || opc == 0xC3#8 || opc == 0xC7#8 || opc == 0xC8#8 ||
  opc == 0xCD#8 || opc == 0xCE#8

/-- The first position a lone slot of class `c` may take (R87): what `State.withFetchWord` uses. -/
def homePosition (opc : BitVec 8) : Nat :=
  match (opc.extractLsb' 5 3).toNat with
  | 0 | 1 | 2 => 0
  | 3 | 4 => 2
  | 5 => 5
  | _ => 6

/-- The header of a bundle holding only a slot word at position `pos`. -/
def loneHeader (pos : Nat) : Word32 :=
  Header.enc ⟨0#2, 0#4, BitVec.twoPow 8 (7 - pos), 0#8, 0#2, 0#3, false, 0#4⟩

/-- The instruction the decoder reads from a table word: slot words are one 32-bit word, so bit 0 of the
table's numbering is bit 0 of the word (R82, R86). -/
def decodeTableWord (nbits w : Nat) : Option Instr :=
  if nbits ≤ 32 then
    match decodeSlot (BitVec.ofNat 32 w) with
    | .ok i => some i
    | .error _ => none
  else none

end Sys2Proof
end

