-- ==== Sys2Proof/Config.lean ====
section
/-! DEFINITION. The free values: what the spec leaves open, as constants without a body. Nothing can compute or
prove a value of them; a claim about one holds whatever it is (assumption log 4). -/

namespace Sys2Proof.Config

/-- The nanoseconds of wall time that pass between two points of the run (R464, R9). -/
opaque elapsed : Nat → BitVec 64

/-- Which of the translations that the TLBs may still hold an access uses, or a walk (R267): a number that is taken modulo
one more than the translations it may use. -/
opaque tlbPick : Nat → Nat

/-- Which of its units a wide access performs next (R339): a number that is taken modulo the units it may perform. -/
opaque unitPick : Nat → Nat

/-- The EINFO of an UNDERSIZE trap (R119 names its contents and gives no layout): reason, register kind and number,
pending landing cycle. -/
opaque undersizeInfo : Nat → Nat → Nat → BitVec 64 → BitVec 64

/-- A core's power estimate in milliwatts at a point of the run (R434). -/
opaque powerEstimate : Nat → BitVec 64

/-- A die's temperature in degrees at a point of the run (R464). -/
opaque temperature : Nat → BitVec 64

/-- The nanoseconds of wall time for which a context has owned its core's issue slot since its energy was last charged
(R434). -/
opaque slotNanos : Nat → Nat

/-- What is left in picojoules of the charges of less than a microjoule at a point of the run (R434 gives no rounding). -/
opaque energyRest : Nat → Nat

/-- The hash of the root key in the mask ROM (R452). -/
opaque romKeyHash : List (BitVec 8)

/-- The public key of the device's identity, from the helper data (R461). -/
opaque identityKey : List (BitVec 8) → List (BitVec 8)

/-- The identity signature of a message (R462). -/
opaque identitySign : Nat → List (BitVec 8) → List (BitVec 8)

/-- Microseconds that a stall has lasted (STALLUS of R368). -/
opaque stallMicros : Nat → BitVec 32

/-- One less than the lanes, of its 16, on which the host link trains at stage ROM (R451, R463). -/
opaque hostLanes : Nat → BitVec 4

/-- SLOT, the slot number of the pod reference clock, at a point of the run (R370). -/
opaque slot : Nat → BitVec 64

/-- The offset of a table whose binding was pending when its context was saved: the image's held entry has no place
for it (R413). A function of the point of the run and of the entry's place in the image. -/
opaque bindOffset : Nat → Nat → Int

end Sys2Proof.Config
end

