-- ==== Sys2Proof/Machine/Bits.lean ====
section
/-! DEFINITION. Bit fields, sign extension and exact integer helpers that the rules use in many places. -/

namespace Sys2Proof.Machine

/-- Bits `[lo + n - 1 : lo]` of a number. -/
def natBits (v lo n : Nat) : Nat := v / 2 ^ lo % 2 ^ n

/-- Bits `[lo + n - 1 : lo]` of a register value. -/
def bits (w : Word) (lo n : Nat) : Nat := natBits w.toNat lo n

/-- One bit of a register value. -/
def bitAt (w : Word) (i : Nat) : Bool := w.getLsbD i

/-- A number as a register value. -/
def toWord (n : Nat) : Word := BitVec.ofNat 64 n

/-- An integer as a register value, modulo 2^64. -/
def intWord (i : Int) : Word := BitVec.ofInt 64 i

/-- 1 or 0. -/
def boolNat (b : Bool) : Nat := if b then 1 else 0

/-- The signed value of an `n`-bit number. -/
def signedOf (n v : Nat) : Int := if v < 2 ^ (n - 1) then (v : Int) else (v : Int) - (2 : Int) ^ n

/-- Fields of a record or status word: pairs of a lowest bit and a value. -/
def packFields (fs : List (Nat × Nat)) : Nat := fs.foldl (fun acc f => acc + f.2 * 2 ^ f.1) 0

/-- The number with bits `[lo + n - 1 : lo]` replaced. -/
def setBits (v lo n x : Nat) : Nat := v - natBits v lo n * 2 ^ lo + x % 2 ^ n * 2 ^ lo

/-- The position of the highest one bit below `n`, counting from 1; 0 when there is none. -/
def highBit (v : Nat) : Nat → Nat
  | 0 => 0
  | n + 1 => if v.testBit n then n + 1 else highBit v n

/-- The bit length of a number: 0 for 0, else one more than the position of its highest one bit. -/
def bitLength (v : Nat) : Nat := if v = 0 then 0 else Nat.log2 v + 1

/-- Division rounding up. -/
def ceilDiv (a b : Nat) : Nat := (a + b - 1) / b

/-- The element of a vector: `w` bytes, element `i` (R187). -/
def elemOf (v : Vec) (w i : Nat) : Nat := natBits v.toNat (8 * w * i) (8 * w)

/-- A vector from its elements of `w` bytes, lowest first. -/
def vecOfElems (w : Nat) (es : List Nat) : Vec :=
  BitVec.ofNat 2048 (es.foldr (fun e acc => e % 2 ^ (8 * w) + acc * 2 ^ (8 * w)) 0)

/-- The bytes of a vector, lowest first. -/
def vecBytes (v : Vec) : List Byte := (List.range 256).map fun i => BitVec.ofNat 8 (natBits v.toNat (8 * i) 8)

/-- The vector whose bytes are given, lowest first; missing bytes are zero. -/
def vecOfBytes (bs : List Byte) : Vec :=
  BitVec.ofNat 2048 (bs.foldr (fun b acc => b.toNat + 256 * acc) 0)

/-- A four-bit mask from a test of each lane group. -/
def groupMask (f : Nat → Bool) : BitVec 4 :=
  BitVec.ofNat 4 (boolNat (f 0) + 2 * boolNat (f 1) + 4 * boolNat (f 2) + 8 * boolNat (f 3))

/-- An update of every element of a list that meets a test. -/
def updWhere {α : Type} (p : α → Bool) (f : α → α) (l : List α) : List α :=
  l.map fun x => if p x then f x else x

end Sys2Proof.Machine
end

