-- ==== Sys2Proof/Machine/SMap.lean ====
section
/-! DEFINITION. Sparse maps from numbers to data: the one shape in which the machine holds register files, memories
and tables as plain data. A map is a list of pairs with strictly rising keys and no entry equal to the default of its
key, so that equal maps are equal lists. -/

namespace Sys2Proof.Machine

/-- A sparse map: pairs of a key and a value. -/
abbrev SMap (α : Type) := List (Nat × α)

/-- The value at key `k`; a key that is not listed reads as `d k`. -/
def SMap.get {α : Type} (d : Nat → α) : SMap α → Nat → α
  | [], k => d k
  | (a, v) :: m, k => if a = k then v else SMap.get d m k

/-- The map without key `k`. -/
def SMap.erase {α : Type} : SMap α → Nat → SMap α
  | [], _ => []
  | (a, v) :: m, k => if a = k then SMap.erase m k else (a, v) :: SMap.erase m k

/-- The map with `(k, v)` placed before the first greater key. -/
def SMap.insert {α : Type} : SMap α → Nat → α → SMap α
  | [], k, v => [(k, v)]
  | (a, u) :: m, k, v => if k < a then (k, v) :: (a, u) :: m else (a, u) :: SMap.insert m k v

/-- The map with key `k` holding `v`: writing the default removes the entry. -/
def SMap.set {α : Type} [DecidableEq α] (d : Nat → α) (m : SMap α) (k : Nat) (v : α) : SMap α :=
  if v = d k then m.erase k else SMap.insert (m.erase k) k v

/-- The canonical form: keys strictly rising, no entry equal to its default. -/
def SMap.wf {α : Type} [DecidableEq α] (d : Nat → α) : SMap α → Bool
  | [] => true
  | [(a, v)] => decide (v ≠ d a)
  | (a, v) :: (b, u) :: m => decide (v ≠ d a) && decide (a < b) && SMap.wf d ((b, u) :: m)

/-- The entries whose keys lie in `[lo, hi)`. -/
def SMap.window {α : Type} (m : SMap α) (lo hi : Nat) : SMap α :=
  m.filter fun e => decide (lo ≤ e.1 ∧ e.1 < hi)

/-- The map without the keys in `[lo, hi)`. -/
def SMap.clear {α : Type} (m : SMap α) (lo hi : Nat) : SMap α :=
  m.filter fun e => !decide (lo ≤ e.1 ∧ e.1 < hi)

/-- The map with the entries of `[lo, lo + n)` copied over those of `[lo + n, lo + 2 n)`; the default is `d` everywhere. -/
def SMap.copyUp {α : Type} [DecidableEq α] (d : α) (m : SMap α) (lo n : Nat) : SMap α :=
  (m.window lo (lo + n)).foldl (fun t e => SMap.set (fun _ => d) t (e.1 + n) e.2) (m.clear (lo + n) (lo + 2 * n))

/-- The value at `k` of a map whose default is `d` everywhere. -/
abbrev SMap.at {α : Type} (d : α) (m : SMap α) (k : Nat) : α := SMap.get (fun _ => d) m k

/-- Writing in a map whose default is `d` everywhere. -/
abbrev SMap.put {α : Type} [DecidableEq α] (d : α) (m : SMap α) (k : Nat) (v : α) : SMap α :=
  SMap.set (fun _ => d) m k v

end Sys2Proof.Machine
end

