-- ==== Sys2Proof/Machine/Memory.lean ====
section
/-! DEFINITION. Byte memories (R10, R13): cells in canonical form, little-endian access, and the poison marks that go
with them (R254, R264). A byte that nothing has written reads as zero (assumption log 2). -/

namespace Sys2Proof.Machine

/-- A byte memory: the cells that differ from what an unlisted address reads as. -/
abbrev Mem := List Host.Cell

/-- What an unlisted address reads as: R450 leaves the contents undefined; DESIGN CHOICE, log 2. -/
def Mem.unlisted : Byte := 0#8

/-- The canonical form of a memory. -/
def Mem.wf (m : Mem) : Bool := SMap.wf (fun _ => Mem.unlisted) m

/-- One byte. -/
def Mem.byte (m : Mem) (a : Nat) : Byte := SMap.at Mem.unlisted m a

/-- Writing one byte. -/
def Mem.setByte (m : Mem) (a : Nat) (v : Byte) : Mem := SMap.put Mem.unlisted m a v

/-- The `n` bytes from address `a` upward. -/
def Mem.bytes (m : Mem) (a : Nat) : Nat → List Byte
  | 0 => []
  | n + 1 => Mem.byte m a :: Mem.bytes m (a + 1) n

/-- Writing bytes from address `a` upward. -/
def Mem.setBytes (m : Mem) (a : Nat) : List Byte → Mem
  | [] => m
  | b :: bs => Mem.setBytes (Mem.setByte m a b) (a + 1) bs

/-- The number whose little-endian bytes are given (R10). -/
def leNat : List Byte → Nat
  | [] => 0
  | b :: bs => b.toNat + 256 * leNat bs

/-- The `n` little-endian bytes of a number (R10). -/
def natLe (v : Nat) : Nat → List Byte
  | 0 => []
  | n + 1 => BitVec.ofNat 8 v :: natLe (v / 256) n

/-- An `n`-byte little-endian read. -/
def Mem.read (m : Mem) (a n : Nat) : Nat := leNat (Mem.bytes m a n)

/-- An `n`-byte little-endian write. -/
def Mem.write (m : Mem) (a n v : Nat) : Mem := Mem.setBytes m a (natLe v n)

/-- A 32-bit little-endian word. -/
def Mem.word32 (m : Mem) (a : Nat) : Word32 := BitVec.ofNat 32 (Mem.read m a 4)

/-- A 64-bit little-endian word. -/
def Mem.word (m : Mem) (a : Nat) : Word := BitVec.ofNat 64 (Mem.read m a 8)

/-- A memory, the poison marks of its units of `2 ^ shift` bytes (R221, R254, R264, R304), and the wrong bits of its
correction words (R466): bit positions from 0 by number of the word, data bits first, then check bits. `bytes` holds
what was written; a word with one wrong bit is corrected as it is read, one with two or more is uncorrectable
(assumption log 11). -/
structure Bank where
  bytes : Mem
  pois : SMap Bool
  flips : SMap (List Nat)
  /-- log2 of the bytes of a correction word: 2 for IMEM, 3 for the other memories of the die (R466), 6 for HBM (R264). -/
  word : Nat
  /-- Data bits that are stuck, by correction word: position and value (R460). -/
  stuck : SMap (List (Nat × Bool))
  /-- Units that are served from spare rows, whose cells are sound (R457). -/
  spare : SMap Bool
deriving DecidableEq, Repr

/-- An empty memory with correction words of `2 ^ word` bytes. -/
def Bank.empty (word : Nat) : Bank := ⟨[], [], [], word, [], []⟩

/-- Has the unit a correction word with `n` or more wrong bits (R466)? -/
def Bank.worn (b : Bank) (shift unit n : Nat) : Bool :=
  b.flips.any fun e => decide (n ≤ e.2.length ∧ e.1 * 2 ^ b.word / 2 ^ shift = unit)

/-- Has the unit an uncorrectable error or a poison mark (R221, R254, R466)? -/
def Bank.lost (b : Bank) (shift unit : Nat) : Bool := SMap.at false b.pois unit || b.worn shift unit 2

/-- Is the unit that holds byte `a` poisoned? An uncorrectable error has the effect of a set poison bit. -/
def Bank.poisoned (b : Bank) (shift a : Nat) : Bool := b.lost shift (a / 2 ^ shift)

/-- Sets or clears the mark of the unit that holds byte `a`. -/
def Bank.mark (b : Bank) (shift a : Nat) (p : Bool) : Bank :=
  { b with pois := SMap.put false b.pois (a / 2 ^ shift) p }

/-- The units of `2 ^ shift` bytes that `n` bytes at `a` touch, as numbers. -/
def unitsOf (shift a n : Nat) : List Nat :=
  if n = 0 then [] else
    (List.range ((a + n - 1) / 2 ^ shift - a / 2 ^ shift + 1)).map (fun i => a / 2 ^ shift + i)

/-- Is any unit that `n` bytes at `a` touch poisoned? -/
def Bank.anyPoison (b : Bank) (shift a n : Nat) : Bool :=
  (unitsOf shift a n).any fun u => b.lost shift u

/-- The stuck bits of a word that disagree with the data `m` written to it; none in a spare row (R457, R460). -/
def Bank.stuckWrong (b : Bank) (m : Mem) (shift w : Nat) : List Nat :=
  if SMap.at false b.spare (w * 2 ^ b.word / 2 ^ shift) then []
  else ((SMap.at [] b.stuck w).filter fun e => (Mem.byte m (w * 2 ^ b.word + e.1 / 8)).getLsbD (e.1 % 8) != e.2).map (·.1)

/-- The wrong bits that stay after a write of `n` bytes at `a`, which has left the data `m` (R466): a word written whole is
encoded afresh, and a word written in part is corrected first if it can be. Stuck bits of the words written are wrong where
the data differs. -/
def Bank.flipsAfter (b : Bank) (m : Mem) (shift a n : Nat) : SMap (List Nat) :=
  let meets (w : Nat) : Bool := decide (a < w * 2 ^ b.word + 2 ^ b.word ∧ w * 2 ^ b.word < a + n)
  let kept := b.flips.filter fun e =>
    !meets e.1 || (decide (2 ≤ e.2.length) && !decide (a ≤ e.1 * 2 ^ b.word ∧ e.1 * 2 ^ b.word + 2 ^ b.word ≤ a + n))
  (b.stuck.filter fun e => meets e.1 && SMap.at [] kept e.1 == []).foldl (fun f e => SMap.put [] f e.1 (b.stuckWrong m shift e.1)) kept

/-- A byte with its wrong bits as they stand in the memory, without correction (R455). -/
def Bank.rawByte (b : Bank) (a : Nat) : Byte :=
  let w := a / 2 ^ b.word
  let o := 8 * (a % 2 ^ b.word)
  (SMap.at [] b.flips w).foldl (fun v i => if o ≤ i ∧ i < o + 8 then v ^^^ BitVec.twoPow 8 (i - o) else v) (Mem.byte b.bytes a)

/-- The `n` bytes from key `lo` copied, with their marks, over the next `n`, whose words are encoded afresh. -/
def Bank.copyUp (b : Bank) (shift lo n : Nat) : Bank :=
  let m := SMap.copyUp Mem.unlisted b.bytes lo n
  { b with bytes := m, pois := SMap.copyUp false b.pois (lo / 2 ^ shift) (n / 2 ^ shift), flips := b.flipsAfter m shift (lo + n) n }

/-- Sets or clears the marks of every unit that `n` bytes at `a` touch. -/
def Bank.markAll (b : Bank) (shift a n : Nat) (p : Bool) : Bank :=
  { b with pois := (unitsOf shift a n).foldl (fun m u => SMap.put false m u p) b.pois }

end Sys2Proof.Machine
end

