-- ==== Sys2Proof/Machine/Context.lean ====
section
/-! DEFINITION. The state of one context (R132, R157, R413), which a Ladle shares with fewer parts (R255): register
files, logical time, ring, held results, loop and handler state, channels and table slots. Plain data only. -/

namespace Sys2Proof.Machine

/-- The trap and event kinds (R162). -/
inductive TrapKind where
  | illegal | bundle | feature | undersize | tstamp | bank | race | poison | trange | tbusy | rowx | sfgap | sfdom
  | priv | svc | trap | preempt | pantry | throttle | lockstep | uncorr
deriving DecidableEq, Repr

/-- The kind code of R162. -/
def TrapKind.code : TrapKind → Nat
  | .illegal => 1 | .bundle => 2 | .feature => 3 | .undersize => 4 | .tstamp => 5 | .bank => 6 | .race => 7
  | .poison => 8 | .trange => 9 | .tbusy => 10 | .rowx => 11 | .sfgap => 12 | .sfdom => 13 | .priv => 14
  | .svc => 15 | .trap => 16 | .preempt => 17 | .pantry => 18 | .throttle => 19 | .lockstep => 20 | .uncorr => 21

/-- The state of a context (R157). -/
inductive CtxState where
  | free | running | preempted | suspended | halted
deriving DecidableEq, Repr

/-- The state code of R157. -/
def CtxState.code : CtxState → Nat
  | .free => 0 | .running => 1 | .preempted => 2 | .suspended => 3 | .halted => 4

/-- The state with a code; codes above 4 are not assigned and read as FREE. -/
def CtxState.ofCode : Nat → CtxState
  | 1 => .running | 2 => .preempted | 3 => .suspended | 4 => .halted | _ => .free

/-- A table slot (R233): its state, its offset in the table region and the 32 latched header bytes. -/
inductive TabState where
  | unbound | bound | lost
deriving DecidableEq, Repr

/-- One of the four table slots of a context (R233): the header's offset from TRBASE, the latched header, the bytes
that count as in use (R234), and the table that the binding now in force replaced, which others may not load before
its cycle is complete: absolute address, length, and whether the cycle is HCC's. -/
structure TabSlot where
  st : TabState
  off : Int
  header : List Byte
  len : Nat
  prev : Option (Int × Nat × Bool)
deriving DecidableEq, Repr

/-- A slot nothing has bound. -/
def TabSlot.none : TabSlot := ⟨.unbound, 0, [], 0, Option.none⟩

/-- What a fixed-latency operation writes when it lands (R111, R113, R413). -/
inductive Landing where
  /-- A vector register with its lane-group poison. -/
  | vec (r : Nat) (v : Vec) (p : BitVec 4)
  /-- A scalar register with its poison bit. -/
  | scal (r : Nat) (v : Word) (p : Bool)
  /-- A predicate with its poison bit. -/
  | pred (r : Nat) (v : Pred) (p : Bool)
  /-- A system register (R148). -/
  | sys (num : Nat) (v : Word)
  /-- The bits of FCR under a mask (R153). -/
  | fcr (mask v : Word)
  /-- A table slot's new binding (R241). -/
  | bind (k : Nat) (t : TabSlot)
  /-- A poison change of POIS (R156): kind 0 scalar, 1 vector, 2 predicate. -/
  | pois (kind r : Nat) (set : Bool)
  /-- A store to the agent's own AB (`sp` false) or own SP slice, bytes from key `a` on (R113). -/
  | store (sp : Bool) (a : Nat) (bytes : List Byte) (rel : Bool)
  /-- A context's own push (R289): channel, place of the slot, the element. -/
  | push (n : Nat) (sp : Bool) (key : Nat) (v : Vec) (p : BitVec 4)
  /-- Nothing but the ring entry. -/
  | ring
deriving DecidableEq, Repr

/-- A ring entry or a vector value with lane-group poison (R120, R191). -/
structure PVec where
  v : Vec
  p : BitVec 4
deriving DecidableEq, Repr

/-- Zero, without poison: a void ring entry (R120). -/
def PVec.zero : PVec := ⟨0#2048, 0#4⟩

/-- A result issued and not landed (R111, R118): its landing cycle in LCC or HCC, its position, what it writes,
and what it enters in the ring. -/
structure Held where
  cyc : Word
  pos : Nat
  land : Landing
  ring : Option PVec
deriving DecidableEq, Repr

/-- HELD, VALID and DOFF of one position (R88). -/
structure Position where
  held : Word32
  valid : Bool
  doff : Word
deriving DecidableEq, Repr

/-- A position at context start (R88). -/
def Position.zero : Position := ⟨0#32, false, 0#64⟩

/-- Architectural registers with their poison bits (R132). -/
structure Regs where
  s : SMap Word
  sp : SMap Bool
  p : SMap Pred
  pp : SMap Bool
  v : SMap Vec
  vp : SMap (BitVec 4)
deriving DecidableEq, Repr

/-- What a blocked context waits for (R115 condition 5): an outstanding operation of its own, by serial number; the
waits that R404 re-executes are told apart, and a BAR keeps the generation at which it arrived (R366). -/
inductive Wait where
  | op (id : Nat)
  | waitv (id : Nat)
  | sync (id : Nat)
  | lease (id : Nat)
  | bar (id : Nat) (grp : Bool) (gen : BitVec 32)
deriving DecidableEq, Repr

/-- The blocking instruction that the context waits on: its slot, position and logical cycle (R404), the registers that
its bundle read (a re-issue is at the same logical cycle), and whether it is to be re-executed when the context next
issues. -/
structure Block where
  slot : Word32
  pos : Nat
  cyc : Word
  /-- Span offset of its bundle. -/
  pc : Word
  wait : Wait
  redo : Bool
  src : Regs
deriving DecidableEq, Repr

/-- What handler entry saves of the interrupted code (R149, R152). -/
structure Saved where
  ring : SMap PVec
  pos : SMap Position
  pend : List Held
  /-- Elastic results of the interrupted code that arrived in handler mode: they land at ERET, at the frozen LCC. -/
  arrived : List Held
  /-- The waiting slots that the event left (R404), and those of blocking instructions that go on (R116). -/
  blocked : List Block
deriving DecidableEq, Repr

/-- What CTX.SAVE keeps beside the image of R413, for which the image has no place (assumption log 15): the waiting slots
of R404 and those of interrupted code, the held results as they are, the ring entries of the cycle in progress
(keys 0 to 3 of the two rings), and how many Ladle runs the image lists. -/
structure Kept where
  blocked : List Block
  before : List Block
  held : List (Held × Bool)
  ring : SMap PVec
  ringBefore : SMap PVec
  runs : Nat
deriving DecidableEq, Repr

/-- Nothing kept. -/
def Kept.none : Kept := ⟨[], [], [], [], [], 0⟩

/-- Logical time and control flow (R78, R108, R88, R142, R149). -/
structure Flow where
  pc : Word
  lcc : Word
  hcc : Word
  /-- Keys 0 to 3: the results landed at the current cycle; key 4 + q: ring entry q (R120). -/
  ring : SMap PVec
  pos : SMap Position
  pend : List Held
  saved : Saved
  /-- The blocking slots of the last bundle that have not completed, in canonical order (R115 condition 5). -/
  blocked : List Block
  lcnt : SMap Word
  loops : SMap Word
deriving DecidableEq, Repr

/-- Handler and event registers (R149, R162, R405). -/
structure Exc where
  hm : Bool
  tvecEn : Bool
  tvecOff : BitVec 18
  epc : BitVec 32
  ecPos : Nat
  ecKind : Nat
  einfo : Word
  thrn : Bool
  thr : Bool
  /-- The THROTTLE event to deliver: the new and old level (R407). -/
  thrEvent : Option (BitVec 2 × BitVec 2)
deriving DecidableEq, Repr

/-- A channel of a context (R258, R259): its configuration, counts and slot indices. -/
structure Chan where
  cfg : Word
  res : BitVec 16
  prod : BitVec 16
  cons : BitVec 16
  ridx : Nat
  vidx : Nat
  cidx : Nat
deriving DecidableEq, Repr

/-- A channel nothing has configured. -/
def Chan.zero : Chan := ⟨0#64, 0#16, 0#16, 0#16, 0, 0, 0⟩

/-- A pending STOP (R158): whether its deadline has passed, so that it pre-empts by force, and whether it has been
taken at a PPT and waits for the context's Griddle commands (R144, R408). -/
structure StopReq where
  forced : Bool
  atPpt : Bool
deriving DecidableEq, Repr

/-- The context's remaining system state (R71, R161, R413). -/
structure Sys where
  sup : Bool
  chk : Bool
  fcr : Word
  str : SMap Word
  tsoff : BitVec 32
  gidx : Word
  collcfg : Word
  ctxfeat : Word
  trbase : Nat
  trsize : Nat
  panv : BitVec 32
  spanBase : Nat
  spanSize : Nat
  part : Nat
  opReq : BitVec 3
  energy : Word
  barWhole : BitVec 32
  barGrp : BitVec 32
  nfail : BitVec 16
  fstat : BitVec 5
  ackMask : Bool
  ackOwn : Bool
  ackNver : Byte
  ackKinds : Byte
  synsel : Word
  gang : Nat
  stop : Option StopReq
  chans : SMap Chan
  tabs : SMap TabSlot
  /-- The next bundle has been found stalled on an arrival token (R403). -/
  tokWait : Bool
  /-- The hang record set of the stall in progress has been posted (R367). -/
  hung : Bool
deriving DecidableEq, Repr

/-- One context, or one Ladle's program state. -/
structure Ctx where
  st : CtxState
  exiting : Bool
  r : Regs
  f : Flow
  e : Exc
  y : Sys
deriving DecidableEq, Repr

/-- Registers all zero, no poison (R71). -/
def Regs.zero : Regs := ⟨[], [], [], [], [], []⟩

/-- Nothing saved. -/
def Saved.none : Saved := ⟨[], [], [], [], []⟩

/-- Control flow at cycle 0, ring void, nothing held (R71). -/
def Flow.zero : Flow := ⟨0#64, 0#64, 0#64, [], [], [], Saved.none, [], [], []⟩

/-- Handler state at its reset values (R162, R405). -/
def Exc.zero : Exc := ⟨false, false, 0#18, 0#32, 0, 0, 0#64, false, false, none⟩

/-- System state at its reset values (R161, R162); the operating point is OP7 (R76). -/
def Sys.zero : Sys :=
  { sup := false, chk := false, fcr := 0#64, str := [], tsoff := 0#32, gidx := 0#64, collcfg := 0#64, ctxfeat := 0#64,
    trbase := 0, trsize := 0, panv := 0#32, spanBase := 0, spanSize := 0, part := 0, opReq := 7#3, energy := 0#64,
    barWhole := 0#32, barGrp := 0#32, nfail := 0#16, fstat := 0#5, ackMask := false, ackOwn := false, ackNver := 0#8,
    ackKinds := 0#8, synsel := 0#64, gang := 0, stop := none, chans := [], tabs := [], tokWait := false, hung := false }

/-- A context after package reset: FREE (R157, R450). -/
def Ctx.reset : Ctx := ⟨.free, false, Regs.zero, Flow.zero, Exc.zero, Sys.zero⟩

/-- All ones: what p0 reads as (R133). -/
def Pred.ones : Pred := BitVec.allOnes 256

/-- Reading a scalar register: s0 is zero (R133). -/
def Regs.readS (r : Regs) (n : Nat) : Word := if n = 0 then 0#64 else SMap.at 0#64 r.s n

/-- The poison bit of a scalar register (R133). -/
def Regs.poisS (r : Regs) (n : Nat) : Bool := if n = 0 then false else SMap.at false r.sp n

/-- Reading a predicate: p0 is all ones (R133). -/
def Regs.readP (r : Regs) (n : Nat) : Pred := if n = 0 then Pred.ones else SMap.at 0#256 r.p n

/-- The poison bit of a predicate (R133). -/
def Regs.poisP (r : Regs) (n : Nat) : Bool := if n = 0 then false else SMap.at false r.pp n

/-- Reading a vector register with its lane-group poison (R132). -/
def Regs.readV (r : Regs) (n : Nat) : PVec := ⟨SMap.at 0#2048 r.v n, SMap.at 0#4 r.vp n⟩

/-- Writing a scalar register: a write of s0 is discarded (R133). -/
def Regs.writeS (r : Regs) (n : Nat) (v : Word) (p : Bool) : Regs :=
  if n = 0 then r else { r with s := SMap.put 0#64 r.s n v, sp := SMap.put false r.sp n p }

/-- Writing a predicate: p0 is read-only (R132). -/
def Regs.writeP (r : Regs) (n : Nat) (v : Pred) (p : Bool) : Regs :=
  if n = 0 then r else { r with p := SMap.put 0#256 r.p n v, pp := SMap.put false r.pp n p }

/-- Writing a vector register. -/
def Regs.writeV (r : Regs) (n : Nat) (v : Vec) (p : BitVec 4) : Regs :=
  { r with v := SMap.put 0#2048 r.v n v, vp := SMap.put 0#4 r.vp n p }

/-- Sets or clears every poison bit of a register (R156); s0 and p0 are unaffected. -/
def Regs.setPois (r : Regs) (kind n : Nat) (on : Bool) : Regs :=
  if kind = 1 then { r with vp := SMap.put 0#4 r.vp n (if on then 15#4 else 0#4) }
  else if n = 0 then r
  else if kind = 0 then { r with sp := SMap.put false r.sp n on }
  else { r with pp := SMap.put false r.pp n on }

/-- The value of ring entry q0 to q15; a void entry reads as zero (R120). -/
def Flow.readQ (f : Flow) (q : Nat) : PVec := SMap.at PVec.zero f.ring (4 + q)

/-- A position's HELD, VALID and DOFF (R88). -/
def Flow.position (f : Flow) (n : Nat) : Position := SMap.at Position.zero f.pos n

/-- The ring one logical cycle later (R120): every result moves one step, the oldest leaves. -/
def ringShift (q : SMap PVec) : SMap PVec := (q.filter fun e => decide (e.1 < 16)).map fun e => (e.1 + 4, e.2)

/-- The ring with the result that slot `s` lands now. -/
def ringEnter (q : SMap PVec) (s : Nat) (v : PVec) : SMap PVec := SMap.put PVec.zero q s v

/-- The ring slot of a position (R96): VA 0, VB 1, VC 2, FN 3. -/
def ringSlot (pos : Nat) : Option Nat := if 2 ≤ pos ∧ pos ≤ 5 then some (pos - 2) else none

/-- The cycle counter that counts the bundles now issuing: HCC in handler mode, LCC otherwise (R149). -/
def Ctx.now (c : Ctx) : Word := if c.e.hm then c.f.hcc else c.f.lcc

/-- The loop-table entry of level `n` (R21). -/
def Ctx.loopEntry (c : Ctx) (n : Nat) : Word := SMap.at 0#64 c.f.loops n

/-- The remaining trips of level `n` (R142). -/
def Ctx.lcntOf (c : Ctx) (n : Nat) : Word := SMap.at 0#64 c.f.lcnt n

end Sys2Proof.Machine
end

