-- ==== Sys2Proof/Machine/Units.lean ====
section
/-! DEFINITION. The state of the units beside the contexts: elastic operations, engine commands, channel elements,
Ladles (10_feeding_data.md, 11_memory_instructions.md), Griddles (12_griddle.md), monitors and sync objects
(13_synchronisation_and_consistency.md), cores and octets. Plain data only. -/

namespace Sys2Proof.Machine

/-- A register or predicate that a token can stand on (R114). -/
inductive Res where
  | s (n : Nat) | p (n : Nat) | v (n : Nat)
deriving DecidableEq, Repr

/-- A place in memory: AB or SP by key (owning core x 2^20 + offset), a global virtual address, or one that has been
translated: its die and physical address (R271). -/
inductive Loc where
  | ab (key : Nat) | sp (key : Nat) | glob (va : Word) | phys (die pa : Nat) (va : Word)
deriving DecidableEq, Repr

/-- The read-modify-write operations (R356). -/
inductive AtomOp where
  | add | and | or | xor | min | max | xch | cas | decp
deriving DecidableEq, Repr

/-- What an elastic operation does when it is performed (R114, R339). -/
inductive OpKind where
  /-- Loads: one place per element of `z` bytes, `none` where the access faulted; `vec` names a vector destination. -/
  | read (locs : List (Option Loc)) (z : Nat) (vec : Bool) (d : Nat)
  /-- Stores, in order. -/
  | write (ws : List (Loc × List Byte))
  /-- An atomic (R356): operand `v`, and `w` the new value of ACAS. -/
  | atom (f : AtomOp) (loc : Loc) (z : Nat) (v w : Word)
  /-- AMXACC (R358) of element type `et` and an addend line. -/
  | amxacc (loc : Loc) (et : Nat) (line : List Byte)
  /-- FENCE of a scope (R353). -/
  | fence (scope : Nat)
  /-- WAITV (R360): address, width and expected value. -/
  | waitv (va : Word) (z : Nat) (v : Word)
  /-- NOTIFY (R361). -/
  | notify (all : Bool) (va : Word)
  /-- SYN.ADD, SYN.WAIT, SYN.GET on a virtual object (R364). -/
  | synAdd (obj : Nat) (v : BitVec 32)
  | synWait (obj : Nat) (v : BitVec 32)
  | synGet (obj : Nat)
  /-- An engine's signal (R296), with the agent code of its record, and the command's own partition, gang and right to the
  supervisor's objects: they stay those of its acceptance whatever the context becomes (R414). -/
  | signal (obj : Nat) (agentCode part gang : Nat) (sup : Bool)
  /-- BAR (R366): whole gang or group, with the generation that this arrival counts. -/
  | bar (grp : Bool) (gen : BitVec 32)
  /-- PAN.ACK and PAN.READ (R154, R155). -/
  | panAck
  | panRead (rec : Nat) (sel : Nat)
  /-- SFT.LOAD (R240): the TMEM key of the target, the units read from AB at issue with their poison. -/
  | sftLoad (dst : Nat) (units : List (List Byte × Bool))
  /-- SFT.CHK (R243) and its word. -/
  | sftChk (w : Word)
  /-- GRD.LEASE waiting for its grant (R307, R308). -/
  | lease
  /-- GRD.CHK, answered by the queued command `cmd` (R333). -/
  | grdChk (cmd : Nat)
  /-- GRD.STAT of a core (R335, R447). -/
  | grdStat (core : Nat) (clr target : Bool)
  /-- PREEMPT of `x` or its gang (R158): the mode and, for STOP, the deadline in microseconds. -/
  | preempt (mode x us : Nat) (gang : Bool)
  /-- An accepted STOP: targets still RUNNING, the context whose STATE is reported, the highest code (R158). -/
  | stop (targets : List Nat) (x : Nat) (worst : Nat)
  /-- CTX.SAVE and CTX.LOAD (R159). -/
  | ctxSave (x : Nat) (va : Word)
  | ctxLoad (x : Nat) (va : Word)
  /-- SEND, SENDV, RRED (R388, R390): the packet's OP, target, AUX, payload and group poison, its stamp and route. -/
  | send (op : Byte) (target aux : Word) (payload : List Byte) (pois : BitVec 4) (stamp : BitVec 32) (plane phase : Nat)
  /-- MLDR (R393): the control word, the contribution, its stamp, and the result elements reserved at issue. -/
  | mldr (ctl : Word) (payload : List Byte) (stamp : BitVec 32) (elems : List Nat)
  /-- A record of a stopped context that follows its release: the ring, the record's bytes (R343, R401). -/
  | record (ring : Nat) (bytes : List Byte)
  /-- A release without an access of its own that has accesses to follow: the acceptance of an engine command or a Ladle run, or
  a context that has stopped (R343). -/
  | release
deriving DecidableEq, Repr

/-- How far an elastic operation has come. -/
inductive OpPhase where
  /-- Issued, not performed. -/
  | issued
  /-- Sent to another package; an open request entry stands for it (R379). -/
  | sent
  /-- Armed or arrived, waiting for its wake or its barrier. -/
  | armed
  /-- Performed; its result has not arrived. -/
  | performed
deriving DecidableEq, Repr

/-- An outstanding elastic operation (R114, R117). -/
structure Op where
  id : Nat
  agent : Nat
  /-- The context itself, or the context its Ladle serves. -/
  owner : Nat
  kind : OpKind
  dest : Option Res
  /-- A poisoned guard or source that poisons the result (R134). -/
  gp : Bool
  acq : Bool
  rel : Option Nat
  pos : Nat
  cyc : Word
  pc : Word
  hm : Bool
  phase : OpPhase
  result : List Landing
  /-- For a Ladle's SYN.ADD or signal: it may be performed now (R410). -/
  ready : Bool
  /-- The Ladle bundle the operation belongs to. -/
  bundle : Nat
  /-- The serial number at the start of its own bundle: operations and commands of one bundle share it (R279). -/
  bun : Nat
  /-- The units performed so far, by number, with what they read (R339). -/
  units : SMap (List Byte × Bool)
deriving DecidableEq, Repr

/-- Where a line of an engine command lies, once its address has been checked and translated (R271, R295): AB or SP by key,
HBM by die and physical address with its virtual address, TMEM by key, a core's WB by offset; `lost` for a line that
faulted. -/
inductive LineAt where
  | mem (sp : Bool) (key : Nat) | hbm (die pa : Nat) (va : Word) | tmem (key : Nat) | wb (core off : Nat) | lost
deriving DecidableEq, Repr

/-- A line that a command has to write: the space code of R293, the address, the bytes, the poison. -/
structure OutLine where
  space : Nat
  va : Word
  bytes : List Byte
  pois : Bool
deriving DecidableEq, Repr

/-- Which queue an engine command is in (R292, R311); an RLD waits in the fabric unit (R389), a COPY or ROW node in the
queue of a launch unit's Ladle (R47). -/
inductive EngUnit where
  | copy (k : Nat) | ladle (l : Nat) | griddle (o : Nat) | fabric | launch (d : Nat)
deriving DecidableEq, Repr

/-- On-die lines that an engine command has yet to read (`dst` false) or write (R295, R313): rows of `len` bytes,
`stride` apart, from a bank key. -/
structure TagRange where
  dst : Bool
  sp : Bool
  key : Nat
  len : Nat
  stride : Int
  rows : Nat
deriving DecidableEq, Repr

/-- An accepted engine command with everything it bound at acceptance (R292, R330). The launch unit's own commands carry
as `instr` the step that completes them: COPY_COMPLETE for a COPY node, ROW_OPERATION_COMPLETE for a ROW node. -/
structure Cmd where
  id : Nat
  unit : EngUnit
  agent : Nat
  /-- The context that owns the command: the issuer, or the context its Ladle serves. -/
  owner : Nat
  /-- The core whose memories or Griddle state the command acts on. -/
  core : Nat
  part : Nat
  sup : Bool
  instr : Instr
  a : Word
  b : Word
  d : Word
  e : Word
  fcr : Word
  abLo : Nat
  abHi : Nat
  spLo : Nat
  spHi : Nat
  cyc : Word
  pc : Word
  /-- The first array step of a Griddle command (R312). -/
  step : Nat
  /-- Channel elements reserved and made visible so far (R259). -/
  reserved : Nat
  arrived : Nat
  /-- The Ladle bundle the command belongs to (R257), and whether its pushes are discarded (R410). -/
  bundle : Nat
  discard : Bool
  started : Bool
  /-- The gang whose undo log takes the command's writes; 0 none (R419). -/
  gang : Nat
  tags : List TagRange
  /-- The serial number at the start of the bundle that issued the command (R279). -/
  bun : Nat
  /-- How many source lines the command has read, or lines it has made ready to write (R295, R339). -/
  prog : Nat
  /-- The line in progress: where it lies, the 8-byte units read of it by number, and the units written (R339). -/
  spot : Option LineAt
  cur : SMap (List Byte × Bool)
  put : List Nat
  /-- The slot word of the command (R368). -/
  word : Word32
  /-- Lines of other packages that have been read: address, bytes, poison (R379). -/
  got : List (Word × List Byte × Bool)
  /-- Lines that are ready and still to be written, in order. -/
  outs : List OutLine
  /-- A fabric request of the command is open. -/
  waiting : Bool
  /-- The command has acted; what is left is `outs`. -/
  acted : Bool
deriving DecidableEq, Repr

/-- A reserved channel element (R259): who pushes it, the channel, its slot in the buffer. -/
structure Elem where
  id : Nat
  agent : Nat
  ctx : Nat
  ch : Nat
  sp : Bool
  key : Nat
  cmd : Nat
  k : Nat
  bundle : Nat
  arrived : Bool
  /-- The stamp that it carries (R468). -/
  stamp : BitVec 32
  /-- It is filled by a reply from the fabric (R389, R393). -/
  remote : Bool
  /-- Its four source lines once they have been translated, the 8-byte units read of them, and those written (R339). -/
  spots : List LineAt
  units : SMap (List Byte × Bool)
  put : List Nat
deriving DecidableEq, Repr

/-- A queued Ladle run (R298), with the serial number at the start of the bundle that asked for it (R343). -/
structure LadRun where
  ctx : Nat
  a : Word
  b : Word
  d : Word
  bun : Nat
deriving DecidableEq, Repr

/-- One Ladle beside its program state (R255, R257, R298, R300, R467). -/
structure Ladle where
  serving : Option Nat
  stopping : Bool
  runs : List LadRun
  /-- The checkpoint and the number of the bundle it follows (R257). -/
  ckpt : Option Ctx
  ckBundle : Nat
  /-- The state just after each bundle that holds a push not yet committed: bundle number and state. -/
  snaps : List (Nat × Ctx)
  bundle : Nat
  /-- FAULTED by context: the kind code and the span offset. -/
  faults : SMap (Nat × Word)
deriving DecidableEq, Repr

/-- A Ladle after reset: idle, nothing queued. -/
def Ladle.idle : Ladle := ⟨none, false, [], none, 0, [], 0, []⟩

/-- The lease state of an owner (R307). -/
inductive Lease where
  | none | held | expired
deriving DecidableEq, Repr

/-- A core's Griddle state (R304). -/
structure Griddle where
  wb : Bank
  zb : SMap Word
  bound : SMap (BitVec 32)
  zbPois : SMap Bool
  /-- Wrong bits of the correction words of ZB, by entry (R254, R466). -/
  zbFlips : SMap (List Nat)
  ck : SMap Word
  ckPois : SMap Bool
  ex : SMap Byte
  exPois : SMap Bool
  /-- The latches' earlier values: a change of EX by a GRD.SCL at step `s` acts on rows entering at s + 6 (R318). -/
  exOld : List (Nat × SMap Byte × SMap Bool)
  wp : BitVec 21
  wt : BitVec 21
  wfmt : BitVec 4
  fresh : Bool
  steps : Nat
  lease : Lease
  budCmds : Nat
  budSteps : Nat
  dsat : Bool
  cmis : Bool
  cinc : Bool
  loss : Bool
  /-- A stalled Griddle command of the owner requests the lease (R307). -/
  requesting : Bool
deriving DecidableEq, Repr

/-- A core's Griddle state at zero, no lease (R306, R307). -/
def Griddle.zero : Griddle :=
  { wb := Bank.empty 3, zb := [], bound := [], zbPois := [], zbFlips := [], ck := [], ckPois := [], ex := [], exPois := [], exOld := [],
    wp := 0#21, wt := 0#21, wfmt := 0#4, fresh := false, steps := 0, lease := .none, budCmds := 0, budSteps := 0,
    dsat := false, cmis := false, cinc := false, loss := false, requesting := false }

/-- A block record as the decompressor reads it (R315): mask, scale, element run, and whether a WB line of it was
poisoned (R324). -/
structure BlockRec where
  pm : Nat
  scale : Nat
  run : Nat
  pois : Bool
deriving DecidableEq, Repr

/-- An octet: its grant pointer, the tile that stands in the array with the core whose command loaded it
(R308, R316), and its domain's operating point (R77). -/
structure Octet where
  ptr : Nat
  tile : Option (Nat × List BlockRec)
  op : BitVec 3
  settling : Option (BitVec 3)
deriving DecidableEq, Repr

/-- An octet after reset: G = 7 (R308). -/
def Octet.reset : Octet := ⟨7, none, 7#3, none⟩

/-- A core's issue slot, operating point and split level (R122, R126, R127). -/
structure CoreSt where
  owner : Nat
  swcnt : BitVec 32
  opcur : BitVec 3
  settling : Option (BitVec 3)
  thr : BitVec 2
  /-- The split level in force, which follows the throttle level and ISSCFG.FLOOR. -/
  lvl : BitVec 2
  power : Word
  /-- For the first core of a pair: the pair is in protected mode (R64). -/
  prot : Bool
deriving DecidableEq, Repr

/-- A core after reset (R126). -/
def CoreSt.reset : CoreSt := ⟨0, 0#32, 7#3, none, 0#2, 0#2, 0#64, false⟩

/-- An armed monitor entry (R359): the die, the physical address of the unit, the waiting operation. -/
structure Monitor where
  die : Nat
  pa : Nat
  va : Word
  sup : Bool
  part : Nat
  op : Nat
deriving DecidableEq, Repr

/-- A cached translation (R267): the core whose first-level TLB holds it, none for the memory-side TLB of the die; the
die, the space (16 for the supervisor's), the first offset it maps, log2 of the page size, and the leaf entry. -/
structure TlbEntry where
  core : Option Nat
  die : Nat
  space : Nat
  base : Nat
  size : Nat
  leaf : Word
deriving DecidableEq, Repr

/-- A record ring (R275): the register as written, the ring in force, its counts. -/
structure Ring where
  reg : Word
  force : Word
  head : BitVec 17
  tail : BitVec 17
  drop : BitVec 16
  /-- A write of the register has not taken effect yet. -/
  pending : Bool
deriving DecidableEq, Repr

/-- No ring. -/
def Ring.none : Ring := ⟨0#64, 0#64, 0#17, 0#17, 0#16, false⟩

/-- One entry of an undo log (R419): a line of HBM, or an addition to a sync object. -/
inductive UndoItem where
  | line (die pa : Nat) (old : List Byte) (pois : Bool)
  | sync (key : Nat) (v : BitVec 32)
deriving DecidableEq, Repr

/-- What an exited member still holds on its core until its node retires: the IMEM copy and the table region (R432). -/
structure Hold where
  core : Nat
  spanBase : Nat
  spanSize : Nat
  trbase : Nat
  trsize : Nat
deriving DecidableEq, Repr

/-- A gang in being (R15, R64, R413): its node and replay, its members' contexts by rank, which have exited, and
its undo log. -/
structure Gang where
  id : Nat
  part : Nat
  /-- The code object with its graph's GEN (R69), its FEAT, grouping unit and loop table. -/
  obj : Word
  gen : Nat
  feat : Word
  within : Nat
  loops : List Word
  /-- The die of the replay's launch unit. -/
  die : Nat
  queue : Nat
  node : Nat
  /-- Rank and context number; 0xFFFF while the member's image is saved and not loaded, 0xFFFE once it has exited. -/
  members : List (Nat × Nat)
  exited : List Nat
  group : Nat
  /-- Its ranks stand on both dies, by a D level of extent 2 (R16, R66). -/
  twoDies : Bool
  /-- BAR generations at which each rank has arrived: whole gang and group (R366). -/
  bars : SMap (Nat × Nat)
  undo : List UndoItem
  nolog : Bool
  /-- Rollback in progress: the cause code of R421, or 9 for a termination (R433), the member at cause, its LCC, the
  lines replayed. -/
  rollback : Option (Nat × Nat × Word × Nat)
  /-- Pending STOPs that survive a rollback (R422): rank, the context they named, the request. -/
  stops : List (Nat × Nat × StopReq)
  /-- The energy of the members that have exited, in µJ (R434). -/
  energy : Word
  /-- The energy counts of members whose images are saved and not loaded, by rank (R413, R434). -/
  saved : SMap Word
  /-- What its exited members still hold (R432). -/
  holds : List Hold
deriving DecidableEq, Repr

end Sys2Proof.Machine
end

