-- ==== Sys2Proof/Machine/FabricState.lean ====
section
/-! DEFINITION. The state of the fabric unit (14_athiyx_fabric.md R369 to R398, R469): ports with their slot and
membership tables and waiting packets, peers, open requests, drains, joins, and what the device has sent. Plain data. -/

namespace Sys2Proof.Machine

/-- What an open request serves when it closes (R379, R382). -/
inductive FabUse where
  /-- Elastic operation `id`. -/
  | op (id : Nat)
  /-- A read of the line at `va` by engine command `id`. -/
  | lineRead (id : Nat) (va : Word)
  /-- The write of the oldest waiting line of engine command `id`. -/
  | lineWrite (id : Nat)
  /-- Element `id` of an RLD. -/
  | elem (id : Nat)
deriving DecidableEq, Repr

/-- An open request entry (R379): its tag, what it serves, its path, the requesting context or engine, and the 64 B
lines it touches at its target (R380). A contribution to a switch group has no peer. -/
structure OpenReq where
  tag : Nat
  use : FabUse
  plane : Nat
  /-- The departure phase, none for the first unicast phase of the plane (R383). -/
  phase : Option Nat
  peer : Option Nat
  agent : Nat
  lines : List Word
  /-- The port whose queue took it. -/
  port : Nat
deriving DecidableEq, Repr

/-- A packet that waits at a port (R375): a reply or a request, its phase if it names one, its target package (none for
a contribution). -/
structure Waiting where
  pkt : Packet
  reply : Bool
  phase : Option Nat
  target : Option Nat
deriving DecidableEq, Repr

/-- A port (R372, R373, R376, R377): the plane that training applied, the slot table in force and the next one, the
waiting packets in order of arrival, the membership entries. -/
structure FabPort where
  dead : Bool
  sport : Nat
  dly : Nat
  plane : Nat
  table : SMap (BitVec 16)
  next : Option (SMap (BitVec 16))
  queue : List Waiting
  members : SMap Word
deriving DecidableEq, Repr

/-- Port `p` after reset (R376). -/
def FabPort.reset (p : Nat) : FabPort := ⟨false, 0, 0, p, [], none, [], []⟩

/-- A link unit (R463): STATE, WIDTH, RETRAIN. -/
structure Link where
  state : Nat
  width : Nat
  retrain : Nat
deriving DecidableEq, Repr

/-- A link after reset: OFF. -/
def Link.off : Link := ⟨0, 0, 0⟩

/-- A peer table entry (R376). -/
structure Peer where
  state : Nat
  inc : Byte
  planes : BitVec 32
deriving DecidableEq, Repr

/-- A peer nothing has announced. -/
def Peer.unknown : Peer := ⟨0, 0#8, 0#32⟩

/-- A dead path being drained (R396): a whole peer, a plane to a peer, or a port of this package; the round it is in. -/
structure Drain where
  peer : Option Nat
  plane : Option Nat
  port : Option Nat
  reset : Bool
  round : Nat
  /-- The declaration, which is sent on in each round. -/
  lsu : LinkUpdate
  /-- SLOT at T0 (R398). -/
  slot : Word
deriving DecidableEq, Repr

/-- A group join that the package holds (R393). -/
structure Join where
  plane : Nat
  group : Nat
  nmem : Nat
  gwait : Nat
  sent : Bool
deriving DecidableEq, Repr

/-- What the device has put on its links, oldest first: an output of the model. -/
inductive FabOut where
  | packet (port phase : Nat) (pkt : Packet)
  | lsu (plane round : Nat) (u : LinkUpdate)
  | join (port : Nat) (j : Join)
deriving DecidableEq, Repr

/-- The fabric unit. -/
structure Fabric where
  ports : SMap FabPort
  peers : SMap Peer
  entries : List OpenReq
  drains : List Drain
  joins : List Join
  /-- Sequence numbers of the link-state updates applied (R395); this package numbers its own from PKG x 2^32. -/
  lsuSeen : List Nat
  /-- Updates to send on at the next frame, with the round that marks them. -/
  lsuOut : List (LinkUpdate × Nat)
  /-- The next sequence number of an update this package originates. -/
  lsuSeq : Nat
  /-- The port of the slot-table load in progress, and TABLOAD.ERR (R374). -/
  loading : Option Nat
  loadErr : Bool
  sent : List FabOut
deriving DecidableEq, Repr

/-- The fabric unit after reset. -/
def Fabric.reset : Fabric := ⟨[], [], [], [], [], [], [], 0, none, false, []⟩

end Sys2Proof.Machine
end

