-- ==== Sys2Proof/Machine/LaunchState.lean ====
section
/-! DEFINITION. The state of the launch units, the placers, the Pantry, the error counters and the boot and
housekeeping units (01_describing_work.md to 03_placing_work.md, 15_interruptions.md R417 to R425,
16_retirement.md, 20_bringup_identity.md). Plain data. -/

namespace Sys2Proof.Machine

/-- An accepted kick that has not started (R44), with its place in the order of acceptance at the host port. -/
structure Kick where
  seq : BitVec 32
  tag : BitVec 16
  ptab : BitVec 45
  order : Nat
deriving DecidableEq, Repr

/-- A queue page with what the device keeps for it (R38 to R45). -/
structure Queue where
  en : Bool
  ien : Bool
  part : Nat
  pmax : Nat
  vec : Nat
  drop : BitVec 16
  cfgerr : Bool
  active : Bool
  seq : BitVec 32
  graph : Word
  cbase : Word
  csize : Nat
  chead : BitVec 17
  tail : BitVec 17
  pend : List Kick
deriving DecidableEq, Repr

/-- A queue after reset: QCSIZE 0 acts as 6 (R42). -/
def Queue.reset : Queue := ⟨false, false, 0, 0, 0, 0#16, false, false, 0#32, 0#64, 0#64, 0, 0#17, 0#17, []⟩

/-- A node record of a validated graph (R28). -/
structure GNode where
  kind : Nat
  prio : Nat
  npred : Nat
  nsucc : Nat
  succ : Nat
  obj : Word
  param : Word
  /-- Bytes 32 to 63 as four words. -/
  w : List Word
deriving DecidableEq, Repr

/-- A validated copy of a graph image (R30, R46): where it is held, the image address and GEN, and how long ago its
kick started (a serial number). -/
structure GraphCopy where
  die : Nat
  part : Nat
  addr : Word
  gen : Nat
  nodes : List GNode
  edges : List Nat
  last : Nat
  /-- The copy's LREG value when it was made (R46). -/
  region : Word
deriving DecidableEq, Repr

/-- How far a node of a replay has come. -/
inductive NodePhase where
  | waiting | ready | running | retired | failed
deriving DecidableEq, Repr

/-- A running replay (R29, R45, R49): its queue and kick, its launch unit's die, the graph, a working count and a phase
per node, and the first failure. -/
structure Replay where
  queue : Nat
  seq : BitVec 32
  tag : BitVec 16
  die : Nat
  part : Nat
  addr : Word
  gen : Nat
  pmax : Nat
  nodes : List GNode
  edges : List Nat
  counts : List Nat
  phase : List NodePhase
  fail : Option (Nat × Option Nat)
  tstart : Word
  /-- The running of this replay, by serial number. -/
  id : Nat
deriving DecidableEq, Repr

/-- A node waiting for a placer, or a gang to be placed again after a rollback (R47, R421). -/
structure ReadyItem where
  queue : Nat
  node : Nat
  /-- The gang whose rollback asks for a new placement. -/
  gang : Option Nat
  /-- AGELIM has passed since it joined its list (R48). -/
  aged : Bool
deriving DecidableEq, Repr

/-- A die's launch unit and placer: the ready lists of classes 0 to 3 (R47). -/
structure Placer where
  ready : List (List ReadyItem)
  /-- A REPLACE in progress: the member named (R74). -/
  replacing : Option Nat
deriving DecidableEq, Repr

/-- A placer with nothing waiting. -/
def Placer.idle : Placer := ⟨[[], [], [], []], none⟩

/-- A Pantry record (R53): KIND and INDEX follow from its number. -/
structure PanRec where
  state : Nat
  cap : Nat
  ver : BitVec 32
  feat : Word
deriving DecidableEq, Repr

/-- A record before boot (assumption log 3). -/
def PanRec.zero : PanRec := ⟨0, 0, 0#32, 0#64⟩

/-- A change of the Pantry that is being applied or waits (R56): its records, and whether hardware made it. -/
structure PanChange where
  recs : List (Nat × PanRec)
  hw : Bool
deriving DecidableEq, Repr

/-- The Pantry unit (R52 to R57): the mirror, the result of the last change, the changes in order of arrival, the
records fenced by hardware. -/
structure Pantry where
  recs : SMap PanRec
  ver : BitVec 32
  err : Nat
  queue : List PanChange
  hwf : SMap Bool
deriving DecidableEq, Repr

/-- The Pantry before boot: version 1 (R57). -/
def Pantry.reset : Pantry := ⟨[], 1#32, 0, [], []⟩

/-- The error counters of a record (R417): CE and UE of the window, the location of the last error, and which
thresholds of this window have been reported. -/
structure ErrCount where
  ce : Nat
  ue : Nat
  addr : Word
  ueTold : Bool
  ceTold : Bool
deriving DecidableEq, Repr

/-- Counters at zero. -/
def ErrCount.zero : ErrCount := ⟨0, 0, 0#64, false, false⟩

/-- A page migration in progress (R424, R425): the space (16 the supervisor's), the page's offset, its size in log2,
where it stands, and the destination. -/
structure Migration where
  space : Nat
  off : Nat
  size : Nat
  src : Nat
  dst : Nat
deriving DecidableEq, Repr

/-- MIGCTL as software sees it, with the migration in progress. -/
structure MigUnit where
  ctl : Word
  dst : Word
  result : Nat
  run : Option Migration
  /-- Writes of the page that agents without an operation or command of their own have made, oldest first: physical address,
  bytes, poison, and the gang whose log takes them (R425). -/
  held : List (Nat × List Byte × Bool × Nat)
deriving DecidableEq, Repr

/-- A migration unit after reset. -/
def MigUnit.idle : MigUnit := ⟨0#64, 0#64, 0, none, []⟩

/-- A pending TLB invalidation (R271). -/
structure TlbInv where
  die : Nat
  v : Word
deriving DecidableEq, Repr

/-- A core's repair and self-test record (R456 to R458). -/
structure CoreTest where
  repairs : List (Bool × Nat)
  nmarch : Nat
  /-- How many of the entries are in effect, from the first (R454, R457). -/
  active : Nat
  overflow : Bool
  timeout : Bool
  done : Bool
  fails : Nat
  bist : Byte
deriving DecidableEq, Repr

/-- A core nothing has tested. -/
def CoreTest.zero : CoreTest := ⟨[], 0, 0, false, false, false, 0, 0#8⟩

/-- Boot and identity (R450 to R462): stage, error, the flash contents outside the package, whether the bridge
trained, and the report in progress. -/
structure Boot where
  stage : Nat
  err : Nat
  flash : Mem
  bridge : Bool
  /-- Stacks whose training failed. -/
  badStacks : List Nat
  memUp : Bool
  attBusy : Bool
  attErr : Nat
  attVer : BitVec 32
  attTime : Word
deriving DecidableEq, Repr

/-- The boot unit after reset: stage ROM, no flash attached. -/
def Boot.reset : Boot := ⟨0, 0, [], false, [], false, false, 0, 0#32, 0#64⟩

/-- What the device has sent to the host, oldest first: an output of the model (R36, R49). -/
inductive HostMsg where
  | write (addr : Word) (bytes : List Byte)
  | msix (vec : Nat)
  | data (bytes : List Byte) (poison : Bool)
deriving DecidableEq, Repr

/-- The launch units, the Pantry and the services of the package. -/
structure Services where
  queues : SMap Queue
  kickOrder : Nat
  copies : List GraphCopy
  replays : List Replay
  placers : SMap Placer
  pantry : Pantry
  errs : SMap ErrCount
  /-- Partitions whose reset is in progress (R51). -/
  busy : SMap Bool
  migs : SMap MigUnit
  tlbinv : List TlbInv
  tests : SMap CoreTest
  boot : Boot
  /-- Ranges of the HDM window that the supervisor keeps for itself: first offset and length (R36). -/
  hostClosed : List (Nat × Nat)
  toHost : List HostMsg
  /-- What CTX.SAVE has kept beside the images that it wrote, with the image (R404, R413; log 15), the latest first. -/
  kept : List (Mem × Kept)
deriving DecidableEq, Repr

/-- The services after package reset. -/
def Services.reset : Services :=
  ⟨[], 0, [], [], [], Pantry.reset, [], [], [], [], [], Boot.reset, [], [], []⟩

end Sys2Proof.Machine
end

