-- ==== Sys2Proof/Machine/State.lean ====
section
/-! DEFINITION. The state of the whole package as plain data (R1, R9, R450), the reasons a step can stop, and the
state right after reset. -/

namespace Sys2Proof.Machine



/-- No step of this model stops with a fault: every trap, access fault, error and refusal of the spec is a next
state (R149, R272, R399). The type has no constructor, so nothing raises it; safe. -/
inductive Fault where
deriving DecidableEq, Repr

/-- Why a step has no meaning. -/
inductive Refusal where
  /-- Raised by an arm of `exec` that has no meaning yet, with the mnemonic of its row; safe. -/
  | notModelled (mnemonic : String)
deriving DecidableEq, Repr

/-- What a bundle does after its slots, at its commit. -/
inductive After where
  | nothing | yield | exit | halt | ppt | svc (imm : BitVec 18) | trap (imm : BitVec 18) | eret
deriving DecidableEq, Repr

/-- Why a bundle commits nothing: a precise trap with its position and detail (R400), or a suspension of the context
alone by a fault of an access (R272, R302, R365): the record's fields and the position. -/
inductive Stop where
  | trap (k : TrapKind) (pos : Nat) (info : Word)
  | access (pos : Nat) (agent code flags : Nat) (addr : Word)
deriving DecidableEq, Repr

/-- The record of the bundle in issue (the model's own, log 6): the executing position, the bundle's offset and
successor, its DOFF, and what its slots ask for at commit. -/
structure Issue where
  pos : Nat
  pc : Word
  next : Word
  doff : Word
  /-- The executing slot's word. -/
  word : Word32
  /-- The serial number at the bundle's start: operations below it were issued earlier (R342). -/
  serial0 : Nat
  /-- The logical cycle of a waiting slot that is re-executed alone (R404). -/
  redo : Option Word
  /-- A taken branch's target (R141). -/
  target : Option Word
  /-- A loop armed by LOOP or LOOPI: level and count (R142). -/
  arm : Option (Nat × Word)
  after : After
  stop : Option Stop
  /-- A condition of R115 holds for some slot: the reason code of R368, the position and the detail. -/
  stall : Option (Nat × Nat × Word)
  /-- Channels whose head the bundle reads and pops (R97). -/
  pops : List Nat
  /-- Lines of own SP that a slot occupies (R250): position, lines, write, whole-slice VLDS. -/
  banks : List (Nat × List Nat × Bool × Bool)
  /-- Races that the executing slots hit (R349): position and EINFO. -/
  races : List (Nat × Word)
  /-- Elastic operations that the bundle issues (R117). -/
  elastic : Nat
  /-- A Griddle command of the bundle requests the lease (R307): its queue counts as full. -/
  wantsLease : Bool
  /-- The bundle ends the lease of its core at its commit: GRD.FREE, or GRD.LEASE of an owner that holds it (R307, R327). -/
  freesLease : Bool
  /-- The scopes of the releases that the bundle makes as it commits: commands and Ladle runs that it hands over (R343). -/
  rels : List Nat
deriving DecidableEq, Repr

/-- No bundle in issue. -/
def Issue.empty : Issue :=
  { pos := 0, pc := 0#64, next := 0#64, doff := 0#64, word := 0#32, serial0 := 0, redo := none, target := none, arm := none, after := .nothing, stop := none,
    stall := none, pops := [], banks := [], races := [], elastic := 0, wantsLease := false, freesLease := false, rels := [] }

/-- The machine. Keys of the memories: AB and SP, core x 2^20 + offset; TMEM, core x 2^16; IMEM, core x 2^18; HBM, die x 2^39 + physical address. -/
structure State where
  /-- The agent that issues: its number (context X, or Ladle 2048 + 2K + j) and its state. -/
  who : Nat
  c : Ctx
  /-- Every other agent. -/
  parked : SMap Ctx
  /-- The steps that agents and the outside take next (log 1); the default policy when empty. -/
  agenda : List Instr
  /-- The core whose owner issues under the default policy (log 1). -/
  turn : Nat
  issue : Issue
  /-- A counter that every use of a free value advances (log 4). -/
  tick : Nat
  /-- PKGTIME at the last use of a free value: nanoseconds since reset release (R464). -/
  clock : Word
  /-- The next serial number of an operation, command or element (log 5). -/
  serial : Nat
  /-- Registers that have a copy outside the contexts: key instance x 4096 + number (R161). -/
  regs : SMap Word
  ab : Bank
  sp : Bank
  tmem : Bank
  imem : Bank
  hbm : Bank
  /-- HBM lines whose poison a read has already reported (R264). -/
  hbmSeen : SMap Bool
  /-- Uncorrectable errors of SP that recovery mode rebuilds and that have been counted: by line, and by 2^40 + parity word
  for the parity banks (R253, R466). -/
  spSeen : SMap Bool
  /-- Wrong bits of the scratchpad parity banks (R253, R466): by line (the group's number) x 8 + correction word. -/
  parFlips : SMap (List Nat)
  /-- Stamp tags of the 256 B units of AB and SP (R468). -/
  abStamp : SMap (BitVec 32)
  spStamp : SMap (BitVec 32)
  /-- Open marks of the lines of AB and SP: 1 + the writer (R348). -/
  abMark : SMap Nat
  spMark : SMap Nat
  ops : List Op
  cmds : List Cmd
  elems : List Elem
  ladles : SMap Ladle
  griddles : SMap Griddle
  octets : SMap Octet
  cores : SMap CoreSt
  monitors : List Monitor
  tlb : List TlbEntry
  /-- Sync objects: key cluster x 256 + object (R363). -/
  sync : SMap (BitVec 32)
  /-- SYNMAP: key (cluster x 16 + partition) x 256 + virtual number; 256 + object when mapped (R363). -/
  synmap : SMap Nat
  /-- Record rings: 0 to 15 FRINGn, 16 to 31 ERINGn, 32 + d SVRING, 64 + d SAMPBUF (R275, R435). -/
  rings : SMap Ring
  /-- PSTAT.FLTCNT by partition (R51). -/
  fltcnt : SMap (BitVec 32)
  gangs : List Gang
  /-- The fabric unit (14_athiyx_fabric.md). -/
  fab : Fabric
  /-- Link units by number (R463). -/
  links : SMap Link
  /-- Launch units, Pantry and services. -/
  svc : Services
deriving DecidableEq, Repr

/-- The machine right after package reset (R450): every register at its reset value, every context FREE, nothing
outstanding. -/
def State.reset : State :=
  { who := 0, c := Ctx.reset, parked := [], agenda := [], turn := 0, issue := Issue.empty, tick := 0, clock := 0#64, serial := 1,
    regs := [], ab := Bank.empty 3, sp := Bank.empty 3, tmem := Bank.empty 3, imem := Bank.empty 2, hbm := Bank.empty 6,
    hbmSeen := [], spSeen := [], parFlips := [], abStamp := [], spStamp := [], abMark := [], spMark := [], ops := [], cmds := [], elems := [],
    ladles := [], griddles := [], octets := [], cores := [], monitors := [], tlb := [], sync := [], synmap := [], rings := [], fltcnt := [],
    gangs := [], fab := Fabric.reset, links := [], svc := Services.reset }

end Sys2Proof.Machine
end

