-- ==== Sys2Proof/Machine/Ops.lean ====
section
/-! DEFINITION. The named operations that the instructions share: units and numbering, agents, registers, memories,
translation, record rings, stopping a context, taking a trap, and issuing fixed-latency and elastic results. -/

namespace Sys2Proof.Machine



/-! ## Numbering (R3) -/

/-- The core of an agent: a context X, or a Ladle 2048 + 2K + j. -/
def coreOf (a : Nat) : Nat := if a < 2048 then a / 4 else (a - 2048) / 2

/-- The package-wide cluster of a core. -/
def clusterOf (k : Nat) : Nat := k / 64

/-- The die of a core. -/
def dieOf (k : Nat) : Nat := k / 256

/-- The package-wide octet of a core. -/
def octetOf (k : Nat) : Nat := k / 8

/-- Is the agent a Ladle? -/
def isLadle (a : Nat) : Bool := decide (2048 ≤ a)

/-! ## Registers outside the contexts -/

/-- The copy of register `num` of instance `inst` (core, die or 0). -/
def State.reg (s : State) (inst num : Nat) : Word := SMap.get (fun k => SysReg.reset (k % 4096)) s.regs (inst * 4096 + num)

/-- Writes the copy of register `num` of instance `inst`. -/
def State.setReg (s : State) (inst num : Nat) (v : Word) : State :=
  { s with regs := SMap.set (fun k => SysReg.reset (k % 4096)) s.regs (inst * 4096 + num) v }

/-! ## Agents -/

/-- The state of agent `a`. -/
def State.ctx (s : State) (a : Nat) : Ctx := if s.who = a then s.c else SMap.at Ctx.reset s.parked a

/-- Replaces the state of agent `a`. -/
def State.setCtx (s : State) (a : Nat) (c : Ctx) : State :=
  if s.who = a then { s with c := c } else { s with parked := SMap.put Ctx.reset s.parked a c }

/-- Updates the state of agent `a`. -/
def State.upd (s : State) (a : Nat) (f : Ctx → Ctx) : State := s.setCtx a (f (s.ctx a))

/-- Makes agent `a` the one that issues. -/
def State.focus (s : State) (a : Nat) : State :=
  if s.who = a then s
  else { s with who := a, c := SMap.at Ctx.reset s.parked a,
                parked := SMap.erase (SMap.put Ctx.reset s.parked s.who s.c) a }

/-- Updates the issuing agent's registers. -/
def State.regsUpd (s : State) (f : Regs → Regs) : State := { s with c := { s.c with r := f s.c.r } }

/-- Updates the issuing agent's control flow. -/
def State.flow (s : State) (f : Flow → Flow) : State := { s with c := { s.c with f := f s.c.f } }

/-- Updates the issuing agent's system state. -/
def State.sys (s : State) (f : Sys → Sys) : State := { s with c := { s.c with y := f s.c.y } }

/-- Updates the issuing agent's handler state. -/
def State.exc (s : State) (f : Exc → Exc) : State := { s with c := { s.c with e := f s.c.e } }

/-- Updates the record of the bundle in issue. -/
def State.iss (s : State) (f : Issue → Issue) : State := { s with issue := f s.issue }

/-- A Ladle's record by package-wide number 2K + j. -/
def State.ladle (s : State) (l : Nat) : Ladle := SMap.at Ladle.idle s.ladles l

/-- Updates a Ladle's record. -/
def State.updLadle (s : State) (l : Nat) (f : Ladle → Ladle) : State :=
  { s with ladles := SMap.put Ladle.idle s.ladles l (f (s.ladle l)) }

/-- A core's Griddle state. -/
def State.griddle (s : State) (k : Nat) : Griddle := SMap.at Griddle.zero s.griddles k

/-- Updates a core's Griddle state. -/
def State.updGriddle (s : State) (k : Nat) (f : Griddle → Griddle) : State :=
  { s with griddles := SMap.put Griddle.zero s.griddles k (f (s.griddle k)) }

/-- An octet. -/
def State.octet (s : State) (o : Nat) : Octet := SMap.at Octet.reset s.octets o

/-- A core's issue state. -/
def State.core (s : State) (k : Nat) : CoreSt := SMap.at CoreSt.reset s.cores k

/-- Updates a core's issue state. -/
def State.updCore (s : State) (k : Nat) (f : CoreSt → CoreSt) : State :=
  { s with cores := SMap.put CoreSt.reset s.cores k (f (s.core k)) }

/-- The context that owns an agent's accesses: the context itself, or the one its Ladle serves (R255). -/
def State.ownerOf (s : State) (a : Nat) : Nat :=
  if isLadle a then (s.ladle (a - 2048)).serving.getD 0 else a

/-- A fresh serial number. -/
def State.withSerial (s : State) : State := { s with serial := s.serial + 1 }

/-- PKGTIME now: the time of the last use of a free value and what has passed since (R464). -/
def State.pkgTime (s : State) : Word := s.clock + Config.elapsed s.tick

/-- Advances the counter of the free values, and with it the time. -/
def State.ticked (s : State) : State := { s with tick := s.tick + 1, clock := s.pkgTime }

/-- The gang with an identifier. -/
def State.gang (s : State) (g : Nat) : Option Gang := s.gangs.find? fun x => x.id == g

/-- Updates the gang with an identifier. -/
def State.updGang (s : State) (g : Nat) (f : Gang → Gang) : State :=
  { s with gangs := updWhere (fun x => x.id == g) f s.gangs }

/-- Posts text of a status word's unreported failure: NFAIL saturates, the first cause stands in `bit` 27 to 31
(R353, R354). -/
def Sys.failed (y : Sys) (n bit : Nat) : Sys :=
  { y with nfail := BitVec.ofNat 16 (min 65535 (y.nfail.toNat + n)), fstat := y.fstat ||| BitVec.twoPow 5 (bit - 27) }

/-- Counts `n` failed writes of the owning context `x`. -/
def State.countFail (s : State) (x n bit : Nat) : State :=
  if n = 0 ∨ 2048 ≤ x then s else s.upd x fun c => { c with y := c.y.failed n bit }

/-! ## Byte memories with poison (R254, R273) -/

/-- Reads `n` bytes; a poisoned unit of `2 ^ shift` bytes reads as zero (R273). -/
def Bank.readZ (b : Bank) (shift a n : Nat) : List Byte :=
  (List.range n).map fun i => if b.poisoned shift (a + i) then 0#8 else Mem.byte b.bytes (a + i)

/-- Writes bytes: a unit written whole takes the poison `p`; a unit written in part keeps its mark, or gains it
when `p` holds (R273). -/
def Bank.writeP (b : Bank) (shift a : Nat) (bs : List Byte) (p : Bool) : Bank :=
  let n := bs.length
  let marks := (unitsOf shift a n).foldl (fun m u =>
    if p then SMap.put false m u true
    else if decide (a ≤ u * 2 ^ shift ∧ u * 2 ^ shift + 2 ^ shift ≤ a + n) then SMap.put false m u false
    else m) b.pois
  let m := Mem.setBytes b.bytes a bs
  { b with bytes := m, pois := marks, flips := b.flipsAfter m shift a n }

/-- The poison of the four 64 B lane groups of a 256 B read at `a` (R273). -/
def Bank.groups (b : Bank) (a : Nat) : BitVec 4 := groupMask fun g => b.anyPoison 6 (a + 64 * g) 64

/-- The open marks without those of a writer (R348). -/
def dropMarks (m : SMap Nat) (w : Nat) : SMap Nat := m.filter fun e => e.2 != w + 1

/-- Clears every open mark of context `w`: a release (R348). -/
def State.releaseMarks (s : State) (w : Nat) : State :=
  { s with abMark := dropMarks s.abMark w, spMark := dropMarks s.spMark w }

/-- Sets the open mark of the lines that `n` bytes at `a` touch: 1 + writer, or 0. -/
def setMarks (m : SMap Nat) (a n w : Nat) : SMap Nat := (unitsOf 6 a n).foldl (fun m u => SMap.put 0 m u w) m

/-- Zeroes the stamp tags of the 256 B units that `n` bytes at `a` touch (R468). -/
def zeroStamps (m : SMap (BitVec 32)) (a n : Nat) : SMap (BitVec 32) :=
  (unitsOf 8 a n).foldl (fun m u => SMap.put 0#32 m u 0#32) m

/-- Is a core's slice in recovery and test mode (SPCFG.RTM, R253)? -/
def State.rtm (s : State) (k : Nat) : Bool := bitAt (s.reg k 0x8D0) 0

/-- The 64 B line that holds a correction word. -/
def Bank.lineOf (b : Bank) (w : Nat) : Nat := w * 2 ^ b.word / 64

/-- The parity group of a 64 B line of SP, by key / 64 (R249, R253): the slice's line number in its banks and the group of
eight banks. Eight data lines and one parity line share it. -/
def parityGroup (line : Nat) : Nat := line / 8

/-- A byte of a parity bank (R253): the exclusive-OR of that line in the group's eight data banks. -/
def State.parityByte (s : State) (grp off : Nat) : Byte :=
  (List.range 8).foldl (fun v i => v ^^^ Mem.byte s.sp.bytes (64 * (8 * grp + i) + off)) 0#8

/-- A byte of a data line rebuilt from the other seven and parity (R253). -/
def State.rebuiltByte (s : State) (line off : Nat) : Byte :=
  (((List.range 8).filter fun i => 8 * parityGroup line + i != line).foldl
    (fun v i => v ^^^ Mem.byte s.sp.bytes (64 * (8 * parityGroup line + i) + off)) (s.parityByte (parityGroup line) off))

/-- Is an uncorrectable error of an SP line rebuilt from parity (R253): its slice is in recovery mode, no other line of its
group has one, and the parity line has none? -/
def State.rebuilds (s : State) (line : Nat) : Bool :=
  s.rtm (line / 2 ^ 14) && !(s.sp.flips.any fun e => decide (2 ≤ e.2.length ∧ parityGroup (s.sp.lineOf e.1) = parityGroup line ∧ s.sp.lineOf e.1 ≠ line))
    && !(s.parFlips.any fun e => decide (2 ≤ e.2.length ∧ e.1 / 8 = parityGroup line))

/-- SP as reads find it: what recovery mode rebuilds is no error (R253). -/
def State.spView (s : State) : Bank :=
  { s.sp with flips := s.sp.flips.filter fun e => !(decide (2 ≤ e.2.length) && s.rebuilds (s.sp.lineOf e.1)) }

/-- AB or SP, as reads find them. -/
def State.bankAS (s : State) (sp : Bool) : Bank := if sp then s.spView else s.ab

/-! ## Error counts (R417, R466) -/

/-- Updates the launch units, the Pantry and the services. -/
def State.updSvc (s : State) (f : Services → Services) : State := { s with svc := f s.svc }

/-- The error counters of a Pantry record. -/
def State.errs (s : State) (r : Nat) : ErrCount := SMap.at ErrCount.zero s.svc.errs r

/-- Updates the error counters of a record. -/
def State.updErrs (s : State) (r : Nat) (f : ErrCount → ErrCount) : State :=
  s.updSvc fun v => { v with errs := SMap.put ErrCount.zero v.errs r (f (s.errs r)) }

/-- Counts `n` error events on a record, at a location (R417): UE saturates at 16. -/
def State.countUE (s : State) (r n : Nat) (addr : Word) : State :=
  if n = 0 then s else s.updErrs r fun e => { e with ue := min 16 (e.ue + n), addr := addr }

/-- Counts a corrected error on a record, at a location (R417): CE saturates. -/
def State.countCE (s : State) (r : Nat) (addr : Word) : State :=
  s.updErrs r fun e => { e with ce := min 65535 (e.ce + 1), addr := addr }

/-- The memories of which `State.bank` keeps the errors (R264, R466); WB and ZB stand in the Griddles. -/
inductive MemKind where
  | ab | sp | tmem | imem | hbm
deriving DecidableEq, Repr

/-- log2 of the bytes of a unit of a memory. -/
def MemKind.shift : MemKind → Nat
  | .tmem => 4 | .imem => 2 | _ => 6

/-- A memory. -/
def State.bank (s : State) : MemKind → Bank
  | .ab => s.ab | .sp => s.sp | .tmem => s.tmem | .imem => s.imem | .hbm => s.hbm

/-- Replaces a memory. -/
def State.setBank (s : State) (m : MemKind) (b : Bank) : State :=
  match m with
  | .ab => { s with ab := b } | .sp => { s with sp := b } | .tmem => { s with tmem := b } | .imem => { s with imem := b }
  | .hbm => { s with hbm := b }

/-- The Pantry record that counts the errors of the unit at a key (R80, R221, R254, R264): the core's, or the stack's. -/
def MemKind.record (m : MemKind) (key : Nat) : Nat :=
  match m with
  | .ab | .sp => 10 + key / 2 ^ 20
  | .tmem => 10 + key / 2 ^ 16
  | .imem => 10 + key / 2 ^ 18
  | .hbm => 1610 + 6 * (key / 2 ^ 39) + key % 2 ^ 39 / 4096 % 6

/-- The location of a key in the ADDR form of R274. -/
def MemKind.addr (m : MemKind) (key : Nat) : Word :=
  toWord (match m with
    | .ab => 2 ^ 60 + key % 2 ^ 20 | .sp => 2 * 2 ^ 60 + key % 2 ^ 26 | .tmem => 5 * 2 ^ 60 + key % 2 ^ 16
    | .imem => 6 * 2 ^ 60 + key % 2 ^ 18 | .hbm => 7 * 2 ^ 60 + key % 2 ^ 39)

/-- Does an access of `n` bytes at `a` correct a word of the unit (R466)? -/
def Bank.corrects (b : Bank) (shift unit a n : Nat) : Bool :=
  b.flips.any fun e => decide (e.2.length = 1 ∧ e.1 * 2 ^ b.word / 2 ^ shift = unit ∧ a < e.1 * 2 ^ b.word + 2 ^ b.word ∧
    e.1 * 2 ^ b.word < a + n)

/-- Counts an uncorrectable error of SP once, by its number in `spSeen`. -/
def State.countSeen (s : State) (i key : Nat) : State :=
  if SMap.at false s.spSeen i then s
  else { s.countUE (MemKind.sp.record key) 1 (MemKind.sp.addr key) with spSeen := SMap.put false s.spSeen i true }

/-- Recovery mode rebuilds a line of SP (R253): its error counts once, and so does a correction of the parity line. -/
def State.noticeRebuilt (s : State) (u : Nat) : State :=
  let t := s.countSeen u (64 * u)
  if s.parFlips.any fun e => decide (e.2.length = 1 ∧ e.1 / 8 = parityGroup u) then
    t.countCE (MemKind.sp.record (64 * u)) (MemKind.sp.addr (64 * u))
  else t

/-- An access of `n` bytes at a key finds the errors of one unit that it touches (R466): a poisoned unit counts nothing; an
uncorrectable word counts one UE, the first time that it is found, and sets the poison, unless recovery mode rebuilds it; words
that the access corrects count one CE. -/
def State.noticeUnit (s : State) (m : MemKind) (key n u : Nat) : State :=
  let b := s.bank m
  let at_ := u * 2 ^ m.shift
  if SMap.at false b.pois u then s
  else if b.worn m.shift u 2 then
    if m = .sp && s.rebuilds u then s.noticeRebuilt u
    else
      let t := if m = .sp then s.countSeen u at_ else s.countUE (m.record at_) 1 (m.addr at_)
      t.setBank m { b with pois := SMap.put false b.pois u true }
  else if b.corrects m.shift u key n then s.countCE (m.record at_) (m.addr at_) else s

/-- An access that reads `n` bytes at a key finds the errors of the units that it touches. -/
def State.notice (s : State) (m : MemKind) (key n : Nat) : State :=
  if (s.bank m).flips.isEmpty then s else (unitsOf m.shift key n).foldl (fun t u => t.noticeUnit m key n u) s

/-- A read of AB or SP finds the errors of the lines that it touches. -/
def State.noticeAS (s : State) (sp : Bool) (key n : Nat) : State := s.notice (if sp then .sp else .ab) key n

/-- A write of `n` bytes at a key reads the correction words that it covers in part, and finds their errors (R466). -/
def State.noticeEdges (s : State) (m : MemKind) (key n : Nat) : State :=
  let w := 2 ^ (s.bank m).word
  let one (t : State) (x : Nat) : State := if key ≤ x * w ∧ x * w + w ≤ key + n then t else t.notice m (x * w) w
  if (s.bank m).flips.isEmpty || n == 0 then s
  else if key / w = (key + n - 1) / w then one s (key / w)
  else one (one s (key / w)) ((key + n - 1) / w)

/-- A write of SP brings the parity words up to date (R253, R466): a wrong bit of one is corrected and counted; an
uncorrectable parity word stays so, and counts once. -/
def State.noticeParity (s : State) (key n : Nat) : State :=
  if s.parFlips.isEmpty then s
  else
    let meets (i : Nat) : Bool := (unitsOf 3 key n).any fun w => parityGroup (w / 8) * 8 + w % 8 == i
    let at_ (i : Nat) : Nat := 64 * (8 * (i / 8))
    let t := (s.parFlips.filter fun e => meets e.1).foldl (fun t e =>
      if e.2.length = 1 then t.countCE (MemKind.sp.record (at_ e.1)) (MemKind.sp.addr (at_ e.1))
      else t.countSeen (2 ^ 40 + e.1) (at_ e.1)) s
    { t with parFlips := t.parFlips.filter fun e => !(meets e.1 && e.2.length == 1) }

/-- A write of AB or SP bytes from key `a`: bytes, poison, stamp tags to 0, and the open mark `w` (0 none, 1 + X). -/
def State.writeAS (s : State) (sp : Bool) (a : Nat) (bs : List Byte) (p : Bool) (w : Nat) : State :=
  if sp then
    let t := (s.noticeEdges .sp a bs.length).noticeParity a bs.length
    let b := t.sp.writeP 6 a bs p
    { t with sp := b, spStamp := zeroStamps t.spStamp a bs.length, spMark := setMarks t.spMark a bs.length w,
             spSeen := t.spSeen.filter fun e => decide (2 ^ 40 ≤ e.1) || b.worn 6 e.1 2 }
  else
    let t := s.noticeEdges .ab a bs.length
    { t with ab := t.ab.writeP 6 a bs p, abStamp := zeroStamps t.abStamp a bs.length, abMark := setMarks t.abMark a bs.length w }

/-! ## The Pantry's mirror (R52) -/

/-- A Pantry record of the hardware mirror. -/
def State.pan (s : State) (r : Nat) : PanRec := SMap.at PanRec.zero s.svc.pantry.recs r

/-- Is the record's unit FENCED (R54)? -/
def State.fenced (s : State) (r : Nat) : Bool := (s.pan r).state == 2

/-! ## Windows (R247) -/

/-- Is the offset range inside the partition's window `num` (0x8A0 ABWIN, 0x8B0 SPWIN)? Supervisors are unbounded. -/
def State.inWindow (s : State) (sup : Bool) (num part off n : Nat) : Bool :=
  let w := s.reg 0 (num + part)
  sup || decide (65536 * bits w 0 5 ≤ off ∧ off + n ≤ 65536 * bits w 8 5)

/-! ## HBM (R262 to R264) and the undo log (R419) -/

/-- The key of a die-local physical address. -/
def hbmKey (die pa : Nat) : Nat := die * 2 ^ 39 + pa

/-- The end of a die's physical memory (R262). -/
def hbmSize : Nat := 0x4800000000

/-- How many entries a partition's undo region on a die has in use (R419). -/
def State.undoUsed (s : State) (part die : Nat) : Nat :=
  (s.gangs.filter fun g => g.part == part).foldl (fun n g =>
    n + (g.undo.filter fun u => match u with | .line d _ _ _ => d == die | .sync _ _ => false).length) 0

/-- Logs one line before a gang's first write to it, if the gang logs (R419, R423). -/
def State.logLine (s : State) (g die pa : Nat) : State :=
  match s.gang g with
  | none => s
  | some gg =>
    let u := s.reg die (0x980 + gg.part)
    if !bitAt u 63 then s.updGang g fun x => { x with nolog := true }
    else if gg.undo.any (fun e => match e with | .line d p _ _ => d == die && p == pa | .sync _ _ => false) then s
    else if decide (512 * bits u 0 16 ≤ s.undoUsed gg.part die) then s.updGang g fun x => { x with nolog := true }
    else
      let k := hbmKey die pa
      s.updGang g fun x => { x with undo := .line die pa (Mem.bytes s.hbm.bytes k 64) (s.hbm.poisoned 6 k) :: x.undo }

/-- Writes HBM bytes for an agent of gang `g` (0 none): the lines are logged first. -/
def State.writeHbmNow (s : State) (g die pa : Nat) (bs : List Byte) (p : Bool) : State :=
  let s1 := (unitsOf 6 pa bs.length).foldl (fun t u => t.logLine g die (u * 64)) (s.noticeEdges .hbm (hbmKey die pa) bs.length)
  let h := s1.hbm.writeP 6 (hbmKey die pa) bs p
  let whole (u : Nat) : Bool := decide (hbmKey die pa ≤ 64 * u ∧ 64 * u + 64 ≤ hbmKey die pa + bs.length)
  let seen := (unitsOf 6 (hbmKey die pa) bs.length).foldl (fun m u => if p || whole u then SMap.put false m u false else m) s1.hbmSeen
  { s1 with hbm := h, hbmSeen := seen.filter fun e => SMap.at false h.pois e.1 }

/-- A line of HBM that is written whole, unit by unit, needs nothing that its code finds wrong in it; an uncorrectable one stays
poisoned up to its last unit (R264, R273). -/
def Bank.openLine (b : Bank) (u : Nat) : Bank :=
  { b with pois := if b.worn 6 u 2 then SMap.put false b.pois u true else b.pois, flips := SMap.put [] b.flips u [] }

/-- Writes one unit of a line of HBM that an access writes whole (R339); the last unit of a clean line clears its poison
(R273). -/
def State.writeHbmUnit (s : State) (g die pa : Nat) (bs : List Byte) (p last : Bool) : State :=
  let k := hbmKey die pa
  let s1 := { s with hbm := s.hbm.openLine (k / 64) }.logLine g die (pa / 64 * 64)
  let h := s1.hbm.writeP 6 k bs p
  if p || last then
    { s1 with hbm := if p then h else h.mark 6 k false, hbmSeen := SMap.put false s1.hbmSeen (k / 64) false }
  else { s1 with hbm := h }

/-- Does a range of a die's memory meet the page that is being migrated there (R425)? -/
def State.pageMoving (s : State) (die pa n : Nat) : Bool :=
  match (SMap.at MigUnit.idle s.svc.migs die).run with
  | some m => m.size != 0 && decide (pa < m.src + 2 ^ m.size ∧ m.src < pa + n)
  | none => false

/-- Writes HBM bytes for an agent of gang `g` (0 none). A write of a page that is being migrated is held at the die (R425). -/
def State.writeHbm (s : State) (g die pa : Nat) (bs : List Byte) (p : Bool) : State :=
  if s.pageMoving die pa bs.length then
    let u := SMap.at MigUnit.idle s.svc.migs die
    s.updSvc fun v => { v with migs := SMap.put MigUnit.idle v.migs die { u with held := u.held ++ [(pa, bs, p, g)] } }
  else s.writeHbmNow g die pa bs p

/-! ## Translation (R266 to R271) -/

/-- Why a global access faults: the CODE, the walk level (R274), and for WALKPOIS the die and the physical address
of the poisoned entry. -/
structure AFault where
  code : Nat
  level : Nat
  die : Nat
  pa : Nat
deriving DecidableEq, Repr

/-- The table index of a level (R268). -/
def walkIndex (off level : Nat) : Nat :=
  match level with
  | 0 => natBits off 39 11
  | 1 => natBits off 30 9
  | 2 => natBits off 21 9
  | _ => natBits off 16 5

/-- Does an entry break a rule of R269 at this level, or point past the die's memory (R270)? -/
def badEntry (e : Word) (level : Nat) : Bool :=
  let leaf := bitAt e 60
  let pa := bits e 8 31 * 256
  bits e 39 20 != 0 || bits e 0 8 != 0 || decide (hbmSize ≤ pa)
  || (decide (level ≤ 1) && leaf) || (decide (level = 3) && !leaf)
  || (!leaf && (bitAt e 62 || bitAt e 61 || bitAt e 59 || (decide (level ≤ 1) && bits e 8 4 != 0)))
  || (leaf && decide (level = 3) && bits e 8 8 != 0) || (leaf && decide (level = 2) && bits e 8 13 != 0)

/-- The permission checks on a leaf (R270). -/
def leafFault (e : Word) (sup write : Bool) : Option Nat :=
  if bitAt e 59 && !sup then some 4
  else if write && !bitAt e 62 && !bitAt e 61 then some 2
  else if write && bitAt e 61 then some 3
  else none

/-- The walk from a level with its table's physical address: the leaf with log2 of its page size (R268 to R270). -/
def State.walk (s : State) (die off : Nat) (sup write : Bool) : Nat → Nat → Nat → Except AFault (Word × Nat)
  | 0, _, _ => .error ⟨5, 3, 0, 0⟩
  | fuel + 1, level, table =>
    let k := hbmKey die (table + 8 * walkIndex off level)
    let e := Mem.word s.hbm.bytes k
    if s.hbm.poisoned 6 k then .error ⟨6, level, die, table + 8 * walkIndex off level⟩
    else if !bitAt e 63 then .error ⟨1, level, 0, 0⟩
    else if badEntry e level then .error ⟨5, level, 0, 0⟩
    else if bitAt e 60 then
      match leafFault e sup write with
      | some c => .error ⟨c, level, 0, 0⟩
      | none => .ok (e, if level = 2 then 21 else 16)
    else State.walk s die off sup write fuel (level + 1) (bits e 8 31 * 256)

/-- The entries that a walk reads, by physical address (R268). -/
def State.walkReads (s : State) (die off : Nat) : Nat → Nat → Nat → List Nat
  | 0, _, _ => []
  | fuel + 1, level, table =>
    let a := table + 8 * walkIndex off level
    let e := Mem.word s.hbm.bytes (hbmKey die a)
    if s.hbm.poisoned 6 (hbmKey die a) || !bitAt e 63 || badEntry e level || bitAt e 60 then [a]
    else a :: State.walkReads s die off fuel (level + 1) (bits e 8 31 * 256)

/-- The number of an address space: a partition, or 16 for the supervisor's (R268). -/
def spaceOf (sup : Bool) (part : Nat) : Nat := if sup then 16 else part

/-- The root register of an address space (R268, R276). -/
def rootOf (space : Nat) : Nat := if space = 16 then 0x8F2 else 0x8E0 + space

/-- Is the package number of an address the device's own (R266, R376)? -/
def State.ownPackage (s : State) (va : Word) : Bool := decide (bits va 51 9 = bits (s.reg 0 0x940) 0 9)

/-- The physical address of a leaf for an offset. -/
def leafPa (leaf : Word) (size off : Nat) : Nat := bits leaf 8 31 * 256 + off % 2 ^ size

/-- The cached translations of an offset that a requester may use: those of the die's memory-side TLB and, for a core of the
die, of its first-level TLB (R267). -/
def State.tlbHits (s : State) (core : Option Nat) (die space off : Nat) : List TlbEntry :=
  s.tlb.filter fun e => (e.core.isNone || e.core == core) && e.die == die && e.space == space &&
    decide (e.base ≤ off ∧ off < e.base + 2 ^ e.size)

/-- Translates an offset on its owner die for a requester of a core (none for the units of a die): any translation that
is cached may be used until TLBINV removes it, or the tables are walked (R267, log 10). -/
def State.translate (s : State) (core : Option Nat) (die space off : Nat) (sup write : Bool) : Except AFault (Nat × Word × Nat) :=
  let hits := s.tlbHits core die space off
  let root := s.reg die (rootOf space)
  let walked : Except AFault (Nat × Word × Nat) :=
    if !bitAt root 63 then .error ⟨1, 0, 0, 0⟩
    else match s.walk die off sup write 4 0 (bits root 14 25 * 16384) with
      | .ok (e, n) => .ok (leafPa e n off, e, n)
      | .error f => .error f
  match hits[Config.tlbPick s.tick % (hits.length + 1)]? with
  | none => walked
  | some t =>
    match leafFault t.leaf sup write with
    | some c => .error ⟨c, if t.size = 21 then 2 else 3, 0, 0⟩
    | none => .ok (leafPa t.leaf t.size off, t.leaf, t.size)

/-- A list without the entries of a kind past the first `n`. -/
def trimTlb (p : TlbEntry → Bool) : Nat → List TlbEntry → List TlbEntry
  | _, [] => []
  | n, e :: l => if p e then (match n with | 0 => trimTlb p 0 l | m + 1 => e :: trimTlb p m l) else e :: trimTlb p n l

/-- Keeps a translation that succeeded (R270): in the die's memory-side TLB of 16,384 entries, and in the first-level TLB of
64 entries of a requester's core that lies on the die (R267). Older translations of the page stay until TLBINV removes them
or newer entries displace them. -/
def State.cacheTlb (s : State) (core : Option Nat) (die space off : Nat) (leaf : Word) (size : Nat) : State :=
  let e : TlbEntry := ⟨none, die, space, off / 2 ^ size * 2 ^ size, size, leaf⟩
  let first := if core.map dieOf = some die then [{ e with core := core }] else []
  let l := (first ++ [e]) ++ s.tlb.filter fun x => x != e && !first.contains x
  { s.ticked with tlb := trimTlb (fun x => x.core.isSome && x.core == core) 64 (trimTlb (fun x => x.core.isNone && x.die == die) 16384 l) }

/-- A translation that walks the tables finds the errors of the entries that it reads (R264, R417). -/
def State.noticeTables (s : State) (core : Option Nat) (die space off : Nat) : State :=
  let hits := s.tlbHits core die space off
  let root := s.reg die (rootOf space)
  if s.hbm.flips.isEmpty || (Config.tlbPick s.tick % (hits.length + 1) != hits.length) || !bitAt root 63 then s
  else (s.walkReads die off 4 0 (bits root 14 25 * 16384)).foldl (fun t a => t.notice .hbm (hbmKey die a) 8) s

/-- A local global address for a requester of a core: its die and physical address, or the fault; the state keeps the
translation. -/
def State.resolveAt (s : State) (core : Option Nat) (va : Word) (part : Nat) (sup write : Bool) : State × Except AFault (Nat × Nat) :=
  if bits va 60 4 != 0 then (s, .error ⟨9, 0, 0, 0⟩)
  else
    let die := bits va 50 1
    let off := bits va 0 50
    match s.translate core die (spaceOf sup part) off sup write with
    | .error f => ((s.noticeTables core die (spaceOf sup part) off).ticked, .error f)
    | .ok (pa, leaf, n) => ((s.noticeTables core die (spaceOf sup part) off).cacheTlb core die (spaceOf sup part) off leaf n, .ok (die, pa))

/-- A local global address for a unit of a die, which has no first-level TLB (R267). -/
def State.resolve (s : State) (va : Word) (part : Nat) (sup write : Bool) : State × Except AFault (Nat × Nat) :=
  s.resolveAt none va part sup write

/-! ## Operating points (R75 to R77) -/

/-- Is the core the second of a pair in protected mode (R64, R65)? -/
def State.pairSecond (s : State) (k : Nat) : Bool := decide (k % 2 = 1) && (s.core (k - 1)).prot

/-- The CAP of a record; while a commit is applied, the lower of the old and the new one (R56, step 1). A hardware fence leaves
the CAP of its record. -/
def State.capOf (s : State) (r : Nat) : Nat :=
  let c := (s.pan r).cap
  match s.svc.pantry.queue with
  | [] => c
  | ch :: _ => if ch.hw then c else match ch.recs.find? fun e => e.1 == r with
    | some e => min c e.2.cap
    | none => c

/-- The highest requested point among the running contexts of a core, or 0 (R76). -/
def State.wantedPoint (s : State) (k : Nat) : Nat :=
  (List.range 4).foldl (fun m j => let c := s.ctx (4 * k + j); if c.st = .running ∧ !c.exiting then max m c.y.opReq.toNat else m) 0

/-- Does the context own its core's Griddle (R305)? -/
def Ctx.grdOwner (c : Ctx) : Bool := bitAt c.y.ctxfeat 3 && (c.st != .free)

/-- Has the core a Griddle owner (R305)? -/
def State.hasGrdOwner (s : State) (k : Nat) : Bool := (List.range 4).any fun j => (s.ctx (4 * k + j)).grdOwner

/-- The cap of a core's domain (R76). -/
def State.coreCap (s : State) (k : Nat) : Nat :=
  let c := min (s.capOf (10 + k)) (min (s.capOf (2 + clusterOf k)) (s.capOf (dieOf k)))
  if s.hasGrdOwner k then min c (s.capOf (522 + octetOf k)) else c

/-- The cores that share an operating point: a protected pair, or the core alone (R65). -/
def State.opGroup (s : State) (k : Nat) : List Nat :=
  if s.pairSecond (k / 2 * 2 + 1) then [k / 2 * 2, k / 2 * 2 + 1] else [k]

/-- The cap of a core's operating point: a protected pair runs under the lower of its two caps (R65). -/
def State.groupCap (s : State) (k : Nat) : Nat := (s.opGroup k).foldl (fun m x => min m (s.coreCap x)) 7

/-- The point that a core's domain should run at (R65, R76). -/
def State.corePoint (s : State) (k : Nat) : Nat :=
  min ((s.opGroup k).foldl (fun m x => max m (s.wantedPoint x)) 0) (s.groupCap k)

/-- The point that an octet's domain should run at: the highest among its cores, those that rise included, under the
GRIDDLE record's CAP (R77). -/
def State.octetPoint (s : State) (o : Nat) : Nat :=
  min (s.capOf (522 + o)) ((List.range 8).foldl (fun m i =>
    let c := s.core (8 * o + i)
    max m (max c.opcur.toNat ((c.settling.map BitVec.toNat).getD 0))) 0)

/-- Starts the settling of an octet's domain when its point differs; it falls after the cores of its Griddle owners have
fallen (R77). -/
def State.retargetOctet (s : State) (o : Nat) : State :=
  let u := s.octet o
  let p := s.octetPoint o
  let above := (List.range 8).any fun i => s.hasGrdOwner (8 * o + i) && decide (p < (s.core (8 * o + i)).opcur.toNat)
  if u.settling.isSome || u.op.toNat == p || (decide (p < u.op.toNat) && above) then s
  else { s with octets := SMap.put Octet.reset s.octets o { u with settling := some (BitVec.ofNat 3 p) } }

/-- Starts the settling of a core's domain when its point differs; a domain that settles finishes first (R77). -/
def State.retarget (s : State) (k : Nat) : State :=
  let p := s.corePoint k
  let t := (s.opGroup k).foldl (fun t x =>
    let c := t.core x
    if c.settling.isSome || c.opcur.toNat == p then t
    else t.updCore x fun c => { c with settling := some (BitVec.ofNat 3 p) }) s
  t.retargetOctet (octetOf k)

/-! ## Record rings (R274, R275) -/

/-- A ring's state: 0 to 15 FRINGn, 16 to 31 ERINGn, 32 + d SVRING. -/
def State.ring (s : State) (i : Nat) : Ring := SMap.at Ring.none s.rings i

/-- log2 of the ring's records; 0 means no ring. -/
def Ring.logn (r : Ring) : Nat := bits r.force 0 5

/-- Is the ring full or absent? -/
def Ring.full (r : Ring) : Bool :=
  decide (r.logn = 0 ∨ (r.tail - r.head).toNat = 2 ^ r.logn)

/-- Takes a pending write of the ring register once the ring is drained (R275, item 4). -/
def Ring.settle (r : Ring) : Ring :=
  if r.pending ∧ r.head = r.tail then ⟨r.reg, r.reg, 0#17, 0#17, 0#16, false⟩ else r

/-- Wakes the HALTED supervisor contexts of a die (R160). -/
def State.wakeHalted (s : State) (die : Nat) : State :=
  let wake (a : Nat) (c : Ctx) : Ctx :=
    if c.st = .halted ∧ a < 2048 ∧ dieOf (coreOf a) = die then { c with st := .running } else c
  let t := { s with c := wake s.who s.c, parked := s.parked.map fun e => (e.1, wake e.1 e.2) }
  (((s.who, s.c) :: s.parked).filter fun e => (wake e.1 e.2).st != e.2.st).foldl (fun t e => t.retarget (coreOf e.1)) t

/-- Posts one 32-byte record on ring `i`: written by the rights of the ring's space, then TAIL advances; a full or
unwritable ring drops it (R275). -/
def State.post (s : State) (i : Nat) (rec : List Byte) : State :=
  let r := s.ring i
  let sup := decide (32 ≤ i)
  let part := if sup then 0 else i % 16
  let put (t : State) (r' : Ring) : State := { t with rings := SMap.put Ring.none t.rings i r' }
  let dropped (t : State) : State := put t { r with drop := BitVec.ofNat 16 (min 65535 (r.drop.toNat + 1)) }
  if r.full then dropped s
  else
    let va := toWord (bits r.force 12 48 * 4096 + 32 * (r.tail.toNat % 2 ^ r.logn))
    if !s.ownPackage va then dropped s
    else match s.resolve va part sup true with
      | (t, .error _) => dropped t
      | (t, .ok (die, pa)) =>
        let t1 := put (t.writeHbm 0 die pa rec false) { r with tail := r.tail + 1#17 }
        if sup && decide (i < 64) then t1.wakeHalted (i - 32) else t1

/-- Posts a record on the fault ring of a partition: FLTCNT counts it when it is not dropped (R51). -/
def State.postCounted (s : State) (part : Nat) (rec : List Byte) : State :=
  let t := s.post part rec
  if (t.ring part).tail = (s.ring part).tail then t
  else { t with fltcnt := SMap.put 0#32 t.fltcnt part (SMap.at 0#32 s.fltcnt part + 1#32) }

/-- Posts a fault record of a partition with its SEQ (R51, R274). -/
def State.postFault (s : State) (part : Nat) (rec : List Byte) : State :=
  s.postCounted part (rec.take 28 ++ natLe (SMap.at 0#32 s.fltcnt part + 1#32).toNat 4)

/-- Posts a record: to a partition's fault ring with its SEQ, or to a die's SVRING (R275). -/
def State.postRing (s : State) (i : Nat) (rec : List Byte) : State := if 16 ≤ i then s.post i rec else s.postFault i rec

/-- The 32 bytes of a record from its fields: offset, size, value; later fields win, other bytes are zero. -/
def recordBytes (fs : List (Nat × Nat × Nat)) : List Byte :=
  natLe (fs.foldl (fun acc f => acc + f.2.2 % 256 ^ f.2.1 * 256 ^ f.1) 0) 32

/-- Who makes an access, for its records (R274). -/
structure Req where
  part : Nat
  sup : Bool
  ctx : Nat
  agent : Nat
  die : Nat
  lcc : Word
  pc : Word
  gang : Nat
deriving DecidableEq, Repr

/-- The core whose first-level TLB translates a requester's addresses: contexts, Ladles and the engines of a core (R267). -/
def Req.core (q : Req) : Option Nat := if q.agent ≤ 4 ∧ q.ctx < 2048 then some (coreOf q.ctx) else none

/-- A requester's local global address. -/
def State.resolveFor (s : State) (q : Req) (va : Word) (write : Bool) : State × Except AFault (Nat × Nat) :=
  s.resolveAt q.core va q.part q.sup write

/-- A MEMPOISON record of a requester goes to the partition's fault ring, or, for a read made for a supervisor
context, to the SVRING of the die whose unit reads (R264). -/
def State.postReq (s : State) (q : Req) (rec : List Byte) : State :=
  if q.sup then s.post (32 + q.die) rec else s.postFault q.part rec

/-- The access record of R274. -/
def State.postAccess (s : State) (q : Req) (code flags : Nat) (addr : Word) : State :=
  s.postFault q.part (recordBytes [(0, 1, 0x10), (1, 1, q.part), (2, 2, q.ctx), (4, 1, q.agent), (5, 1, code), (6, 2, flags),
    (8, 8, addr.toNat), (16, 8, q.lcc.toNat), (24, 4, q.pc.toNat)])

/-- The FLAGS field of a global access's record: level, write, crossed the die bridge (R274). -/
def accessFlags (q : Req) (va : Word) (level : Nat) (write : Bool) : Nat :=
  level % 4 + 4 * boolNat write + 8 * boolNat (decide (bits va 50 1 ≠ q.die))

/-- The first read of a poisoned line of HBM posts MEMPOISON with the requester's address (R264, R274). -/
def State.noticePoison (s : State) (q : Req) (va : Word) (die pa n : Nat) : State :=
  (unitsOf 6 (hbmKey die pa) n).foldl (fun t u =>
    if SMap.at false t.hbm.pois u && !SMap.at false t.hbmSeen u then
      { t with hbmSeen := SMap.put false t.hbmSeen u true }.postReq q
        (recordBytes [(0, 1, 0x11), (1, 1, q.part), (2, 2, q.ctx), (4, 1, q.agent), (6, 2, 8 * boolNat (decide (die ≠ q.die))),
          (8, 8, va.toNat), (16, 8, q.lcc.toNat), (24, 4, q.pc.toNat)])
    else t) (s.notice .hbm (hbmKey die pa) n)

/-- The ADDR of a read that has no virtual address: space 7 and the die-local physical address (R274). -/
def physAddr (pa : Nat) : Word := toWord (7 * 2 ^ 60 + pa % 2 ^ 39)

/-- A faulting global access posts its record (R272, R274); a poisoned walk entry was read first, by the walker of its own die
(R264). -/
def State.globFault (s : State) (q : Req) (f : AFault) (va : Word) (write : Bool) : State :=
  let s1 := if f.code = 6 then s.noticePoison { q with die := f.die } (va &&& toWord (2 ^ 60 - 1)) f.die f.pa 8 else s
  s1.postAccess q f.code (accessFlags q va f.level write) (va &&& toWord (2 ^ 60 - 1))

/-- The walk of a faulting access reads its poisoned entry, if that is what it met (R264, R270). -/
def State.noticeWalk (s : State) (q : Req) (va : Word) (write : Bool) : State :=
  let die := bits va 50 1
  let root := s.reg die (rootOf (spaceOf q.sup q.part))
  match s.walk die (bits va 0 50) q.sup write 4 0 (bits root 14 25 * 16384) with
  | .error f => if f.code = 6 then s.noticePoison { q with die := f.die } (va &&& toWord (2 ^ 60 - 1)) f.die f.pa 8 else s
  | .ok _ => s

/-- A read of `n` global bytes of this package inside one page, as one access: the bytes and whether a line is
poisoned, or the fault. -/
def State.readGlob (s : State) (q : Req) (va : Word) (n : Nat) : State × Except AFault (List Byte × Bool) :=
  match s.resolveFor q va false with
  | (t, .error f) => (t, .error f)
  | (t, .ok (die, pa)) =>
    let k := hbmKey die pa
    (t.noticePoison q va die pa n, .ok (t.hbm.readZ 6 k n, t.hbm.anyPoison 6 k n))

/-- A write of global bytes of this package inside one page. -/
def State.writeGlob (s : State) (q : Req) (va : Word) (bs : List Byte) (p : Bool) : State × Option AFault :=
  match s.resolveFor q va true with
  | (t, .error f) => (t, some f)
  | (t, .ok (die, pa)) => (t.writeHbm q.gang die pa bs p, none)

/-! ## Who is asking -/

/-- The record context of a partition's or supervisor's agent. -/
def State.reqOf (s : State) (a : Nat) : Req :=
  let x := s.ownerOf a
  let c := s.ctx x
  let me := s.ctx a
  let base := toWord c.y.spanBase
  { part := c.y.part, sup := c.y.sup, ctx := x,
    agent := if isLadle a then 1 + (a - 2048) % 2 else 0,
    die := dieOf (coreOf a), lcc := if isLadle a then me.f.lcc else s.issue.redo.getD c.f.lcc, pc := s.issue.pc - base, gang := c.y.gang }

/-- The requester of an elastic operation. -/
def State.reqOfOp (s : State) (o : Op) : Req :=
  let c := s.ctx o.owner
  { part := c.y.part, sup := c.y.sup, ctx := o.owner,
    agent := if isLadle o.agent then 1 + (o.agent - 2048) % 2 else 0,
    die := dieOf (coreOf o.agent), lcc := o.cyc, pc := o.pc, gang := c.y.gang }

/-- The agent code of a command's records (R274): Ladle, copy engine or Griddle. -/
def Cmd.agentCode (m : Cmd) : Nat :=
  match m.unit with
  | .copy _ => 3
  | .ladle l => 1 + l % 2
  | .griddle _ => 4
  | .fabric => if isLadle m.agent then 1 + m.agent % 2 else 0
  | .launch _ => 6

/-- The requester of an engine command: PC is 0 for engines (R274). -/
def Cmd.req (m : Cmd) : Req :=
  { part := m.part, sup := m.sup, ctx := m.owner, agent := m.agentCode, die := dieOf m.core, lcc := m.cyc,
    pc := if m.agentCode ≤ 2 then m.pc else 0#64, gang := m.gang }

/-! ## Channels of a context (R258) -/

/-- Channel `n` of a context (R258). -/
def Ctx.chan (c : Ctx) (n : Nat) : Chan := SMap.at Chan.zero c.y.chans n

/-- Updates channel `n`. -/
def Ctx.updChan (c : Ctx) (n : Nat) (f : Chan → Chan) : Ctx :=
  { c with y := { c.y with chans := SMap.put Chan.zero c.y.chans n (f (c.chan n)) } }

/-- The size of a channel in elements (R258). -/
def Chan.size (h : Chan) : Nat := bits h.cfg 0 13

/-- Takes back `n` reservations (R410, step 3). -/
def Chan.unreserve (h : Chan) (n : Nat) : Chan :=
  { h with res := h.res - BitVec.ofNat 16 n, ridx := if h.size = 0 then 0 else (h.ridx + h.size - n % h.size) % h.size }

/-! ## Scopes (R338) -/

/-- The narrowest scope that holds a location for an agent on a core (R338). -/
def State.scopeOfLoc (s : State) (core : Nat) : Loc → Nat
  | .ab _ => 1
  | .sp _ => 3
  | .phys die _ _ => if die = dieOf core then 4 else 5
  | .glob va => if !s.ownPackage va then 6 else if bits va 50 1 = dieOf core then 4 else 5

/-- The locations that an operation accesses. -/
def OpKind.locs : OpKind → List Loc
  | .read ls _ _ _ => ls.filterMap id
  | .write ws => ws.map (·.1)
  | .atom _ l _ _ _ => [l]
  | .amxacc l _ _ => [l]
  | .send _ t .. => [.glob t]
  | _ => []

/-- Has an operation been performed, or failed? -/
def Op.done (o : Op) : Bool := o.phase == .performed

/-- The locations that an operation touches: what it accesses, and the monitored word of WAITV and NOTIFY. -/
def OpKind.touches : OpKind → List Loc
  | .waitv va _ _ | .notify _ va => [.glob va]
  | k => k.locs

/-- Does the scope hold a location that the operation touches, for an agent on a core (R338)? -/
def State.inScope (s : State) (core scope : Nat) (o : Op) : Bool :=
  o.kind.touches.any fun l => decide (s.scopeOfLoc core l ≤ scope)

/-- Has a context accesses outstanding that a release of it at DIE scope follows, or a release itself (R340, R343)? -/
def State.unreleased (s : State) (x : Nat) : Bool :=
  s.ops.any fun o => o.agent == x && !o.done && (match o.kind with
    | .waitv .. => false
    | .release | .record .. => true
    | _ => s.inScope (coreOf x) 4 o)

/-- A release that agent `a` makes without an access, at a scope (R343): it is performed at once, unless accesses that it
follows are outstanding (R340, rule 3), those for which `waits` holds; it is then an operation. -/
def State.releaseFor (s : State) (a scope : Nat) (cyc : Word) (bun : Nat) (waits : Bool) : State :=
  if 2048 ≤ a then s
  else if waits then
    let o : Op := ⟨s.serial, a, a, .release, none, false, false, some scope, 6, cyc, 0#64, false, .issued, [], true, 0, bun, []⟩
    { s with ops := s.ops ++ [o] }.withSerial
  else s.releaseMarks a

/-! ## Stopping a context -/

/-- The lease of the core of a stopped context becomes EXPIRED, and is freed (R310). -/
def State.expireLease (s : State) (x : Nat) (st : Lease) : State :=
  if (s.ctx x).grdOwner then s.updGriddle (coreOf x) fun g => { g with lease := st, requesting := false } else s

/-- Frees the monitor entries of a context's waiting operations (R359). -/
def State.freeMonitors (s : State) (x : Nat) : State :=
  { s with monitors := s.monitors.filter fun m => !(s.ops.any fun o => o.id == m.op && o.agent == x) }

/-- Is the wait one that R404 re-executes when it is left? -/
def Wait.left : Wait → Bool
  | .waitv _ | .sync _ | .lease _ | .bar .. => true
  | .op _ => false

/-- The serial number of the operation that is waited for. -/
def Wait.id : Wait → Nat
  | .op i | .waitv i | .sync i | .lease i | .bar i _ _ => i

/-- A blocking slot whose wait is left (R404). -/
def Block.leave (b : Block) : Block := if b.wait.left then { b with redo := true } else b

/-- Leaves the waiting slots of a context (R404): each waiting operation is dropped and its slot is to be re-executed. -/
def State.leaveWait (s : State) (x : Nat) : State :=
  let f := (s.ctx x).f
  if !((f.blocked ++ f.saved.blocked).any fun b => b.wait.left) then s
  else
    let s1 := s.freeMonitors x
    let mine (o : Op) : Bool := o.agent == x && (match o.kind with
      | .waitv .. | .synWait .. | .lease | .bar .. => true | _ => false)
    let s2 := { s1 with ops := s1.ops.filter fun o => !mine o }
    s2.upd x fun c => { c with f := { c.f with
      blocked := c.f.blocked.map Block.leave, saved := { c.f.saved with blocked := c.f.saved.blocked.map Block.leave } } }

/-- Is an operation taken back with its Ladle's rewind (R410): a SYN.ADD or signal after the checkpoint that has not been
performed, or one that has its result already? Every other request completes, and its result is discarded. -/
def Op.takenBack (o : Op) (late : Nat → Bool) : Bool :=
  o.phase == .performed || (match o.kind with
    | .synAdd .. | .signal .. => late o.bundle
    | _ => false)

/-- Rewinds Ladle `l` to its checkpoint (R410): what lies after the checkpoint is taken back. A wait of the checkpoint's own bundle
is left, and issues again (R404); an operation of it that still blocks goes on blocking. -/
def State.rewindLadle (s : State) (l : Nat) : State :=
  let d := s.ladle l
  match d.serving, d.ckpt with
  | some x, some ck =>
    let a := 2048 + l
    let late (b : Nat) : Bool := decide (d.ckBundle < b)
    let gone := s.elems.filter fun e => e.agent == a && late e.bundle
    let s1 := { s with elems := s.elems.filter fun e => !(e.agent == a && late e.bundle) }
    let s2 := (List.range 8).foldl (fun t n =>
      t.upd x fun c => c.updChan n fun h => h.unreserve (gone.filter fun e => e.ch == n && e.ctx == x).length) s1
    let open_ (b : Block) : Bool := b.redo || s.ops.any fun o => o.id == b.wait.id && o.phase != .performed
    let ck := { ck with f := { ck.f with blocked := (ck.f.blocked.filter open_).map Block.leave } }
    let s3 := s2.leaveWait a
    let s4 := { s3 with
      ops := updWhere (fun o => o.agent == a) (fun o => { o with dest := none, result := [] })
        (s3.ops.filter fun o => !(o.agent == a && o.takenBack late)),
      cmds := (s3.cmds.filter fun (m : Cmd) => !(m.agent == a && late m.bundle && !m.started)).map fun (m : Cmd) =>
        if m.agent == a && late m.bundle then { m with discard := true } else m }
    (s4.setCtx a ck).updLadle l fun y => { y with snaps := [], bundle := y.ckBundle }
  | _, _ => s

/-- A context leaves RUNNING: a STOP that waits for it completes for that target with `code` (R158). -/
def State.leaveRunning (s : State) (x code : Nat) : State :=
  let f (o : Op) : Op := match o.kind with
    | .stop ts y w => if ts.contains x then { o with kind := .stop (ts.filter (· != x)) y (max w code) } else o
    | _ => o
  { s with ops := s.ops.map f }

/-- The code that a pre-emption reports: 4 FORCED when a forced STOP took effect (R158). -/
def StopReq.code (r : Option StopReq) (st : CtxState) : Nat :=
  match r with
  | some q => if q.forced && st == .preempted then 4 else 0
  | none => 0

/-- Stops a context in a stopped state: its waits are left, its lease expires, its Ladles rewind, and it releases at
DIE scope (R343, R404, R408, R410). -/
def State.parkCtx (s : State) (x : Nat) (st : CtxState) : State :=
  let k := coreOf x
  let s0 := (s.leaveWait x).expireLease x .expired
  let s1 := s0.releaseFor x 4 (s0.ctx x).f.lcc s0.serial (s0.unreleased x)
  let s2 := [2 * k, 2 * k + 1].foldl (fun t l => if (t.ladle l).serving = some x then t.rewindLadle l else t) s1
  (s2.upd x fun c => { c with st := st, y := { c.y with stop := none } }).retarget k

/-- Stops a context, and completes the STOP that waits for it (R158). -/
def State.stopCtx (s : State) (x : Nat) (st : CtxState) : State :=
  (s.leaveRunning x (StopReq.code (s.ctx x).y.stop st)).parkCtx x st

/-- Posts a record of a context that becomes SUSPENDED, which is a release at DIE scope (R343): where accesses that it orders
are outstanding, the record waits for them as an operation of the context (R340). -/
def State.postReleased (s : State) (x ring : Nat) (rec : List Byte) : State :=
  if !s.unreleased x then s.postRing ring rec
  else
    let o : Op :=
      ⟨s.serial, x, x, .record ring rec, none, false, false, some 4, 15, (s.ctx x).f.lcc, 0#64, false, .issued, [], true, 0, s.serial, []⟩
    { s with ops := s.ops ++ [o] }.withSerial

/-- The SUSPEND record of a context (R401); a supervisor context's goes to its die's SVRING under R420 only. -/
def State.postSuspendAt (s : State) (x reason kind pos : Nat) (einfo lcc pc : Word) : State :=
  let c := s.ctx x
  let r := recordBytes [(0, 1, 0x13), (1, 1, c.y.part), (2, 2, x), (4, 1, reason), (5, 1, kind), (6, 1, pos),
    (8, 8, einfo.toNat), (16, 8, lcc.toNat), (24, 4, pc.toNat)]
  s.postReleased x (if c.y.sup then 32 + dieOf (coreOf x) else c.y.part) r

/-- The logical cycle and the span offset of the bundle at which a context stands: the next one, or that of a waiting slot which
the stop leaves and which is to be re-executed (R401, R404). -/
def Ctx.stoppedAt (c : Ctx) : Word × Word :=
  match c.f.blocked.find? fun b => b.wait.left with
  | some b => (b.cyc, b.pc)
  | none => (c.f.lcc, c.f.pc - toWord c.y.spanBase)

/-- The SUSPEND record of a context that is stopped before its next bundle (R401). -/
def State.postSuspend (s : State) (x reason kind pos : Nat) (einfo : Word) : State :=
  let p := (s.ctx x).stoppedAt
  s.postSuspendAt x reason kind pos einfo p.1 p.2

/-- The contexts of a gang that a suspension stops: the RUNNING ones. -/
def State.gangContexts (s : State) (g : Nat) : List Nat :=
  match s.gang g with
  | none => []
  | some gg => (gg.members.map (·.2)).filter fun x => decide (x < 2048)

/-- Route G (R399): suspends the gang of context `x`, which is the member at fault; each stopped context posts a
SUSPEND record (R401). A supervisor context has no gang and is stopped alone. -/
def State.suspendGang (s : State) (x reason kind pos : Nat) (einfo : Word) : State :=
  let s1 := (s.postSuspend x reason kind pos einfo).stopCtx x .suspended
  ((s1.gangContexts (s1.ctx x).y.gang).filter fun m => m != x && ((s1.ctx m).st == .running) && !(s1.ctx m).exiting).foldl
    (fun t m => (t.postSuspend m 5 0 15 0#64).stopCtx m .suspended) s1

/-- Route C (R399): suspends a context alone with an ACCESS record and a SUSPEND record of REASON 7 (R401). -/
def State.suspendAccess (s : State) (x pos agent code flags : Nat) (addr : Word) : State :=
  let q := s.reqOf x
  let s0 := if code = 6 then s.noticeWalk q addr (natBits flags 2 1 == 1) else s
  let s1 := s0.postAccess { q with agent := agent } code flags addr
  (s1.postSuspendAt x 7 0 pos (toWord code) q.lcc q.pc).stopCtx x .suspended

/-! ## Taking a trap or event (R149) -/

/-- Handler entry: EPC, ECAUSE and EINFO are written, the interrupted code's ring, held results and positions are
saved, HM is set, HCC and the ring start afresh, and the PC is the handler's (R149). -/
def Ctx.enterHandler (c : Ctx) (k : TrapKind) (pos : Nat) (info epc : Word) : Ctx :=
  { c with
    e := { c.e with hm := true, epc := epc.setWidth 32, ecPos := pos, ecKind := k.code, einfo := info },
    f := { c.f with
      saved := ⟨c.f.ring, c.f.pos, c.f.pend, [], c.f.blocked⟩, ring := [], pos := [], pend := [], blocked := [], hcc := 0#64,
      pc := toWord c.y.spanBase + c.e.tvecOff.setWidth 64 } }

/-- Delivers a route-H kind to the issuing context (R149): into its handler, or, in handler mode or without one,
by suspending the gang. `epc` is the span offset to return to. -/
def State.deliver (s : State) (k : TrapKind) (pos : Nat) (info epc : Word) : State :=
  if s.c.e.hm || !s.c.e.tvecEn then s.suspendGang s.who 1 k.code pos info
  else { s with c := s.c.enterHandler k pos info epc }

/-- The IMEM base of the span in which the issuing agent runs (R78, R140). -/
def State.base (s : State) : Word := toWord (s.ctx (s.ownerOf s.who)).y.spanBase

/-- The span offset of the bundle that is next to issue. -/
def Ctx.pcOff (c : Ctx) : Word := c.f.pc - toWord c.y.spanBase

/-- The record of TYPE LADLE that a Ladle's trap posts (R256, R274). -/
def State.postLadle (s : State) (l : Nat) (k : TrapKind) : State :=
  let q := s.reqOf (2048 + l)
  let me := s.ctx (2048 + l)
  s.postFault q.part (recordBytes [(0, 1, 0x12), (1, 1, q.part), (2, 2, q.ctx), (4, 1, q.agent), (5, 1, k.code),
    (16, 8, me.f.lcc.toNat), (24, 4, (me.f.pc - toWord (s.ctx q.ctx).y.spanBase).toNat)])

/-- Ends the run of a Ladle (R298): it serves nobody, its SYN.ADDs and signals may be performed (R410), and the results of
its loads that are still to come write nothing. -/
def State.endRun (s : State) (l : Nat) : State :=
  let t := s.updLadle l fun y => { y with serving := none, stopping := false, snaps := [], ckpt := none }
  { t with ops := updWhere (fun o => o.agent == 2048 + l) (fun o => { o with ready := true, dest := none, result := [] }) t.ops }

/-- A Ladle's trap (R256): it stops, the run is FAULTED, and a record is posted; its context goes on. -/
def State.ladleTrap (s : State) (l : Nat) (k : TrapKind) : State :=
  let x := (s.ladle l).serving.getD 0
  let off := (s.ctx (2048 + l)).f.pc - toWord (s.ctx x).y.spanBase
  ((s.postLadle l k).endRun l).updLadle l fun d => { d with faults := SMap.put (0, 0#64) d.faults x (k.code, off) }

/-- Takes a precise trap of the issuing agent (R399, R400): route H delivers it, FEATURE suspends the gang. -/
def State.takeTrap (s : State) (k : TrapKind) (pos : Nat) (info : Word) : State :=
  if isLadle s.who then s.ladleTrap (s.who - 2048) k
  else match k with
    | .feature => s.suspendGang s.who 2 k.code pos info
    | _ => s.deliver k pos info s.c.pcOff

/-- Takes what stopped a bundle. -/
def State.takeStop (s : State) : Stop → State
  | .trap k pos info => s.takeTrap k pos info
  | .access pos agent code flags addr => s.suspendAccess s.who pos agent code flags addr

/-- A slot raises a precise trap (R400): the first stop of the bundle in canonical order stands, and it is taken. -/
def State.stopWith (s : State) (p : Stop) : State :=
  if s.issue.stop.isSome then s else (s.takeStop p).iss fun i => { i with stop := some p }

/-- A slot raises a precise trap of a kind. -/
def State.raise (s : State) (k : TrapKind) (info : Word) : State := s.stopWith (.trap k s.issue.pos info)

/-- A slot's condition of R115 holds: the bundle does not issue. The first reason (R368) stands. -/
def State.stallFor (s : State) (reason : Nat) : State :=
  s.iss fun i => { i with stall := i.stall.orElse fun _ => some (reason, i.pos, 0#64) }

/-! ## Results -/

/-- Issues a fixed-latency result of the executing slot: it lands at L + n (R111). -/
def State.hold (s : State) (n : Nat) (l : Landing) (ring : Option PVec) : State :=
  s.flow fun f => { f with pend := f.pend ++ [⟨s.c.now + toWord n, s.issue.pos, l, ring⟩] }

/-- Issues a scalar result. -/
def State.holdS (s : State) (n : Nat) (d : SReg) (v : Word) (p : Bool) : State :=
  s.hold n (.scal d.toNat v p) none

/-- Issues a predicate result. -/
def State.holdP (s : State) (n : Nat) (d : PReg) (v : Pred) (p : Bool) : State :=
  s.hold n (.pred d.toNat v p) none

/-- Issues a vector result; results of VA, VB, VC and FN enter the ring (R120). -/
def State.holdV (s : State) (n : Nat) (d : VReg) (v : PVec) : State :=
  s.hold n (.vec d.toNat v.v v.p) (if (ringSlot s.issue.pos).isSome then some v else none)

/-- A binding as it comes into force: it remembers the table that it replaces (R234). -/
def Ctx.replaceTab (c : Ctx) (k : Nat) (t : TabSlot) : TabSlot :=
  let old := SMap.at TabSlot.none c.y.tabs k
  { t with len := if t.st = .bound then t.len else 0,
           prev := if old.st = .bound then some (c.y.trbase + old.off, old.len, c.e.hm) else none }

/-- What a landing does to an agent's own registers; stores, system registers and ring entries act elsewhere. -/
def Ctx.land (c : Ctx) : Landing → Ctx
  | .vec r v p => { c with r := c.r.writeV r v p }
  | .scal r v p => { c with r := c.r.writeS r v p }
  | .pred r v p => { c with r := c.r.writeP r v p }
  | .fcr m v => { c with y := { c.y with fcr := (c.y.fcr &&& ~~~ m) ||| (v &&& m) } }
  | .bind k t => { c with y := { c.y with tabs := SMap.put TabSlot.none c.y.tabs k (c.replaceTab k t) } }
  | .pois k r on => { c with r := c.r.setPois k r on }
  | .sys _ _ | .store .. | .push .. | .ring => c

/-- The register or predicate that a landing writes, for tokens and the checking scoreboard. -/
def Landing.res : Landing → Option Res
  | .vec r _ _ => some (.v r)
  | .scal r _ _ => if r = 0 then none else some (.s r)
  | .pred r _ _ => some (.p r)
  | .pois k r _ => if k = 1 then some (.v r) else if r = 0 then none else if k = 0 then some (.s r) else some (.p r)
  | _ => none

/-- Does a register of the agent carry a token (R114)? In handler mode the interrupted code's tokens are saved and
do not count (R149). -/
def State.tokened (s : State) (a : Nat) (r : Res) : Bool :=
  s.ops.any fun o => o.agent == a && o.dest == some r && (o.hm == (s.ctx a).e.hm)

/-- The number of outstanding elastic operations of an agent (R117): one without a destination counts until its endpoint
has accepted it. -/
def State.outstanding (s : State) (a : Nat) : Nat :=
  (s.ops.filter fun o => o.agent == a && !(o.dest.isNone && o.phase == .sent) &&
    (match o.kind with | .signal .. | .record .. | .release => false | _ => true)).length

/-- The bytes of a location as a space and a range: 1 AB, 2 SP, 3 global by virtual address, 4 HBM by key, 5 TMEM. -/
def Loc.range (n : Nat) : Loc → Nat × Nat × Nat
  | .ab k => (1, k, k + n)
  | .sp k => (2, k, k + n)
  | .glob va => (3, bits va 0 60, bits va 0 60 + n)
  | .phys _ _ va => (3, bits va 0 60, bits va 0 60 + n)

/-- The bytes of a translated location in HBM: two addresses of one byte meet there. -/
def Loc.physRange (n : Nat) : Loc → List (Nat × Nat × Nat)
  | .phys die pa _ => [(4, hbmKey die pa, hbmKey die pa + n)]
  | _ => []

/-- The byte ranges that an operation touches. -/
def OpKind.ranges : OpKind → List (Nat × Nat × Nat)
  | .read ls z _ _ => (ls.filterMap id).map (Loc.range z)
  | .write ws => ws.map fun w => Loc.range w.2.length w.1
  | .atom _ l z _ _ => [Loc.range z l]
  | .amxacc l _ _ => [Loc.range 64 l]
  | .notify _ va | .waitv va _ _ => [Loc.range 8 (.glob va)]
  | .send op t aux p .. => Loc.range p.length (.glob t) :: (if op == 1#8 && aux != BitVec.allOnes 64 then [Loc.range 8 (.glob aux)] else [])
  | .sftLoad dst units => [(5, dst, dst + 16 * units.length)]
  | _ => []

/-- Do two operations touch a common byte? -/
def overlap (xs ys : List (Nat × Nat × Nat)) : Bool :=
  xs.any fun x => ys.any fun y => x.1 == y.1 && decide (x.2.1 < y.2.2 ∧ y.2.1 < x.2.2)

/-- Is an earlier operation of the issuing agent on these bytes still to be performed (R280)? -/
def State.ownPending (s : State) (r : Nat × Nat × Nat) (early : Op → Bool) : Bool :=
  s.ops.any fun o => o.agent == s.who && early o && o.phase != .performed && overlap o.kind.ranges [r]

/-- R280: an access to the agent's own memories stalls while an operation of an earlier bundle on the same bytes has not been
performed. -/
def State.ownStall (s : State) (l : Loc) (n : Nat) : State :=
  if s.ownPending (Loc.range n l) fun o => decide (o.bun < s.issue.serial0) then s.stallFor 6 else s

/-- Has an RLD of an earlier bundle of the agent an element that has not come from its package, or that it has not requested yet
(R379, R389)? A scope of POD holds it. -/
def State.rldOpen (s : State) (a scope : Nat) : Bool :=
  decide (6 ≤ scope) && ((s.elems.any fun e => e.agent == a && e.remote && !e.arrived) ||
    s.cmds.any fun m => m.agent == a && m.unit == .fabric && decide (m.id < s.issue.serial0))

/-- R342: a release stalls its bundle while an earlier access of its agent to a location that the scope holds has not
been performed. -/
def State.releaseStall (s : State) (scope : Nat) : State :=
  if (s.ops.any fun o => o.agent == s.who && decide (o.bun < s.issue.serial0) && !o.done && s.inScope (coreOf s.who) scope o)
    || s.rldOpen s.who scope
  then s.stallFor 6 else s

/-- The bundle makes a release of its agent as it commits, after every load and store of its own (R279, R340, R342). -/
def State.commitRelease (s : State) (scope : Nat) : State :=
  (s.releaseStall scope).iss fun i => { i with rels := i.rels ++ [scope] }

/-- The LCC at which the executing slot issues (frozen in handler mode, R149); a re-executed waiting slot keeps its own
(R404). -/
def State.issueCycle (s : State) : Word := s.issue.redo.getD s.c.f.lcc

/-- R379: with every open entry of the fabric in use, an access of another package stalls its bundle. -/
def State.farStall (s : State) (kind : OpKind) : State :=
  if 1024 ≤ s.fab.entries.length && kind.locs.any fun l => match l with
      | .glob va => bits va 60 4 == 0 && !s.ownPackage va
      | _ => false
  then s.stallFor 5 else s

/-- Issues an elastic operation of the executing slot (R114); a release is held back under R342, and takes effect when
the operation is performed. -/
def State.issueOp (s : State) (kind : OpKind) (dest : Option Res) (gp acq : Bool) (rel : Option Nat) : State :=
  let l := s.ladle (s.who - 2048)
  let o : Op :=
    ⟨s.serial, s.who, s.ownerOf s.who, kind, match dest with | some (.s 0) => none | d => d, gp, acq, rel, s.issue.pos,
      s.issueCycle, s.issue.pc - toWord (s.ctx (s.ownerOf s.who)).y.spanBase, s.c.e.hm, .issued, [], !isLadle s.who,
      if isLadle s.who then l.bundle else 0, s.issue.serial0, []⟩
  let t := (match rel with | some c => s.releaseStall c | none => s).farStall kind
  ({ t with ops := t.ops ++ [o] }.withSerial).iss fun i => { i with elastic := i.elastic + 1 }

/-- Blocks the issuing agent on the operation just issued (R115, condition 5). -/
def State.block (s : State) (w : Nat → Wait) : State :=
  let b : Block :=
    ⟨s.issue.word, s.issue.pos, s.issueCycle, s.issue.pc - toWord (s.ctx (s.ownerOf s.who)).y.spanBase, w (s.serial - 1), false, s.c.r⟩
  s.flow fun f => { f with blocked := f.blocked ++ [b] }

end Sys2Proof.Machine
end

