-- ==== Sys2Proof/Machine/Operands.lean ====
section
/-! DEFINITION. Operand forms (R94 to R98): guards, scalar and predicate sources with their poison, vector operand
codes with channel heads, effective addresses, and the shapes that many instructions share. -/

namespace Sys2Proof.Machine

/-- What a step answers. -/
abbrev Out := Host.Outcome State Fault Refusal

/-- The value of a scalar source. -/
def State.rs (s : State) (n : SReg) : Word := s.c.r.readS n.toNat

/-- The poison of a scalar source. -/
def State.ps (s : State) (n : SReg) : Bool := s.c.r.poisS n.toNat

/-- The value of a predicate source. -/
def State.rp (s : State) (n : PReg) : Pred := s.c.r.readP n.toNat

/-- The poison of a predicate source. -/
def State.pp (s : State) (n : PReg) : Bool := s.c.r.poisP n.toNat

/-- The test of a scalar guard: bit 0, inverted when the inversion bit is set (R95). -/
def State.guardTest (s : State) (g : Guard) : Bool := xor ((s.rp g.p).getLsbD 0) g.inv

/-- Is the guard poisoned (R95)? -/
def State.guardPois (s : State) (g : Guard) : Bool := s.pp g.p

/-- The shape of a guarded slot that does not consume its sources: nullified when its guard is unpoisoned and false;
a poisoned guard counts as true and poisons the results (R95, R134). -/
def State.guarded (s : State) (g : Guard) (f : Bool → State) : Out :=
  .next (if s.guardPois g then f true else if s.guardTest g then f false else s)

/-- The shape of a guarded slot that consumes its guard and its scalar sources `srcs`: a poisoned one raises POISON
(R134, R278); `pre` is the FEATURE test of R103, which precedes it (R281, R326). -/
def State.consuming (s : State) (g : Guard) (srcs : List SReg) (pre : Option TrapKind) (f : State) : Out :=
  .next (
    if !s.guardPois g && !s.guardTest g then s
    else match pre with
      | some k => s.raise k 0#64
      | none => if s.guardPois g || srcs.any s.ps then s.raise .poison 0#64 else f)

/-- The bit of CTXFEAT that stands for a feature group (R20). -/
def State.hasFeat (s : State) (i : Nat) : Bool := bitAt (s.ctx (s.ownerOf s.who)).y.ctxfeat i

/-- FEATURE when a group decided at execution is absent (R103). A Ladle's own group stands for its instructions (R256). -/
def State.needFeat (s : State) (i : Nat) : Option TrapKind :=
  if isLadle s.who || s.hasFeat i then none else some .feature

/-! ## Scalar shapes (R134, R135) -/

/-- A guarded two-source scalar operation of latency `n`. -/
def State.alu2 (s : State) (g : Guard) (n : Nat) (d a b : SReg) (f : Word → Word → Word) : Out :=
  s.guarded g fun gp => s.holdS n d (f (s.rs a) (s.rs b)) (gp || s.ps a || s.ps b)

/-- A guarded one-source scalar operation of latency 1. -/
def State.alu1 (s : State) (g : Guard) (d a : SReg) (f : Word → Word) : Out :=
  s.guarded g fun gp => s.holdS 1 d (f (s.rs a)) (gp || s.ps a)

/-- An unguarded scalar operation with an immediate (R139). -/
def State.aluImm (s : State) (d a : SReg) (f : Word → Word) : Out :=
  .next (s.holdS 1 d (f (s.rs a)) (s.ps a))

/-- A guarded two-source predicate operation over 256 bits (R138). -/
def State.pred2 (s : State) (g : Guard) (pd pa pb : PReg) (f : Pred → Pred → Pred) : Out :=
  s.guarded g fun gp => s.holdP 1 pd (f (s.rp pa) (s.rp pb)) (gp || s.pp pa || s.pp pb)

/-! ## Channel heads (R97, R259, R260) -/

/-- The bank key of a slot of a channel of context `x`. -/
def chanKey (x : Nat) (h : Chan) (slot : Nat) : Nat := coreOf x * 2 ^ 20 + bits h.cfg 32 20 + 256 * slot

/-- Does the channel lie in the own SP slice? -/
def Chan.inSp (h : Chan) : Bool := bitAt h.cfg 59

/-- Is the channel enabled? -/
def Chan.en (h : Chan) : Bool := bitAt h.cfg 63

/-- The 256 bytes and group poison at a bank key. -/
def State.elemAt (s : State) (sp : Bool) (key : Nat) : PVec :=
  ⟨vecOfBytes ((s.bankAS sp).readZ 6 key 256), (s.bankAS sp).groups key⟩

/-- The head element of channel `n` of the issuing context. -/
def State.headOf (s : State) (n : Nat) : PVec :=
  let h := s.c.chan n
  s.elemAt h.inSp (chanKey s.who h h.cidx)

/-- A head read or pop of channel `n`, recorded for the bundle; it finds the errors of the element's lines (R466). -/
def State.readHead (s : State) (n : Nat) : State :=
  let h := s.c.chan n
  (s.noticeAS h.inSp (chanKey s.who h h.cidx) 256).iss fun i => { i with pops := if i.pops.contains n then i.pops else i.pops ++ [n] }

/-- Checks a head read or pop of channel `n` and records it for the bundle (R97, R260): ILLEGAL without an enabled
channel whose consumer is the context, a stall while it is empty. -/
def State.touchHead (s : State) (n : Nat) : State :=
  let h := s.c.chan n
  if !h.en || bitAt h.cfg 58 then s.raise .illegal 0#64
  else if h.prod = h.cons then s.stallFor 2
  else s.readHead n

/-- The value of a vector operand code (R96). Codes 58 to 63 are refused at decode. -/
def State.vop (s : State) (a : VOp) : PVec :=
  let n := a.toNat
  if n < 32 then s.c.r.readV n
  else if n < 48 then s.c.f.readQ (n - 32)
  else if n < 56 then s.headOf (n - 48)
  else if n = 57 then ⟨BitVec.allOnes 2048, 0#4⟩
  else PVec.zero

/-- The channel that a vector operand code names (R96). -/
def headCode (a : VOp) : Option Nat := if 48 ≤ a.toNat ∧ a.toNat < 56 then some (a.toNat - 48) else none

/-- Checks an operand code that may name a channel head. -/
def State.touchOp (s : State) (a : VOp) : State :=
  match headCode a with
  | some n => s.touchHead n
  | none => s

/-- Checks the channel heads among operand codes, then goes on. -/
def State.withHeads (s : State) (as : List VOp) (f : State → State) : Out :=
  let s1 := as.foldl State.touchOp s
  .next (if s1.issue.stop.isSome || s1.issue.stall.isSome then s1 else f s1)

/-! ## Effective addresses (R94, R277) -/

/-- The raw address of the MI form: base, offset in units, and the slot's DOFF, modulo 2^64. -/
def State.eaMI (s : State) (b : SReg) (off unit : Nat) : Word := s.rs b + toWord (off * unit) + s.issue.doff

/-- Clears the low log2(min(z, 64)) bits: a misaligned address is never a fault (R277). -/
def alignTo (z : Nat) (va : Word) : Word := toWord (va.toNat / Nat.min z 64 * Nat.min z 64)

/-- A place of `z` bytes in AB (`sp` false) or SP, or the fault code: WINDOW (R247, R248, R277), or
PAIRSLICE for another core's access to the second slice of a protected pair (R65). -/
def State.placeAS (s : State) (sup : Bool) (part core : Nat) (sp : Bool) (z : Nat) (va : Word) : Except Nat Nat :=
  let a := (alignTo z va).toNat
  if sp then
    if 2 ^ 26 ≤ a ∨ 2 ^ 20 < a % 2 ^ 20 + z then .error 7
    else if !s.inWindow sup 0x8B0 part (a % 2 ^ 20) z then .error 7
    else if decide (clusterOf core * 64 + a / 2 ^ 20 ≠ core) && s.pairSecond (clusterOf core * 64 + a / 2 ^ 20) then .error 8
    else .ok ((clusterOf core * 64 + a / 2 ^ 20) * 2 ^ 20 + a % 2 ^ 20)
  else if 2 ^ 20 < a + z then .error 7
  else if !s.inWindow sup 0x8A0 part a z then .error 7
  else .ok (core * 2 ^ 20 + a)

/-- The ADDR field of an on-die access's record (R274): space 1 AB, 2 SP. -/
def onDieAddr (sp : Bool) (z : Nat) (va : Word) : Word :=
  toWord ((if sp then 2 else 1) * 2 ^ 60 + (alignTo z va).toNat % 2 ^ 26)

end Sys2Proof.Machine
end

