-- ==== Sys2Proof/Machine/Flags.lean ====
section
/-! DEFINITION. Conditions and the one-bit results they give: CMP.cc (R137) and the poison bits POIS tests (R156).
The FD4 has no flags register; a condition's result is a predicate. -/

namespace Sys2Proof.Machine

/-- The condition `cc` of CMP.cc (R137). Codes 8 to 15 are refused at decode. -/
def condition (cc : Nat) (a b : Word) : Bool :=
  match cc with
  | 0 => a == b
  | 1 => a != b
  | 2 => a.slt b
  | 3 => !a.slt b
  | 4 => a.ult b
  | 5 => !a.ult b
  | 6 => (a &&& b) != 0#64
  | _ => (a &&& b) == 0#64

/-- A predicate with every bit equal to a test (R133). -/
def allBits (t : Bool) : Pred := if t then Pred.ones else 0#256

/-- The poison bits of a register named by POIS (R156): kind 0 scalar, 1 vector, 2 predicate. -/
def Regs.poisBits (r : Regs) (kind n : Nat) : Word :=
  match kind with
  | 0 => toWord (boolNat (r.poisS n))
  | 1 => (r.readV n).p.setWidth 64
  | _ => toWord (boolNat (r.poisP n))

end Sys2Proof.Machine
end

