-- ==== Sys2Proof/Machine/Races.lean ====
section
/-! DEFINITION. The tags of AB and SP lines and the race checks of a slot (R261, R295, R348 to R350), the occupied
banks (R249, R250), and the channel counts (R259, R467). -/

namespace Sys2Proof.Machine

/-- The channel that a command feeds and how many elements it pushes, none when it feeds none. -/
def Cmd.feed (m : Cmd) : Option (Nat × Nat) :=
  match m.instr with
  | .pref .. => some (bits m.b 61 3, bits m.b 36 13)
  | .copy .. => if bits m.d 61 3 = 3 then some (bits m.a 0 3, bits m.d 0 32 / 256) else none
  | .copyw .. => if bits m.d 61 3 = 3 then some (bits m.a 0 3, bits m.d 0 32 * bits m.e 0 16 / 256) else none
  | .rld .. => some (bits m.b 44 3, bits m.b 32 12 + 1)
  | _ => none

/-- Does the range hold a byte of the 64 B line that starts at key `a`, in a row for which `live` holds, with where the line ends
in the row? -/
def TagRange.hits (r : TagRange) (sp : Bool) (a : Nat) (live : Nat → Nat → Bool) : Bool :=
  (r.sp == sp) && (List.range r.rows).any fun i =>
    let lo : Int := r.key + r.stride * i
    decide (lo < a + 64 ∧ (a : Int) < lo + r.len) && live i (a + 64 - lo).toNat

/-- May a command reach the line at key `a`: it lies in its core's AB or its cluster's SP, inside the command's window (R247,
R277)? -/
def Cmd.reaches (m : Cmd) (sp : Bool) (a : Nat) : Bool :=
  let off := a % 2 ^ 20
  if sp then decide (a / 2 ^ 26 = clusterOf m.core ∧ m.spLo ≤ off ∧ off + 64 ≤ m.spHi)
  else decide (a / 2 ^ 20 = m.core ∧ m.abLo ≤ off ∧ off + 64 ≤ m.abHi)

/-- Is a line of a range of a command still to be read, or to be written (R295, R313): the one that ends `e` bytes into row `i`?
Its channel elements count line by line, and GRD.MUL has read a line once the row step of the line's last byte is done. -/
def State.tagLive (s : State) (m : Cmd) (r : TagRange) (i e : Nat) : Bool :=
  let n := i * (r.len / 64) + (e - 1) / 64
  if r.dst then decide (m.prog ≤ n + m.outs.length)
  else if m.feed.isSome then
    !decide (n / 4 < m.arrived) && !s.elems.any fun x => x.cmd == m.id && x.k == n / 4 &&
      (x.arrived || (List.range 8).all fun u => x.units.any fun y => y.1 == 8 * (n % 4) + u)
  else match m.instr with
    | .grdMul .. => decide (m.arrived ≤ (min e r.len - 1) / (8 * (r.len / (bits m.d 16 16 + 1))) * r.rows + i)
    | .grdScl .. => !(List.range 8).all fun u => m.cur.any fun y => y.1 == m.a.toNat / 8 + 8 * n + u
    | _ => decide (m.prog ≤ n)

/-- Does a line lie in the buffer of an enabled channel of a context of its core (R261, R348)? -/
def State.channelBit (s : State) (sp : Bool) (a : Nat) : Bool :=
  let k := a / 2 ^ 20
  (List.range 4).any fun j => (List.range 8).any fun n =>
    let h := (s.ctx (4 * k + j)).chan n
    h.en && (h.inSp == sp) && decide (bits h.cfg 32 20 < a % 2 ^ 20 + 64 ∧ a % 2 ^ 20 < bits h.cfg 32 20 + 256 * h.size)

/-- Is the pending-engine bit of a line set against a load (`store` false) or a store by this slot (R295, R348)? The
commands and Ladle stores of the slot's own bundle do not count. -/
def State.engineBit (s : State) (sp store : Bool) (a : Nat) : Bool :=
  (s.cmds.any fun m => decide (m.id < s.issue.serial0) && m.reaches sp a &&
    m.tags.any fun r => (store || r.dst) && r.hits sp a (s.tagLive m r))
  || (s.elems.any fun e => decide (e.id < s.issue.serial0) && !e.arrived && (e.sp == sp) && decide (e.key < a + 64 ∧ a < e.key + 256))
  || (s.parked.any fun e => isLadle e.1 && e.2.f.pend.any fun h => match h.land with
    | .store sp' k bs _ => (sp' == sp) && decide (k < a + 64 ∧ a < k + bs.length)
    | _ => false)
  || s.ops.any fun o => isLadle o.agent && decide (o.id < s.issue.serial0) && (match o.kind with
    | .write ws => ws.any fun w => match w.1 with
      | .ab k => !sp && decide (k < a + 64 ∧ a < k + w.2.length)
      | .sp k => sp && decide (k < a + 64 ∧ a < k + w.2.length)
      | _ => false
    | _ => false)

/-- The EINFO of RACE (R349). -/
def raceInfo (reason writer : Nat) (sp : Bool) (a : Nat) : Word :=
  toWord (packFields [(62, reason), (48, writer), (26, boolNat sp), (0, a % (if sp then 2 ^ 26 else 2 ^ 20))])

/-- The race that an access of the issuing context to one line meets (R349), if any; `openTest` is false for atomics. -/
def State.raceLine (s : State) (sp store openTest : Bool) (a : Nat) : Option Word :=
  let m := SMap.at 0 (if sp then s.spMark else s.abMark) (a / 64)
  if openTest && m != 0 && m != s.who + 1 then some (raceInfo 0 (m - 1) sp a)
  else if s.engineBit sp store a then some (raceInfo 1 0x7FF sp a)
  else if s.channelBit sp a then some (raceInfo 2 0x7FF sp a)
  else none

/-- Checks the lines of an access of `n` bytes at key `a` for a race; engines and Ladles never race (R349). -/
def State.raceCheck (s : State) (sp store openTest : Bool) (a n : Nat) : State :=
  if isLadle s.who then s
  else match (unitsOf 6 a n).findSome? fun u => s.raceLine sp store openTest (64 * u) with
    | some info => s.iss fun i => { i with races := i.races ++ [(i.pos, info)] }
    | none => s

/-- The lowest race of the executing position, raised once its other checks have passed (R281, R349). -/
def State.raiseRaces (s : State) : State :=
  match s.issue.races.filter fun r => r.1 == s.issue.pos with
  | [] => s
  | r :: rs =>
    let low (x y : Nat × Word) : Nat × Word := if bits y.2 0 27 < bits x.2 0 27 then y else x
    s.raise .race (rs.foldl low r).2

/-- Records that the slot occupies the own-slice SP lines of `n` bytes at key `a` (R249, R250). -/
def State.occupy (s : State) (a n : Nat) (write whole : Bool) : State :=
  if a / 2 ^ 20 = coreOf s.who ∧ !isLadle s.who then
    s.iss fun i => { i with banks := i.banks ++ [(i.pos, unitsOf 6 (a % 2 ^ 20) n, write, whole)] }
  else s

/-- The lowest bank of two accesses in conflict (R250): same bank in different lines, or in one line with a write. -/
def bankClash (x y : Nat × List Nat × Bool × Bool) : Option Nat :=
  let lowest (l : List Nat) : Option Nat := (l.map (· % 32)).foldl (fun m b => some (match m with | none => b | some c => min b c)) none
  match x.2.2.2, y.2.2.2 with
  | true, true => lowest x.2.1
  | true, false => lowest y.2.1
  | false, true => lowest x.2.1
  | false, false =>
    lowest (x.2.1.filter fun u => y.2.1.any fun v =>
      u % 32 == v % 32 && (u / 32 != v / 32 || x.2.2.1 || y.2.2.1))

/-- All own-slice accesses of one position as one. -/
def State.banksAt (s : State) (pos : Nat) : List (Nat × List Nat × Bool × Bool) :=
  match s.issue.banks.filter fun b => b.1 == pos with
  | [] => []
  | l => [(pos, l.flatMap (·.2.1), l.any (·.2.2.1), l.any (·.2.2.2))]

/-- The BANK trap of the bundle (R250, R285): EINFO with the two positions and the lowest conflicting bank. -/
def State.bankTrap (s : State) : Option Word :=
  match s.banksAt 6, s.banksAt 7 with
  | x :: _, y :: _ => (bankClash x y).map fun b => toWord (packFields [(16, 7), (12, 6), (0, b)])
  | _, _ => none

/-! ## Channel counts (R259) -/


/-- May no further element be reserved? -/
def Chan.full (h : Chan) : Bool := decide ((h.res - h.cons).toNat = h.size)

/-- The next slot index, modulo SIZE. -/
def Chan.succ (h : Chan) (i : Nat) : Nat := if i + 1 < h.size then i + 1 else 0

/-- Reserves one element. -/
def Chan.reserve (h : Chan) : Chan := { h with res := h.res + 1#16, ridx := h.succ h.ridx }

/-- Makes one element visible. -/
def Chan.makeVisible (h : Chan) : Chan := { h with prod := h.prod + 1#16, vidx := h.succ h.vidx }

/-- Pops one element. -/
def Chan.pop (h : Chan) : Chan := { h with cons := h.cons + 1#16, cidx := h.succ h.cidx }

/-- Stores an element in its slot: bytes, group poison, stamp; the lines have no writer (R259, R348, R468). -/
def State.storeElem (s : State) (sp : Bool) (key : Nat) (v : Vec) (p : BitVec 4) (stamp : BitVec 32) : State :=
  let line (t : State) (g : Nat) : State :=
    t.writeAS sp (key + 64 * g) ((vecBytes v).drop (64 * g) |>.take 64) (p.getLsbD g) 0
  let t := (List.range 4).foldl line s
  if sp then { t with spStamp := SMap.put 0#32 t.spStamp (key / 256) stamp }
  else { t with abStamp := SMap.put 0#32 t.abStamp (key / 256) stamp }

/-- The first element that may become visible: it has arrived, and no earlier element of its channel or of its Ladle
is still to come (R259, R467). -/
def nextVisible (before : List Elem) : List Elem → Option Elem
  | [] => none
  | e :: es =>
    if e.arrived && !(before.any fun b => (b.ctx == e.ctx && b.ch == e.ch) || (isLadle e.agent && b.agent == e.agent && b.ctx == e.ctx))
    then some e
    else nextVisible (before ++ [e]) es

/-- A Ladle's push has committed: the checkpoint moves to its bundle, and the Ladle's SYN.ADDs and signals issued
so far may be performed (R257, R410). -/
def State.commitPush (s : State) (a bundle : Nat) : State :=
  if !isLadle a then s
  else
    let s1 := s.updLadle (a - 2048) fun d =>
      match d.snaps.find? fun p => p.1 == bundle with
      | none => d
      | some p => { d with ckpt := some p.2, ckBundle := bundle, snaps := d.snaps.filter fun q => decide (bundle < q.1) }
    { s1 with ops := updWhere (fun o => o.agent == a) (fun o => { o with ready := true }) s1.ops }

/-- Issues the signal of an engine command (R296, R297): the command is an agent of its own (R336), a Ladle's command signals
as the Ladle. It keeps the command's partition, gang and rights. -/
def State.signalFrom (s : State) (m : Cmd) (obj scope : Nat) (ready : Bool) : State :=
  let o : Op :=
    ⟨s.serial, if isLadle m.agent then m.agent else 4096, m.owner, .signal obj m.agentCode m.part m.gang m.sup, none, false, false,
      some scope, 6, m.cyc, m.pc, false, .issued, [], ready, m.bundle, m.bun, []⟩
  { s with ops := s.ops ++ [o] }.withSerial

/-- The signal of one element of a PREF, when its command asks for it (R297): queued as an operation. -/
def State.elemSignal (s : State) (e : Elem) : State :=
  match s.cmds.find? fun m => m.id == e.cmd with
  | none => s
  | some m =>
    match m.instr with
    | .pref .. => if bitAt m.b 60 then s.signalFrom m (bits m.b 52 8) (bits m.b 49 3) true else s
    | _ => s

/-- Makes every element visible whose turn has come. -/
def State.settleElems (s : State) : Nat → State
  | 0 => s
  | fuel + 1 =>
    match nextVisible [] s.elems with
    | none => s
    | some e =>
      let s1 := { s with elems := s.elems.filter fun x => x.id != e.id,
                         cmds := updWhere (fun m => m.id == e.cmd) (fun m => { m with arrived := m.arrived + 1 }) s.cmds }
      let s2 := s1.upd e.ctx fun c => c.updChan e.ch Chan.makeVisible
      State.settleElems ((s2.elemSignal e).commitPush e.agent e.bundle) fuel

/-- Makes every element visible whose turn has come. -/
def State.settle (s : State) : State := s.settleElems s.elems.length

end Sys2Proof.Machine
end

