-- ==== Sys2Proof/Machine/Control.lean ====
section
/-! DEFINITION. Class 010 but for SREAD and SWRITE: branches, loops, points, traps, FCR, poison and the issue of the
supervisor instructions (06_scalar_control_system.md R140 to R160). What a bundle does at its commit is recorded in the
issue record. -/

namespace Sys2Proof.Machine

/-! ## Branches and loops (R141 to R143) -/

/-- The link value: the offset of the sequential successor (R141). -/
def State.linkValue (s : State) : Word := s.issue.next - s.base

/-- BR (R141). -/
def execBr (g : Guard) (off : BitVec 19) (s : State) : Out :=
  s.consuming g [] none (s.iss fun i => { i with target := some (i.pc + (off.signExtend 64 <<< 2)) })

/-- BRL: as BR, with the link in s31 at L + 1 (R141). -/
def execBrl (g : Guard) (off : BitVec 19) (s : State) : Out :=
  s.consuming g [] none ((s.iss fun i => { i with target := some (i.pc + (off.signExtend 64 <<< 2)) }).holdS 1 31#5 s.linkValue false)

/-- BRS: to the span offset in s[a] (R141). -/
def execBrs (g : Guard) (d a : SReg) (s : State) : Out :=
  s.consuming g [a] none (
    let v := s.rs a
    if bits v 0 2 != 0 || bits v 18 46 != 0 then s.raise .illegal 0#64
    else (s.iss fun i => { i with target := some (s.base + v) }).holdS 1 d s.linkValue false)

/-- Arms a loop level at commit (R142, R23): its entry is of kind T and its body starts at the sequential successor. -/
def State.armLoop (s : State) (n : Nat) (count : Word) : State :=
  let e := s.c.loopEntry n
  if bits e 62 2 != 1 || s.issue.next != s.base + toWord (4 * bits e 0 16) then s.raise .illegal 0#64
  else s.iss fun i => { i with arm := some (n, count) }

/-- LOOP (R142). -/
def execLoop (g : Guard) (n : BitVec 2) (a : SReg) (s : State) : Out :=
  s.consuming g [a] none (s.armLoop n.toNat (s.rs a))

/-- LOOPI (R142). -/
def execLoopi (n : BitVec 2) (count : BitVec 13) (s : State) : Out := .next (s.armLoop n.toNat (count.setWidth 64))

/-! ## Points, yields, exits and timestamps (R144 to R147) -/

/-- PPT (R144). -/
def execPpt (s : State) : Out := .next (s.iss fun i => { i with after := .ppt })

/-- YIELD (R145). -/
def execYield (s : State) : Out := .next (s.iss fun i => { i with after := .yield })

/-- EXIT: ILLEGAL in handler mode (R146). -/
def execExit (s : State) : Out :=
  .next (if s.c.e.hm then s.raise .illegal 0#64 else s.iss fun i => { i with after := .exit })

/-- The fabric stamp of the issuing cycle (R147); in handler mode L is the frozen LCC. -/
def State.stampNow (s : State) : BitVec 32 := s.c.f.lcc.setWidth 32 + s.c.y.tsoff

/-- TSTAMP (R147). -/
def execTstamp (g : Guard) (d : SReg) (s : State) : Out :=
  s.consuming g [] none (s.holdS 1 d (s.stampNow.setWidth 64) false)

/-- TSTAMP.SET: the old TSOFF, and the new one from L + 1 (R147). -/
def execTstampSet (g : Guard) (d a : SReg) (s : State) : Out :=
  s.consuming g [a] none
    ((s.holdS 1 d (s.c.y.tsoff.setWidth 64) false).hold 1 (.sys 0x007 ((s.rs a).setWidth 32 |>.setWidth 64)) none)

/-! ## Traps, services and returns (R150 to R152) -/

/-- TRAP (R150). -/
def execTrap (imm : BitVec 18) (s : State) : Out := .next (s.iss fun i => { i with after := .trap imm })

/-- SVC (R151). -/
def execSvc (imm : BitVec 18) (s : State) : Out := .next (s.iss fun i => { i with after := .svc imm })

/-- ERET: ILLEGAL outside handler mode (R152). -/
def execEret (s : State) : Out :=
  .next (if s.c.e.hm then s.iss fun i => { i with after := .eret } else s.raise .illegal 0#64)

/-! ## Format, Pantry and poison (R153 to R156) -/

/-- The bits of FCR that the fields of FCR.SET cover (R183). -/
def fcrMask (f : BitVec 4) : Word :=
  toWord ((if f.getLsbD 0 then 0x3 else 0) + (if f.getLsbD 1 then 0x4 else 0) + (if f.getLsbD 2 then 0x8 else 0)
    + (if f.getLsbD 3 then 0xFF00 else 0))

/-- FCR.SET: in force from L + 4 (R153). -/
def execFcrSet (g : Guard) (a : SReg) (fields : BitVec 4) (s : State) : Out :=
  s.consuming g [a] none (s.hold 4 (.fcr (fcrMask fields) (s.rs a)) none)

/-- FCR.GET (R153). -/
def execFcrGet (g : Guard) (d : SReg) (s : State) : Out := s.consuming g [] none (s.holdS 2 d s.c.y.fcr false)

/-- PAN.ACK (R154). -/
def execPanAck (g : Guard) (d : SReg) (s : State) : Out :=
  s.consuming g [] none (s.issueOp .panAck (some (.s d.toNat)) false false none)

/-- PAN.READ of record s[a] (R155). -/
def execPanRead (g : Guard) (d a : SReg) (ps : BitVec 2) (s : State) : Out :=
  s.consuming g [a] none (s.issueOp (.panRead (s.rs a).toNat ps.toNat) (some (.s d.toNat)) false false none)

/-- POIS.TEST: the poison bits of x; only a poisoned guard poisons the result (R156). -/
def execPoisTest (g : Guard) (kind : BitVec 2) (d : SReg) (x : BitVec 5) (s : State) : Out :=
  s.guarded g fun gp => s.holdS 1 d (s.c.r.poisBits kind.toNat x.toNat) gp

/-- POIS.CLR; under a poisoned guard every poison bit of x is left set (R156). -/
def execPoisClr (g : Guard) (kind : BitVec 2) (x : BitVec 5) (s : State) : Out :=
  s.guarded g fun gp => s.hold 1 (.pois kind.toNat x.toNat gp) none

/-- POIS.SET (R156). -/
def execPoisSet (g : Guard) (kind : BitVec 2) (x : BitVec 5) (s : State) : Out :=
  s.guarded g fun _ => s.hold 1 (.pois kind.toNat x.toNat true) none

/-! ## Supervisor instructions (R104, R158 to R160) -/

/-- PRIV for a tenant (R104). -/
def State.supOnly (s : State) : Option TrapKind := if s.c.y.sup then none else some .priv

/-- A PREEMPT: blocking, with a status in s[d] (R158). -/
def State.preemptInstr (s : State) (g : Guard) (d a b : SReg) (mode : Nat) : Out :=
  s.consuming g [a, b] s.supOnly (
    (s.issueOp (.preempt mode (bits (s.rs a) 0 11) (bits (s.rs b) 0 20) (bitAt (s.rs a) 11)) (some (.s d.toNat)) false false
      none).block .op)

/-- PREEMPT STOP (R158). -/
def execPreemptStop (g : Guard) (d a b : SReg) (s : State) : Out := s.preemptInstr g d a b 0

/-- PREEMPT RESUME (R158). -/
def execPreemptResume (g : Guard) (d a b : SReg) (s : State) : Out := s.preemptInstr g d a b 1

/-- PREEMPT STATE (R158). -/
def execPreemptState (g : Guard) (d a b : SReg) (s : State) : Out := s.preemptInstr g d a b 2

/-- CTX.SAVE: the address is a multiple of 256 (R159). -/
def execCtxSave (g : Guard) (d a b : SReg) (s : State) : Out :=
  s.consuming g [a, b] s.supOnly (
    if bits (s.rs b) 0 8 != 0 then s.raise .illegal 0#64
    else (s.issueOp (.ctxSave (bits (s.rs a) 0 11) (s.rs b)) (some (.s d.toNat)) false false none).block .op)

/-- CTX.LOAD: the address is a multiple of 256 (R159). -/
def execCtxLoad (g : Guard) (d a b : SReg) (s : State) : Out :=
  s.consuming g [a, b] s.supOnly (
    if bits (s.rs b) 0 8 != 0 then s.raise .illegal 0#64
    else (s.issueOp (.ctxLoad (bits (s.rs a) 0 11) (s.rs b)) (some (.s d.toNat)) false false none).block .op)

/-- HALT (R160). -/
def execHalt (s : State) : Out :=
  .next (match s.supOnly with
    | some k => s.raise k 0#64
    | none => s.iss fun i => { i with after := .halt })

end Sys2Proof.Machine
end

