-- ==== Sys2Proof/Machine/MemInstr.lean ====
section
/-! DEFINITION. Rows 0 to 14 of class 110: scalar, vector, strided and indexed accesses, channels, LD.ACQ and ST.REL
(11_memory_instructions.md R277 to R291; 13_synchronisation_and_consistency.md R352). -/

namespace Sys2Proof.Machine

/-- Where one element of an access lies: its own memories, another slice, or nowhere: an access fault's code, and whether
the address names another slice, whose latency is bounded (R248, R283). -/
inductive Spot where
  | own (key : Nat) | other (key : Nat) | bad (code : Nat) (far : Bool)
deriving DecidableEq, Repr

/-- The place of `z` bytes of the issuing agent in AB or SP. -/
def State.spot (s : State) (sp : Bool) (z : Nat) (va : Word) : Spot :=
  let q := s.reqOf s.who
  let k := coreOf s.who
  match s.placeAS q.sup q.part k sp z va with
  | .error c =>
    let a := (alignTo z va).toNat
    .bad c (sp && decide (a < 2 ^ 26 ∧ a / 2 ^ 20 ≠ k % 64))
  | .ok key => if sp && decide (key / 2 ^ 20 ≠ k) then .other key else .own key

/-- A place as a location. -/
def locAS (sp : Bool) (key : Nat) : Loc := if sp then .sp key else .ab key

/-- The location of an element in another slice, none where it is read or has faulted as its bundle issues. -/
def Spot.loc (sp : Bool) : Spot → Option Loc
  | .other k => some (locAS sp k)
  | _ => none

/-- Posts the record of a faulting on-die element (R272, R274). -/
def State.spotFault (s : State) (sp : Bool) (z : Nat) (va : Word) (write : Bool) : Spot → State
  | .bad c _ => s.postAccess (s.reqOf s.who) c (4 * boolNat write) (onDieAddr sp z va)
  | _ => s

/-- Do loads of the context return raw data bits (TESTCFG.RAW, R455)? -/
def State.rawLoads (s : State) (k : Nat) : Bool :=
  !isLadle s.who && decide (k / 2 ^ 20 = coreOf s.who) && bitAt (s.reg (coreOf s.who) 0xA02) 0

/-- An access of the agent to its own memories: earlier operations on the bytes come first (R280), and it finds the errors
of its lines (R466), but for a raw load (R455); a store finds them in `State.writeAS`, where it writes part of a word. -/
def State.ownAccess (s : State) (sp store : Bool) (k z : Nat) : State :=
  let t := s.ownStall (locAS sp k) z
  if store || s.rawLoads k then t else t.noticeAS sp k z

/-- The race and bank checks of an element that is accessed. -/
def State.spotCheck (s : State) (sp store whole : Bool) (z : Nat) : Spot → State
  | .own k =>
    let t := (s.ownAccess sp store k z).raceCheck sp store true k z
    if sp then t.occupy k z store whole else t
  | .other k => s.raceCheck sp store true k z
  | .bad .. => s

/-- Is every element in the agent's own memories, or at an address that names no other slice (R285, R286)? -/
def allOwn (l : List Spot) : Bool := l.all fun p => match p with | .other _ | .bad _ true => false | _ => true

/-- The `n` bytes at a key with their wrong bits, as a raw load returns them (R455). -/
def State.rawBytes (s : State) (sp : Bool) (k n : Nat) : List Byte :=
  (List.range n).map fun i => (if sp then s.sp else s.ab).rawByte (k + i)

/-- Reads one on-die element: its bytes, and its poison; a faulted element is zero and poisoned (R272, R273), raw bits
carry no poison (R455). -/
def State.readSpot (s : State) (z : Nat) (sp : Bool) : Option Nat → List Byte × Bool
  | none => (List.replicate z 0#8, true)
  | some k =>
    if s.rawLoads k then (s.rawBytes sp k z, false)
    else ((s.bankAS sp).readZ 6 k z, (s.bankAS sp).anyPoison 6 k z)

/-- The 256 bytes and group poison that a vector load of the own memories reads (R284, R455). -/
def State.readVec (s : State) (sp : Bool) (k : Nat) : PVec :=
  if s.rawLoads k then ⟨vecOfBytes (s.rawBytes sp k 256), 0#4⟩ else s.elemAt sp k

/-- The key of an element in the own memories. -/
def Spot.key : Spot → Option Nat
  | .own k | .other k => some k
  | .bad .. => none

/-- The vector of elements of `z` bytes, with the poison of the lane groups that hold a poisoned one (R285). -/
def gatherVec (z : Nat) (es : List (List Byte × Bool)) : PVec :=
  ⟨vecOfBytes (es.flatMap (·.1)),
    groupMask fun g => (es.zipIdx.any fun e => e.1.2 && decide (e.2 * z < 64 * (g + 1) ∧ 64 * g < (e.2 + 1) * z))⟩

/-- Zero data with every poison bit set (R278). -/
def PVec.dead : PVec := ⟨0#2048, 15#4⟩

/-! ## Scalar loads and stores (R283) -/

/-- A scalar load of an on-die space: poisoned base; own memory at L + 3; another slice elastic, also where it faults (R283). -/
def State.loadAS (s : State) (gp : Bool) (sp acq : Bool) (z : Nat) (d b : SReg) (va : Word) : State :=
  if s.ps b then s.holdS 3 d 0#64 true
  else
    let p := s.spot sp z va
    let t := (s.spotFault sp z va false p).spotCheck sp false false z p
    match p with
    | .bad _ false => t.holdS 3 d 0#64 true
    | .bad _ true => t.issueOp (.read [none] z false d.toNat) (some (.s d.toNat)) gp acq none
    | .own k =>
      let r := t.readSpot z sp (some k)
      (t.holdS 3 d (toWord (leNat r.1)) (gp || r.2)).raiseRaces
    | .other k => (t.issueOp (.read [some (locAS sp k)] z false d.toNat) (some (.s d.toNat)) gp acq none).raiseRaces

/-- Must a store to the agent's own memory follow an operation of its own bundle: one on the same bytes, or, for a release,
one that its scope holds (R279, R340)? It is then performed as an operation after that one. -/
def State.afterOwn (s : State) (l : Loc) (n : Nat) (rel : Option Nat) : Bool :=
  (s.ownPending (Loc.range n l) fun o => o.bun == s.issue.serial0) || (match rel with
    | some c => s.ops.any fun o => o.agent == s.who && o.bun == s.issue.serial0 && o.phase != .performed && s.inScope (coreOf s.who) c o
    | none => false)

/-- A store of bytes to an on-die space: own memory at L + 1, another slice elastic; a store outside the window is
dropped and counted (R272). -/
def State.storeAS (s : State) (sp : Bool) (rel : Option Nat) (va : Word) (bs : List Byte) : State :=
  let z := bs.length
  let p := s.spot sp z va
  let t := (s.spotFault sp z va true p).spotCheck sp true false z p
  match p with
  | .bad .. =>
    (match rel with | some c => t.commitRelease c | none => t).countFail (t.ownerOf t.who) 1 31
  | .own k =>
    (if s.afterOwn (locAS sp k) z rel then t.issueOp (.write [(locAS sp k, bs)]) none false false rel
      else (match rel with | some c => t.releaseStall c | none => t).hold 1 (.store sp k bs rel.isSome) none).raiseRaces
  | .other k => (t.issueOp (.write [(locAS sp k, bs)]) none false false rel).raiseRaces

/-- A scalar load of a global address (R283, R278): elastic, unless its base is poisoned. -/
def State.loadGlob (s : State) (gp acq : Bool) (z : Nat) (d b : SReg) (va : Word) : State :=
  if s.ps b then s.holdS 1 d 0#64 true
  else s.issueOp (.read [some (.glob (alignTo z va))] z false d.toNat) (some (.s d.toNat)) gp acq none

/-- A store to a global address (R272): the write rights are checked before the bundle issues, and a fault suspends
the context at the bundle; a Ladle's faulting line is dropped and counted instead. -/
def State.storeGlob (s : State) (rel : Option Nat) (va : Word) (bs : List Byte) : State :=
  let a := alignTo bs.length va
  let q := s.reqOf s.who
  if bits a 60 4 = 0 ∧ s.ownPackage a = false then s.issueOp (.write [(.glob a, bs)]) none false false rel
  else match s.resolveFor q a true with
    | (t, .ok (die, pa)) => t.issueOp (.write [(.phys die pa a, bs)]) none false false rel
    | (t, .error f) =>
      if isLadle s.who then (t.globFault q f a true).countFail q.ctx 1 31
      else t.stopWith (.access t.issue.pos 0 f.code (accessFlags q a f.level true) (a &&& toWord (2 ^ 60 - 1)))

/-- LD (R283). -/
def execLd (g : Guard) (w : BitVec 2) (sp : Bool) (d b : SReg) (off : BitVec 6) (s : State) : Out :=
  s.guarded g fun gp => s.loadAS gp sp false (2 ^ w.toNat) d b (s.eaMI b off.toNat (2 ^ w.toNat))

/-- ST: the base and the data are consumed (R278, R283). -/
def execSt (g : Guard) (w : BitVec 2) (sp : Bool) (d b : SReg) (off : BitVec 6) (s : State) : Out :=
  s.consuming g [b, d] none
    (s.storeAS sp none (s.eaMI b off.toNat (2 ^ w.toNat)) (natLe (s.rs d).toNat (2 ^ w.toNat)))

/-- GLD (R283). -/
def execGld (g : Guard) (w : BitVec 2) (d b : SReg) (off : BitVec 6) (s : State) : Out :=
  s.guarded g fun gp => s.loadGlob gp false (2 ^ w.toNat) d b (s.eaMI b off.toNat (2 ^ w.toNat))

/-- GST (R283). -/
def execGst (g : Guard) (w : BitVec 2) (d b : SReg) (off : BitVec 6) (s : State) : Out :=
  s.consuming g [b, d] none
    (s.storeGlob none (s.eaMI b off.toNat (2 ^ w.toNat)) (natLe (s.rs d).toNat (2 ^ w.toNat)))

/-- LD.ACQ: a load and an acquire (R352). -/
def execLdAcq (g : Guard) (w : BitVec 2) (sp gl : Bool) (d b : SReg) (off : BitVec 2) (s : State) : Out :=
  s.guarded g fun gp =>
    let z := 2 ^ w.toNat
    let va := s.eaMI b off.toNat z
    if gl then s.loadGlob gp true z d b va else s.loadAS gp sp true z d b va

/-- ST.REL: a store and a release at its scope, which takes effect as the store is performed (R342, R343, R352). -/
def execStRel (g : Guard) (w : BitVec 2) (sp gl : Bool) (scope : BitVec 3) (d b : SReg) (off : BitVec 2) (s : State) : Out :=
  s.consuming g [b, d] none (
    let z := 2 ^ w.toNat
    let va := s.eaMI b off.toNat z
    let bs := natLe (s.rs d).toNat z
    if gl then s.storeGlob (some scope.toNat) va bs else s.storeAS sp (some scope.toNat) va bs)

/-! ## Vector loads and stores (R284 to R286) -/

/-- VLD (R284). -/
def execVld (g : Guard) (sp : Bool) (d : VReg) (b : SReg) (off : BitVec 6) (s : State) : Out :=
  s.guarded g fun gp =>
    let va := s.eaMI b off.toNat 256
    if s.ps b then s.holdV 4 d PVec.dead
    else
      let p := s.spot sp 256 va
      let t := (s.spotFault sp 256 va false p).spotCheck sp false false 256 p
      match p with
      | .bad _ false => t.holdV 4 d PVec.dead
      | .bad _ true => t.issueOp (.read [none] 256 true d.toNat) (some (.v d.toNat)) gp false none
      | .own k =>
        let v := t.readVec sp k
        (t.holdV 4 d ⟨v.v, if gp then 15#4 else v.p⟩).raiseRaces
      | .other k => (t.issueOp (.read [some (locAS sp k)] 256 true d.toNat) (some (.v d.toNat)) gp false none).raiseRaces

/-- VST: the base and the data are consumed (R278, R284). -/
def execVst (g : Guard) (sp : Bool) (d : VReg) (b : SReg) (off : BitVec 6) (s : State) : Out :=
  s.consuming g [b] none (
    let v := s.c.r.readV d.toNat
    if v.p != 0#4 then s.raise .poison 0#64
    else s.storeAS sp none (s.eaMI b off.toNat 256) (vecBytes v.v))

/-- The elements of a strided or indexed access of the issuing agent: raw address and place. -/
def State.elemSpots (s : State) (sp : Bool) (z : Nat) (eas : List Word) : List (Word × Spot) :=
  eas.map fun ea => (ea, s.spot sp z ea)

/-- The last operation issued has these units already: what its bundle read at its own logical cycle (R286). -/
def State.withUnits (s : State) (us : SMap (List Byte × Bool)) : State :=
  { s with ops := updWhere (fun (o : Op) => o.id + 1 == s.serial) (fun o => { o with units := us }) s.ops }

/-- A vector load by elements: records, race checks, own memory at L + `n`; with an element of another slice it is elastic,
and its elements of the own memory are those of its logical cycle (R285, R286). -/
def State.loadElems (s : State) (gp sp banked : Bool) (z n : Nat) (d : VReg) (eas : List Word) : State :=
  let es := s.elemSpots sp z eas
  let t := es.foldl (fun t e => t.spotFault sp z e.1 false e.2) s
  let t := es.foldl (fun t e => match e.2 with
    | .bad .. => t
    | .own k =>
      let u := (t.ownAccess sp false k z).raceCheck sp false true k z
      if sp && banked then u.occupy k z false true else u
    | .other k => t.raceCheck sp false true k z) t
  let ps := es.map (·.2)
  if allOwn ps then
    let v := gatherVec z (ps.map fun p => t.readSpot z sp p.key)
    (t.holdV n d ⟨v.v, if gp then 15#4 else v.p⟩).raiseRaces
  else
    let now := ps.zipIdx.filterMap fun e => match e.1 with | .other _ => none | p => some (e.2, t.readSpot z sp p.key)
    ((t.issueOp (.read (ps.map (Spot.loc sp)) z true d.toNat) (some (.v d.toNat)) gp false none).withUnits now).raiseRaces

/-- VLDS: strided elements (R285). -/
def execVlds (g : Guard) (w : BitVec 2) (sp : Bool) (d : VReg) (b c : SReg) (s : State) : Out :=
  s.guarded g fun gp =>
    let z := 2 ^ w.toNat
    if s.ps b || s.ps c then s.holdV 6 d PVec.dead
    else s.loadElems gp sp true z 6 d ((List.range (256 / z)).map fun i => s.rs b + toWord i * s.rs c)

/-- The element addresses of VGATHER and VSCATTER (R286). -/
def State.indexed (s : State) (z : Nat) (b : SReg) (c : VReg) : List Word :=
  (List.range (Nat.min 64 (256 / z))).map fun i => s.rs b + toWord (z * elemOf (s.c.r.readV c.toNat).v 4 i)

/-- VGATHER (R286): elements above the count are zero. -/
def execVgather (g : Guard) (w : BitVec 2) (sp : Bool) (d : VReg) (b : SReg) (c : VReg) (s : State) : Out :=
  s.guarded g fun gp =>
    if s.ps b || (s.c.r.readV c.toNat).p != 0#4 then s.holdV 32 d PVec.dead
    else s.loadElems gp sp false (2 ^ w.toNat) 32 d (s.indexed (2 ^ w.toNat) b c)

/-- VSCATTER: the base, the indices and the data are consumed; a faulting element is dropped and counted (R286). -/
def execVscatter (g : Guard) (w : BitVec 2) (sp : Bool) (d : VReg) (b : SReg) (c : VReg) (s : State) : Out :=
  s.consuming g [b] none (
    let z := 2 ^ w.toNat
    let v := s.c.r.readV d.toNat
    if v.p != 0#4 || (s.c.r.readV c.toNat).p != 0#4 then s.raise .poison 0#64
    else
      let es := (s.elemSpots sp z (s.indexed z b c)).zipIdx
      let data (i : Nat) : List Byte := natLe (elemOf v.v z i) z
      let t := es.foldl (fun t e => t.spotFault sp z e.1.1 true e.1.2) s
      let bad := (es.filter fun e => match e.1.2 with | .bad .. => true | _ => false).length
      let t := t.countFail (t.ownerOf t.who) bad 31
      let t := es.foldl (fun t e => match e.1.2 with
        | .bad .. => t
        | .own k => (t.ownAccess sp true k z).raceCheck sp true true k z
        | .other k => t.raceCheck sp true true k z) t
      let late := es.any fun e => match e.1.2 with | .own k => s.afterOwn (locAS sp k) z none | _ => false
      let t := es.foldl (fun t e => match e.1.2 with
        | .own k => if late then t else t.hold 1 (.store sp k (data e.2) false) none
        | _ => t) t
      let far := es.filterMap fun e => match e.1.2 with
        | .other k => some (locAS sp k, data e.2)
        | .own k => if late then some (locAS sp k, data e.2) else none
        | .bad .. => none
      (if far.isEmpty then t else t.issueOp (.write far) none false false none).raiseRaces)

/-! ## Channels (R287 to R291) -/

/-- CHPOP: the head's element at L + 2; one pop per bundle (R288). -/
def execChpop (g : Guard) (d : VReg) (n : BitVec 3) (s : State) : Out :=
  s.consuming g [] none (
    let t := s.touchHead n.toNat
    if t.issue.stop.isSome || t.issue.stall.isSome then t else t.holdV 2 d (t.headOf n.toNat))

/-- CHPOP.DROP: pops and writes nothing (R288). -/
def execChpopDrop (g : Guard) (n : BitVec 3) (s : State) : Out :=
  s.consuming g [] none (s.touchHead n.toNat)

/-- A context's push of an element (R289): ILLEGAL, a stall while full, the reservation now, the element at L + 1, where it
is a release (R343). -/
def State.pushOwn (s : State) (n : Nat) (v : PVec) : State :=
  let h := s.c.chan n
  if !h.en || bits h.cfg 60 3 != 0 then s.raise .illegal 0#64
  else if h.full then s.stallFor 3
  else
    let key := chanKey s.who h h.ridx
    ({ s with c := s.c.updChan n Chan.reserve }.releaseStall 1).hold 1 (.push n h.inSp key v.v v.p) none

/-- Has an earlier bundle of a Ladle a command with elements still to be reserved? They come before every push of a later
bundle (R467). -/
def State.feedsFirst (s : State) (a : Nat) (early : Cmd → Bool) : Bool :=
  isLadle a && s.cmds.any fun m => m.agent == a && early m && !m.discard && (match m.feed with
    | some (_, total) => decide (m.reserved < total)
    | none => false)

/-- A Ladle's push into a channel of the context it serves (R260, R289): refused with a CHANNEL record when PROD does
not name it; the element is in its slot at once and becomes visible in its turn. -/
def State.pushLadle (s : State) (n : Nat) (v : PVec) : State :=
  let l := s.who - 2048
  let x := s.ownerOf s.who
  let h := (s.ctx x).chan n
  if !h.en || bits h.cfg 60 3 != 1 + l % 2 then
    s.postAccess (s.reqOf s.who) 10 4 (toWord (9 * 2 ^ 60 + n * 2 ^ 11 + x))
  else if h.full || s.feedsFirst s.who (fun m => decide (m.bun < s.issue.serial0)) then s.stallFor 3
  else
    let key := chanKey x h h.ridx
    let e : Elem := ⟨s.serial, s.who, x, n, h.inSp, key, 0, 0, (s.ladle l).bundle, true, 0#32, false, [], [], []⟩
    let t := s.upd x fun c => c.updChan n Chan.reserve
    ({ t with elems := t.elems ++ [e] }.withSerial).storeElem h.inSp key v.v v.p 0#32

/-- CHPUSH of a vector register; in a Ladle it is ILLEGAL (R289). -/
def execChpush (g : Guard) (n : BitVec 3) (d : VReg) (s : State) : Out :=
  s.consuming g [] none (
    if isLadle s.who then s.raise .illegal 0#64 else s.pushOwn n.toNat (s.c.r.readV d.toNat))

/-- The element that CHPUSH.AB or CHPUSH.SP takes (R289): poisoned zero, with a record, for a faulting address. -/
def State.pushMem (s : State) (sp : Bool) (n : Nat) (b : SReg) : State :=
  let va := s.rs b
  let p := s.spot sp 256 va
  match p with
  | .other _ | .bad _ true => s.raise .illegal 0#64
  | _ =>
    let t := (s.spotFault sp 256 va false p).spotCheck sp false false 256 p
    let v := match p.key with
      | some k => t.elemAt sp k
      | none => PVec.dead
    (if isLadle s.who then t.pushLadle n v else t.pushOwn n v).raiseRaces

/-- CHPUSH.AB (R289). -/
def execChpushAb (g : Guard) (n : BitVec 3) (b : SReg) (s : State) : Out :=
  s.consuming g [b] none (s.pushMem false n.toNat b)

/-- CHPUSH.SP: the issuer's own slice; another slice is ILLEGAL (R289). -/
def execChpushSp (g : Guard) (n : BitVec 3) (b : SReg) (s : State) : Out :=
  s.consuming g [b] none (s.pushMem true n.toNat b)

/-- CHPEEK: element CONS + k without popping (R278, R290). -/
def execChpeek (g : Guard) (d : VReg) (n : BitVec 3) (b : SReg) (s : State) : Out :=
  s.guarded g fun gp =>
    let h := s.c.chan n.toNat
    let k := (s.rs b).toNat
    if s.ps b then s.holdV 2 d PVec.dead
    else if !h.en || bitAt h.cfg 58 || decide (h.size ≤ k) then s.raise .illegal 0#64
    else if decide ((h.prod - h.cons).toNat ≤ k) then s.stallFor 2
    else
      let key := chanKey s.who h ((h.cidx + k) % h.size)
      let t := s.noticeAS h.inSp key 256
      let v := t.elemAt h.inSp key
      t.holdV 2 d ⟨v.v, if gp then 15#4 else v.p⟩

/-- CHSTAT: the counts of the channel (R291); a Ladle names a channel of the context it serves. -/
def execChstat (g : Guard) (d : SReg) (n : BitVec 3) (s : State) : Out :=
  s.consuming g [] none (
    let h := (s.ctx (s.ownerOf s.who)).chan n.toNat
    s.holdS 2 d (toWord (packFields [(63, boolNat h.en), (32, (h.res - h.prod).toNat),
      (16, h.size - (h.res - h.cons).toNat), (0, (h.prod - h.cons).toNat)])) false)

end Sys2Proof.Machine
end

