-- ==== Sys2Proof/Machine/Sync.lean ====
section
/-! DEFINITION. Atomics, fences, monitors, sync objects and barriers: class 110, rows 15 to 31
(13_synchronisation_and_consistency.md R352 to R366). -/

namespace Sys2Proof.Machine

/-- The new value that an atomic writes, `none` where it writes nothing (R356): `old`, operand `v` and, for ACAS, the
new value `w`, all of `8z` bits. -/
def atomNew (f : AtomOp) (z : Nat) (old v w : Nat) : Option Nat :=
  let so := signedOf (8 * z) old
  let sv := signedOf (8 * z) v
  match f with
  | .add => some ((old + v) % 2 ^ (8 * z))
  | .and => some (old &&& v)
  | .or => some (old ||| v)
  | .xor => some (old ^^^ v)
  | .min => some (if so < sv then old else v)
  | .max => some (if so < sv then v else old)
  | .xch => some v
  | .cas => if old = v then some w else none
  | .decp => if 0 < so then some (old - 1) else none

/-- The scope that holds a location (R338): 3 CLU for SP, 4 DIE, 5 PKG, 6 POD for global memory. -/
def State.locScope (s : State) (sp : Bool) (va : Word) : Nat :=
  if sp then 3
  else if !s.ownPackage va then 6
  else if bits va 50 1 = dieOf (coreOf s.who) then 4 else 5

/-- Issues an atomic access of a global line or unit (R272, R357): the write rights are checked before the bundle
issues, and a fault suspends a context at the bundle; a Ladle's result is then poisoned, and its failed write counts in the
owner's next FENCE. -/
def State.atomGlob (s : State) (z : Nat) (d : SReg) (va : Word) (acq : Bool) (rel : Option Nat) (kind : Loc → OpKind) : State :=
  let a := alignTo z va
  let q := s.reqOf s.who
  let dest := some (Res.s d.toNat)
  if bits a 60 4 = 0 ∧ s.ownPackage a = false then s.issueOp (kind (.glob a)) dest false acq rel
  else match s.resolveFor q a true with
    | (u, .ok (die, pa)) => u.issueOp (kind (.phys die pa a)) dest false acq rel
    | (u, .error f) =>
      if isLadle s.who then ((u.globFault q f a true).countFail q.ctx 1 31).issueOp (.read [none] z false d.toNat) dest false acq rel
      else u.stopWith (.access u.issue.pos 0 f.code (accessFlags q a f.level true) (a &&& toWord (2 ^ 60 - 1)))

/-- The shared shape of AADD to ADECP (R356, R357). -/
def State.atomic (s : State) (g : Guard) (f : AtomOp) (ord : BitVec 2) (sp dw : Bool) (d b : SReg) (srcs : List SReg)
    (v w : Word) : Out :=
  s.consuming g (b :: srcs) (s.needFeat (if sp then 0 else 11)) (
    let z := if dw then 8 else 4
    let va := s.rs b
    let acq := ord.getLsbD 0
    let rel := if ord.getLsbD 1 then some (s.locScope sp va) else none
    if sp then
      let p := s.spot true z va
      let t := s.spotFault true z va true p
      match p with
      | .bad .. => t.issueOp (.read [none] z false d.toNat) (some (.s d.toNat)) false acq rel
      | .own k | .other k =>
        ((t.raceCheck true true false k z).issueOp (.atom f (.sp k) z v w) (some (.s d.toNat)) false acq rel).raiseRaces
    else s.atomGlob z d va acq rel fun l => .atom f l z v w)

/-- AADD (R356). -/
def execAadd (g : Guard) (ord : BitVec 2) (sp dw : Bool) (d b c : SReg) (s : State) : Out :=
  s.atomic g .add ord sp dw d b [c] (s.rs c) 0#64

/-- AAND (R356). -/
def execAand (g : Guard) (ord : BitVec 2) (sp dw : Bool) (d b c : SReg) (s : State) : Out :=
  s.atomic g .and ord sp dw d b [c] (s.rs c) 0#64

/-- AOR (R356). -/
def execAor (g : Guard) (ord : BitVec 2) (sp dw : Bool) (d b c : SReg) (s : State) : Out :=
  s.atomic g .or ord sp dw d b [c] (s.rs c) 0#64

/-- AXOR (R356). -/
def execAxor (g : Guard) (ord : BitVec 2) (sp dw : Bool) (d b c : SReg) (s : State) : Out :=
  s.atomic g .xor ord sp dw d b [c] (s.rs c) 0#64

/-- AMIN (R356). -/
def execAmin (g : Guard) (ord : BitVec 2) (sp dw : Bool) (d b c : SReg) (s : State) : Out :=
  s.atomic g .min ord sp dw d b [c] (s.rs c) 0#64

/-- AMAX (R356). -/
def execAmax (g : Guard) (ord : BitVec 2) (sp dw : Bool) (d b c : SReg) (s : State) : Out :=
  s.atomic g .max ord sp dw d b [c] (s.rs c) 0#64

/-- AXCH (R356). -/
def execAxch (g : Guard) (ord : BitVec 2) (sp dw : Bool) (d b c : SReg) (s : State) : Out :=
  s.atomic g .xch ord sp dw d b [c] (s.rs c) 0#64

/-- ACAS: s[c] is the expected value, s[c + 1] the new one (R356). -/
def execAcas (g : Guard) (ord : BitVec 2) (sp dw : Bool) (d b c : SReg) (s : State) : Out :=
  s.atomic g .cas ord sp dw d b [c, c + 1#5] (s.rs c) (s.rs (c + 1#5))

/-- ADECP (R356). -/
def execAdecp (g : Guard) (ord : BitVec 2) (sp dw : Bool) (d b : SReg) (s : State) : Out :=
  s.atomic g .decp ord sp dw d b [] 0#64 0#64

/-- AMXACC: a block accumulation on a 64 B line (R358); vC's lane group 0 is consumed. -/
def execAmxacc (g : Guard) (ord et : BitVec 2) (d b : SReg) (c : VReg) (s : State) : Out :=
  s.consuming g [b] none (
    let v := s.c.r.readV c.toNat
    let va := s.rs b
    if v.p.getLsbD 0 then s.raise .poison 0#64
    else if bits va 0 6 != 0 then s.raise .illegal 0#64
    else
      let rel := if ord.getLsbD 1 then some (s.locScope false va) else none
      s.atomGlob 64 d va (ord.getLsbD 0) rel fun l => .amxacc l et.toNat ((vecBytes v.v).take 64))

/-- FENCE: an acquire and a release of its scope, which waits for every earlier access, then reports the failed writes
(R342, R343, R353). -/
def execFence (g : Guard) (scope : BitVec 3) (d : SReg) (s : State) : Out :=
  s.consuming g [] none
    ((s.issueOp (.fence scope.toNat) (some (.s d.toNat)) false true (some scope.toNat)).block .op)

/-- WAITV: the check and the arming are one step at the monitor (R360). -/
def execWaitv (g : Guard) (dw : Bool) (d b c : SReg) (s : State) : Out :=
  s.consuming g [b, c] none (
    let z := if dw then 8 else 4
    (s.issueOp (.waitv (alignTo z (s.rs b)) z (s.rs c)) (some (.s d.toNat)) false true none).block .waitv)

/-- NOTIFY: a release at PKG scope; wakes waiters of the unit (R361). -/
def execNotify (g : Guard) (all : Bool) (d b : SReg) (s : State) : Out :=
  s.consuming g [b] none
    (s.issueOp (.notify all (alignTo 8 (s.rs b))) (some (.s d.toNat)) false false (some 5))

/-- The object that a virtual number names in a cluster, `none` when it is not mapped (R363). -/
def State.syncObj (s : State) (cl part v : Nat) : Option Nat :=
  let e := SMap.at 0 s.synmap ((cl * 16 + part) * 256 + v)
  if e < 256 then none else some (cl * 256 + e % 256)

/-- The ADDR of an UNMAPPED record (R365): space 8, cluster, virtual number. -/
def unmappedAddr (cl v : Nat) : Word := toWord (8 * 2 ^ 60 + cl * 256 + v)

/-- The shared checks of SYN.ADD, SYN.WAIT and SYN.GET (R364, R365): the number has eight bits; an unmapped number
suspends a context at the bundle. -/
def State.syncInstr (s : State) (g : Guard) (b : SReg) (srcs : List SReg) (f : Nat → State) : Out :=
  s.consuming g (b :: srcs) none (
    let v := (s.rs b).toNat
    let q := s.reqOf s.who
    let cl := clusterOf (coreOf s.who)
    if 256 ≤ v then s.raise .illegal 0#64
    else if !isLadle s.who && (s.syncObj cl q.part v).isNone then
      s.stopWith (.access s.issue.pos 0 11 0 (unmappedAddr cl v))
    else f v)

/-- SYN.ADD: a release at CLU scope (R343, R364). -/
def execSynAdd (g : Guard) (d b c : SReg) (s : State) : Out :=
  s.syncInstr g b [c] fun v =>
    s.issueOp (.synAdd v ((s.rs c).setWidth 32)) (some (.s d.toNat)) false false (some 3)

/-- SYN.WAIT: blocks until the counter has reached the target, modulo 2^32 (R364). -/
def execSynWait (g : Guard) (d b c : SReg) (s : State) : Out :=
  s.syncInstr g b [c] fun v =>
    (s.issueOp (.synWait v ((s.rs c).setWidth 32)) (some (.s d.toNat)) false true none).block .sync

/-- SYN.GET (R364). -/
def execSynGet (g : Guard) (d b : SReg) (s : State) : Out :=
  s.syncInstr g b [] fun v => s.issueOp (.synGet v) (some (.s d.toNat)) false true none

/-- The rank of a context in its gang. -/
def Gang.rankOf (g : Gang) (x : Nat) : Option Nat := (g.members.find? fun m => m.2 == x).map (·.1)

/-- The ranks of the barrier set of a rank (R366): the whole gang, or its run of GROUP ranks. -/
def Gang.barSet (g : Gang) (grp : Bool) (rank : Nat) : List Nat :=
  let rs := g.members.map (·.1)
  if grp then rs.filter fun r => r / g.group == rank / g.group else rs

/-- The narrowest of OCT, CLU, DIE and PKG that holds every context of a list (R366). Members that have exited or are saved
have no core (context numbers from 2048 on). -/
def spanScope (xs : List Nat) : Nat :=
  let live := xs.filter fun x => decide (x < 2048)
  let same (f : Nat → Nat) : Bool := match live with | [] => true | x :: r => r.all fun y => f (coreOf y) == f (coreOf x)
  if same octetOf then 2 else if same clusterOf then 3 else if same dieOf then 4 else 5

/-- The generation at which a BAR that is re-executed has arrived (R404, R366). -/
def State.barAgain (s : State) : Option (BitVec 32) :=
  if s.issue.redo.isNone then none
  else s.c.f.blocked.findSome? fun b => match b.wait with
    | .bar _ _ n => if b.redo && b.pos == s.issue.pos then some n else none
    | _ => none

/-- BAR: takes the next generation of its set, and waits until every member has arrived there (R366): the arrival is the
release, which is performed after the accesses before it (R340). A re-executed BAR keeps its generation. -/
def execBar (g : Guard) (grp : Bool) (d : SReg) (s : State) : Out :=
  s.consuming g [] none (
    match s.gang s.c.y.gang with
    | none =>
      if s.c.e.hm || grp then s.raise .illegal 0#64
      else
        let n := s.c.y.barWhole + 1#32
        ((s.sys fun y => { y with barWhole := n }).issueOp (.bar false n) (some (.s d.toNat)) false true none).block
          fun id => .bar id false n
    | some gg =>
      if s.c.e.hm || (grp && gg.group == 0) then s.raise .illegal 0#64
      else
        let rank := (gg.rankOf s.who).getD 0
        let n := s.barAgain.getD ((if grp then s.c.y.barGrp else s.c.y.barWhole) + 1#32)
        let t := s.sys fun y => if grp then { y with barGrp := n } else { y with barWhole := n }
        let scope := spanScope ((gg.members.filter fun m => (gg.barSet grp rank).contains m.1).map (·.2))
        (t.issueOp (.bar grp n) (some (.s d.toNat)) false true (some scope)).block
          fun id => .bar id grp n)

end Sys2Proof.Machine
end

