-- ==== Sys2Proof/Machine/Engines.lean ====
section
/-! DEFINITION. Copy engines, Ladle commands and row operations: class 111, rows 0 to 7, and what an engine command
does when it completes (11_memory_instructions.md R292 to R303; 10_feeding_data.md R468). -/

namespace Sys2Proof.Machine

/-! ## Accepting a command (R292) -/

/-- The queue that a copy command of the issuing agent enters: the core's copy engine or the Ladle's own. -/
def State.copyUnit (s : State) : EngUnit :=
  if isLadle s.who then .ladle (s.who - 2048) else .copy (coreOf s.who)

/-- How many commands a queue holds. -/
def EngUnit.depth : EngUnit → Nat
  | .copy _ => 16 | .ladle _ => 8 | .griddle _ => 16 | .fabric => 2 ^ 64 | .launch _ => 2 ^ 64

/-- Is the queue full? A command holds its entry until it completes. -/
def State.queueFull (s : State) (u : EngUnit) : Bool :=
  decide (u.depth ≤ (s.cmds.filter fun m => m.unit == u).length)

/-- Accepts a command: it binds the issuer, its partition and its windows (R292); a full queue stalls (R115). -/
def State.accept (s : State) (u : EngUnit) (core : Nat) (i : Instr) (a b d e : Word) (step : Nat) (tags : List TagRange) :
    State :=
  if s.queueFull u then s.stallFor 4
  else
    let x := s.ownerOf s.who
    let c := s.ctx x
    let ab := s.reg 0 (0x8A0 + c.y.part)
    let sp := s.reg 0 (0x8B0 + c.y.part)
    let all := c.y.sup
    let m : Cmd :=
      { id := s.serial, unit := u, agent := s.who, owner := x, core := core, part := c.y.part, sup := all, instr := i,
        a := a, b := b, d := d, e := e, fcr := c.y.fcr,
        abLo := if all then 0 else 65536 * bits ab 0 5, abHi := if all then 2 ^ 20 else 65536 * bits ab 8 5,
        spLo := if all then 0 else 65536 * bits sp 0 5, spHi := if all then 2 ^ 20 else 65536 * bits sp 8 5,
        cyc := s.issueCycle, pc := s.issue.pc - toWord c.y.spanBase, step := step, reserved := 0, arrived := 0,
        bundle := if isLadle s.who then (s.ladle (s.who - 2048)).bundle else 0, discard := false, started := false,
        gang := c.y.gang, tags := tags, bun := s.issue.serial0, prog := 0, spot := none, cur := [], put := [], word := s.issue.word, got := [], outs := [], waiting := false, acted := false }
    { s with cmds := s.cmds ++ [m] }.withSerial

/-- The release of the issuer when it hands over a command with rel or a signal (R343). -/
def State.cmdRelease (s : State) (needs : Bool) (scope : Nat) : State :=
  if needs then s.commitRelease scope else s

/-! ## COPY and COPYW (R293 to R295) -/

/-- A copy's geometry: destination and source spaces, row length, strides, rows. -/
structure CopyGeo where
  dsp : Nat
  ssp : Nat
  len : Nat
  sstr : Int
  dstr : Int
  rows : Nat
deriving DecidableEq, Repr

/-- The geometry from the control word and, for COPYW, the geometry word (R293, R294). -/
def copyGeo (ctl geo : Word) (wide : Bool) : CopyGeo :=
  { dsp := bits ctl 61 3, ssp := bits ctl 59 2, len := bits ctl 0 32,
    sstr := if wide then signedOf 24 (bits geo 40 24) else 0,
    dstr := if wide then signedOf 24 (bits geo 16 24) else 0,
    rows := if wide then bits geo 0 16 else 1 }

/-- Do all rows of a TMEM range stay in one core's 64 KiB (R277, R293)? -/
def tmemFits (va : Word) (g : CopyGeo) (str : Int) : Bool :=
  let off : Int := bits va 6 10 * 64
  let last : Int := off + str * (g.rows - 1 : Nat)
  decide (bits va 22 42 = 0 ∧ off + g.len ≤ 65536 ∧ 0 ≤ last ∧ last + g.len ≤ 65536)

/-- The ILLEGAL conditions of R294. -/
def State.copyIllegal (s : State) (g : CopyGeo) (ctl dest from_ : Word) : Bool :=
  let lad := isLadle s.who
  let x := s.ownerOf s.who
  let h := (s.ctx x).chan (bits dest 0 3)
  let me := if lad then 1 + (s.who - 2048) % 2 else 4
  decide (5 < g.dsp) || bits ctl 32 15 != 0 || decide (g.len < 64) || decide (g.len % 64 ≠ 0)
  || decide (g.sstr % 64 ≠ 0) || decide (g.dstr % 64 ≠ 0) || decide (g.rows = 0) || (decide (g.dsp = 3) && decide (g.dstr ≠ 0))
  || (decide (g.dsp = 4) && !lad)
  || ((decide (g.dsp = 5) || decide (g.ssp = 3)) && (lad || !s.c.y.sup))
  || (decide (g.dsp = 5) && !tmemFits dest g g.dstr) || (decide (g.ssp = 3) && !tmemFits from_ g g.sstr)
  || (decide (g.dsp = 3) && (bits dest 3 61 != 0 || decide (g.len * g.rows % 256 ≠ 0) || decide (256 * h.size < g.len * g.rows)
      || bits h.cfg 60 3 != me))

/-- The lines of an AB or SP operand that carry the pending-engine tag (R295). -/
def State.copyTag (s : State) (dst : Bool) (space : Nat) (va : Word) (len : Nat) (str : Int) (rows : Nat) : List TagRange :=
  let k := coreOf s.who
  let a := (alignTo 64 va).toNat
  if space = 1 then [⟨dst, false, k * 2 ^ 20 + a, len, str, rows⟩]
  else if space = 2 then [⟨dst, true, clusterOf k * 2 ^ 26 + a, len, str, rows⟩] else []

/-- The shared meaning of COPY and COPYW. -/
def State.copyInstr (s : State) (g : Guard) (i : Instr) (rel wide : Bool) (a b d : SReg) : Out :=
  let ctl := s.rs d
  let geo := if wide then s.rs (d + 1#5) else 0#64
  let cg := copyGeo ctl geo wide
  s.consuming g ([a, b, d] ++ if wide then [d + 1#5] else [])
    (if cg.dsp = 0 ∨ cg.ssp = 0 then s.needFeat 7 else none) (
    if s.copyIllegal cg ctl (s.rs a) (s.rs b) then s.raise .illegal 0#64
    else
      let tags := s.copyTag false cg.ssp (s.rs b) cg.len cg.sstr cg.rows ++ s.copyTag true cg.dsp (s.rs a) cg.len cg.dstr cg.rows
      (s.cmdRelease (rel || bitAt ctl 55) (bits ctl 56 3)).accept s.copyUnit (coreOf s.who) i (s.rs a) (s.rs b) ctl geo 0 tags)

/-- COPY (R294). -/
def execCopy (g : Guard) (acq rel : Bool) (a b d : SReg) (s : State) : Out :=
  s.copyInstr g (.copy g acq rel a b d) rel false a b d

/-- COPYW: rows from the geometry word in s[d + 1] (R294). -/
def execCopyw (g : Guard) (acq rel : Bool) (a b d : SReg) (s : State) : Out :=
  s.copyInstr g (.copyw g acq rel a b d) rel true a b d

/-- PREF: elements of global memory into a channel (R297). -/
def execPref (g : Guard) (acq : Bool) (a b : SReg) (s : State) : Out :=
  let ctl := s.rs b
  let lad := isLadle s.who
  let h := (s.ctx (s.ownerOf s.who)).chan (bits ctl 61 3)
  let me := if lad then 1 + (s.who - 2048) % 2 else 4
  s.consuming g [a, b] none (
    if bits ctl 32 4 != 0 || decide (bits ctl 36 13 = 0 ∨ 4096 < bits ctl 36 13) || bits ctl 0 6 != 0 || bits h.cfg 60 3 != me
    then s.raise .illegal 0#64
    else (s.cmdRelease (bitAt ctl 60) (bits ctl 49 3)).accept s.copyUnit (coreOf s.who) (.pref g acq a b) (s.rs a) ctl 0#64 0#64 0 [])

/-! ## Ladles (R298 to R300) -/

/-- The feature of a Ladle: LAD0 or LAD1 (R20, R103). -/
def State.needLad (s : State) (j : Bool) : Option TrapKind := s.needFeat (5 + boolNat j)

/-- The Ladle that an instruction names. -/
def State.ladOf (s : State) (j : Bool) : Nat := 2 * coreOf s.who + boolNat j

/-- LAD.RUN: queues a run; the run queue of four stalls when it is full (R298), and one of a FENCED Ladle takes none (R54). -/
def execLadRun (g : Guard) (j : Bool) (a b d : SReg) (s : State) : Out :=
  s.consuming g [a, b, d] (s.needLad j) (
    let l := s.ladOf j
    if bits (s.rs a) 0 2 != 0 || bits (s.rs a) 18 46 != 0 then s.raise .illegal 0#64
    else if decide (4 ≤ (s.ladle l).runs.length) || s.fenced (586 + l) then s.stallFor 4
    else (s.commitRelease 1).updLadle l fun y =>
      { y with runs := y.runs ++ [⟨s.who, s.rs a, s.rs b, s.rs d, s.issue.serial0⟩] })

/-- LAD.STOP (R299). -/
def execLadStop (g : Guard) (j : Bool) (s : State) : Out :=
  s.consuming g [] (s.needLad j) (
    let l := s.ladOf j
    let t := s.updLadle l fun y => { y with runs := y.runs.filter fun r => r.ctx != s.who }
    if (t.ladle l).serving = some s.who then t.endRun l else t)

/-- The word of LAD.STAT (R300). -/
def State.ladStat (s : State) (x l : Nat) : Word :=
  let y := s.ladle l
  let f := SMap.at (0, 0#64) y.faults x
  let st := if f.1 ≠ 0 then 3 else match y.serving with
    | none => 0
    | some o => if o = x then 1 else 2
  let pc := if st = 3 then bits f.2 0 18
    else if st = 1 then bits ((s.ctx (2048 + l)).f.pc - toWord (s.ctx x).y.spanBase) 0 18 else 0
  toWord (packFields [(62, st), (59, (y.runs.filter fun r => r.ctx == x).length), (48, f.1), (0, pc)])

/-- LAD.STAT (R300). -/
def execLadStat (g : Guard) (d : SReg) (j : Bool) (s : State) : Out :=
  s.consuming g [] (s.needLad j) (s.holdS 2 d (s.ladStat (s.ownerOf s.who) (s.ladOf j)) false)

/-! ## Row operations (R301 to R303) -/

/-- Where a physical address lies (R263): stack, channel, bank group, bank, subarray, packed. -/
def hbmSub (pa : Nat) : Nat × Nat × Nat × Nat × Nat :=
  let c := pa / 4096
  let o := c / 6 * 4096 + pa % 4096
  (c % 6, natBits o 10 5, natBits o 15 2, natBits o 17 2, natBits o 19 17 / 512)

/-- Does the line belong to another package (R266)? -/
def State.remoteLine (s : State) (va : Word) : Bool := decide (bits va 60 4 = 0) && !s.ownPackage va

/-- The translation of every row of an operand, none for a row of another package, or the first fault (R302). -/
def State.rowPas (s : State) (q : Req) (va : Word) (write : Bool) :
    Nat → Nat → State × Except (AFault × Word) (List (Option (Nat × Nat)))
  | _, 0 => (s, .ok [])
  | k, n + 1 =>
    let a := va + toWord (1024 * k)
    let (t, p) : State × Except AFault (Option (Nat × Nat)) :=
      if s.remoteLine a then (s, .ok none)
      else let r := s.resolveFor q a write; (r.1, r.2.map some)
    match p with
    | .error f => (t, .error (f, a))
    | .ok p =>
      match State.rowPas t q va write (k + 1) n with
      | (u, .error f) => (u, .error f)
      | (u, .ok ps) => (u, .ok (p :: ps))

/-- Do two physical rows lie in different subarrays (R263, R302)? -/
def rowApart (x y : Nat × Nat) : Bool := x.1 != y.1 || decide (hbmSub x.2 ≠ hbmSub y.2)

/-- The first failing row with its reason (R302): 0 ALIGN, 1 SUBARRAY, 2 REMOTE. `ps` holds the places of each row's
operands. -/
def rowFault (aligned : Bool) (ps : List (List (Option (Nat × Nat)))) : Option (Nat × Nat) :=
  if !aligned then some (0, 0)
  else ps.zipIdx.findSome? fun e =>
    if e.1.contains none then some (2, e.2)
    else match e.1 with
      | [some x, some y] => if rowApart x y then some (1, e.2) else none
      | _ => none

/-- The shared meaning of ROWCPY and ROWINIT. -/
def State.rowInstr (s : State) (g : Guard) (i : Instr) (rel cpy : Bool) (a b d : SReg) : Out :=
  s.consuming g [a, b, d] none (
    let ctl := s.rs d
    let n := bits ctl 0 7
    let q := s.reqOf s.who
    if bits ctl 7 45 != 0 || decide (n = 0 ∨ 64 < n) then s.raise .illegal 0#64
    else
      let susp (t : State) (f : AFault × Word) (w : Bool) : State :=
        t.stopWith (.access t.issue.pos 0 f.1.code (accessFlags q f.2 f.1.level w) (f.2 &&& toWord (2 ^ 60 - 1)))
      match s.rowPas q (s.rs a) true 0 n with
      | (t, .error f) => susp t f true
      | (t, .ok dps) =>
        match if cpy then t.rowPas q (s.rs b) false 0 n else (t, .ok []) with
        | (t, .error f) => susp t f false
        | (t, .ok sps) =>
          let aligned := bits (s.rs a) 0 10 == 0 && (!cpy || bits (s.rs b) 0 10 == 0)
          match rowFault aligned (if cpy then (dps.zip sps).map fun e => [e.1, e.2] else dps.map fun p => [p]) with
            | some (reason, k) => t.raise .rowx (toWord (reason * 256 + k))
            | none =>
              (t.cmdRelease (rel || bitAt ctl 63) (bits ctl 52 3)).accept t.copyUnit (coreOf t.who) i (s.rs a) (s.rs b) ctl 0#64 0 [])

/-- ROWCPY (R301). -/
def execRowcpy (g : Guard) (acq rel : Bool) (a b d : SReg) (s : State) : Out :=
  s.rowInstr g (.rowcpy g acq rel a b d) rel true a b d

/-- ROWINIT (R301). -/
def execRowinit (g : Guard) (acq rel : Bool) (a b d : SReg) (s : State) : Out :=
  s.rowInstr g (.rowinit g acq rel a b d) rel false a b d

/-! ## Completing a command (R295, R296, R303) -/

/-- A 64 B line of an engine command in AB or SP: its key, or WINDOW or PAIRSLICE (R247, R277). -/
def State.cmdSpot (s : State) (m : Cmd) (sp : Bool) (va : Word) (n : Nat) : Except Nat Nat :=
  let a := (alignTo 64 va).toNat
  let off := a % 2 ^ 20
  if sp then
    let k := clusterOf m.core * 64 + a / 2 ^ 20
    if 2 ^ 26 ≤ a ∨ off + n > 2 ^ 20 ∨ off < m.spLo ∨ m.spHi < off + n then .error 7
    else if decide (k ≠ m.core) && s.pairSecond k then .error 8 else .ok (k * 2 ^ 20 + off)
  else if a + n > 2 ^ 20 ∨ a < m.abLo ∨ m.abHi < a + n then .error 7 else .ok (m.core * 2 ^ 20 + a)

/-- A faulting access of a Griddle command also sets GSTAT.LOSS (R313). -/
def State.lossOf (s : State) (m : Cmd) : State :=
  match m.unit with
  | .griddle _ => s.updGriddle m.core fun g => { g with loss := true }
  | _ => s

/-- Updates a command by its number. -/
def State.updCmd (s : State) (id : Nat) (f : Cmd → Cmd) : State :=
  { s with cmds := updWhere (fun (x : Cmd) => x.id == id) f s.cmds }

/-- Where a line of a command lies: its address is checked and translated once (R271, R277); space codes of R293. A fault
posts its record, and a write that faults is counted in the owner's next FENCE (R272). -/
def State.place (s : State) (m : Cmd) (space : Nat) (va : Word) (write : Bool) : State × LineAt :=
  let failed (t : State) : State := if write then (t.lossOf m).countFail m.owner 1 31 else t.lossOf m
  if space = 0 then
    match s.resolveFor m.req (alignTo 64 va) write with
    | (t, .ok (die, pa)) => (t, .hbm die pa (alignTo 64 va))
    | (t, .error f) => (failed (t.globFault m.req f (alignTo 64 va) write), .lost)
  else if space = 3 ∨ space = 5 then (s, .tmem ((clusterOf m.core * 64 + bits va 16 6) * 2 ^ 16 + bits va 6 10 * 64))
  else if space = 4 then (s, .wb m.core ((alignTo 64 va).toNat % 2 ^ 21))
  else match s.cmdSpot m (space == 2) va 64 with
    | .ok k => (s, .mem (space == 2) k)
    | .error c => (failed (s.postAccess m.req c (4 * boolNat write) (onDieAddr (space == 2) 64 va)), .lost)

/-- A command's access to a line, as it begins, finds the line's errors (R264, R466). -/
def State.noticeLine (s : State) (m : Cmd) : LineAt → State
  | .mem sp k => s.noticeAS sp k 64
  | .hbm die pa va => s.noticePoison m.req va die pa 64
  | .tmem k => s.notice .tmem k 64
  | .wb .. | .lost => s

/-- Reads `n` bytes at an offset of a line, with the poison of the units that they lie in; a lost line is poisoned zero
(R272, R273). -/
def State.readAt (s : State) (l : LineAt) (off n : Nat) : List Byte × Bool :=
  match l with
  | .mem sp k => ((s.bankAS sp).readZ 6 (k + off) n, (s.bankAS sp).anyPoison 6 (k + off) n)
  | .hbm die pa _ => (s.hbm.readZ 6 (hbmKey die (pa + off)) n, s.hbm.anyPoison 6 (hbmKey die (pa + off)) n)
  | .tmem k => (s.tmem.readZ 4 (k + off) n, s.tmem.anyPoison 4 (k + off) n)
  | .wb core a => ((s.griddle core).wb.readZ 6 (a + off) n, (s.griddle core).wb.anyPoison 6 (a + off) n)
  | .lost => (List.replicate n 0#8, true)

/-- Writes bytes at an offset of a line with their poison; a lost line is dropped (R272). `part` names a unit of a whole line,
with whether it is the last. -/
def State.writeAt (s : State) (m : Cmd) (l : LineAt) (off : Nat) (bs : List Byte) (p : Bool) (part : Option Bool) : State :=
  match l with
  | .mem sp k => s.writeAS sp (k + off) bs p 0
  | .hbm die pa _ => match part with
    | none => s.writeHbm m.gang die (pa + off) bs p
    | some last => s.writeHbmUnit m.gang die (pa + off) bs p last
  | .tmem k => { s with tmem := s.tmem.writeP 4 (k + off) bs p }
  | .wb core a => s.updGriddle core fun g => { g with wb := g.wb.writeP 6 (a + off) bs p }
  | .lost => s

/-- The last unit of a line has been written clean: the line's poison is cleared (R273); for HBM its own write does so. -/
def State.cleanAt (s : State) : LineAt → State
  | .mem true k => { s with sp := s.sp.mark 6 k false }
  | .mem false k => { s with ab := s.ab.mark 6 k false }
  | .tmem k => { s with tmem := s.tmem.markAll 4 k 64 false }
  | .wb core a => s.updGriddle core fun g => { g with wb := g.wb.mark 6 a false }
  | .hbm .. | .lost => s

/-- Reads one line of a command; a line of another package has been fetched through the fabric (R379). -/
def State.cmdRead (s : State) (m : Cmd) (space : Nat) (va : Word) : State × List Byte × Bool :=
  if decide (space = 0) && s.remoteLine (alignTo 64 va) then
    match m.got.find? fun e => e.1 == alignTo 64 va with
    | some e => (s, e.2.1, e.2.2)
    | none => (s, List.replicate 64 0#8, true)
  else
    let r := s.place m space va false
    let t := r.1.noticeLine m r.2
    (t, t.readAt r.2 0 64)

/-- Writes one line of a command; a line of another package is left to the fabric (R379). -/
def State.cmdWrite (s : State) (m : Cmd) (space : Nat) (va : Word) (bs : List Byte) (p : Bool) : State :=
  if decide (space = 0) && s.remoteLine (alignTo 64 va) then
    s.updCmd m.id fun x => { x with outs := x.outs ++ [⟨0, alignTo 64 va, bs, p⟩] }
  else
    let r := s.place m space va true
    r.1.writeAt m r.2 0 bs p none

/-! ## Lines and their units (R295, R303, R339) -/

/-- A line that a command moves: where it is read, none for a pattern, and where it is written. -/
structure LineJob where
  src : Option (Nat × Word)
  dst : Nat × Word
deriving DecidableEq, Repr

/-- Line `n` of a copy (R295). -/
def copyJob (m : Cmd) (g : CopyGeo) (n : Nat) : LineJob :=
  let r := n / (g.len / 64)
  let k := n % (g.len / 64)
  ⟨some (g.ssp, alignTo 64 m.b + intWord (g.sstr * r) + toWord (64 * k)),
    (g.dsp, alignTo 64 m.a + intWord (g.dstr * r) + toWord (64 * k))⟩

/-- Line `n` of a command that moves lines: a copy, a row operation, a COPY node or a ROW node (R28, R295, R303). -/
def Cmd.job (m : Cmd) (n : Nat) : LineJob :=
  let at_ (v : Word) : Word := v + toWord (64 * n)
  match m.instr with
  | .copy .. => copyJob m (copyGeo m.d m.e false) n
  | .copyw .. => copyJob m (copyGeo m.d m.e true) n
  | .rowinit .. => ⟨none, (0, at_ m.a)⟩
  | .rowOperationComplete _ => ⟨if m.e == 0#64 then some (0, at_ m.b) else none, (0, at_ m.a)⟩
  | _ => ⟨some (0, at_ m.b), (0, at_ m.a)⟩

/-- How many lines a command moves. DESIGN CHOICE (log 41): a COPY node whose LEN is not a multiple of 64 moves its whole lines
only, and a ROW node handles all its rows with NROWS above 64 too; R30 checks neither. -/
def Cmd.lineCount (m : Cmd) : Nat :=
  let copy (g : CopyGeo) : Nat := if g.dsp = 3 then 0 else g.rows * (g.len / 64)
  match m.instr with
  | .copy .. => copy (copyGeo m.d m.e false)
  | .copyw .. => copy (copyGeo m.d m.e true)
  | .rowcpy .. | .rowinit .. => 16 * bits m.d 0 7
  | .copyComplete _ => m.d.toNat / 64
  | .rowOperationComplete _ => 16 * m.d.toNat
  | _ => 0

/-- The pattern line of ROWINIT and of a ROW node that fills (R303). -/
def Cmd.pattern (m : Cmd) : List Byte := (List.replicate 8 (natLe m.b.toNat 8)).flatten

/-- The source of the last of the first `n` lines of a command that is written at an address. -/
def Cmd.lastTo (m : Cmd) (dst : Nat × Word) : Nat → Option (Nat × Word)
  | 0 => none
  | n + 1 => if (m.job n).dst == dst then (m.job n).src else Cmd.lastTo m dst n

/-- After line `n` of a copy between AB and SP: its unit of 256 B takes the tag of the source unit when the command has moved
the four lines of that unit to it (R468). -/
def State.carryStamp (s : State) (m : Cmd) (n : Nat) : State :=
  let j := m.job n
  let on (x : Nat) : Bool := x == 1 || x == 2
  match j.src with
  | none => s
  | some (ssp, src) =>
    let dst := j.dst.2
    let line (v : Word) (i : Nat) : Word := alignTo 64 v - toWord (64 * bits v 6 2) + toWord (64 * i)
    if on ssp && on j.dst.1 && bits src 6 2 == bits dst 6 2 &&
        (List.range 4).all fun i => m.lastTo (j.dst.1, line dst i) (n + 1) == some (ssp, line src i) then
      match s.cmdSpot m (ssp == 2) src 64, s.cmdSpot m (j.dst.1 == 2) dst 64 with
      | .ok a, .ok b =>
        let v := SMap.at 0#32 (if ssp = 2 then s.spStamp else s.abStamp) (a / 256)
        if j.dst.1 = 2 then { s with spStamp := SMap.put 0#32 s.spStamp (b / 256) v }
        else { s with abStamp := SMap.put 0#32 s.abStamp (b / 256) v }
      | _, _ => s
    else s

/-- Line `n` of a command, read and then written (R295). -/
def State.moveLine (s : State) (m : Cmd) (n : Nat) : State :=
  let j := m.job n
  match j.src with
  | none => s.cmdWrite m j.dst.1 j.dst.2 m.pattern false
  | some (sp, va) =>
    let r := s.cmdRead m sp va
    (r.1.cmdWrite m j.dst.1 j.dst.2 r.2.1 r.2.2).carryStamp m n

/-- The number of the unit that is performed next, among those left: any of them (R339). -/
def State.pickUnit (s : State) (left : List Nat) : State × Nat :=
  if left.length ≤ 1 then (s, left.headD 0) else (s.ticked, (left[Config.unitPick s.tick % left.length]?).getD 0)

/-- One 8-byte unit of the line that a command reads is performed (R339). The line is located first; with its last unit the
bytes and the poison are answered. -/
def State.readUnit (s : State) (m : Cmd) (space : Nat) (va : Word) : State × Option (List Byte × Bool) :=
  let r := match m.spot with
    | some l => (s, l)
    | none => let p := s.place m space va false; (p.1.noticeLine m p.2, p.2)
  let left := (List.range 8).filter fun u => !m.cur.any fun e => e.1 == u
  let (t, u) := r.1.pickUnit left
  let cur := SMap.put ([], false) m.cur u (t.readAt r.2 (8 * u) 8)
  if left.length ≤ 1 then
    (t.updCmd m.id fun y => { y with spot := none, cur := [] }, some (cur.flatMap (·.2.1), cur.any (·.2.2)))
  else (t.updCmd m.id fun y => { y with spot := some r.2, cur := cur }, none)

/-- The bytes of a unit in which a line is written: 8 (R339), 16 in TMEM, where an evaluation reads a unit whole (R295), and the
whole line of WB, of which a tile reads the old or the new contents (R317). -/
def LineAt.unitSize : LineAt → Nat
  | .tmem _ => 16 | .wb .. => 64 | _ => 8

/-- One unit of the oldest line that a command has ready is written (R339); `last` acts once the line is written. -/
def State.writeUnit (s : State) (m : Cmd) (o : OutLine) (last : State → State) : State :=
  let r := match m.spot with | some l => (s, l) | none => s.place m o.space o.va true
  let z := r.2.unitSize
  let left := (List.range (64 / z)).filter fun u => !m.put.contains u
  let (t, u) := r.1.pickUnit left
  let t := t.writeAt m r.2 (z * u) ((o.bytes.drop (z * u)).take z) o.pois (some (decide (left.length ≤ 1)))
  if left.length ≤ 1 then
    last ((if o.pois then t else t.cleanAt r.2).updCmd m.id fun y => { y with spot := none, put := [], outs := y.outs.drop 1 })
  else t.updCmd m.id fun y => { y with spot := some r.2, put := u :: y.put }

/-- May row `k` of a ROW node be done (R28, R302)? A row that fails posts a record of AGENT 6 (R430). DESIGN CHOICE (log 28): a
row that breaks the operand rules of R302 fails, and so does every row of a node whose OP is neither 0 nor 1, which R28 and R30
leave open; R274 has no code for either, and the record has BADVA with the row's destination. -/
def State.nodeRowOk (s : State) (m : Cmd) (k : Nat) : State × Bool :=
  let dst := m.a + toWord (1024 * k)
  let src := m.b + toWord (1024 * k)
  let cpy := m.e == 0#64
  let failed (t : State) : State × Bool := (t.postAccess m.req 9 4 (dst &&& toWord (2 ^ 60 - 1)), false)
  if decide (1 < m.e.toNat) || bits m.a 0 10 != 0 || s.remoteLine dst || (cpy && (bits m.b 0 10 != 0 || s.remoteLine src)) then
    failed s
  else match s.resolve dst m.part m.sup true with
    | (t, .error f) => (t.globFault m.req f dst true, false)
    | (t, .ok dp) =>
      if !cpy then (t, true)
      else match t.resolve src m.part m.sup false with
        | (t, .error f) => (t.globFault m.req f src false, false)
        | (t, .ok sp) => if rowApart dp sp then failed t else (t, true)

/-- Is the command at the start of a row of a ROW node? -/
def Cmd.atRow (m : Cmd) : Bool :=
  (match m.instr with | .rowOperationComplete _ => true | _ => false) && m.spot.isNone && m.prog % 16 == 0

/-- One unit of a command that moves lines of this package is performed: of the line it has ready, else of its next line
(R295, R339). A row of a ROW node that may not be done is passed over. -/
def State.lineUnit (s : State) (m : Cmd) : State :=
  match m.outs with
  | o :: _ =>
    if decide (o.space = 0) && s.remoteLine (alignTo 64 o.va) then s else s.writeUnit m o fun t => t.carryStamp m (m.prog - 1)
  | [] =>
    if m.lineCount ≤ m.prog then s
    else
      let r := if m.atRow then s.nodeRowOk m (m.prog / 16) else (s, true)
      if !r.2 then r.1.updCmd m.id fun x => { x with prog := x.prog + 16 }
      else
        let j := m.job m.prog
        let ready (t : State) (bs : List Byte) (p : Bool) : State :=
          t.updCmd m.id fun x => { x with prog := x.prog + 1, outs := [⟨j.dst.1, j.dst.2, bs, p⟩] }
        match j.src with
        | none => ready r.1 m.pattern false
        | some (sp, va) =>
          if decide (sp = 0) && s.remoteLine (alignTo 64 va) then match m.got.find? fun e => e.1 == alignTo 64 va with
            | some e => ready (r.1.updCmd m.id fun x => { x with got := [] }) e.2.1 e.2.2
            | none => r.1
          else match r.1.readUnit m sp va with
            | (t, none) => t
            | (t, some (bs, p)) => ready t bs p

/-- Does a line in progress or ready, or a line that is left, belong to another package (R379)? -/
def State.linesFar (s : State) (m : Cmd) : Bool :=
  let far (x : Nat × Word) : Bool := decide (x.1 = 0) && s.remoteLine (alignTo 64 x.2)
  m.waiting || (m.outs.any fun o => far (o.space, o.va)) || (List.range (m.lineCount - m.prog)).any fun i =>
    let j := m.job (m.prog + i)
    (match j.src with | some x => far x | none => false) || far j.dst

/-- Finishes the lines that a command has in progress or ready. -/
def State.finishLine (s : State) (id : Nat) : Nat → State
  | 0 => s
  | fuel + 1 => match s.cmds.find? fun m => m.id == id with
    | none => s
    | some m => if m.spot.isNone && m.outs.isEmpty then s else State.finishLine (s.lineUnit m) id fuel

/-- The lines that a command has left, one after another; a row of a ROW node that may not be done is passed over. -/
def State.moveLines (s : State) (m : Cmd) : State :=
  let t := s.finishLine m.id 16
  let p := ((t.cmds.find? fun x => x.id == m.id).map Cmd.prog).getD m.prog
  match m.instr with
  | .rowOperationComplete _ =>
    ((List.range (m.lineCount - p)).foldl (fun (acc : State × Bool) i =>
      let r := if (p + i) % 16 = 0 then acc.1.nodeRowOk m ((p + i) / 16) else acc
      (if r.2 then r.1.moveLine m (p + i) else r.1, r.2)) (t, true)).1
  | _ => (List.range (m.lineCount - p)).foldl (fun t i => t.moveLine m (p + i)) t

/-! ## Elements of a feeding command (R259, R295, R297) -/

/-- The four lines of element `k` of a feeding command, in the order of R295. -/
def Cmd.elemSrc (m : Cmd) (k : Nat) : List (Nat × Word) :=
  let copy (g : CopyGeo) : List (Nat × Word) := (List.range 4).map fun i => ((copyJob m g (4 * k + i)).src).getD (0, 0#64)
  match m.instr with
  | .pref .. => (List.range 4).map fun i => (0, alignTo 64 (m.a + intWord (signedOf 32 (bits m.b 0 32) * k)) + toWord (64 * i))
  | .copy .. => copy (copyGeo m.d m.e false)
  | .copyw .. => copy (copyGeo m.d m.e true)
  | _ => []

/-- The places of the lines of an element, and whether one faulted; with `one` the first that faults is the last that is
tried. Lines of other packages have no place. -/
def State.placeElem (s : State) (m : Cmd) (one : Bool) : List (Nat × Word) → State × List LineAt × Bool
  | [] => (s, [], false)
  | (sp, va) :: rest =>
    let far := decide (sp = 0) && s.remoteLine va
    let r := if far then (s, LineAt.lost) else s.place m sp va false
    let bad := !far && r.2 == .lost
    let q := if one && bad then (r.1, rest.map fun _ => LineAt.lost, true) else State.placeElem r.1 m one rest
    (q.1, r.2 :: q.2.1, q.2.2 || bad)

/-- Unit `u` of 32 of an element: its bytes and poison. -/
def State.elemUnit (s : State) (m : Cmd) (src : List (Nat × Word)) (spots : List LineAt) (u : Nat) : List Byte × Bool :=
  let x := src.getD (u / 8) (0, 0#64)
  if decide (x.1 = 0) && s.remoteLine x.2 then
    match m.got.find? fun e => e.1 == x.2 with
    | some e => ((e.2.1.drop (8 * (u % 8))).take 8, e.2.2)
    | none => (List.replicate 8 0#8, true)
  else s.readAt (spots.getD (u / 8) .lost) (8 * (u % 8)) 8

/-- The access to line `g` of an element begins, unless a unit of it has been read. -/
def State.elemNotice (s : State) (m : Cmd) (e : Elem) (spots : List LineAt) (g : Nat) : State :=
  if e.units.any fun x => x.1 / 8 == g then s else s.noticeLine m (spots.getD g .lost)

/-- The places of an element's source lines, found once. Each line of a copy is an access of its own; an element of a PREF is
one access, which posts one record, and is lost whole, where it faults (R272, R297). -/
def State.elemPlaces (s : State) (m : Cmd) (e : Elem) : State × List LineAt :=
  if !e.spots.isEmpty then (s, e.spots)
  else
    let one := match m.instr with | .pref .. => true | _ => false
    let r := s.placeElem m one (m.elemSrc e.k)
    (r.1, if one && r.2.2 then List.replicate 4 .lost else r.2.1)

/-- Updates an element by its number. -/
def State.updElem (s : State) (id : Nat) (f : Elem → Elem) : State :=
  { s with elems := updWhere (fun (y : Elem) => y.id == id) f s.elems }

/-- The 256 bytes and the group poison that 32 units make. -/
def unitsVec (units : SMap (List Byte × Bool)) : PVec :=
  ⟨vecOfBytes (units.flatMap (·.2.1)), groupMask fun g => units.any fun x => x.1 / 8 == g && x.2.2⟩

/-- One 8-byte unit of an element that is on its way is read, or written in its slot once all have been read (R339). -/
def State.elemStep (s : State) (m : Cmd) (e : Elem) : State :=
  let left := (List.range 32).filter fun u => !e.units.any fun x => x.1 == u
  if left.isEmpty then
    let (t, u) := s.pickUnit ((List.range 32).filter fun u => !e.put.contains u)
    if e.put.contains u then s
    else
      (t.writeAS e.sp (e.key + 8 * u) (SMap.at ([], false) e.units u).1 ((unitsVec e.units).p.getLsbD (u / 8)) 0).updElem e.id fun y =>
        { y with put := u :: y.put }
  else
    let r := s.elemPlaces m e
    let (t, u) := r.1.pickUnit left
    let t := t.elemNotice m e r.2 (u / 8)
    let x := t.elemUnit m (m.elemSrc e.k) r.2 u
    t.updElem e.id fun y => { y with spots := r.2, units := SMap.put ([], false) y.units u x }

/-- The units of an element: those that have been read, and the rest as they stand. -/
def State.readElem (s : State) (m : Cmd) (e : Elem) : State × SMap (List Byte × Bool) :=
  let r := s.elemPlaces m e
  let t := (List.range 4).foldl (fun t g => t.elemNotice m e r.2 g) r.1
  (t, (List.range 32).map fun u => (u, match e.units.find? fun y => y.1 == u with
    | some y => y.2
    | none => t.elemUnit m (m.elemSrc e.k) r.2 u))

/-- An element's units that are still to be written, its poison and its stamp (R259, R273, R468). -/
def State.fillSlot (s : State) (e : Elem) (us : SMap (List Byte × Bool)) : State :=
  let v := unitsVec us
  if e.put.isEmpty then s.storeElem e.sp e.key v.v v.p e.stamp
  else
    let t := (us.filter fun x => !e.put.contains x.1).foldl (fun t x => t.writeAS e.sp (e.key + 8 * x.1) x.2.1 (v.p.getLsbD (x.1 / 8)) 0) s
    let b := (List.range 4).foldl (fun b g => b.mark 6 (e.key + 64 * g) (v.p.getLsbD g)) (if e.sp then t.sp else t.ab)
    if e.sp then { t with sp := b, spStamp := SMap.put 0#32 t.spStamp (e.key / 256) e.stamp }
    else { t with ab := b, abStamp := SMap.put 0#32 t.abStamp (e.key / 256) e.stamp }

/-- The global line addresses that element `k` of a feeding command reads (R295, R297). -/
def Cmd.elemLines (m : Cmd) (k : Nat) : List Word := ((m.elemSrc k).filter fun x => x.1 == 0).map fun x => x.2

/-- The producer code of a command's pushes (R258, R297, R389). -/
def Cmd.prodCode (m : Cmd) : Nat := match m.unit with | .ladle l => 1 + l % 2 | .fabric => 3 | _ => 4

/-- Reserves the next element of a feeding command when there is room (R259, R295); a push that the channel refuses is
dropped with a CHANNEL record (R260). A Ladle's commands reserve in their order (R467). -/
def State.reserveNext (s : State) (m : Cmd) : State :=
  match m.feed with
  | none => s
  | some (n, total) =>
    let h := (s.ctx m.owner).chan n
    if m.discard || decide (total ≤ m.reserved) || s.feedsFirst m.agent (fun x => decide (x.id < m.id)) then s
    else
      let upd (f : Cmd → Cmd) (t : State) : State := { t with cmds := updWhere (fun x => x.id == m.id) f t.cmds }
      if !h.en || bits h.cfg 60 3 != m.prodCode then
        (upd (fun x => { x with reserved := x.reserved + 1, arrived := x.arrived + 1, started := true }) s).postAccess m.req 10 4
          (toWord (9 * 2 ^ 60 + n * 2 ^ 11 + m.owner))
      else if h.full then s
      else
        let far := m.unit == .fabric
        let e : Elem := ⟨s.serial, m.agent, m.owner, n, h.inSp, chanKey m.owner h h.ridx, m.id, m.reserved, m.bundle, false, if far then m.d.setWidth 32 else 0#32, far, [], [], []⟩
        let t := (upd (fun x => { x with reserved := x.reserved + 1, started := true }) s).upd m.owner fun c => c.updChan n Chan.reserve
        { t with elems := t.elems ++ [e] }.withSerial

/-- An element of a feeding command arrives in its slot (R259). -/
def State.arriveElem (s : State) (e : Elem) : State :=
  match s.cmds.find? fun m => m.id == e.cmd with
  | none => s
  | some m =>
    if !(m.elemLines e.k).all fun a => !s.remoteLine a || m.got.any fun g => g.1 == a then s else
    let (t, us) := s.readElem m e
    let t := (t.fillSlot e us).updCmd m.id fun x => { x with got := x.got.filter fun g => !(m.elemLines e.k).contains g.1 }
    (t.updElem e.id fun x => { x with arrived := true }).settle

/-- The signal that a command asks for: SYNV, SYNO and SCOPE of its control word (R293, R297, R301, R330). -/
def Cmd.signalOf (m : Cmd) : Option (Nat × Nat) :=
  match m.instr with
  | .copy .. | .copyw .. => if bitAt m.d 55 then some (bits m.d 47 8, bits m.d 56 3) else none
  | .rowcpy .. | .rowinit .. => if bitAt m.d 63 then some (bits m.d 55 8, bits m.d 52 3) else none
  | .grdMul .. | .grdDrain .. | .grdSave .. | .grdRest .. =>
    if bitAt m.d 59 then some (bits m.d 51 8, bits m.d 48 3) else none
  | _ => none

/-- Is a Ladle still in the run to which a command's bundle belongs? -/
def State.inRun (s : State) (a : Nat) : Bool := isLadle a && (s.ladle (a - 2048)).serving.isSome

/-- Removes a completed command and issues its signal (R296): from a Ladle it waits for the next committed push or the
end of the run; a command that a rewind has taken back signals nothing (R410). -/
def State.retireCmd (s : State) (m : Cmd) : State :=
  let t := { s with cmds := s.cmds.filter fun x => x.id != m.id }
  match if m.discard then none else m.signalOf with
  | none => t
  | some (obj, scope) => t.signalFrom m obj scope (!t.inRun m.agent)

/-- The bounding range of rows from an address: space, first byte, end (R292). -/
def rowBox (space : Nat) (va : Word) (len : Nat) (stride : Int) (rows : Nat) : Nat × Int × Int :=
  let a : Int := (alignTo 64 va).toNat
  let z : Int := a + stride * ((rows - 1 : Nat) : Int)
  (space, min a z, max a z + len)

/-- A bounding range in WB, whose offsets wrap modulo 2^21 (R304). -/
def wbBoxes (b : Nat × Int × Int) : List (Nat × Int × Int) :=
  let lo := b.2.1 % 2 ^ 21
  let hi := lo + (b.2.2 - b.2.1)
  if hi ≤ 2 ^ 21 then [(4, lo, hi)] else [(4, lo, 2 ^ 21), (4, 0, min (hi - 2 ^ 21) (2 ^ 21))]

/-- The ranges of a command (R292): written or read, and the bounding range; spaces 1 AB, 2 SP, 3 global, 4 WB, 5 TMEM,
9 the channel it feeds. -/
def Cmd.spans (m : Cmd) : List (Bool × Nat × Int × Int) :=
  let onDie := m.tags.map fun r =>
    (r.dst, (if r.sp then 2 else 1), min (r.key : Int) (r.key + r.stride * ((r.rows - 1 : Nat) : Int)),
      max (r.key : Int) (r.key + r.stride * ((r.rows - 1 : Nat) : Int)) + r.len)
  let chan := match m.feed with
    | some (n, _) => [(true, 9, (n : Int), (n : Int) + 1)]
    | none => []
  let copy (g : CopyGeo) : List (Bool × Nat × Int × Int) :=
    (if g.ssp = 0 then [(false, rowBox 3 m.b g.len g.sstr g.rows)]
      else if g.ssp = 3 then [(false, rowBox 5 m.b g.len g.sstr g.rows)] else [])
    ++ (if g.dsp = 0 then [(true, rowBox 3 m.a g.len g.dstr g.rows)]
      else if g.dsp = 4 then (wbBoxes (rowBox 4 m.a g.len g.dstr g.rows)).map fun b => (true, b)
      else if g.dsp = 5 then [(true, rowBox 5 m.a g.len g.dstr g.rows)] else [])
  let glob := match m.instr with
    | .copy .. => copy (copyGeo m.d m.e false)
    | .copyw .. => copy (copyGeo m.d m.e true)
    | .pref .. => [(false, rowBox 3 m.a 256 (signedOf 32 (bits m.b 0 32)) (bits m.b 36 13))]
    | .rowcpy .. => [(true, rowBox 3 m.a (1024 * bits m.d 0 7) 0 1), (false, rowBox 3 m.b (1024 * bits m.d 0 7) 0 1)]
    | .rowinit .. => [(true, rowBox 3 m.a (1024 * bits m.d 0 7) 0 1)]
    | .copyComplete _ => [(true, rowBox 3 m.a m.d.toNat 0 1), (false, rowBox 3 m.b m.d.toNat 0 1)]
    | .rowOperationComplete _ => [(true, rowBox 3 m.a (1024 * m.d.toNat) 0 1)]
    | .grdSave .. => if bits m.d 62 2 = 0 then [(true, rowBox 3 m.a (2 ^ 21) 0 1)] else []
    | .grdRest .. => if bits m.d 62 2 = 0 then [(false, rowBox 3 m.a (2 ^ 21) 0 1)] else []
    | _ => []
  onDie ++ chan ++ glob

/-- The places that an own address of a requester may be translated to: what the TLBs may hold, and what a walk finds
(R267). -/
def State.placesOf (s : State) (q : Req) (va : Word) : List (Nat × Nat) :=
  if bits va 60 4 != 0 || !s.ownPackage va then []
  else
    let die := bits va 50 1
    let off := bits va 0 50
    let cached := (s.tlbHits q.core die (spaceOf q.sup q.part) off).map fun e => (die, leafPa e.leaf e.size off)
    match s.walk die off q.sup false 4 0 (bits (s.reg die (rootOf (spaceOf q.sup q.part))) 14 25 * 16384) with
    | .ok (e, n) => (die, leafPa e n off) :: cached
    | .error _ => cached

/-- Where a global range of a requester lies in HBM, in pieces of at most 64 KiB: two addresses of one byte meet there (R262). -/
def State.rangePlaces (s : State) (q : Req) (lo hi : Nat) : List (Nat × Nat) :=
  (List.range (ceilDiv hi 65536 - lo / 65536)).flatMap fun i =>
    let a := max lo (65536 * (lo / 65536 + i))
    let z := min hi (65536 * (lo / 65536 + i + 1))
    (s.placesOf q (toWord a)).map fun p => (hbmKey p.1 p.2, hbmKey p.1 p.2 + (z - a))

/-- Do two commands of one issuer have overlapping ranges, one of them written (R280, R292)? Global ranges meet by their
addresses, or by the bytes that they are translated to. -/
def State.conflicts (s : State) (x y : Cmd) : Bool :=
  let meet (a b : Nat × Nat) : Bool := decide (a.1 < b.2 ∧ b.1 < a.2)
  x.spans.any fun a => y.spans.any fun b =>
    (a.1 || b.1) && a.2.1 == b.2.1 && (decide (a.2.2.1 < b.2.2.2 ∧ b.2.2.1 < a.2.2.2) ||
      (a.2.1 == 3 && (s.rangePlaces x.req a.2.2.1.toNat a.2.2.2.toNat).any fun p =>
        (s.rangePlaces y.req b.2.2.1.toNat b.2.2.2.toNat).any fun r => meet p r))

/-- Does a command run in the launch unit's own queue (R47)? -/
def Cmd.ofLaunch (m : Cmd) : Bool := match m.unit with | .launch _ => true | _ => false

/-- May a command start to act: every access its issuer issued before it is performed, and the issuer's earlier
commands with overlapping ranges are complete (R279, R280, R292)? A command follows every access of its own bundle, and the
release of its acceptance (R343). A launch unit's Ladle takes its nodes one by one (R47). -/
def State.cmdReady (s : State) (m : Cmd) : Bool :=
  !(s.ops.any fun o => o.agent == m.agent && (decide (o.id < m.id) || o.bun == m.bun) && !o.done &&
    (!o.kind.touches.isEmpty || o.kind == .release))
  && !(s.cmds.any fun x => decide (x.id < m.id) &&
    ((x.agent == m.agent && s.conflicts x m) || (m.ofLaunch && x.unit == m.unit)))

/-- Is a write of the bytes at a die's physical address held by a migration (R425)? -/
def State.heldByMig (s : State) (die pa : Nat) : Bool := s.pageMoving die pa 1

/-- Is a write to a global line of this package held by a migration (R425)? -/
def State.lineHeld (s : State) (q : Req) (va : Word) : Bool :=
  s.svc.migs.any (fun e => e.2.run.isSome) &&
    match (s.resolve (alignTo 64 va) q.part q.sup true).2 with
    | .ok (die, pa) => s.heldByMig die pa
    | .error _ => false

/-- Does a command write a page that is being migrated? -/
def State.cmdHeld (s : State) (m : Cmd) : Bool :=
  s.svc.migs.any (fun e => e.2.run.isSome) &&
    m.spans.any fun r => r.1 && r.2.1 == 3 &&
      (List.range (ceilDiv (r.2.2.2 - r.2.2.1).toNat 64)).any fun i => s.lineHeld m.req (intWord r.2.2.1 + toWord (64 * i))

/-- A command has acted: it completes when no line is left to write to another package (R296, R379). -/
def State.finishCmd (s : State) (m : Cmd) : State :=
  if s.cmds.any fun x => x.id == m.id && (!x.outs.isEmpty || x.waiting) then s.updCmd m.id fun x => { x with acted := true }
  else s.retireCmd m

/-- COPY_COMPLETE: a COPY, COPYW or PREF completes (R295 to R297), or a COPY node's last line has been performed: what is left
of its lines is moved in order, unless one lies in another package. -/
def execCopyComplete (id : Nat) (s : State) : Out :=
  .next (match s.cmds.find? fun m => m.id == id with
    | none => s
    | some m =>
      if !s.cmdReady m || s.cmdHeld m then s
      else if m.acted then (if m.ofLaunch then s else s.finishCmd m)
      else match m.instr, m.feed with
        | .copyComplete _, _ =>
          if s.linesFar m then s else (s.moveLines m).updCmd m.id fun x => { x with prog := m.lineCount, acted := true }
        | .copy .., none | .copyw .., none => if s.linesFar m then s else (s.moveLines m).finishCmd m
        | .copy .., some (_, n) | .copyw .., some (_, n) | .pref .., some (_, n) =>
          if m.discard || decide (n ≤ m.arrived) then s.retireCmd m else s
        | _, _ => s)

/-- ROW_OPERATION_COMPLETE: the rows in ascending order (R303). -/
def execRowOperationComplete (id : Nat) (s : State) : Out :=
  .next (match s.cmds.find? fun m => m.id == id with
    | none => s
    | some m =>
      if !s.cmdReady m || s.cmdHeld m then s
      else match m.instr with
        | .rowcpy .. | .rowinit .. => (s.moveLines m).retireCmd m
        | .rowOperationComplete _ =>
          if m.acted then s else (s.moveLines m).updCmd m.id fun x => { x with prog := m.lineCount, acted := true }
        | _ => s)

end Sys2Proof.Machine
end

