-- ==== Sys2Proof/Machine/Numfmt.lean ====
section
/-! DEFINITION. Number formats, the one rounding procedure, conversions, element integers and the residue accumulator
entry (07_number_formats.md R163 to R182). Finite values are exact: a sign, a magnitude and a power of two. -/

namespace Sys2Proof.Machine

/-- The floating formats of R164. -/
inductive FFmt where
  | f32 | bf16 | f16 | e5m2 | e4m3 | e3m2 | e2m3 | e2m1
deriving DecidableEq, Repr

/-- Exponent field width (R164). -/
def FFmt.expBits : FFmt → Nat
  | .f32 | .bf16 => 8 | .f16 | .e5m2 => 5 | .e4m3 => 4 | .e3m2 => 3 | .e2m3 | .e2m1 => 2

/-- Mantissa field width (R164). -/
def FFmt.manBits : FFmt → Nat
  | .f32 => 23 | .bf16 => 7 | .f16 => 10 | .e5m2 => 2 | .e4m3 => 3 | .e3m2 => 2 | .e2m3 => 3 | .e2m1 => 1

/-- Width in bits (R164). -/
def FFmt.width (f : FFmt) : Nat := 1 + f.expBits + f.manBits

/-- The bias (R164). -/
def FFmt.bias (f : FFmt) : Int := 2 ^ (f.expBits - 1) - 1

/-- The exponent of the smallest normal value (R164). -/
def FFmt.emin (f : FFmt) : Int := 1 - f.bias

/-- The magnitude code of the largest finite value (R164). -/
def FFmt.largest : FFmt → Nat
  | .f32 => 0x7F7FFFFF | .bf16 => 0x7F7F | .f16 => 0x7BFF | .e5m2 => 0x7B | .e4m3 => 0x7E | .e3m2 | .e2m3 => 0x1F
  | .e2m1 => 0x7

/-- The magnitude code of infinity, where the format has one (R164). -/
def FFmt.infCode : FFmt → Option Nat
  | .f32 => some 0x7F800000 | .bf16 => some 0x7F80 | .f16 => some 0x7C00 | .e5m2 => some 0x7C | _ => none

/-- The canonical NaN, where the format has one (R164). -/
def FFmt.nanCode : FFmt → Option Nat
  | .f32 => some 0x7FC00000 | .bf16 => some 0x7FC0 | .f16 => some 0x7E00 | .e5m2 => some 0x7E | .e4m3 => some 0x7F
  | _ => none

/-- A floating value: NaN, an infinity, or (−1)^neg × m × 2^e exactly; a zero keeps its sign. -/
inductive FVal where
  | nan
  | inf (neg : Bool)
  | fin (neg : Bool) (m : Nat) (e : Int)
deriving DecidableEq, Repr

/-- The value of a code (R164, R165). -/
def FFmt.value (f : FFmt) (code : Nat) : FVal :=
  let mag := code % 2 ^ (f.width - 1)
  let neg := code.testBit (f.width - 1)
  let ef := mag / 2 ^ f.manBits
  let mf := mag % 2 ^ f.manBits
  if f.infCode = some mag then .inf neg
  else if f.largest < mag then .nan
  else if ef = 0 then .fin neg mf (f.emin - f.manBits)
  else .fin neg (2 ^ f.manBits + mf) (ef - f.bias - f.manBits)

/-- Rounding modes (R171). -/
inductive RMode where
  | rne | rtz | rup | rdn
deriving DecidableEq, Repr

/-- The mode of a code (R171). -/
def RMode.of : Nat → RMode
  | 0 => .rne | 1 => .rtz | 2 => .rup | _ => .rdn

/-- The integer that a mode selects for the magnitude m × 2^e of a value of sign `neg`, as a magnitude (R172). A shift
far past the magnitude's own bits selects as one just past them does. -/
def rndMag (mode : RMode) (neg : Bool) (m : Nat) (e : Int) : Nat :=
  match e with
  | .ofNat k => m * 2 ^ k
  | .negSucc k =>
    let sh := min (k + 1) (bitLength m + 2)
    let q := m / 2 ^ sh
    let r := m % 2 ^ sh
    let up := match mode with
      | .rne => decide (2 ^ sh < 2 * r) || (decide (2 * r = 2 ^ sh) && decide (q % 2 = 1))
      | .rtz => false
      | .rup => !neg && decide (r ≠ 0)
      | .rdn => neg && decide (r ≠ 0)
    if up then q + 1 else q

/-- The code of a magnitude with a sign. -/
def FFmt.signed (f : FFmt) (neg : Bool) (mag : Nat) : Nat := mag + boolNat neg * 2 ^ (f.width - 1)

/-- The result of an overflow (R173): `ieee` false is SAT. F32, BF16 and F16 are always IEEE. -/
def FFmt.overflow (f : FFmt) (neg : Bool) (mode : RMode) (ieee : Bool) : Nat :=
  let ieee := ieee || f == .f32 || f == .bf16 || f == .f16
  let toInf := match mode with
    | .rne => true | .rtz => false | .rup => !neg | .rdn => neg
  if !ieee || !toInf then f.signed neg f.largest
  else match f.infCode with
    | some c => f.signed neg c
    | none => match f.nanCode with
      | some c => c
      | none => f.signed neg f.largest

/-- One rounding of an exact value to a format (R172): the code. -/
def FFmt.round (f : FFmt) (mode : RMode) (ieee neg : Bool) (m : Nat) (e : Int) : Nat :=
  if m = 0 then f.signed neg 0
  else
    let ex := max ((bitLength m : Int) - 1 + e) f.emin
    let n := rndMag mode neg m (e - (ex - f.manBits))
    let mag := ((ex + f.bias) * 2 ^ f.manBits + n - 2 ^ f.manBits).toNat
    if f.largest < mag then f.overflow neg mode ieee else f.signed neg mag

/-- Is a code a subnormal of its format? -/
def FFmt.subnormal (f : FFmt) (code : Nat) : Bool :=
  let mag := code % 2 ^ (f.width - 1)
  decide (0 < mag ∧ mag < 2 ^ f.manBits)

/-- Is the format one that FCR.FTZ governs (R174)? -/
def FFmt.wide (f : FFmt) : Bool := f == .f32 || f == .bf16 || f == .f16

/-- Reads an operand: under FTZ a subnormal of F32, BF16 or F16 is zero of its sign (R174). -/
def FFmt.operand (f : FFmt) (ftz : Bool) (code : Nat) : FVal :=
  if ftz && f.wide && f.subnormal code then .fin (code.testBit (f.width - 1)) 0 0 else f.value code

/-- Flushes a rounded result: under FTZ a subnormal is zero of its sign (R174). -/
def FFmt.flush (f : FFmt) (ftz : Bool) (code : Nat) : Nat :=
  if ftz && f.wide && f.subnormal code then f.signed (code.testBit (f.width - 1)) 0 else code

/-- The code of a value in a format, with one rounding (R172 to R174); a NaN is +0 where the format has none. -/
def FFmt.encode (f : FFmt) (mode : RMode) (ieee ftz : Bool) : FVal → Nat
  | .nan => f.nanCode.getD 0
  | .inf neg =>
    if f.wide then f.signed neg (f.infCode.getD 0)
    else if !ieee then f.signed neg f.largest
    else match f.infCode with
      | some c => f.signed neg c
      | none => match f.nanCode with
        | some c => c
        | none => f.signed neg f.largest
  | .fin neg m e => f.flush ftz (f.round mode ieee neg m e)

/-- A floating value to an integer range (R175): `lo` and `hi` are its ends. -/
def FVal.toIntClamped (mode : RMode) (lo hi : Int) : FVal → Int
  | .nan => 0
  | .inf neg => if neg then lo else hi
  | .fin neg m e =>
    let n : Int := rndMag mode neg m e
    max lo (min hi (if neg then -n else n))

/-! ## Exact arithmetic on finite values -/

/-- The signed numerator of a finite value over 2^`e0`, for `e0` not above its exponent. -/
def scaled (neg : Bool) (m : Nat) (e e0 : Int) : Int :=
  let v : Int := (m : Int) * 2 ^ (e - e0).toNat
  if neg then -v else v

/-- The exact sum, with the zero signs of R167: +0 unless the mode is RDN or both operands are −0. -/
def FVal.add (mode : RMode) : FVal → FVal → FVal
  | .nan, _ | _, .nan => .nan
  | .inf a, .inf b => if a == b then .inf a else .nan
  | .inf a, _ => .inf a
  | _, .inf b => .inf b
  | .fin na ma ea, .fin nb mb eb =>
    let e0 := min ea eb
    let v := scaled na ma ea e0 + scaled nb mb eb e0
    if v = 0 then
      if ma = 0 ∧ mb = 0 ∧ na = nb then .fin na 0 0 else .fin (mode == .rdn) 0 0
    else .fin (decide (v < 0)) v.natAbs e0

/-- The exact product (R167). -/
def FVal.mul : FVal → FVal → FVal
  | .nan, _ | _, .nan => .nan
  | .inf a, .inf b => .inf (xor a b)
  | .inf a, .fin b m _ => if m = 0 then .nan else .inf (xor a b)
  | .fin b m _, .inf a => if m = 0 then .nan else .inf (xor a b)
  | .fin a ma ea, .fin b mb eb => .fin (xor a b) (ma * mb) (ea + eb)

/-- The value with its sign inverted. -/
def FVal.neg : FVal → FVal
  | .nan => .nan
  | .inf n => .inf !n
  | .fin n m e => .fin (!n) m e

/-- Is the first finite or infinite value less than the second? Zeros are equal whatever their signs. -/
def FVal.lt : FVal → FVal → Bool
  | .nan, _ | _, .nan => false
  | .inf a, .inf b => a && !b
  | .inf a, _ => a
  | _, .inf b => !b
  | .fin na ma ea, .fin nb mb eb =>
    let e0 := min ea eb
    decide (scaled na ma ea e0 < scaled nb mb eb e0)

/-- Are two values equal as numbers? NaN equals nothing. -/
def FVal.eq : FVal → FVal → Bool
  | .nan, _ | _, .nan => false
  | .inf a, .inf b => a == b
  | .inf _, _ | _, .inf _ => false
  | .fin na ma ea, .fin nb mb eb =>
    let e0 := min ea eb
    decide (scaled na ma ea e0 = scaled nb mb eb e0)

/-! ## Block elements (R168 to R170, R178, R185) -/

/-- The element types of FMTA and FMTB, of MXPACK and of AMXACC (R185). -/
inductive ElTy where
  | e4m3 | e5m2 | e3m2 | e2m3 | e2m1 | i8 | i16
deriving DecidableEq, Repr

/-- The element type of a format code (R185). -/
def ElTy.of : Nat → Option ElTy
  | 0 => some .e4m3 | 1 => some .e5m2 | 2 => some .e3m2 | 3 => some .e2m3 | 4 => some .e2m1 | 5 => some .i8
  | 6 => some .i16 | _ => none

/-- The floating format of an element type. -/
def ElTy.fmt : ElTy → Option FFmt
  | .e4m3 => some .e4m3 | .e5m2 => some .e5m2 | .e3m2 => some .e3m2 | .e2m3 => some .e2m3 | .e2m1 => some .e2m1
  | .i8 | .i16 => none

/-- The bits of one element in a run (R170). -/
def ElTy.bitWidth : ElTy → Nat
  | .e4m3 | .e5m2 | .i8 => 8 | .e3m2 | .e2m3 => 6 | .e2m1 => 4 | .i16 => 16

/-- The bytes of an element run of 32 elements (R170). -/
def ElTy.runBytes (t : ElTy) : Nat := 4 * t.bitWidth

/-- The exponent of an element type's unit (R178). -/
def ElTy.unit : ElTy → Int
  | .e5m2 => -16 | .e4m3 => -9 | .e3m2 => -4 | .e2m3 => -3 | .e2m1 => -1 | .i8 => -6 | .i16 => -14

/-- Element `i` of a run, as its code (R170). -/
def ElTy.pick (t : ElTy) (run : Nat) (i : Nat) : Nat := natBits run (t.bitWidth * i) t.bitWidth

/-- The value of an element code, without its block scale (R169). -/
def ElTy.value (t : ElTy) (code : Nat) : FVal :=
  match t.fmt with
  | some f => f.value code
  | none =>
    let v := signedOf t.bitWidth code
    .fin (decide (v < 0)) v.natAbs t.unit

/-- The value of an element in a block of scale `s` (R169). -/
def blockElem (t : ElTy) (s code : Nat) : FVal :=
  if s = 255 then .nan
  else match t.value code with
    | .fin n m e => .fin n m (e + s - 127)
    | v => v

/-- The signed integer that a finite element expands to, in units of 2^unit (R178). -/
def ElTy.expand (t : ElTy) (code : Nat) : Int :=
  match t.value code with
  | .fin n m e => scaled n m e t.unit
  | _ => 0

/-! ## The accumulator entry (R180 to R182) -/

/-- An accumulator entry's fields (R180). -/
structure Acc where
  spx : Bool
  sat : Bool
  inexact : Bool
  ninf : Bool
  pinf : Bool
  nan : Bool
  r1 : Nat
  r2 : Nat
  r3 : Nat
deriving DecidableEq, Repr

/-- The fields of an entry (R180). -/
def Acc.of (w : Word) : Acc :=
  ⟨bitAt w 63, bitAt w 62, bitAt w 61, bitAt w 60, bitAt w 59, bitAt w 58, bits w 0 19, bits w 19 19, bits w 38 20⟩

/-- The entry with NaN and infinity merged as R180 states. -/
def Acc.merge (a : Acc) : Acc :=
  let nan := a.nan || (a.pinf && a.ninf)
  { a with nan := nan, pinf := a.pinf && !nan, ninf := a.ninf && !nan }

/-- The 64-bit pattern of an entry (R180). -/
def Acc.enc (a : Acc) : Word :=
  let a := a.merge
  toWord (packFields [(63, boolNat a.spx), (62, boolNat a.sat), (61, boolNat a.inexact), (60, boolNat a.ninf),
    (59, boolNat a.pinf), (58, boolNat a.nan), (38, a.r3), (19, a.r2), (0, a.r1)])

/-- 2^19, the middle modulus (R181). -/
def accP : Nat := 2 ^ 19

/-- The residues as they are read (R181). -/
def Acc.residues (a : Acc) : Nat × Nat × Nat := (a.r1 % (accP - 1), a.r2, a.r3 % (accP + 1))

/-- acc_add (R181). -/
def Acc.add (a : Acc) (v : Int) : Acc :=
  let (y1, y2, y3) := a.residues
  { a with r1 := ((y1 + v) % (accP - 1 : Nat)).toNat, r2 := ((y2 + v) % (accP : Nat)).toNat,
           r3 := ((y3 + v) % (accP + 1 : Nat)).toNat }

/-- acc_value (R181). -/
def Acc.value (a : Acc) : Int :=
  let (y1, y2, y3) := a.residues
  let p := accP
  let mc := (p - 1) * p * (p + 1)
  let x := (y1 * (p * (p + 1) * 2 ^ 18) + y2 * ((p * p - 1) * (p - 1)) + y3 * (p * (p - 1) * (2 ^ 18 + 1))) % mc
  if x < mc / 2 then x else (x : Int) - mc

/-- The value of an entry at drain under an anchor, and whether SAT set the drain's status (R182). -/
def Acc.drain (a : Acc) (anchor : Int) : FVal × Bool :=
  if a.nan || a.sat then (.nan, a.sat)
  else if a.pinf then (.inf false, false)
  else if a.ninf then (.inf true, false)
  else (.fin (decide (a.value < 0)) a.value.natAbs anchor, false)

end Sys2Proof.Machine
end

