-- ==== Sys2Proof/Machine/GriddleInstr.lean ====
section
/-! DEFINITION. The Griddle: leases, the command queue and array steps, and what each command does
(12_griddle.md R304 to R335; 19_program_preemption.md R447). -/

namespace Sys2Proof.Machine

/-! ## Operand words (R325) -/

/-- The rows that a row word names: ROWB and M, none where it breaks a limit. -/
def rowWord (w : Word) : Option (Nat × Nat) :=
  let b := bits w 0 7
  let m := bits w 8 7 + 1
  if bitAt w 15 || bitAt w 7 || decide (128 < b + m) then none else some (b, m)

/-- A geometry word's address and stride, none where a reserved bit is set. -/
def geoWord (w : Word) : Option (Nat × Nat) :=
  if bits w 52 12 != 0 || bits w 26 6 != 0 then none else some (bits w 0 26, bits w 32 20)

/-- An AB address, or an address in the slice of core `k`, as an offset; none when it names another place (R325). -/
def ownOffset (sp : Bool) (k addr : Nat) : Option Nat :=
  if sp then if addr / 2 ^ 20 = k % 64 then some (addr % 2 ^ 20) else none
  else if addr < 2 ^ 20 then some addr else none

/-- The core on which a command acts: the issuer's, or the target that a supervisor names (R314). The error is the
trap: PRIV for a tenant, ILLEGAL while the target's owner runs. -/
def State.grdTarget (s : State) (w : Word) : Except TrapKind (Nat × Bool) :=
  let k := coreOf s.who
  if !bitAt w 47 then .ok (k, false)
  else if !s.c.y.sup then .error .priv
  else
    let t := clusterOf k * 64 + bits w 40 6
    if (List.range 4).any fun j => let c := s.ctx (4 * t + j); c.grdOwner && (c.st == .running)
    then .error .illegal else .ok (t, true)

/-- Tile load steps by FMTB (R312). -/
def tileSteps : Nat → Nat
  | 2 | 3 => 32 | 4 => 24 | 6 => 72 | _ => 40

/-- Row steps per tile (R312). -/
def rowSteps (fa fb m : Nat) : Nat := if fa = 4 ∧ fb = 4 then ceilDiv m 2 else if fa = 6 ∧ fb = 6 then 4 * m else m

/-- FMTA and FMTB in a register value (R183). -/
def fmtA (fcr : Word) : Nat := bits fcr 8 4
/-- FMTB (R183). -/
def fmtB (fcr : Word) : Nat := bits fcr 12 4

/-- FEATURE of a Griddle slot while FMTA or FMTB in force is B16 and the group is absent (R103, R326). -/
def State.needB16 (s : State) : Option TrapKind := if fmtA s.c.y.fcr = 6 ∨ fmtB s.c.y.fcr = 6 then s.needFeat 4 else none

/-- The WP, WT, WFMT and FRESH word of a STATE image that a queued GRD.REST is to read (R334), as it stands now: 0 where its line
is poisoned, or cannot be read, or lies in another package. -/
def State.restWord (s : State) (m : Cmd) : Nat :=
  let va := m.a + 1152#64
  if decide (bits m.d 62 2 = 0) && s.remoteLine va then 0
  else
    let r := s.readAt (s.place m (bits m.d 62 2) va false).2 0 8
    if r.2 then 0 else leNat r.1

/-- What FRESH and WFMT will be when the commands queued for a core have run (for the budget of R309). A GRD.REST STATE restores
what a GRD.SAVE STATE queued before it writes at its address, or else what its image holds. -/
def State.freshAhead (s : State) (k : Nat) : Bool × Nat :=
  let g := s.griddle k
  let mode2 (m : Cmd) : Bool := bits m.d 60 2 == 2
  let at_ (m : Cmd) : Nat × Word := (bits m.d 62 2, m.a)
  ((s.cmds.filter fun m => m.core == k && (match m.unit with | .griddle _ => true | _ => false)).foldl (fun st m =>
    match m.instr with
    | .grdWload .. => ((true, fmtB m.fcr), st.2)
    | .grdMul .. => ((false, st.1.2), st.2)
    | .grdSave .. => if mode2 m then (st.1, (at_ m, st.1) :: st.2) else st
    | .grdRest .. =>
      if !mode2 m then st
      else match st.2.find? fun e => e.1 == at_ m with
        | some e => (e.2, st.2)
        | none => let w := s.restWord m; ((w.testBit 63, natBits w 56 4), st.2)
    | _ => st) ((g.fresh, g.wfmt.toNat), ([] : List ((Nat × Word) × Bool × Nat)))).1

/-- The steps that GRD.MUL occupies (R312). -/
def mulSteps (fresh : Bool) (fa fb m kb : Nat) : Nat :=
  let tl := tileSteps fb
  let rr := rowSteps fa fb m
  (if fresh then 0 else tl) + (ceilDiv kb 8 - 1) * max rr tl + rr

/-- Accepts a counted Griddle command of the owner (R307, R309), or a supervisor target command (R314). -/
def State.grdAccept (s : State) (k : Nat) (target : Bool) (steps : Nat) (i : Instr) (a b d : Word) (tags : List TagRange) :
    State :=
  let u := EngUnit.griddle (octetOf k)
  let g := s.griddle k
  if s.fenced (522 + octetOf k) then s.stallFor 4
  else if target then s.accept u k i a b d 0#64 0 tags
  else match g.lease with
    | .none => s.raise .illegal 0#64
    | .expired => (s.stallFor 4).iss fun i => { i with wantsLease := true }
    | .held =>
      if s.queueFull u then s.stallFor 4
      else (s.accept u k i a b d 0#64 0 tags).updGriddle k fun g =>
        { g with budCmds := g.budCmds - 1, budSteps := g.budSteps - steps }

/-- The release of the issuer for a command with rel or SYNV (R343): both stand at the same bits in MUL, DRAIN, SAVE
and REST. -/
def State.grdRelease (s : State) (rel : Bool) (d : Word) : State := s.cmdRelease (rel || bitAt d 59) (bits d 48 3)

/-! ## The lease (R307 to R310, R327) -/

/-- GRD.LEASE: requests the lease, ending one that is held; blocking (R307). -/
def execGrdLease (g : Guard) (s : State) : Out :=
  s.consuming g [] s.needB16 (
    let t := if (s.griddle (coreOf s.who)).lease == .held then s.iss fun i => { i with freesLease := true } else s
    (t.issueOp .lease none false false none).block .lease)

/-- GRD.FREE: the lease ends as the bundle commits (R307, R327). -/
def execGrdFree (g : Guard) (s : State) : Out :=
  s.consuming g [] s.needB16 (s.iss fun i => { i with freesLease := true })

/-- The owner of a core ends its lease, or its request for one (R307). -/
def State.freeLease (s : State) (k : Nat) : State := s.updGriddle k fun g => { g with lease := .none, requesting := false }

/-- Is the lease of an octet free: no core holds it (R308)? -/
def State.leaseFree (s : State) (o : Nat) : Bool :=
  (List.range 8).all fun i => (s.griddle (8 * o + i)).lease != .held

/-- Does the owner of a core request the lease (R308)? -/
def State.leaseAsked (s : State) (k : Nat) : Bool :=
  (s.griddle k).requesting || s.ops.any fun o => (match o.kind with | .lease => true | _ => false) && coreOf o.agent == k

/-- LEASE_GRANT: a free lease goes to the first requesting core after the grant pointer; the owner is HELD with a
fresh budget (R308, R309). -/
def execLeaseGrant (o : Nat) (s : State) : Out :=
  .next (
    if !s.leaseFree o then s
    else match (List.range 8).find? fun i => s.leaseAsked (8 * o + ((s.octet o).ptr + 1 + i) % 8) with
      | none => s
      | some i =>
        let n := ((s.octet o).ptr + 1 + i) % 8
        let k := 8 * o + n
        let t := s.updGriddle k fun g => { g with lease := .held, budCmds := 64, budSteps := 16384, requesting := false }
        let t := { t with octets := SMap.put Octet.reset t.octets o { t.octet o with ptr := n } }
        let granted (p : Op) : Bool := (match p.kind with | .lease => true | _ => false) && coreOf p.agent == k
        let xs := (t.ops.filter granted).map (·.agent)
        let t := { t with ops := t.ops.filter fun p => !granted p }
        let leased (b : Block) : Bool := match b.wait with | .lease _ => !b.redo | _ => false
        xs.foldl (fun u x => u.upd x fun c => { c with f := { c.f with blocked := c.f.blocked.filter fun b => !leased b } }) t)

/-- The owner becomes EXPIRED once the budget of its lease has run out (R309). -/
def State.budgetExpire (s : State) (k : Nat) : State :=
  let g := s.griddle k
  if g.lease == .held && decide (g.budCmds = 0 ∨ g.budSteps = 0) then s.updGriddle k fun g => { g with lease := .expired } else s

/-- LEASE_BUDGET_EXPIRY (R309). -/
def execLeaseBudgetExpiry (k : Nat) (s : State) : Out := .next (s.budgetExpire k)

/-! ## Commands -/

/-- GRD.WLOAD binds FMTB (R328). -/
def execGrdWload (g : Guard) (a : SReg) (s : State) : Out :=
  s.consuming g [a] s.needB16 (
    if bits (s.rs a) 21 43 != 0 || bits (s.rs a) 0 2 != 0 || (ElTy.of (fmtB s.c.y.fcr)).isNone then s.raise .illegal 0#64
    else s.grdAccept (coreOf s.who) false (tileSteps (fmtB s.c.y.fcr)) (.grdWload g a) (s.rs a) 0#64 0#64 [])

/-- GRD.SCL: 128 latches from AB (R329). -/
def execGrdScl (g : Guard) (a : SReg) (s : State) : Out :=
  s.consuming g [a] s.needB16 (
    let v := (s.rs a).toNat
    if v % 64 ≠ 0 ∨ 2 ^ 20 < v + 128 then s.raise .illegal 0#64
    else s.grdAccept (coreOf s.who) false 1 (.grdScl g a) (s.rs a) 0#64 0#64
      [⟨false, false, coreOf s.who * 2 ^ 20 + v, 128, 0, 1⟩])

/-- GRD.SCL.ALL: every latch from one register (R329). -/
def execGrdSclAll (g : Guard) (b : SReg) (s : State) : Out :=
  s.consuming g [b] s.needB16 (s.grdAccept (coreOf s.who) false 1 (.grdSclAll g b) 0#64 (s.rs b) 0#64 [])

/-- GRD.MUL (R330): FMTA and FMTB are bound, and every byte must lie in AB. -/
def execGrdMul (g : Guard) (acq rel : Bool) (a b d : SReg) (s : State) : Out :=
  let fa := fmtA s.c.y.fcr
  let fb := fmtB s.c.y.fcr
  s.consuming g [a, b, d] s.needB16 (
    let k := coreOf s.who
    let ctl := s.rs d
    let kb := bits ctl 16 16 + 1
    let chan := bitAt ctl 63
    let h := s.c.chan (bits ctl 60 3)
    match rowWord ctl, geoWord (s.rs a), geoWord (s.rs b), ElTy.of fa, ElTy.of fb with
    | some (_, m), some (ae, ast), some (as_, sst), some ta, some _ =>
      let beyond (p str len : Nat) : Bool := decide (2 ^ 20 < p + (m - 1) * str + len)
      if decide ((fa = 6) ≠ (fb = 6)) || bits ctl 32 6 != 0 || beyond as_ sst kb
        || (if chan then s.rs a != 0#64 || !h.en || !bitAt h.cfg 58
            else decide (ae % 8 ≠ 0) || decide (ast % 8 ≠ 0) || beyond ae ast (kb * ta.runBytes))
      then s.raise .illegal 0#64
      else
        let ahead := s.freshAhead k
        let tags := [⟨false, false, k * 2 ^ 20 + as_, kb, sst, m⟩] ++
          if chan then [] else [⟨false, false, k * 2 ^ 20 + ae, kb * ta.runBytes, ast, m⟩]
        (s.grdRelease rel ctl).grdAccept k false (mulSteps (ahead.1 && ahead.2 == fb) fa fb m kb) (.grdMul g acq rel a b d)
          (s.rs a) (s.rs b) ctl tags
    | _, _, _, _, _ => s.raise .illegal 0#64)

/-- GRD.ZERO (R331). -/
def execGrdZero (g : Guard) (d : SReg) (s : State) : Out :=
  s.consuming g [d] s.needB16 (
    let w := s.rs d
    match s.grdTarget w with
    | .error k => s.raise k 0#64
    | .ok (k, target) =>
      match rowWord w with
      | none => s.raise .illegal 0#64
      | some (_, m) =>
        if bits w 48 16 != 0 || bitAt w 46 || bits w 16 24 != 0 then s.raise .illegal 0#64
        else s.grdAccept k target m (.grdZero g d) 0#64 0#64 w [])

/-- The bytes of one drained element (R332); 0 for a code that is ILLEGAL. -/
def drainWidth : Nat → Nat
  | 2 | 8 => 4 | 9 | 10 => 2 | 11 | 12 => 1 | _ => 0

/-- GRD.DRAIN (R332): RND, OVF and FTZ are bound. -/
def execGrdDrain (g : Guard) (acq rel : Bool) (a d : SReg) (s : State) : Out :=
  s.consuming g [a, d] s.needB16 (
    let k := coreOf s.who
    let w := s.rs d
    let dty := bits w 34 4
    let sp := bits w 62 2 == 2
    match rowWord w, geoWord (s.rs a) with
    | some (_, m), some (addr, str) =>
      match ownOffset sp k addr with
      | none => s.raise .illegal 0#64
      | some off =>
        if decide (bits w 62 2 = 0 ∨ bits w 62 2 = 3) || bitAt w 60 || bits w 16 14 != 0 || decide (drainWidth dty = 0)
          || (bitAt w 31 && (bits w 32 2 != 0 || bitAt w 30)) || (bitAt w 30 && decide (dty ≠ 11 ∧ dty ≠ 12))
          || decide (addr % 64 ≠ 0) || decide (str % 64 ≠ 0) || decide (2 ^ 20 < off + (m - 1) * str + 128 * drainWidth dty)
        then s.raise .illegal 0#64
        else (s.grdRelease rel w).grdAccept k false (ceilDiv (m * drainWidth dty) 2) (.grdDrain g acq rel a d) (s.rs a) 0#64 w
          [⟨true, sp, k * 2 ^ 20 + off, 128 * drainWidth dty, str, m⟩]
    | _, _ => s.raise .illegal 0#64)

/-- GRD.CHK: a queued command whose result arrives when it completes (R313, R333). It is no acquire (R343): a read of its result
orders what follows. -/
def execGrdChk (g : Guard) (d a : SReg) (s : State) : Out :=
  s.consuming g [a] s.needB16 (
    let w := s.rs a
    match rowWord w with
    | none => s.raise .illegal 0#64
    | some (_, m) =>
      if bits w 16 48 != 0 then s.raise .illegal 0#64
      else
        let t := s.grdAccept (coreOf s.who) false m (.grdChk g d a) w 0#64 0#64 []
        if t.issue.stop.isSome || t.issue.stall.isSome then t
        else t.issueOp (.grdChk (t.serial - 1)) (some (.s d.toNat)) false false none)

/-- The bytes that a SAVE or REST moves (R334). -/
def saveBytes (mode m : Nat) : Nat :=
  match mode with
  | 0 => 1024 * m | 1 => 512 * m | 2 => 2048 | _ => 2 ^ 21

/-- The steps of a SAVE or REST (R312). -/
def saveSteps (mode m : Nat) : Nat :=
  match mode with
  | 0 => 4 * m | 1 => 2 * m | 2 => 8 | _ => 8192

/-- The shared checks of GRD.SAVE and GRD.REST (R334). -/
def State.saveInstr (s : State) (g : Guard) (i : Instr) (rel save : Bool) (a d : SReg) : Out :=
  s.consuming g [a, d] s.needB16 (
    let w := s.rs d
    let mode := bits w 60 2
    let spc := bits w 62 2
    match s.grdTarget w with
    | .error k => s.raise k 0#64
    | .ok (k, target) =>
      match if mode ≤ 1 then rowWord w else some (0, 1) with
      | none => s.raise .illegal 0#64
      | some (_, m) =>
        let n := saveBytes mode m
        let va := (s.rs a).toNat
        let off := if spc = 0 then some 0 else ownOffset (spc == 2) k va
        if decide (spc = 3) || bitAt w 46 || bits w 16 24 != 0 || (decide (2 ≤ mode) && bits w 0 16 != 0) || decide (va % 64 ≠ 0)
          || (if spc = 0 then decide (2 ^ 60 ≤ va) else match off with
              | none => true
              | some o => decide (2 ^ 26 ≤ va) || decide (2 ^ 20 < o + n))
        then s.raise .illegal 0#64
        else
          let tags := if spc = 0 then [] else [⟨save, spc == 2, k * 2 ^ 20 + off.getD 0, n, 0, 1⟩]
          (s.grdRelease rel w).grdAccept k target (saveSteps mode m) i (s.rs a) 0#64 w tags)

/-- GRD.SAVE (R334). -/
def execGrdSave (g : Guard) (acq rel : Bool) (a d : SReg) (s : State) : Out :=
  s.saveInstr g (.grdSave g acq rel a d) rel true a d

/-- GRD.REST (R334). -/
def execGrdRest (g : Guard) (acq rel : Bool) (a d : SReg) (s : State) : Out :=
  s.saveInstr g (.grdRest g acq rel a d) rel false a d

/-- GRD.STAT, of the issuing core or of a target (R314, R335). -/
def execGrdStat (g : Guard) (clr : Bool) (d a : SReg) (s : State) : Out :=
  s.consuming g [a] s.needB16 (
    let w := s.rs a
    let t := if !bitAt w 47 then Except.ok (coreOf s.who, false)
      else if !s.c.y.sup then Except.error TrapKind.priv
      else match s.grdTarget w with | .error e => .error e | .ok p => .ok p
    match t with
    | .error k => s.raise k 0#64
    | .ok (k, target) =>
      if bits w 48 16 != 0 || bitAt w 46 || bits w 0 40 != 0 then s.raise .illegal 0#64
      else s.issueOp (.grdStat k clr target) (some (.s d.toNat)) false false none)

/-- The word of GRD.STAT (R335). -/
def State.grdStatWord (s : State) (k : Nat) : Word :=
  let g := s.griddle k
  let q := (s.cmds.filter fun m => m.core == k && (match m.unit with | .griddle _ => true | _ => false)).length
  toWord (packFields [(62, match g.lease with | .none => 0 | .held => 1 | .expired => 2),
    (55, if g.lease == .held then g.budCmds else 0), (35, q), (31, boolNat g.dsat), (30, boolNat g.cmis), (29, boolNat g.cinc),
    (28, boolNat g.loss), (21, boolNat g.fresh), (0, g.wp.toNat)])

/-! ## The weight stream (R315, R316) -/

/-- The length of a record with `n` present elements (R315). -/
def recordLen (ty : ElTy) (n : Nat) : Nat := 4 * ceilDiv (5 + ceilDiv (n * ty.bitWidth) 8) 4

/-- A little-endian number of `n` bytes of the WB slice; offsets wrap modulo 2^21 (R304). -/
def wbNum (b : Bank) (a : Nat) : Nat → Nat
  | 0 => 0
  | n + 1 =>
    let p := a % 2 ^ 21
    (if b.poisoned 6 p then 0 else (Mem.byte b.bytes p).toNat) + 256 * wbNum b (a + 1) n

/-- The number of one bits below `n`. -/
def popBelow (v : Nat) : Nat → Nat
  | 0 => 0
  | n + 1 => boolNat (v.testBit n) + popBelow v n

/-- One record and the offset after it. -/
def decodeRec (b : Bank) (ty : ElTy) (off : Nat) : BlockRec × Nat :=
  let pm := wbNum b off 4
  let n := recordLen ty (popBelow pm 32)
  let pois := (List.range n).any fun i => b.poisoned 6 ((off + i) % 2 ^ 21)
  (⟨pm, wbNum b (off + 4) 1, wbNum b (off + 5) (n - 5), pois⟩, (off + n) % 2 ^ 21)

/-- `n` records in stream order, and the offset after them. -/
def decodeRecs (b : Bank) (ty : ElTy) (off : Nat) : Nat → List BlockRec × Nat
  | 0 => ([], off)
  | n + 1 =>
    let (r, o) := decodeRec b ty off
    let (rs, o') := decodeRecs b ty o n
    (r :: rs, o')

/-! ## One contribution (R319 to R323) -/

/-- The code of element `i` of a record: the present elements are packed in ascending order (R315). -/
def BlockRec.elem (r : BlockRec) (ty : ElTy) (i : Nat) : Nat := ty.pick r.run (popBelow r.pm i)

/-- What the products of one k-block add up to: the finite part and the special flags (R319). -/
structure Partial where
  p : Int
  spx : Bool
  nan : Bool
  pinf : Bool
  ninf : Bool
deriving DecidableEq, Repr

/-- The products of one k-block with one record (R319). -/
def blockPartial (ta tb : ElTy) (arun sa : Nat) (r : BlockRec) : Partial :=
  (List.range 32).foldl (fun acc i =>
    if !r.pm.testBit i then acc
    else
      let a := ta.value (ta.pick arun i)
      let b := tb.value (r.elem tb i)
      if sa = 255 ∨ r.scale = 255 then { acc with spx := true, nan := true }
      else match a, b with
        | .nan, _ | _, .nan => { acc with spx := true, nan := true }
        | .inf na, .inf nb => if na == nb then { acc with spx := true, pinf := true } else { acc with spx := true, ninf := true }
        | .inf na, .fin nb m _ | .fin nb m _, .inf na =>
          if m = 0 then { acc with spx := true, nan := true }
          else if na == nb then { acc with spx := true, pinf := true } else { acc with spx := true, ninf := true }
        | .fin .., .fin .. => { acc with p := acc.p + ta.expand (ta.pick arun i) * tb.expand (r.elem tb i) })
    ⟨0, false, false, false, false⟩

/-- rne of P × 2^e (R320). -/
def rneScaled (p e : Int) : Int :=
  let m : Int := rndMag .rne (decide (p < 0)) p.natAbs e
  if p < 0 then -m else m

/-- Is P × 2^e an integer? -/
def exactScaled (p e : Int) : Bool :=
  match e with
  | .ofNat _ => true
  | .negSucc k => decide (p.natAbs % 2 ^ (k + 1) = 0)

/-- The bound counter after an addition of `v` (R321). -/
def boundAdd (b : BitVec 32) (v : Int) : BitVec 32 :=
  let c := bitLength (v.natAbs - 1)
  BitVec.ofNat 32 (min (b.toNat + 2 ^ (c - 24)) (2 ^ 32 - 1))

/-- contribute (R319 to R321): an entry and its bound counter after one block partial. -/
def contribute (z : Acc) (b : BitVec 32) (q : Partial) (e : Int) : Acc × BitVec 32 :=
  let z := { z with spx := z.spx || q.spx, nan := z.nan || q.nan, pinf := z.pinf || q.pinf, ninf := z.ninf || q.ninf }
  let z := { z.merge with inexact := z.inexact || !exactScaled q.p e }
  let v := rneScaled q.p e
  if v = 0 then (z, b)
  else
    let b' := boundAdd b v
    ({ z.add v with sat := z.sat || decide (2 ^ 31 < b'.toNat) }, b')

/-- The latches in force for a row that enters at a step (R318): a GRD.SCL at step t acts from t + 6 on. -/
def exAt (g : Griddle) (step : Nat) : SMap Byte × SMap Bool :=
  let rec go (now : SMap Byte × SMap Bool) : List (Nat × SMap Byte × SMap Bool) → SMap Byte × SMap Bool
    | [] => now
    | (t, old, oldp) :: rest => if t + 6 ≤ step then now else go (old, oldp) rest
  go (g.ex, g.exPois) g.exOld

/-- The operands of one row's pass over one tile. -/
structure RowPass where
  ta : ElTy
  tb : ElTy
  anchor : Int
  /-- The ZB row. -/
  row : Nat
  /-- The element runs and scales of the row's k-blocks of this tile, and whether an A line or scale is poisoned. -/
  blocks : List (Nat × Nat)
  pois : Bool
  step : Nat
deriving DecidableEq, Repr

/-- Entry `n` of a row in one k-block. -/
def Griddle.addBlock (g : Griddle) (p : RowPass) (ex : SMap Byte) (arun sa : Nat) (r : BlockRec) (n : Nat) : Griddle :=
  let i := 128 * p.row + n
  let e : Int := p.ta.unit + p.tb.unit + sa + r.scale - 254 + (SMap.at 0#8 ex n).toInt - p.anchor
  let (z, b) := contribute (Acc.of (SMap.at 0#64 g.zb i)) (SMap.at 0#32 g.bound i) (blockPartial p.ta p.tb arun sa r) e
  { g with zb := SMap.put 0#64 g.zb i z.enc, bound := SMap.put 0#32 g.bound i b }

/-- The checksum entry of a row after one k-block (R323): the records are those of the 128 columns. -/
def Griddle.addCheck (g : Griddle) (p : RowPass) (ex : SMap Byte) (arun sa : Nat) (rs : List BlockRec) : Griddle :=
  let parts := rs.map fun r => blockPartial p.ta p.tb arun sa r
  let ck := Acc.of (SMap.at 0#64 g.ck p.row)
  let put (a : Acc) : Griddle := { g with ck := SMap.put 0#64 g.ck p.row a.enc }
  if parts.any (·.spx) then put { ck with spx := true }
  else
    let terms := (parts.zip rs).zipIdx.map fun t =>
      (t.1.1.p, (p.ta.unit + p.tb.unit + sa + t.1.2.scale - 254 + (SMap.at 0#8 ex t.2).toInt - p.anchor : Int))
    let terms := terms.filter fun t => t.1 != 0
    let e0 := terms.foldl (fun m t => min m t.2) 0
    let q := terms.foldl (fun acc t => acc + t.1 * 2 ^ (t.2 - e0).toNat) (0 : Int)
    put { ck.add (rneScaled q e0) with inexact := ck.inexact || !exactScaled q e0 }

/-- One row's pass over one tile (R319, R323, R324, R330). -/
def Griddle.pass (g : Griddle) (p : RowPass) (tile : List BlockRec) : Griddle :=
  let (ex, exp) := exAt g p.step
  let cols := List.range 128
  let g := p.blocks.zipIdx.foldl (fun g b =>
    let recs := (tile.drop (128 * b.2)).take 128
    let g := (recs.zipIdx).foldl (fun g r => g.addBlock p ex b.1.1 b.1.2 r.1 r.2) g
    g.addCheck p ex b.1.1 b.1.2 recs) g
  let bad (n : Nat) : Bool := p.pois || SMap.at false exp n || (tile.zipIdx.any fun r => r.2 % 128 == n && r.1.pois)
  if p.pois || cols.any bad then
    { g with
      zbPois := cols.foldl (fun m n => if bad n then SMap.put false m ((128 * p.row + n) / 8) true else m) g.zbPois,
      ckPois := SMap.put false g.ckPois p.row true }
  else g

/-! ## Completing a command -/

/-- Zeroes a row: entries, bounds, poison and the checksum entry (R331). -/
def Griddle.zeroRow (g : Griddle) (r : Nat) : Griddle :=
  { g with zb := g.zb.clear (128 * r) (128 * r + 128), bound := g.bound.clear (128 * r) (128 * r + 128),
           zbPois := g.zbPois.clear (16 * r) (16 * r + 16), zbFlips := g.zbFlips.clear (128 * r) (128 * r + 128), ck := g.ck.erase r, ckPois := g.ckPois.erase r }

/-- Takes `n` array steps (R312). -/
def Griddle.stepped (g : Griddle) (n : Nat) : Griddle := { g with steps := g.steps + n }

/-- Replaces the latches at the current step; rows that enter in the next five steps use the old ones (R318). -/
def Griddle.setEx (g : Griddle) (ex : SMap Byte) (p : SMap Bool) : Griddle :=
  { g with exOld := (g.steps, g.ex, g.exPois) :: g.exOld.filter (fun e => decide (g.steps < e.1 + 6)), ex := ex, exPois := p }

/-- Places in a command's record of what it has read the 8-byte units `us` of AB, by address / 8 (R272, R339): those of one line,
which is located; the line's first unit finds its errors. -/
def State.takeUnits (s : State) (m : Cmd) (cur : SMap (List Byte × Bool)) (us : List Nat) : State × SMap (List Byte × Bool) :=
  match us with
  | [] => (s, cur)
  | u :: _ =>
    let r := s.place m 1 (toWord (64 * (u / 8))) false
    let t := if cur.any fun e => e.1 / 8 == u / 8 then r.1 else r.1.noticeLine m r.2
    (t, us.foldl (fun c v => SMap.put ([], false) c v (t.readAt r.2 (8 * (v % 8)) 8)) cur)

/-- A command reads one of the units `us` that it has not read yet (R339); a line that faults is read whole, as zero. -/
def State.readOne (s : State) (m : Cmd) (us : List Nat) : State :=
  let left := us.filter fun u => !m.cur.any fun e => e.1 == u
  let (t, u) := s.pickUnit left
  let mates := left.filter fun v => v / 8 == u / 8
  let r := t.takeUnits m m.cur (if (t.place m 1 (toWord (64 * (u / 8))) false).2 == .lost then mates else [u])
  r.1.updCmd m.id fun x => { x with cur := r.2 }

/-- A command has read the units `us`: those that are left are read line by line. -/
def State.readAll (s : State) (m : Cmd) (us : List Nat) : State × SMap (List Byte × Bool) :=
  ((us.map (· / 8)).eraseDups).foldl (fun acc l =>
    acc.1.takeUnits m acc.2 (us.filter fun u => u / 8 == l && !acc.2.any fun e => e.1 == u)) (s, m.cur)

/-- `n` bytes of AB from an address, out of the units that have been read. -/
def cutUnits (cur : SMap (List Byte × Bool)) (a n : Nat) : List Byte × Bool :=
  ((List.range n).map fun i => (SMap.at ([], false) cur ((a + i) / 8)).1.getD ((a + i) % 8) 0#8,
    (unitsOf 3 a n).any fun u => (SMap.at ([], false) cur u).2)

/-- Lines of ZB of a core are read: the errors that are found count for the core's record, and an uncorrectable one sets the
poison of its line (R254, R466). -/
def State.noticeZb (s : State) (k lo n : Nat) : State :=
  (List.range n).foldl (fun t i =>
    let g := t.griddle k
    let worst := (g.zbFlips.filter fun e => e.1 / 8 == lo + i).foldl (fun m e => max m e.2.length) 0
    if SMap.at false g.zbPois (lo + i) || worst == 0 then t
    else if worst = 1 then t.countCE (10 + k) 0#64
    else (t.countUE (10 + k) 1 0#64).updGriddle k fun g => { g with zbPois := SMap.put false g.zbPois (lo + i) true }) s

/-- Lines of WB of a core are read from an offset on; offsets wrap (R254, R304, R466). -/
def State.noticeWb (s : State) (k off n : Nat) : State :=
  (unitsOf 6 off n).foldl (fun t v =>
    let u := v % 2 ^ 15
    let b := (t.griddle k).wb
    let addr := toWord (4 * 2 ^ 60 + 64 * u)
    if SMap.at false b.pois u then t
    else if b.worn 6 u 2 then
      (t.countUE (10 + k) 1 addr).updGriddle k fun g => { g with wb := { g.wb with pois := SMap.put false g.wb.pois u true } }
    else
      let lo := max off (64 * v)
      if b.corrects 6 u (64 * u + (lo - 64 * v)) (min (off + n) (64 * v + 64) - lo) then t.countCE (10 + k) addr else t) s

/-- A row of ZB is accumulated on: words with one wrong bit are written back corrected (R466). -/
def Griddle.rewritten (g : Griddle) (r : Nat) : Griddle :=
  { g with zbFlips := g.zbFlips.filter fun e => e.1 / 128 != r || decide (2 ≤ e.2.length) }

/-- A read-modify of a core's Griddle state inside a step. -/
def State.grd (s : State) (k : Nat) (f : Griddle → Griddle) : State := s.updGriddle k f

/-- The array of a core's octet now holds a tile that the core's command loaded (R316). -/
def State.setTile (s : State) (k : Nat) (rs : List BlockRec) : State :=
  { s with octets := SMap.put Octet.reset s.octets (octetOf k) { s.octet (octetOf k) with tile := some (k, rs) } }

/-- The core's tile in the array, if the last tile loaded is its own. -/
def State.tileOf (s : State) (k : Nat) : Option (List BlockRec) :=
  match (s.octet (octetOf k)).tile with
  | some (c, rs) => if c = k then some rs else none
  | none => none

/-- Decodes the tile at an offset of a core's weight stream, and finds the errors of the lines it reads (R254, R315). -/
def State.readTile (s : State) (k : Nat) (ty : ElTy) (off : Nat) : State × List BlockRec × Nat :=
  let r := decodeRecs (s.griddle k).wb ty off 1024
  (s.noticeWb k off ((r.2 + 2 ^ 21 - off) % 2 ^ 21), r)

/-- Puts tile `t` of GRD.MUL in the array (R316): tile 0 is the fresh tile, decoded again from WT when it is lost; every
other tile is read at WP, which advances. -/
def State.nextTile (s : State) (k : Nat) (ty : ElTy) (fb t : Nat) : State :=
  let g := s.griddle k
  if t = 0 ∧ g.fresh ∧ g.wfmt.toNat = fb then
    match s.tileOf k with
    | some _ => s
    | none =>
      let r := s.readTile k ty g.wt.toNat
      r.1.setTile k r.2.1
  else
    let r := s.readTile k ty g.wp.toNat
    (r.1.setTile k r.2.1).updGriddle k fun g => { g with wp := BitVec.ofNat 21 r.2.2 }

/-- The addresses of the A runs and the scales of row step `done` of GRD.MUL, and how many k-blocks it has (R330). -/
def Cmd.rowAt (m : Cmd) (ty : ElTy) (done : Nat) : Nat × Nat × Nat :=
  let rows := ((rowWord m.d).getD (0, 1)).2
  let (t, i) := (done / rows, done % rows)
  (bits m.a 0 26 + i * bits m.a 32 20 + 8 * t * ty.runBytes, bits m.b 0 26 + i * bits m.b 32 20 + 8 * t,
    min 8 (bits m.d 16 16 + 1 - 8 * t))

/-- The units of AB that row step `done` of GRD.MUL reads (R330). -/
def Cmd.rowUnits (m : Cmd) (ty : ElTy) (done : Nat) : List Nat :=
  let (ae, as_, n) := m.rowAt ty done
  ((if bitAt m.d 63 then [] else unitsOf 3 ae (n * ty.runBytes)) ++ unitsOf 3 as_ n).eraseDups

/-- The k-blocks of row step `done` of GRD.MUL, with A in AB (R330). -/
def State.mulBlocks (s : State) (m : Cmd) (ty : ElTy) (done : Nat) : State × List (Nat × Nat) × Bool :=
  let (ae, as_, n) := m.rowAt ty done
  let (t, cur) := s.readAll m (m.rowUnits ty done)
  let (runs, p) := if bitAt m.d 63 then (([] : List Byte), false) else cutUnits cur ae (n * ty.runBytes)
  let (scs, q) := cutUnits cur as_ n
  (t, (List.range n).map (fun b => (leNat ((runs.drop (b * ty.runBytes)).take ty.runBytes), (scs.getD b 0#8).toNat)), p || q)

/-- Pops `n` elements of the A feed's channel (R330): their bytes, and whether one of the low `used` bytes of an element lies
in a poisoned line (R324); none while too few are visible. -/
def State.feedPop (s : State) (m : Cmd) (n used : Nat) : Option (State × List Byte × Bool) :=
  let ch := bits m.d 60 3
  let h := (s.ctx m.owner).chan ch
  if (h.prod - h.cons).toNat < n then none
  else
    let key (i : Nat) : Nat := chanKey m.owner h ((h.cidx + i) % h.size)
    let t := (List.range n).foldl (fun t i => t.noticeAS h.inSp (key i) 256) s
    let es := (List.range n).map fun i => t.elemAt h.inSp (key i)
    let u := (List.range n).foldl (fun t _ => t.upd m.owner fun c => c.updChan ch Chan.pop) t
    some (u, es.flatMap fun e => vecBytes e.v, es.any fun e => (List.range 4).any fun g => decide (64 * g < used) && e.p.getLsbD g)

/-- The row steps of GRD.MUL one after another, from row count `done` on: tile t, row i. With A from a channel it
stops where no element is visible. It answers the rows done and whether the command has finished. -/
def State.mulRun (s : State) (m : Cmd) (ta tb : ElTy) (lead : Nat) : Nat → Nat → State × Nat × Bool
  | 0, done => (s, done, true)
  | fuel + 1, done =>
    let (rowb, rows) := (rowWord m.d).getD (0, 1)
    let fa := fmtA m.fcr
    let fb := fmtB m.fcr
    let t := done / rows
    let i := done % rows
    let go (s1 : State) (blocks : List (Nat × Nat)) (p : Bool) : State × Nat × Bool :=
      let s2 := if i = 0 then s1.nextTile m.core tb fb t else s1
      let sub := if fa = 4 ∧ fb = 4 then i / 2 else if fa = 6 ∧ fb = 6 then 4 * i else i
      let step := (s2.griddle m.core).steps + lead + t * max (rowSteps fa fb rows) (tileSteps fb) + sub
      let pass : RowPass := ⟨ta, tb, signedOf 10 (bits m.d 38 10), rowb + i, blocks, p, step⟩
      let s3 := s2.noticeZb m.core (16 * (rowb + i)) 16
      State.mulRun (s3.updGriddle m.core fun g => (g.pass pass ((s3.tileOf m.core).getD [])).rewritten (rowb + i)) { m with cur := [] }
        ta tb lead fuel (done + 1)
    let (s1, blocks, p) := s.mulBlocks m ta done
    if !bitAt m.d 63 then go s1 blocks p
    else match s1.feedPop m (if fa = 6 then 2 else 1) (8 * ta.runBytes) with
      | none => (s, done, false)
      | some (s2, bs, q) =>
        go s2 (blocks.zipIdx.map fun b => (leNat ((bs.drop (b.2 * ta.runBytes)).take ta.runBytes), b.1.2)) (p || q)

/-- At most `most` row steps of GRD.MUL (R330): the flag says whether it has finished. A command that waits for channel elements
keeps its progress. -/
def State.doMul (s : State) (m : Cmd) (most : Nat) : State × Bool :=
  match ElTy.of (fmtA m.fcr), ElTy.of (fmtB m.fcr) with
  | some ta, some tb =>
    let rows := ((rowWord m.d).getD (0, 1)).2
    let kb := bits m.d 16 16 + 1
    let g := s.griddle m.core
    let fresh := g.fresh && g.wfmt.toNat == fmtB m.fcr
    let lead := if fresh then 0 else tileSteps (fmtB m.fcr)
    let all := ceilDiv kb 8 * rows
    let (t, done, _) := s.mulRun m ta tb lead (min most (all - m.arrived)) m.arrived
    if all ≤ done then
      let n := mulSteps fresh (fmtA m.fcr) (fmtB m.fcr) rows kb
      (t.updGriddle m.core fun g => let h := g.stepped n; { h with fresh := false }, true)
    else
      let keep (x : Cmd) : Cmd := { x with arrived := done, started := true, cur := if done = m.arrived then x.cur else [] }
      ({ t with cmds := updWhere (fun x => x.id == m.id) keep t.cmds }, false)
  | _, _ => (s, true)

/-- The drained code of an entry (R182, R332): the type's code, and whether SAT set the status. -/
def drainCode (w : Word) (fcr ctl : Word) : Nat × Bool :=
  let (v, sat) := (Acc.of w).drain (signedOf 10 (bits ctl 38 10))
  let d := bitAt ctl 31
  let mode := RMode.of (if d then bits fcr 0 2 else bits ctl 32 2)
  let ieee := if d then bitAt fcr 3 else bitAt ctl 30
  let f (x : FFmt) : Nat := x.encode mode ieee (bitAt fcr 2) v
  (match bits ctl 34 4 with
    | 2 => (BitVec.ofInt 32 (v.toIntClamped mode (-2147483648) 2147483647)).toNat
    | 8 => f .f32 | 9 => f .bf16 | 10 => f .f16 | 11 => f .e4m3 | _ => f .e5m2, sat)

/-- A line that a Griddle command writes: at once, or made ready for its units to be written one by one (R339). -/
def State.cmdOut (s : State) (m : Cmd) (ready : Bool) (space : Nat) (va : Word) (bs : List Byte) (p : Bool) : State :=
  if ready then s.updCmd m.id fun x => { x with prog := x.prog + 1, outs := x.outs ++ [⟨space, va, bs, p⟩] } else s.cmdWrite m space va bs p

/-- GRD.DRAIN's effect (R332): rows in ascending order. -/
def State.doDrain (s : State) (m : Cmd) (ready : Bool) : State :=
  let (rowb, rows) := (rowWord m.d).getD (0, 1)
  let wd := drainWidth (bits m.d 34 4)
  let space := bits m.d 62 2
  let t := (List.range rows).foldl (fun t i =>
    let t := t.noticeZb m.core (16 * (rowb + i)) 16
    let g := t.griddle m.core
    let r := rowb + i
    let cs := (List.range 128).map fun n => drainCode (SMap.at 0#64 g.zb (128 * r + n)) m.fcr m.d
    let bs := cs.flatMap fun c => natLe c.1 wd
    let t := (List.range (2 * wd)).foldl (fun t l =>
      let lo := 64 * l / wd
      let p := (List.range (64 / wd)).any fun n => SMap.at false g.zbPois ((128 * r + lo + n) / 8)
      t.cmdOut m ready space (toWord (bits m.a 0 26 + i * bits m.a 32 20 + 64 * l)) ((bs.drop (64 * l)).take 64) p) t
    let t := if cs.any (·.2) then t.grd m.core fun g => { g with dsat := true } else t
    if bitAt m.d 61 then t.grd m.core fun g => g.zeroRow r else t) s
  t.grd m.core fun g => g.stepped (ceilDiv (rows * wd) 2)

/-- The outcome of one checked row (R333): 0 MATCH, 1 MISMATCH, 2 INCONCLUSIVE with its reason bits. -/
def Griddle.checkRow (g : Griddle) (r : Nat) : Nat × Nat :=
  let zs := (List.range 128).map fun n => Acc.of (SMap.at 0#64 g.zb (128 * r + n))
  let ck := Acc.of (SMap.at 0#64 g.ck r)
  let pois := SMap.at false g.ckPois r || (List.range 16).any fun l => SMap.at false g.zbPois (16 * r + l)
  let inx := ck.inexact || zs.any (·.inexact)
  let spx := ck.spx || zs.any (·.spx)
  let sum (f : Nat × Nat × Nat → Nat) (m : Nat) : Bool :=
    decide ((zs.foldl (fun a z => a + f z.residues) 0) % m = f ck.residues % m)
  if pois then (2, 4)
  else if inx || spx then (2, boolNat inx + 2 * boolNat spx)
  else if sum (·.1) (accP - 1) && sum (·.2.1) accP && sum (·.2.2) (accP + 1) then (0, 0) else (1, 0)

/-- GRD.CHK's effect: the result word, delivered to the waiting operation (R333). The mismatching rows are returned for
the error counters. -/
def State.doCheck (s : State) (m : Cmd) : State × Nat :=
  let (rowb, rows) := (rowWord m.a).getD (0, 1)
  let s := s.noticeZb m.core (16 * rowb) (16 * rows)
  let g := s.griddle m.core
  let rs := (List.range rows).map fun i => (rowb + i, g.checkRow (rowb + i))
  let cnt (k : Nat) : Nat := (rs.filter fun r => r.2.1 == k).length
  let first := match rs.find? fun r => r.2.1 != 0 with
    | none => []
    | some r => [(57, r.1), (56, 1), (52, r.2.2)]
  let w := toWord (packFields (first ++ [(16, cnt 1), (8, cnt 2), (0, cnt 0)]))
  let t := s.grd m.core fun g =>
    let h := g.stepped rows
    { h with cmis := g.cmis || decide (0 < cnt 1), cinc := g.cinc || decide (0 < cnt 2) }
  let hit (o : Op) : Bool := match o.kind with | .grdChk c => c == m.id | _ => false
  let res (o : Op) : List Landing := match o.dest with | some (.s r) => [.scal r w o.gp] | _ => []
  ({ t with ops := updWhere hit (fun o => { o with phase := .performed, result := res o }) t.ops }, cnt 1)

/-- The lines that GRD.SAVE writes, with their poison (R334). -/
def Griddle.saveLines (g : Griddle) (d : Word) : List (List Byte × Bool) :=
  let (rowb, rows) := (rowWord d).getD (0, 1)
  match bits d 60 2 with
  | 0 => (List.range (16 * rows)).map fun l =>
      ((List.range 8).flatMap fun n => natLe (SMap.at 0#64 g.zb (128 * rowb + 8 * l + n)).toNat 8,
        SMap.at false g.zbPois (16 * rowb + l))
  | 1 => (List.range (8 * rows)).map fun l =>
      ((List.range 16).flatMap fun n => natLe (SMap.at 0#32 g.bound (128 * rowb + 16 * l + n)).toNat 4,
        SMap.at false g.zbPois (16 * rowb + 2 * l) || SMap.at false g.zbPois (16 * rowb + 2 * l + 1))
  | 2 => (List.range 32).map fun l =>
      if l < 16 then ((List.range 8).flatMap fun n => natLe (SMap.at 0#64 g.ck (8 * l + n)).toNat 8,
        (List.range 8).any fun n => SMap.at false g.ckPois (8 * l + n))
      else if l < 18 then ((List.range 64).map fun n => SMap.at 0#8 g.ex (64 * (l - 16) + n),
        (List.range 64).any fun n => SMap.at false g.exPois (64 * (l - 16) + n))
      else if l = 18 then
        (natLe (packFields [(0, g.wp.toNat), (32, g.wt.toNat), (56, g.wfmt.toNat), (63, boolNat g.fresh)]) 64, false)
      else (List.replicate 64 0#8, false)
  | _ => (List.range 32768).map fun l => (Mem.bytes g.wb.bytes (64 * l) 64, g.wb.poisoned 6 (64 * l))

/-- The number of lines of a SAVE or REST (R334). -/
def saveLineCount (d : Word) : Nat := saveBytes (bits d 60 2) ((rowWord d).getD (0, 1)).2 / 64

/-- GRD.SAVE's effect (R334). -/
def State.doSave (s : State) (m : Cmd) (ready : Bool) : State :=
  let (rowb, rows) := (rowWord m.d).getD (0, 1)
  let s := match bits m.d 60 2 with
    | 0 | 1 => s.noticeZb m.core (16 * rowb) (16 * rows)
    | 2 => s
    | _ => s.noticeWb m.core 0 (2 ^ 21)
  let ls := (s.griddle m.core).saveLines m.d
  let t := ls.zipIdx.foldl (fun t l => t.cmdOut m ready (bits m.d 62 2) (m.a + toWord (64 * l.2)) l.1.1 l.1.2) s
  t.grd m.core fun g => g.stepped (saveSteps (bits m.d 60 2) ((rowWord m.d).getD (0, 1)).2)

/-- The bound that REST ENTRIES gives an entry (R334). -/
def restBound (w : Word) : BitVec 32 :=
  let a := Acc.of w
  if a.sat then BitVec.allOnes 32 else BitVec.ofNat 32 (ceilDiv a.value.natAbs (2 ^ 24))

/-- What GRD.REST does with line `l` of its source (R334). -/
def Griddle.restLine (g : Griddle) (d : Word) (l : Nat) (bs : List Byte) (p : Bool) : Griddle :=
  let (rowb, _) := (rowWord d).getD (0, 1)
  let num (i n : Nat) : Nat := leNat ((bs.drop i).take n)
  match bits d 60 2 with
  | 0 =>
    let g := (List.range 8).foldl (fun (g : Griddle) n =>
      let i := 128 * rowb + 8 * l + n
      let w := toWord (num (8 * n) 8)
      { g with zb := SMap.put 0#64 g.zb i w, zbFlips := SMap.put [] g.zbFlips i [], bound := SMap.put 0#32 g.bound i (restBound w) }) g
    { g with zbPois := SMap.put false g.zbPois (16 * rowb + l) p }
  | 1 =>
    let g := (List.range 16).foldl (fun (g : Griddle) n =>
      { g with bound := SMap.put 0#32 g.bound (128 * rowb + 16 * l + n) (BitVec.ofNat 32 (num (4 * n) 4)) }) g
    if p then { g with zbPois := SMap.put false (SMap.put false g.zbPois (16 * rowb + 2 * l) true) (16 * rowb + 2 * l + 1) true }
    else g
  | 2 =>
    if l < 16 then (List.range 8).foldl (fun (g : Griddle) n =>
      { g with ck := SMap.put 0#64 g.ck (8 * l + n) (toWord (num (8 * n) 8)), ckPois := SMap.put false g.ckPois (8 * l + n) p }) g
    else if l < 18 then (List.range 64).foldl (fun (g : Griddle) n =>
      { g with ex := SMap.put 0#8 g.ex (64 * (l - 16) + n) (bs.getD n 0#8),
               exPois := SMap.put false g.exPois (64 * (l - 16) + n) p, exOld := [] }) g
    else if l = 18 then
      let w := num 0 8
      { g with wp := BitVec.ofNat 21 w, wt := BitVec.ofNat 21 (natBits w 32 21), wfmt := BitVec.ofNat 4 (natBits w 56 4),
               fresh := w.testBit 63 }
    else g
  | _ => { g with wb := g.wb.writeP 6 (64 * l) bs p }

/-- One 8-byte unit of the next line of a GRD.REST is read (R339); a line of another package has come whole (R379). -/
def State.restUnit (s : State) (m : Cmd) : State :=
  let va := m.a + toWord (64 * m.prog)
  let sp := bits m.d 62 2
  let line (t : State) (bs : List Byte) (p : Bool) : State :=
    (t.grd m.core fun g => g.restLine m.d m.prog bs p).updCmd m.id fun x => { x with prog := x.prog + 1, got := [] }
  if saveLineCount m.d ≤ m.prog then s
  else if decide (sp = 0) && s.remoteLine (alignTo 64 va) then
    if m.got.any fun e => e.1 == alignTo 64 va then
      let r := s.cmdRead m sp va
      line r.1 r.2.1 r.2.2
    else s
  else match s.readUnit m sp va with
    | (t, none) => t
    | (t, some (bs, p)) => line t bs p

/-- Has a GRD.REST a line of another package still to read? -/
def State.restFar (s : State) (m : Cmd) : Bool :=
  (match m.instr with | .grdRest .. => bits m.d 62 2 == 0 | _ => false) &&
    (List.range (saveLineCount m.d - m.prog)).any fun i => s.remoteLine (alignTo 64 (m.a + toWord (64 * (m.prog + i))))

/-- Reads on until the line in progress is complete. -/
def State.restLineEnd (s : State) (id : Nat) : Nat → State
  | 0 => s
  | fuel + 1 => match s.cmds.find? fun m => m.id == id with
    | none => s
    | some m => if m.spot.isNone then s else State.restLineEnd (s.restUnit m) id fuel

/-- GRD.REST's effect (R334): what is left of its lines, in order. A restored fresh tile is not in the array. -/
def State.doRest (s : State) (m : Cmd) : State :=
  let s := s.restLineEnd m.id 8
  let p := ((s.cmds.find? fun x => x.id == m.id).map Cmd.prog).getD m.prog
  let t := (List.range (saveLineCount m.d - p)).foldl (fun t i =>
    let (t, bs, q) := t.cmdRead m (bits m.d 62 2) (m.a + toWord (64 * (p + i)))
    t.grd m.core fun g => g.restLine m.d (p + i) bs q) s
  let t := t.grd m.core fun g => g.stepped (saveSteps (bits m.d 60 2) ((rowWord m.d).getD (0, 1)).2)
  if bits m.d 60 2 = 2 ∧ (t.tileOf m.core).isSome then
    { t with octets := SMap.put Octet.reset t.octets (octetOf m.core) { t.octet (octetOf m.core) with tile := none } }
  else t

/-- GRD.WLOAD's effect (R316, R328). -/
def State.doWload (s : State) (m : Cmd) : State :=
  match ElTy.of (fmtB m.fcr) with
  | none => s
  | some ty =>
    let r := s.readTile m.core ty (bits m.a 0 21)
    (r.1.setTile m.core r.2.1).grd m.core fun g =>
      let h := g.stepped (tileSteps (fmtB m.fcr))
      { h with wt := BitVec.ofNat 21 (bits m.a 0 21), wp := BitVec.ofNat 21 r.2.2, wfmt := BitVec.ofNat 4 (fmtB m.fcr),
               fresh := true }

/-- The units of AB that GRD.SCL reads (R329). -/
def sclUnits (m : Cmd) : List Nat := unitsOf 3 m.a.toNat 128

/-- GRD.SCL's effect (R318, R329): each latch takes the poison of its source line. -/
def State.doScl (s : State) (m : Cmd) : State :=
  let (t, cur) := s.readAll m (sclUnits m)
  let (lo, p) := cutUnits cur m.a.toNat 64
  let (hi, q) := cutUnits cur (m.a.toNat + 64) 64
  t.grd m.core fun g =>
    (g.setEx ((lo ++ hi).zipIdx.foldl (fun e b => SMap.put 0#8 e b.2 b.1) [])
      ((List.range 128).foldl (fun e n => SMap.put false e n (if n < 64 then p else q)) [])).stepped 1

/-- The effect of one Griddle command; the flag says whether it has completed, and the number counts mismatching rows
of GRD.CHK. -/
def State.grdEffect (s : State) (m : Cmd) : State × Bool × Nat :=
  match m.instr with
  | .grdWload .. => (s.doWload m, true, 0)
  | .grdScl .. => (s.doScl m, true, 0)
  | .grdSclAll .. =>
    (s.grd m.core fun g =>
      (g.setEx ((List.range 128).foldl (fun e n => SMap.put 0#8 e n (m.b.setWidth 8)) []) []).stepped 1, true, 0)
  | .grdMul .. => let (t, fin) := s.doMul m (2 ^ 32); (t, fin, 0)
  | .grdZero .. =>
    let (rowb, rows) := (rowWord m.d).getD (0, 1)
    (s.grd m.core fun g => ((List.range rows).foldl (fun g i => g.zeroRow (rowb + i)) g).stepped rows, true, 0)
  | .grdDrain .. => (s.doDrain m false, true, 0)
  | .grdChk .. => let (t, n) := s.doCheck m; (t, true, n)
  | .grdSave .. => (s.doSave m false, true, 0)
  | .grdRest .. => (s.doRest m, true, 0)
  | _ => (s, true, 0)

/-- Has a command read all of these units? -/
def Cmd.reads (m : Cmd) (us : List Nat) : Bool := us.all fun u => m.cur.any fun e => e.1 == u

/-- One part of a Griddle command is performed (R339): a unit of a line that it writes or reads, or a row step of GRD.MUL. The
entries that a DRAIN or SAVE writes are those at its start. -/
def State.grdStep (s : State) (m : Cmd) : State :=
  match m.instr with
  | .grdDrain .. => if m.acted then s.lineUnit m else (s.doDrain m true).updCmd m.id fun x => { x with acted := true }
  | .grdSave .. => if m.acted then s.lineUnit m else (s.doSave m true).updCmd m.id fun x => { x with acted := true }
  | .grdRest .. => s.restUnit m
  | .grdScl .. => if m.reads (sclUnits m) then s else s.readOne m (sclUnits m)
  | .grdMul .. =>
    let rows := ((rowWord m.d).getD (0, 1)).2
    let us := match ElTy.of (fmtA m.fcr) with | some ta => m.rowUnits ta m.arrived | none => []
    if !m.reads us then s.readOne m us
    else if m.arrived + 1 < ceilDiv (bits m.d 16 16 + 1) 8 * rows then (s.doMul m 1).1 else s
  | _ => s

end Sys2Proof.Machine
end

