-- ==== Sys2Proof/Machine/Vector.lean ====
section
/-! DEFINITION. Classes 011 and 100: vector instructions (08_vector_instructions.md R187 to R219). -/

namespace Sys2Proof.Machine

/-! ## Elements, lane guards and poison (R187 to R191) -/

/-- Element width in bytes by the INT map (R98, R187). -/
def intW (t : BitVec 3) : Nat := 2 ^ (t.toNat % 4)

/-- Is the INT map's type signed (R98)? -/
def intSigned (t : BitVec 3) : Bool := decide (t.toNat < 4)

/-- The format of the FLT map (R98). Codes 3 to 7 are refused at decode. -/
def fltFmt (t : BitVec 3) : FFmt :=
  match t.toNat with
  | 0 => .f32 | 1 => .bf16 | _ => .f16

/-- Element width in bytes of a floating format in a vector register (R187). -/
def FFmt.bytes (f : FFmt) : Nat := ceilDiv f.width 8

/-- Is element `i` of width `w` active (R188)? -/
def active (p : Pred) (w i : Nat) : Bool := p.getLsbD (w * i)

/-- A predicate whose elements of width `w` are given by a test (R188). -/
def predOf (w : Nat) (f : Nat → Bool) : Pred :=
  BitVec.ofNat 256 ((List.range (256 / w)).foldl (fun acc i => if f i then acc + (2 ^ w - 1) * 2 ^ (w * i) else acc) 0)

/-- How the poison of a vector result is found (R191): lane-wise or cross-lane. -/
inductive PoisonRule where
  | lane | cross
deriving DecidableEq, Repr

/-- Does group `g` hold an inactive element (R191)? -/
def groupIdle (p : Pred) (w g : Nat) : Bool := (List.range (64 / w)).any fun j => !active p w (64 * g / w + j)

/-- The poison groups of a merged result (R191): `whole` when the old destination is a source for every element. -/
def vecPoison (rule : PoisonRule) (guard : Bool) (p : Pred) (w : Nat) (srcs : List (BitVec 4)) (old : BitVec 4) (whole : Bool) :
    BitVec 4 :=
  match rule with
  | .lane => groupMask fun g =>
      guard || srcs.any (fun q => q.getLsbD g) || (old.getLsbD g && (whole || groupIdle p w g))
  | .cross => if guard || srcs.any (· != 0#4) || old != 0#4 then 15#4 else 0#4

/-- A vector instruction under the M guard (R189): active elements take `f i`, the others keep the old value, which is a
source of the instruction whatever the guard (assumption log 13). -/
def State.vmerge (s : State) (n : Nat) (rule : PoisonRule) (whole : Bool) (pg : PReg) (w : Nat) (d : VReg) (srcs : List VOp)
    (scalars : List SReg) (f : Nat → Nat) : Out :=
  s.withHeads srcs fun t =>
    let p := t.rp pg
    let old := t.c.r.readV d.toNat
    let es := (List.range (256 / w)).map fun i => if active p w i then f i else elemOf old.v w i
    let q := vecPoison rule (t.pp pg || scalars.any t.ps) p w (srcs.map fun a => (t.vop a).p) old.p whole
    t.holdV n d ⟨vecOfElems w es, q⟩

/-- A vector instruction whose result is written whole, without a merge. -/
def State.vwhole (s : State) (n : Nat) (rule : PoisonRule) (guards : List PReg) (d : VReg) (srcs : List VOp) (v : Vec) : Out :=
  s.withHeads srcs fun t =>
    let q := vecPoison rule (guards.any t.pp) Pred.ones 1 (srcs.map fun a => (t.vop a).p) 0#4 false
    t.holdV n d ⟨v, q⟩

/-- The ring entry of a predicate (R190): byte b is 0xFF when bit b is 1. -/
def predRing (v : Pred) : Vec := vecOfElems 1 ((List.range 256).map fun i => if v.getLsbD i then 255 else 0)

/-- A predicate result (R190, R191). -/
def State.vpred (s : State) (n : Nat) (pg : PReg) (w : Nat) (pd : PReg) (srcs : List VOp) (f : Nat → Bool) : Out :=
  s.withHeads srcs fun t =>
    let p := t.rp pg
    let v := predOf w fun i => active p w i && f i
    let bad := t.pp pg || srcs.any fun a => (t.vop a).p != 0#4
    t.hold n (.pred pd.toNat v bad) (some ⟨predRing v, if bad then 15#4 else 0#4⟩)

/-- A scalar result of a vector position (R190, R191). -/
def State.vscal (s : State) (n : Nat) (d : SReg) (v : Word) (bad : Bool) : State :=
  s.hold n (.scal d.toNat v bad) (some ⟨v.setWidth 2048, if bad then 15#4 else 0#4⟩)

/-- The value of element `i` of an operand. -/
def State.el (s : State) (a : VOp) (w i : Nat) : Nat := elemOf (s.vop a).v w i

/-! ## Integer elements (R194 to R196) -/

/-- An element as an integer: signed for I types, unsigned for N types. -/
def intOf (t : BitVec 3) (v : Nat) : Int := if intSigned t then signedOf (8 * intW t) v else v

/-- An integer as an element of `w` bytes, modulo 2^(8w). -/
def wrapEl (w : Nat) (v : Int) : Nat := (v % (2 : Int) ^ (8 * w)).toNat

/-- The least value of an integer type. -/
def tMin (t : BitVec 3) : Int := if intSigned t then -((2 : Int) ^ (8 * intW t - 1)) else 0

/-- The greatest value of an integer type. -/
def tMax (t : BitVec 3) : Int := if intSigned t then (2 : Int) ^ (8 * intW t - 1) - 1 else (2 : Int) ^ (8 * intW t) - 1

/-- An integer clamped to a type's range, as an element. -/
def clampEl (t : BitVec 3) (v : Int) : Nat := wrapEl (intW t) (max (tMin t) (min (tMax t) v))

/-- A shift left of an element; 0 when the count reaches the width (R194). -/
def shlEl (w a c : Nat) : Nat := if c < 8 * w then a * 2 ^ c % 2 ^ (8 * w) else 0

/-- A logical shift right of an element; 0 when the count reaches the width (R194). -/
def shrEl (w a c : Nat) : Nat := if c < 8 * w then a / 2 ^ c else 0

/-- An arithmetic shift right of an element; 0 or −1 when the count reaches the width (R194). -/
def sarEl (w a c : Nat) : Nat := wrapEl w (signedOf (8 * w) a / (2 : Int) ^ min c (8 * w))

/-- A two-operand integer instruction over elements (R194, R195). -/
def State.vint (s : State) (n : Nat) (pg : PReg) (t : BitVec 3) (d : VReg) (a b : VOp) (f : Nat → Nat → Nat) : Out :=
  let w := intW t
  s.vmerge n .lane false pg w d [a, b] [] fun i => f (s.el a w i) (s.el b w i)

/-- VADD (R194). -/
def execVadd (pg : PReg) (t : BitVec 3) (d : VReg) (a b : VOp) (s : State) : Out :=
  s.vint 1 pg t d a b fun x y => wrapEl (intW t) ((x : Int) + y)

/-- VSUB (R194). -/
def execVsub (pg : PReg) (t : BitVec 3) (d : VReg) (a b : VOp) (s : State) : Out :=
  s.vint 1 pg t d a b fun x y => wrapEl (intW t) ((x : Int) - y)

/-- VMUL (R194). -/
def execVmul (pg : PReg) (t : BitVec 3) (d : VReg) (a b : VOp) (s : State) : Out :=
  s.vint 3 pg t d a b fun x y => x * y % 2 ^ (8 * intW t)

/-- VMULH (R194). -/
def execVmulh (pg : PReg) (t : BitVec 3) (d : VReg) (a b : VOp) (s : State) : Out :=
  s.vint 3 pg t d a b fun x y => wrapEl (intW t) (intOf t x * intOf t y / (2 : Int) ^ (8 * intW t))

/-- VMIN (R194). -/
def execVmin (pg : PReg) (t : BitVec 3) (d : VReg) (a b : VOp) (s : State) : Out :=
  s.vint 1 pg t d a b fun x y => if intOf t x < intOf t y then x else y

/-- VMAX (R194). -/
def execVmax (pg : PReg) (t : BitVec 3) (d : VReg) (a b : VOp) (s : State) : Out :=
  s.vint 1 pg t d a b fun x y => if intOf t x < intOf t y then y else x

/-- VAND (R194). -/
def execVand (pg : PReg) (t : BitVec 3) (d : VReg) (a b : VOp) (s : State) : Out := s.vint 1 pg t d a b (· &&& ·)

/-- VOR (R194). -/
def execVor (pg : PReg) (t : BitVec 3) (d : VReg) (a b : VOp) (s : State) : Out := s.vint 1 pg t d a b (· ||| ·)

/-- VXOR (R194). -/
def execVxor (pg : PReg) (t : BitVec 3) (d : VReg) (a b : VOp) (s : State) : Out := s.vint 1 pg t d a b (· ^^^ ·)

/-- VNOT (R194). -/
def execVnot (pg : PReg) (t : BitVec 3) (d : VReg) (a : VOp) (s : State) : Out :=
  s.vmerge 1 .lane false pg (intW t) d [a] [] fun i => 2 ^ (8 * intW t) - 1 - s.el a (intW t) i

/-- VSHL (R194). -/
def execVshl (pg : PReg) (t : BitVec 3) (d : VReg) (a b : VOp) (s : State) : Out := s.vint 1 pg t d a b (shlEl (intW t))

/-- VSHR (R194). -/
def execVshr (pg : PReg) (t : BitVec 3) (d : VReg) (a b : VOp) (s : State) : Out := s.vint 1 pg t d a b (shrEl (intW t))

/-- VSAR (R194). -/
def execVsar (pg : PReg) (t : BitVec 3) (d : VReg) (a b : VOp) (s : State) : Out := s.vint 1 pg t d a b (sarEl (intW t))

/-- The test of VCMP.cc (R196). -/
def vcmpTest (cc : BitVec 2) (t : BitVec 3) (x y : Nat) : Bool :=
  match cc.toNat with
  | 0 => x == y
  | 1 => x != y
  | 2 => decide (intOf t x < intOf t y)
  | _ => !decide (intOf t x < intOf t y)

/-- VCMP.cc (R196). -/
def execVcmpCc (cc : BitVec 2) (pg : PReg) (t : BitVec 3) (pd : PReg) (a b : VOp) (s : State) : Out :=
  s.vpred 1 pg (intW t) pd [a, b] fun i => vcmpTest cc t (s.el a (intW t) i) (s.el b (intW t) i)

/-- VADDS (R194). -/
def execVadds (pg : PReg) (t : BitVec 3) (d : VReg) (a b : VOp) (s : State) : Out :=
  s.vint 1 pg t d a b fun x y => clampEl t (intOf t x + intOf t y)

/-- VSUBS (R194). -/
def execVsubs (pg : PReg) (t : BitVec 3) (d : VReg) (a b : VOp) (s : State) : Out :=
  s.vint 1 pg t d a b fun x y => clampEl t (intOf t x - intOf t y)

/-! ## Floating elements (R197 to R202) -/

/-- FCR.FTZ in force (R183, R186). -/
def State.ftz (s : State) : Bool := bitAt s.c.y.fcr 2

/-- FCR.RND in force (R183, R186). -/
def State.rnd (s : State) : RMode := RMode.of (bits s.c.y.fcr 0 2)

/-- FCR.OVF in force (R183, R186). -/
def State.ovf (s : State) : Bool := bitAt s.c.y.fcr 3

/-- One rounded floating result with IEEE overflow (R197). -/
def State.fround (s : State) (f : FFmt) (v : FVal) : Nat := f.encode s.rnd true s.ftz v

/-- A floating arithmetic instruction (R197, R198): `whole` when the old destination is a source of every element. -/
def State.vflt (s : State) (n : Nat) (whole : Bool) (pg : PReg) (t : BitVec 3) (d : VReg) (a b : VOp)
    (f : FVal → FVal → FVal → FVal) : Out :=
  let fm := fltFmt t
  let w := fm.bytes
  let old := s.c.r.readV d.toNat
  let x (v : Nat) : FVal := fm.operand s.ftz v
  s.vmerge n .lane whole pg w d [a, b] [] fun i =>
    s.fround fm (f (x (s.el a w i)) (x (s.el b w i)) (x (elemOf old.v w i)))

/-- FADD (R198). -/
def execFadd (pg : PReg) (t : BitVec 3) (d : VReg) (a b : VOp) (s : State) : Out :=
  s.vflt 4 false pg t d a b fun x y _ => x.add s.rnd y

/-- FSUB (R198). -/
def execFsub (pg : PReg) (t : BitVec 3) (d : VReg) (a b : VOp) (s : State) : Out :=
  s.vflt 4 false pg t d a b fun x y _ => x.add s.rnd y.neg

/-- FMUL (R198). -/
def execFmul (pg : PReg) (t : BitVec 3) (d : VReg) (a b : VOp) (s : State) : Out :=
  s.vflt 4 false pg t d a b fun x y _ => x.mul y

/-- FMA (R198). -/
def execFma (pg : PReg) (t : BitVec 3) (d : VReg) (a b : VOp) (s : State) : Out :=
  s.vflt 4 true pg t d a b fun x y z => (x.mul y).add s.rnd z

/-- FMS (R198). -/
def execFms (pg : PReg) (t : BitVec 3) (d : VReg) (a b : VOp) (s : State) : Out :=
  s.vflt 4 true pg t d a b fun x y z => (x.mul y).add s.rnd z.neg

/-- FNMA (R198). -/
def execFnma (pg : PReg) (t : BitVec 3) (d : VReg) (a b : VOp) (s : State) : Out :=
  s.vflt 4 true pg t d a b fun x y z => (x.mul y).neg.add s.rnd z.neg

/-- FNMS (R198). -/
def execFnms (pg : PReg) (t : BitVec 3) (d : VReg) (a b : VOp) (s : State) : Out :=
  s.vflt 4 true pg t d a b fun x y z => (x.mul y).neg.add s.rnd z

/-- Is a code a NaN of its format? -/
def FFmt.isNan (f : FFmt) (code : Nat) : Bool := match f.value code with | .nan => true | _ => false

/-- The canonical NaN of a format that has one. -/
def FFmt.qnan (f : FFmt) : Nat := f.nanCode.getD 0

/-- The smaller or greater of two codes (R199): NaN prevails, −0 is smaller than +0; both already read under FTZ. -/
def FFmt.pick (f : FFmt) (greater : Bool) (x y : Nat) : Nat :=
  if f.isNan x || f.isNan y then f.qnan
  else
    let neg (c : Nat) : Bool := c.testBit (f.width - 1)
    let less := (f.value x).lt (f.value y) || ((f.value x).eq (f.value y) && neg x && !neg y)
    if less == greater then y else x

/-- FMIN (R199). -/
def execFmin (pg : PReg) (t : BitVec 3) (d : VReg) (a b : VOp) (s : State) : Out :=
  let f := fltFmt t
  s.vmerge 2 .lane false pg f.bytes d [a, b] [] fun i =>
    f.pick false (f.flush s.ftz (s.el a f.bytes i)) (f.flush s.ftz (s.el b f.bytes i))

/-- FMAX (R199). -/
def execFmax (pg : PReg) (t : BitVec 3) (d : VReg) (a b : VOp) (s : State) : Out :=
  let f := fltFmt t
  s.vmerge 2 .lane false pg f.bytes d [a, b] [] fun i =>
    f.pick true (f.flush s.ftz (s.el a f.bytes i)) (f.flush s.ftz (s.el b f.bytes i))

/-- FABS (R199). -/
def execFabs (pg : PReg) (t : BitVec 3) (d : VReg) (a : VOp) (s : State) : Out :=
  let f := fltFmt t
  s.vmerge 2 .lane false pg f.bytes d [a] [] fun i =>
    let x := s.el a f.bytes i
    if f.isNan x then f.qnan else x % 2 ^ (f.width - 1)

/-- FNEG (R199). -/
def execFneg (pg : PReg) (t : BitVec 3) (d : VReg) (a : VOp) (s : State) : Out :=
  let f := fltFmt t
  s.vmerge 2 .lane false pg f.bytes d [a] [] fun i =>
    let x := s.el a f.bytes i
    if f.isNan x then f.qnan else (x + 2 ^ (f.width - 1)) % 2 ^ f.width

/-- The test of FCMP.cc (R200). -/
def fcmpTest (cc : BitVec 2) (x y : FVal) : Bool :=
  match cc.toNat with
  | 0 => x.eq y
  | 1 => x.lt y
  | 2 => x.lt y || x.eq y
  | _ => match x, y with
    | .nan, _ | _, .nan => true
    | _, _ => false

/-- FCMP.cc (R200). -/
def execFcmpCc (cc : BitVec 2) (pg : PReg) (t : BitVec 3) (pd : PReg) (a b : VOp) (s : State) : Out :=
  let f := fltFmt t
  s.vpred 2 pg f.bytes pd [a, b] fun i =>
    fcmpTest cc (f.operand s.ftz (s.el a f.bytes i)) (f.operand s.ftz (s.el b f.bytes i))

/-- The class bit of a code (R201). -/
def FFmt.classBit (f : FFmt) (code : Nat) : Nat :=
  let neg := code.testBit (f.width - 1)
  match f.value code with
  | .nan => 8
  | .inf _ => if neg then 0 else 7
  | .fin _ m _ => if m = 0 then (if neg then 3 else 4)
      else if f.subnormal code then (if neg then 2 else 5) else (if neg then 1 else 6)

/-- FCLASS (R201). -/
def execFclass (pg : PReg) (t : BitVec 3) (d : VReg) (a : VOp) (s : State) : Out :=
  let f := fltFmt t
  s.vmerge 2 .lane false pg f.bytes d [a] [] fun i => 2 ^ f.classBit (s.el a f.bytes i)

/-- FRND (R202): to an integral value of the same format; a zero keeps the sign. -/
def execFrnd (pg : PReg) (t : BitVec 3) (d : VReg) (a : VOp) (s : State) : Out :=
  let f := fltFmt t
  s.vmerge 2 .lane false pg f.bytes d [a] [] fun i =>
    s.fround f (match (f.operand s.ftz (s.el a f.bytes i) : FVal) with
      | .fin n m e => .fin n (rndMag s.rnd n m e) 0
      | v => v)

/-- FSCALE (R202): a × 2^n, with n read as a signed integer of the element's width. -/
def execFscale (pg : PReg) (t : BitVec 3) (d : VReg) (a b : VOp) (s : State) : Out :=
  let f := fltFmt t
  s.vmerge 2 .lane false pg f.bytes d [a, b] [] fun i =>
    s.fround f (match (f.operand s.ftz (s.el a f.bytes i) : FVal) with
      | .fin n m e => .fin n m (if m = 0 then e else e + signedOf (8 * f.bytes) (s.el b f.bytes i))
      | v => v)

/-! ## Moves, broadcasts and immediates (R203, R204) -/

/-- VSEL: its pg is the selector (R189, R203). -/
def execVsel (t : BitVec 3) (d : VReg) (a b : VOp) (k : PReg) (s : State) : Out :=
  let w := intW t
  s.vwhole 1 .lane [k] d [a, b]
    (vecOfElems w ((List.range (256 / w)).map fun i => if active (s.rp k) w i then s.el a w i else s.el b w i))

/-- VMOV (R203). -/
def execVmov (pg : PReg) (t : BitVec 3) (d : VReg) (a : VOp) (s : State) : Out :=
  s.vmerge 1 .lane false pg (intW t) d [a] [] fun i => s.el a (intW t) i

/-- VBCAST (R203). -/
def execVbcast (pg : PReg) (t : BitVec 3) (d : VReg) (n : SReg) (s : State) : Out :=
  s.vmerge 1 .lane false pg (intW t) d [] [n] fun _ => (s.rs n).toNat % 2 ^ (8 * intW t)

/-- VIMM: without poison (R203). -/
def execVimm (t : BitVec 3) (d : VReg) (imm : BitVec 12) (s : State) : Out :=
  let w := intW t
  s.vwhole 1 .lane [] d [] (vecOfElems w (List.replicate (256 / w) (wrapEl w imm.toInt)))

/-- An immediate shift of every element (R204). -/
def State.vshimm (s : State) (t : BitVec 3) (d : VReg) (a : VOp) (c : BitVec 6) (f : Nat → Nat → Nat → Nat) : Out :=
  let w := intW t
  s.vwhole 1 .lane [] d [a] (vecOfElems w ((List.range (256 / w)).map fun i => f w (s.el a w i) c.toNat))

/-- VSHLI (R204). -/
def execVshli (t : BitVec 3) (d : VReg) (a : VOp) (c : BitVec 6) (s : State) : Out := s.vshimm t d a c shlEl

/-- VSHRI (R204). -/
def execVshri (t : BitVec 3) (d : VReg) (a : VOp) (c : BitVec 6) (s : State) : Out := s.vshimm t d a c shrEl

/-- VSARI (R204). -/
def execVsari (t : BitVec 3) (d : VReg) (a : VOp) (c : BitVec 6) (s : State) : Out := s.vshimm t d a c sarEl

/-! ## Element access and permutes (R205 to R207) -/

/-- VEXT: one element into a scalar register (R205). -/
def execVext (t : BitVec 3) (d : SReg) (a : VOp) (b : SReg) (s : State) : Out :=
  s.withHeads [a] fun u =>
    let w := intW t
    let x := u.el a w ((u.rs b).toNat % (256 / w))
    u.vscal 2 d (intWord (intOf t x)) (u.ps b || (u.vop a).p != 0#4)

/-- VINS: one element from a scalar register; the old destination is a source (R205). -/
def execVins (t : BitVec 3) (d : VReg) (a b : SReg) (s : State) : Out :=
  let w := intW t
  let k := (s.rs b).toNat % (256 / w)
  let old := s.c.r.readV d.toNat
  let es := (List.range (256 / w)).map fun i => if i = k then (s.rs a).toNat % 2 ^ (8 * w) else elemOf old.v w i
  .next (s.holdV 2 d ⟨vecOfElems w es, vecPoison .cross (s.ps a || s.ps b) Pred.ones w [] old.p true⟩)

/-- VPERM (R206). -/
def execVperm (pg : PReg) (t : BitVec 3) (d : VReg) (a b : VOp) (s : State) : Out :=
  let w := intW t
  s.vmerge 2 .cross true pg w d [a, b] [] fun i => s.el a w (s.el b w i % (256 / w))

/-- VSLIDE.UP (R206). -/
def execVslideUp (pg : PReg) (t : BitVec 3) (d : VReg) (a : VOp) (b : SReg) (s : State) : Out :=
  let w := intW t
  let k := (s.rs b).toNat
  s.vmerge 2 .cross true pg w d [a] [b] fun i => if k ≤ i then s.el a w (i - k) else 0

/-- VSLIDE.DN (R206). -/
def execVslideDn (pg : PReg) (t : BitVec 3) (d : VReg) (a : VOp) (b : SReg) (s : State) : Out :=
  let w := intW t
  let k := (s.rs b).toNat
  s.vmerge 2 .cross true pg w d [a] [b] fun i => if i + k < 256 / w then s.el a w (i + k) else 0

/-- VROT (R206). -/
def execVrot (pg : PReg) (t : BitVec 3) (d : VReg) (a : VOp) (b : SReg) (s : State) : Out :=
  let w := intW t
  s.vmerge 2 .cross true pg w d [a] [b] fun i => s.el a w ((i + (s.rs b).toNat) % (256 / w))

/-- A pair instruction (R207): the results of vd and vd + 1 under the M guard; only vd's enters the ring. -/
def State.vpair (s : State) (pg : PReg) (w : Nat) (d : VReg) (a b : VOp) (f g : Nat → Nat) : Out :=
  s.withHeads [a, b] fun t =>
    let p := t.rp pg
    let lo := t.c.r.readV d.toNat
    let hi := t.c.r.readV (d.toNat + 1)
    let val (old : PVec) (f : Nat → Nat) : Vec :=
      vecOfElems w ((List.range (256 / w)).map fun i => if active p w i then f i else elemOf old.v w i)
    let q := vecPoison .cross (t.pp pg) p w [(t.vop a).p, (t.vop b).p, lo.p, hi.p] 0#4 false
    (t.holdV 2 d ⟨val lo f, q⟩).hold 2 (.vec (d.toNat + 1) (val hi g) q) none

/-- VZIP (R207). -/
def execVzip (pg : PReg) (t : BitVec 3) (d : VReg) (a b : VOp) (s : State) : Out :=
  let w := intW t
  let h := 128 / w
  let pickAt (base i : Nat) : Nat := if i % 2 = 0 then s.el a w (base + i / 2) else s.el b w (base + i / 2)
  s.vpair pg w d a b (pickAt 0) (pickAt h)

/-- VUNZIP (R207). -/
def execVunzip (pg : PReg) (t : BitVec 3) (d : VReg) (a b : VOp) (s : State) : Out :=
  let w := intW t
  let h := 128 / w
  let pickAt (odd i : Nat) : Nat := if i < h then s.el a w (2 * i + odd) else s.el b w (2 * (i - h) + odd)
  s.vpair pg w d a b (pickAt 0) (pickAt 1)

/-- VTRN (R207). -/
def execVtrn (pg : PReg) (t : BitVec 3) (d : VReg) (a b : VOp) (s : State) : Out :=
  let w := intW t
  let pickAt (odd i : Nat) : Nat := if i % 2 = 0 then s.el a w (i + odd) else s.el b w (i - 1 + odd)
  s.vpair pg w d a b (pickAt 0) (pickAt 1)

/-! ## Reductions, scans and dot products (R208 to R214) -/

/-- The active elements of an operand, in ascending order. -/
def State.activeEls (s : State) (pg : PReg) (a : VOp) (w : Nat) : List Nat :=
  ((List.range (256 / w)).filter (active (s.rp pg) w)).map (s.el a w)

/-- A reduction under the S guard: element 0 takes the result, every other element is 0 (R208). -/
def State.vreduce (s : State) (n : Nat) (pg : PReg) (w : Nat) (d : VReg) (a : VOp) (x : Nat) : Out :=
  s.vwhole n .cross [pg] d [a] (vecOfElems w [x])

/-- VRADD (R208). -/
def execVradd (pg : PReg) (t : BitVec 3) (d : VReg) (a : VOp) (s : State) : Out :=
  s.vreduce 4 pg (intW t) d a ((s.activeEls pg a (intW t)).foldl (· + ·) 0 % 2 ^ (8 * intW t))

/-- VRMIN (R208). -/
def execVrmin (pg : PReg) (t : BitVec 3) (d : VReg) (a : VOp) (s : State) : Out :=
  s.vreduce 4 pg (intW t) d a (wrapEl (intW t) ((s.activeEls pg a (intW t)).foldl (fun m x => min m (intOf t x)) (tMax t)))

/-- VRMAX (R208). -/
def execVrmax (pg : PReg) (t : BitVec 3) (d : VReg) (a : VOp) (s : State) : Out :=
  s.vreduce 4 pg (intW t) d a (wrapEl (intW t) ((s.activeEls pg a (intW t)).foldl (fun m x => max m (intOf t x)) (tMin t)))

/-- VSCAN.ADD: running sums of the active elements (R211). -/
def execVscanAdd (pg : PReg) (t : BitVec 3) (d : VReg) (a : VOp) (s : State) : Out :=
  let w := intW t
  s.vmerge 6 .cross true pg w d [a] [] fun i =>
    ((List.range (i + 1)).filter (active (s.rp pg) w)).foldl (fun acc j => acc + s.el a w j) 0 % 2 ^ (8 * w)

/-- VDOT4: four byte products added to the old element (R212). -/
def execVdot4 (pg : PReg) (t : BitVec 3) (d : VReg) (a b : VOp) (s : State) : Out :=
  let old := s.c.r.readV d.toNat
  let el (v : VOp) (i : Nat) : Int := if t = 2#3 then signedOf 8 (s.el v 1 i) else (s.el v 1 i : Int)
  s.vmerge 4 .lane true pg 4 d [a, b] [] fun i =>
    wrapEl 4 ((List.range 4).foldl (fun acc k => acc + el a (4 * i + k) * el b (4 * i + k)) (elemOf old.v 4 i : Int))

/-- vhash (R213). -/
def vhash (x y : Nat) : Nat :=
  let h := (x + y * 0x8B314E2D) % 2 ^ 32
  let h := h ^^^ (h / 2 ^ 15)
  let h := h * 0x3A9F5C71 % 2 ^ 32
  h ^^^ (h / 2 ^ 13)

/-- VHASH (R213). -/
def execVhash (pg : PReg) (t : BitVec 3) (d : VReg) (a b : VOp) (s : State) : Out := s.vint 3 pg t d a b vhash

/-- The indexes of the elements active in both predicates (R214). -/
def State.bothActive (s : State) (pg pa : PReg) (w : Nat) : List Nat :=
  (List.range (256 / w)).filter fun i => active (s.rp pa) w i && active (s.rp pg) w i

/-- PCNT (R214). -/
def execPcnt (pg : PReg) (t : BitVec 3) (d : SReg) (pa : PReg) (s : State) : Out :=
  .next (s.vscal 2 d (toWord (s.bothActive pg pa (intW t)).length) (s.pp pa || s.pp pg))

/-- PFIRST (R214). -/
def execPfirst (pg : PReg) (t : BitVec 3) (d : SReg) (pa : PReg) (s : State) : Out :=
  .next (s.vscal 2 d (toWord ((s.bothActive pg pa (intW t)).headD (256 / intW t))) (s.pp pa || s.pp pg))

/-- One level of the pairwise tree of FRADD (R209). -/
def treeLevel (add : Nat → Nat → Nat) : List (Option Nat) → List (Option Nat)
  | x :: y :: r =>
    (match x, y with
      | some a, some b => some (add a b)
      | some a, none => some a
      | none, y => y) :: treeLevel add r
  | r => r

/-- The pairwise tree of FRADD (R209). -/
def treeSum (add : Nat → Nat → Nat) : Nat → List (Option Nat) → Option Nat
  | 0, l => l.headD none
  | n + 1, l => treeSum add n (treeLevel add l)

/-- FRADD: the fixed pairwise tree over the active elements (R209). -/
def execFradd (pg : PReg) (t : BitVec 3) (d : VReg) (a : VOp) (s : State) : Out :=
  let f := fltFmt t
  let w := f.bytes
  let leaves := (List.range (256 / w)).map fun i => if active (s.rp pg) w i then some (f.flush s.ftz (s.el a w i)) else none
  let r := treeSum (fun x y => s.fround f ((f.value x).add s.rnd (f.value y))) 7 leaves
  s.vreduce 8 pg w d a (match r with
    | some x => if f.isNan x then f.qnan else x
    | none => 0)

/-- The active minimum or maximum of FRMIN and FRMAX (R210). -/
def State.frpick (s : State) (f : FFmt) (greater : Bool) (pg : PReg) (a : VOp) : Nat :=
  match (s.activeEls pg a f.bytes).map (f.flush s.ftz) with
  | [] => f.signed greater (f.infCode.getD 0)
  | x :: r => r.foldl (f.pick greater) (f.pick greater x x)

/-- FRMIN (R210). -/
def execFrmin (pg : PReg) (t : BitVec 3) (d : VReg) (a : VOp) (s : State) : Out :=
  s.vreduce 4 pg (fltFmt t).bytes d a (s.frpick (fltFmt t) false pg a)

/-- FRMAX (R210). -/
def execFrmax (pg : PReg) (t : BitVec 3) (d : VReg) (a : VOp) (s : State) : Out :=
  s.vreduce 4 pg (fltFmt t).bytes d a (s.frpick (fltFmt t) true pg a)

/-! ## Conversions (R215 to R219) -/

/-- The types of CVT (R215): an integer of a width, signed or not, or a floating format. -/
inductive CvtTy where
  | int (w : Nat) (signed : Bool) | flt (f : FFmt)
deriving DecidableEq, Repr

/-- The type of a code (R215). -/
def CvtTy.of (c : BitVec 4) : CvtTy :=
  match c.toNat with
  | 8 => .flt .f32 | 9 => .flt .bf16 | 10 => .flt .f16 | 11 => .flt .e4m3 | 12 => .flt .e5m2 | 13 => .flt .e3m2
  | 14 => .flt .e2m3 | 15 => .flt .e2m1
  | n => .int (2 ^ (n % 4)) (decide (n < 4))

/-- The bytes of an element of a type. -/
def CvtTy.bytes : CvtTy → Nat
  | .int w _ => w
  | .flt f => f.bytes

/-- The ends of an integer type's range. -/
def intRange (w : Nat) (sg : Bool) : Int × Int :=
  if sg then (-((2 : Int) ^ (8 * w - 1)), (2 : Int) ^ (8 * w - 1) - 1) else (0, (2 : Int) ^ (8 * w) - 1)

/-- One conversion of an element (R175, R216): between equal types a copy. -/
def cvtElem (dst src : CvtTy) (mode : RMode) (ieee ftz : Bool) (x : Nat) : Nat :=
  if dst = src then
    match src with
    | .int _ _ => x
    | .flt f => if f.isNan x then f.qnan else f.flush ftz (x % 2 ^ f.width)
  else match src, dst with
    | .flt a, .flt b => b.encode mode ieee ftz (a.operand ftz x)
    | .flt a, .int w sg =>
      let (lo, hi) := intRange w sg
      wrapEl w ((a.operand ftz x).toIntClamped mode lo hi)
    | .int w sg, .flt b =>
      let v : Int := if sg then signedOf (8 * w) x else x
      b.encode mode ieee ftz (.fin (decide (v < 0)) v.natAbs 0)
    | .int w sg, .int w' sg' =>
      let (lo, hi) := intRange w' sg'
      wrapEl w' (max lo (min hi (if sg then signedOf (8 * w) x else x)))

/-- The rounding mode of a control word (R215). -/
def State.modeOf (s : State) (rm : BitVec 2) (defer : Bool) : RMode := if defer then s.rnd else RMode.of rm.toNat

/-- CVT (R216). -/
def execCvt (d : VReg) (a : VOp) (dty sty : BitVec 4) (rm : BitVec 2) (defer ov : Bool) (s : State) : Out :=
  let dt := CvtTy.of dty
  let st := CvtTy.of sty
  let n := 256 / max st.bytes dt.bytes
  s.vwhole 3 .cross [] d [a] (vecOfElems dt.bytes ((List.range n).map fun i =>
    cvtElem dt st (s.modeOf rm defer) (if defer then s.ovf else ov) s.ftz (s.el a st.bytes i)))

/-- floor(log2) of the largest format value (R217). -/
def ElTy.emax : ElTy → Int
  | .e4m3 => 8 | .e5m2 => 15 | .e3m2 => 4 | .e2m3 | .e2m1 => 2 | .i8 | .i16 => 0

/-- One element of a block, scaled by 2^−(s − 127) (R217). -/
def packElem (ty : ElTy) (sc : Nat) (mode : RMode) (ieee : Bool) (v : FVal) : Nat :=
  let y : FVal := match v with
    | .fin n m e => .fin n m (e - ((sc : Int) - 127))
    | v => v
  match ty.fmt with
  | some f => f.encode mode ieee false y
  | none =>
    let y : FVal := match y with
      | .fin n m e => .fin n m (e - ty.unit)
      | v => v
    let (lo, hi) := intRange (ty.bitWidth / 8) true
    wrapEl (ty.bitWidth / 8) (y.toIntClamped mode lo hi)

/-- pack_block (R217): the scale and the element codes. -/
def packBlock (ty : ElTy) (mode : RMode) (ieee : Bool) (xs : List FVal) : Nat × List Nat :=
  if xs.any fun v => v == .nan then (255, xs.map fun _ => 0)
  else
    let tops := xs.filterMap fun v => match v with
      | .fin _ m e => if m = 0 then none else some ((bitLength m : Int) - 1 + e)
      | _ => none
    let sc : Nat := match tops with
      | [] => 0
      | t :: r => ((max (-127) (min 127 (r.foldl max t - ty.emax))) + 127).toNat
    (sc, xs.map (packElem ty sc mode ieee))

/-- A run of element codes as a number (R170). -/
def packRun (ty : ElTy) (cs : List Nat) : Nat :=
  cs.foldr (fun c acc => c % 2 ^ ty.bitWidth + acc * 2 ^ ty.bitWidth) 0

/-- The layout of MXPACK: runs from byte 0, scales from byte 248 (R217). -/
def blockLayout (ty : ElTy) (bs : List (Nat × List Nat)) : Vec :=
  BitVec.ofNat 2048 (packFields ((bs.zipIdx.map fun b => (8 * ty.runBytes * b.2, packRun ty b.1.2))
    ++ bs.zipIdx.map fun b => (8 * (248 + b.2), b.1.1)))

/-- The blocks of an operand's elements of a format (R217). -/
def State.packBlocks (s : State) (a : VOp) (f : FFmt) (ty : ElTy) (mode : RMode) (ieee : Bool) : Vec :=
  blockLayout ty ((List.range (8 / f.bytes)).map fun b =>
    packBlock ty mode ieee ((List.range 32).map fun i => f.operand s.ftz (s.el a f.bytes (32 * b + i))))

/-- MXPACK (R217). -/
def execMxpack (d : VReg) (a : VOp) (et : BitVec 3) (bf : Bool) (rm : BitVec 2) (defer ov : Bool) (s : State) : Out :=
  let ty := (ElTy.of et.toNat).getD .e4m3
  s.vwhole 5 .cross [] d [a]
    (s.packBlocks a (if bf then .bf16 else .f32) ty (s.modeOf rm defer) (if defer then s.ovf else ov))

/-- MXUNPACK (R218). -/
def execMxunpack (d : VReg) (a : VOp) (et : BitVec 3) (bf : Bool) (rm : BitVec 2) (defer : Bool) (s : State) : Out :=
  let ty := (ElTy.of et.toNat).getD .e4m3
  let f : FFmt := if bf then .bf16 else .f32
  let v := (s.vop a).v
  let el (i : Nat) : Nat :=
    let b := i / 32
    f.encode (s.modeOf rm defer) true s.ftz
      (blockElem ty (elemOf v 1 (248 + b)) (ty.pick (natBits v.toNat (8 * ty.runBytes * b) (8 * ty.runBytes)) (i % 32)))
  s.vwhole 3 .cross [] d [a] (vecOfElems f.bytes ((List.range (256 / f.bytes)).map el))

/-- B16PACK (R219). -/
def execB16pack (d : VReg) (a : VOp) (rm : BitVec 2) (defer : Bool) (s : State) : Out :=
  s.vwhole 5 .cross [] d [a] (s.packBlocks a .f32 .i16 (s.modeOf rm defer) false)

end Sys2Proof.Machine
end

