-- ==== Sys2Proof/Machine/SegTable.lean ====
section
/-! DEFINITION. Class 101: segment tables, their evaluation, loading, binding and checking
(09_segment_tables.md R220 to R244). -/

namespace Sys2Proof.Machine

/-! ## The header (R222 to R226) -/

/-- A header's fields (R222, R223), as codes. -/
structure SegHeader where
  mode : Nat
  deg : Nat
  pol : Nat
  gsh : Nat
  oscale : Nat
  rsv : Bool
  split : Nat
  km : Nat
  nseg : Nat
  lo : Nat
  hi : Nat
  satlo : Nat
  sathi : Nat
  check : Nat
  gap : Nat
deriving DecidableEq, Repr

/-- The header in 32 bytes (R222, R223). -/
def SegHeader.of (bs : List Byte) : SegHeader :=
  let f (o n : Nat) : Nat := leNat ((bs.drop o).take n)
  let c := f 0 4
  { mode := natBits c 30 2, deg := natBits c 28 2, pol := natBits c 26 2, gsh := natBits c 24 2, oscale := natBits c 16 8,
    rsv := c.testBit 15, split := natBits c 14 1, km := natBits c 10 4, nseg := natBits c 0 10, lo := f 4 4, hi := f 8 4,
    satlo := f 12 4, sathi := f 16 4, check := f 20 4, gap := f 24 8 }

/-- The bytes of the table of a header. -/
def SegHeader.bytes (h : SegHeader) : Nat := 32 + 16 * h.nseg

/-- Is x × 2^ex at most y × 2^ey? -/
def dyadicLe (x : Nat) (ex : Int) (y : Nat) (ey : Int) : Bool :=
  let e0 := min ex ey
  decide (x * 2 ^ (ex - e0).toNat ≤ y * 2 ^ (ey - e0).toNat)

/-- Is n × 2^e an integer multiple of 2^we? -/
def dyadicMultiple (n : Nat) (e we : Int) : Bool := decide (we ≤ e) || decide (n % 2 ^ (we - e).toNat = 0)

/-- The exponent of the segment width of a LIN table, when HI − LO is a power of two (R225). -/
def SegHeader.widthExp (h : SegHeader) : Option Int :=
  match FFmt.f32.value h.lo, FFmt.f32.value h.hi with
  | .fin nl ml el, .fin nh mh eh =>
    let e0 := min el eh
    let diff := scaled nh mh eh e0 - scaled nl ml el e0
    if 0 < diff ∧ 2 ^ Nat.log2 diff.toNat = diff.toNat then some ((Nat.log2 diff.toNat : Int) + e0 - h.km) else none
  | _, _ => none

/-- The LIN conditions of R225. -/
def SegHeader.linOk (h : SegHeader) : Bool :=
  h.split == 0 && decide (h.km ≤ 9) && h.nseg == 2 ^ h.km &&
  match h.widthExp, FFmt.f32.value h.lo, FFmt.f32.value h.hi with
  | some w, .fin _ ml el, .fin _ mh eh =>
    dyadicMultiple ml el w && dyadicLe ml el (2 ^ 24) w && dyadicLe mh eh (2 ^ 24) w
  | _, _, _ => false

/-- log2 of a positive F32 power of two from 2^−126 to 2^127. -/
def pow2Exp (code : Nat) : Option Int :=
  if code % 2 ^ 23 = 0 ∧ 1 ≤ code / 2 ^ 23 ∧ code / 2 ^ 23 ≤ 254 then some ((code / 2 ^ 23 : Nat) - 127) else none

/-- b of R225: log2 of HI, 128 for +Inf. -/
def SegHeader.hiExp (h : SegHeader) : Option Int := if h.hi = 0x7F800000 then some 128 else pow2Exp h.hi

/-- The LOG conditions of R225. -/
def SegHeader.logOk (h : SegHeader) : Bool :=
  decide (h.km ≤ 8) && match pow2Exp h.lo, h.hiExp with
  | some a, some b => decide (a < b) && decide ((h.nseg : Int) = (1 + h.split) * (b - a) * 2 ^ h.km)
  | _, _ => false

/-- Well formed (R225). -/
def SegHeader.ok (h : SegHeader) : Bool :=
  decide (h.mode ≤ 1) && decide (h.pol ≤ 2) && h.oscale != 255 && !h.rsv
  && decide (1 ≤ h.nseg ∧ h.nseg ≤ 64 * 2 ^ h.gsh) && if h.mode = 0 then h.linOk else h.logOk

/-! ## The evaluation rule (R228 to R230) -/

/-- The class of an element (R228). -/
inductive SegClass where
  | nan | below | above | inside (i : Nat) (t : FVal)
deriving DecidableEq, Repr

/-- sf_index in LIN mode (R228). -/
def SegHeader.indexLin (h : SegHeader) (x : FVal) : SegClass :=
  let lo := FFmt.f32.value h.lo
  if x.lt lo then .below
  else if !x.lt (FFmt.f32.value h.hi) then .above
  else match x, lo, h.widthExp with
    | .fin nx mx ex, .fin nl ml el, some w =>
      let e0 := min (min ex el) w
      let i := (scaled nx mx ex e0 - scaled nl ml el e0) / (2 : Int) ^ (w - e0).toNat
      let xs := scaled nl ml el e0 + i * (2 : Int) ^ (w - e0).toNat
      let d := x.add .rne (.fin (decide (0 < xs)) xs.natAbs e0)
      .inside i.toNat (FFmt.f32.value (FFmt.f32.encode .rne true false (if xs = 0 then x else d)))
    | _, _, _ => .nan

/-- sf_index in LOG mode, on the F32 code of a number (R228). -/
def SegHeader.indexLog (h : SegHeader) (c : Nat) : SegClass :=
  let mag := c % 2 ^ 31
  let neg := c / 2 ^ 31
  if neg = 1 ∧ h.split = 0 then .below
  else if mag < h.lo then .below
  else if h.hi ≤ mag then .above
  else
    let j := (mag / 2 ^ 23 - h.lo / 2 ^ 23) * 2 ^ h.km + mag % 2 ^ 23 / 2 ^ (23 - h.km)
    let xs := c - c % 2 ^ (23 - h.km)
    .inside (j + neg * (h.nseg / 2)) ((FFmt.f32.value c).add .rne (FFmt.f32.value xs).neg)

/-- sf_index on an F32 code (R228). -/
def SegHeader.index (h : SegHeader) (c : Nat) : SegClass :=
  match FFmt.f32.value c with
  | .nan => .nan
  | x => if h.mode = 0 then h.indexLin x else h.indexLog c

/-- The first segment of the half of an element, and the number of segments of a half (R229). -/
def SegHeader.half (h : SegHeader) (neg : Bool) : Nat × Nat :=
  if h.split = 1 then (if neg then h.nseg / 2 else 0, h.nseg / 2) else (0, h.nseg)

/-- The width of the last segment of a half, with the half's sign (R229). -/
def SegHeader.lastWidth (h : SegHeader) (neg : Bool) : FVal :=
  if h.mode = 0 then .fin false 1 (h.widthExp.getD 0)
  else .fin (neg && h.split == 1) 1 (h.hiExp.getD 0 - h.km - 1)

/-- What an element comes to before its table's data are read (R228, R229). -/
inductive SegPath where
  | nan | sat (code : Nat) | dom (side : Nat) | seg (i : Nat) (t : FVal)
deriving DecidableEq, Repr

/-- The policy applied (R229). -/
def SegHeader.path (h : SegHeader) (c : Nat) : SegPath :=
  let neg := c.testBit 31
  let (first, n) := h.half neg
  match h.index c with
  | .nan => .nan
  | .inside i t => .seg i t
  | .below => if h.pol = 0 then .seg first (.fin false 0 0) else if h.pol = 1 then .sat h.satlo else .dom 0
  | .above => if h.pol = 0 then .seg (first + n - 1) (h.lastWidth neg) else if h.pol = 1 then .sat h.sathi else .dom 1

/-- Does segment `i` lie in a gap (R226)? -/
def SegHeader.isGap (h : SegHeader) (i : Nat) : Bool := h.gap.testBit (i / 2 ^ h.gsh)

/-- The polynomial, before the final conversion (R230): coefficients c0 to c3 as codes. -/
def SegHeader.poly (h : SegHeader) (cs : List Nat) (t : FVal) : FVal :=
  let c (d : Nat) : FVal := FFmt.f32.value (cs.getD d 0)
  let step (p : FVal) (d : Nat) : FVal := FFmt.f32.value (FFmt.f32.encode .rne true false ((p.mul t).add .rne (c d)))
  ((List.range h.deg).reverse).foldl step (c h.deg)

/-- A value times the output scale (R230). -/
def SegHeader.scale (h : SegHeader) : FVal → FVal
  | .fin n m e => .fin n m (e + h.oscale - 127)
  | v => v

/-! ## Table memory (R220, R221) -/

/-- The absolute address of an offset from TRBASE (R220). -/
def State.tabAbs (s : State) (off : Int) : Int := s.c.y.trbase + off

/-- The bytes of TMEM from an absolute address of the issuing core. -/
def State.tmemBytes (s : State) (a : Int) (n : Nat) : List Byte := Mem.bytes s.tmem.bytes (coreOf s.who * 2 ^ 16 + a.toNat) n

/-- Is a 16-byte unit of the range poisoned (R221)? -/
def State.tmemPois (s : State) (a : Int) (n : Nat) : Bool := s.tmem.anyPoison 4 (coreOf s.who * 2 ^ 16 + a.toNat) n

/-- The context's share of TMEM (R220): tenants by TBASE and TLIMIT, supervisors the whole. -/
def State.tabShare (s : State) : Int × Int :=
  if s.c.y.sup then (0, 65536)
  else (1024 * bits (s.reg 0 (0x830 + s.c.y.part)) 0 7, min 65536 (1024 * bits (s.reg 0 (0x840 + s.c.y.part)) 0 7))

/-- The first byte of a range that lies outside the share (R244). -/
def State.tabOutside (s : State) (a : Int) (n : Nat) : Option Int :=
  let (lo, hi) := s.tabShare
  if a < lo ∨ hi ≤ lo then some a else if hi < a + n then some (max a hi) else none

/-- Do two ranges meet? -/
def rangesMeet (a : Int) (n : Nat) (b : Int) (m : Nat) : Bool := decide (a < b + m ∧ b < a + n)

/-- The ranges in use by a context (R234): start and length. `own` leaves out what only other contexts still see. -/
def Ctx.tabsInUse (c : Ctx) (own : Bool) : List (Int × Nat) :=
  let base : Int := c.y.trbase
  let slots := (List.range 4).map fun k => SMap.at TabSlot.none c.y.tabs k
  let bound := (slots.filter fun t => t.st == .bound).map fun t => (base + t.off, t.len)
  let pending := (c.f.pend ++ c.f.saved.pend).filterMap fun h => match h.land with
    | .bind _ t => some (base + t.off, t.len)
    | _ => none
  let old := if own then [] else slots.filterMap fun t => t.prev.map fun p => (p.1, p.2.1)
  (bound ++ pending ++ old).filter fun r => decide (0 < r.2)

/-- The context number that TBUSY reports for a holder (R244). -/
def Ctx.busyName (c : Ctx) (x : Nat) : Nat := if c.y.sup then 0x7FF else x

/-- The tables in use that an SFT.LOAD of the issuing context may not overlap (R234): start, length, holder. -/
def State.tabHolders (s : State) : List (Int × Nat × Nat) :=
  (List.range 4).flatMap fun j =>
    let x := 4 * coreOf s.who + j
    let c := s.ctx x
    if c.st == .free || !(s.c.y.sup || c.y.sup || x == s.who || c.y.part == s.c.y.part) then []
    else (c.tabsInUse (x == s.who)).map fun r => (r.1, r.2, c.busyName x)

/-- The incomplete SFT.LOADs of the core, of the issuing context (`own`) or of others: start, length, holder (R235). -/
def State.tabLoads (s : State) (own : Bool) : List (Int × Nat × Nat) :=
  let k := coreOf s.who
  s.ops.filterMap fun o => match o.kind with
    | .sftLoad dst us =>
      if dst / 2 ^ 16 = k ∧ (o.agent == s.who) = own ∧ !o.done then
        some ((dst % 2 ^ 16 : Nat), 16 * us.length, (s.ctx o.agent).busyName o.agent)
      else none
    | _ => none

/-- The first byte of a range that a holder has in use, with the holder. -/
def firstBusy (a : Int) (n : Nat) (hs : List (Int × Nat × Nat)) : Option (Int × Nat) :=
  (hs.filter fun h => rangesMeet a n h.1 h.2.1).foldl (fun m h =>
    let b := max a h.1
    match m with
    | none => some (b, h.2.2)
    | some (c, x) => if b < c then some (b, h.2.2) else some (c, x)) none

/-- The EINFO of TRANGE and TBUSY (R244). -/
def tabInfo (a : Int) (x : Nat) : Word := toWord (packFields [(16, x), (0, (a % 65536).toNat)])

/-! ## Evaluating (R231, R232, R237 to R239) -/

/-- The source and destination formats of a type code (R238). Code 7 is refused at decode. -/
def sfTypes (t : BitVec 3) : FFmt × FFmt :=
  match t.toNat with
  | 0 => (.f32, .f32) | 1 => (.bf16, .bf16) | 2 => (.f16, .f16) | 3 => (.f32, .bf16) | 4 => (.bf16, .f32)
  | 5 => (.f16, .f32) | _ => (.f32, .f16)

/-- An element's outcome: a code and whether poison covers it, or a fault with its EINFO fields. -/
inductive SegOut where
  | val (code : Nat) (covered : Bool) | gap (i : Nat) | dom (side : Nat)
deriving DecidableEq, Repr

/-- One element: its F32 code evaluated under a header at an absolute table address (R228 to R231). -/
def State.segElem (s : State) (h : SegHeader) (a : Int) (dt : FFmt) (covered : Bool) (c : Nat) : SegOut :=
  let fin (v : FVal) : Nat := dt.encode s.rnd true s.ftz v
  match h.path c with
  | .nan => .val dt.qnan covered
  | .sat v => .val (fin (FFmt.f32.value v)) covered
  | .dom side => if covered then .val dt.qnan true else .dom side
  | .seg i t =>
    let u := a + 32 + 16 * (i : Int)
    let covered := covered || s.tmemPois u 16
    if h.isGap i then (if covered then .val dt.qnan true else .gap i)
    else
      let bs := s.tmemBytes u 16
      let cs := (List.range 4).map fun k => leNat ((bs.drop (4 * k)).take 4)
      .val (fin (h.scale (h.poly cs t))) covered

/-- The EINFO of SFGAP and SFDOM (R232). -/
def segInfo (reason side seg slot elem : Nat) : Word :=
  toWord (packFields [(20, reason), (19, side), (10, seg), (8, slot), (0, elem)])

/-- The segments that elements of these F32 codes select are read: the errors of their units are found (R221, R466). -/
def State.noticeSegs (s : State) (h : SegHeader) (a : Int) (cs : List Nat) : State :=
  cs.foldl (fun t c => match h.path c with
    | .seg i _ => t.notice .tmem (coreOf s.who * 2 ^ 16 + (a + 32 + 16 * (i : Int)).toNat) 16
    | _ => t) s

/-- The shared meaning of SF.EVAL and SF.EVALX (R237): `pair` names the scalars of the pre-mapping. -/
def State.sfInstr (s : State) (n : Nat) (pg : PReg) (t : BitVec 3) (d : VReg) (a : VOp) (k : Nat) (pair : Option (SReg × SReg)) :
    Out :=
  s.withHeads [a] fun u =>
    let slot := SMap.at TabSlot.none u.c.y.tabs k
    match slot.st with
    | .unbound => u.raise .sfgap (segInfo 1 0 0 k 255)
    | .lost => u.raise .sfgap (segInfo 2 0 0 k 255)
    | .bound =>
      let (sf, df) := sfTypes t
      let ws := sf.bytes
      let wd := df.bytes
      let cnt := 256 / max ws wd
      let h := SegHeader.of slot.header
      let p := u.rp pg
      let src := u.vop a
      let old := u.c.r.readV d.toNat
      let bad := u.pp pg || match pair with
        | some (x, y) => u.ps x || u.ps y
        | none => false
      let pre (v : FVal) : FVal := match pair with
        | some (x, y) =>
          let al := FFmt.f32.value ((u.rs x).toNat % 2 ^ 32)
          let be := FFmt.f32.value ((u.rs y).toNat % 2 ^ 32)
          (al.mul v).add .rne be
        | none => v
      let covers (i : Nat) : Bool := bad || src.p.getLsbD (i * ws / 64)
      let code (i : Nat) : Nat := FFmt.f32.encode .rne true false (pre (sf.value (elemOf src.v ws i)))
      let out (i : Nat) : SegOut :=
        if active p wd i then u.segElem h (u.tabAbs slot.off) df (covers i) (code i)
        else .val (elemOf old.v wd i) (covers i || old.p.getLsbD (i * wd / 64))
      let outs := (List.range cnt).map out
      match outs.zipIdx.find? fun o => match o.1 with | .val _ _ => false | _ => true with
      | some (.gap i, e) => u.raise .sfgap (segInfo 0 0 i k e)
      | some (.dom side, e) => u.raise .sfdom (segInfo 0 side 0 k e)
      | _ =>
        let codes := outs.map fun o => match o with | .val c _ => c | _ => 0
        let q := groupMask fun g => bad || outs.zipIdx.any fun o => match o.1 with
          | .val _ c => c && decide (o.2 * wd / 64 = g)
          | _ => false
        let read := ((List.range cnt).filter fun i => active p wd i).map code
        (u.noticeSegs h (u.tabAbs slot.off) read).holdV n d ⟨vecOfElems wd codes, q⟩

/-- SF.EVAL (R237). -/
def execSfEval (pg : PReg) (t : BitVec 3) (d : VReg) (a : VOp) (k : BitVec 2) (s : State) : Out :=
  s.sfInstr 8 pg t d a k.toNat none

/-- SF.EVALX: pre-maps by the pair s(2P), s(2P + 1) (R237, R239). -/
def execSfEvalx (pg : PReg) (t : BitVec 3) (d : VReg) (a : VOp) (pr : BitVec 4) (k : BitVec 2) (s : State) : Out :=
  s.sfInstr 10 pg t d a k.toNat (some (pr ++ 0#1, pr ++ 1#1))

/-! ## Loading, binding and checking (R240 to R244) -/

/-- One 64 B source line of SFT.LOAD: its bytes and poison; a line outside the window reads as poisoned zero and posts a
record (R240). -/
def State.sftLine (s : State) (line : Nat) : State × List Byte × Bool :=
  let va := toWord (64 * line)
  match s.placeAS (s.reqOf s.who).sup (s.reqOf s.who).part (coreOf s.who) false 64 va with
  | .error c => (s.postAccess (s.reqOf s.who) c 0 (onDieAddr false 64 va), List.replicate 64 0#8, true)
  | .ok key =>
    let t := (s.ownStall (.ab key) 64).noticeAS false key 64
    (t.raceCheck false false true key 64, t.ab.readZ 6 key 64, t.ab.anyPoison 6 key 64)

/-- SFT.LOAD: N units from AB into TMEM, with its status in sd (R240). -/
def execSftLoad (g : Guard) (d a b : SReg) (s : State) : Out :=
  s.consuming g [a, b] none (
    let src := (s.rs a).toNat
    let off := signedOf 32 (bits (s.rs b) 0 32)
    let n := bits (s.rs b) 32 11
    let dst := s.tabAbs off
    if 2 ^ 20 ≤ src || decide (src % 16 ≠ 0) || decide (off % 16 ≠ 0) || decide (n = 0 ∨ 1024 < n) || bits (s.rs b) 43 21 != 0
      || decide (2 ^ 20 < src + 16 * n) then s.raise .illegal 0#64
    else match s.tabOutside dst (16 * n) with
      | some x => s.raise .trange (tabInfo x 0)
      | none =>
        match firstBusy dst (16 * n) (s.tabHolders ++ s.tabLoads false) with
        | some (x, c) => s.raise .tbusy (tabInfo x c)
        | none =>
          let lo := src / 64
          let (t, ls) := (List.range ((src + 16 * n - 1) / 64 - lo + 1)).foldl (fun (acc : State × List (List Byte × Bool)) i =>
            let (t, bs, p) := acc.1.sftLine (lo + i)
            (t, acc.2 ++ [(bs, p)])) (s, [])
          let unit (i : Nat) : List Byte × Bool :=
            let l := ls.getD ((src + 16 * i) / 64 - lo) ([], false)
            ((l.1.drop ((src + 16 * i) % 64)).take 16, l.2)
          (t.issueOp (.sftLoad (coreOf s.who * 2 ^ 16 + dst.toNat) ((List.range n).map unit)) (some (.s d.toNat)) false false
            none).raiseRaces)

/-- A range that SFT.BIND or SFT.CHK names: a stall while an own load on it is not complete, before it is read (R116, R235),
then TRANGE where it passes the share (R244). -/
def State.tabRange (s : State) (a : Int) (n : Nat) (f : State) : State :=
  if (firstBusy a n (s.tabLoads true)).isSome then s.stallFor 6
  else match s.tabOutside a n with
    | some x => s.raise .trange (tabInfo x 0)
    | none => f

/-- TBUSY while another context's load on the range is not complete (R235, R244). -/
def State.sftGate (s : State) (a : Int) (n : Nat) (f : State) : State :=
  match firstBusy a n (s.tabLoads false) with
  | some (x, c) => s.raise .tbusy (tabInfo x c)
  | none => f

/-- TMEM bytes of the issuing core are read: the errors of their units are found (R221, R466). -/
def State.noticeTab (s : State) (a : Int) (n : Nat) : State := s.notice .tmem (coreOf s.who * 2 ^ 16 + a.toNat) n

/-- A binding and its status, from L + 4 (R233, R241). -/
def State.bindSlot (s : State) (k : Nat) (t : TabSlot) (d : SReg) (status : Nat) (gp : Bool) : State :=
  (s.hold 4 (.bind k t) none).vscal 4 d (toWord status) gp

/-- SFT.BIND: reads the header at L and binds it (R241, R244). -/
def execSftBind (g : Guard) (d a : SReg) (k : BitVec 2) (s : State) : Out :=
  s.consuming g [a] none (
    let off := (s.rs a).toInt
    let at_ := s.tabAbs off
    if off % 32 ≠ 0 then s.raise .illegal 0#64
    else s.tabRange at_ 32 (
      let bs := s.tmemBytes at_ 32
      let h := SegHeader.of bs
      let pois := s.tmemPois at_ 32
      let n := if h.ok then h.bytes else 32
      s.tabRange at_ n (s.sftGate at_ n (
        let t := s.noticeTab at_ 32
        if h.ok && !pois then t.bindSlot k.toNat ⟨.bound, off, bs, n, none⟩ d (h.nseg * 2 ^ 32) false
        else t.bindSlot k.toNat ⟨.unbound, off, [], 32, none⟩ d (if pois then 3 else 1) false))))

/-- SFT.BIND.OFF: clears a slot from L + 4 (R241). -/
def execSftBindOff (g : Guard) (d : SReg) (k : BitVec 2) (s : State) : Out :=
  s.guarded g fun gp => s.bindSlot k.toNat TabSlot.none d 2 gp

/-- SFT.INFO: eight bytes of a latched header (R242). -/
def execSftInfo (g : Guard) (d : SReg) (k w : BitVec 2) (s : State) : Out :=
  s.guarded g fun gp =>
    let t := SMap.at TabSlot.none s.c.y.tabs k.toNat
    s.vscal 3 d (if t.st = .bound then toWord (leNat ((t.header.drop (8 * w.toNat)).take 8)) else 0#64) gp

/-- One bit of the reflected CRC-32C (R227). -/
def crcBit (c : Nat) : Nat := if c % 2 = 1 then (c / 2) ^^^ 0x82F63B78 else c / 2

/-- One byte of the reflected CRC-32C. -/
def crcByte (c : Nat) (b : Byte) : Nat := (List.range 8).foldl (fun x _ => crcBit x) (c ^^^ b.toNat)

/-- CRC-32C (R227). -/
def crc32c (bs : List Byte) : Nat := (bs.foldl crcByte 0xFFFFFFFF) ^^^ 0xFFFFFFFF

/-- SFT.CHK: the CRC of a table without binding it (R243). -/
def execSftChk (g : Guard) (d a : SReg) (s : State) : Out :=
  s.consuming g [a] none (
    let off := (s.rs a).toInt
    let at_ := s.tabAbs off
    if off % 32 ≠ 0 then s.raise .illegal 0#64
    else s.tabRange at_ 32 (
      let h := SegHeader.of (s.tmemBytes at_ 32)
      let bad := decide (h.nseg = 0 ∨ 512 < h.nseg)
      let n := if bad then 32 else h.bytes
      s.tabRange at_ n (s.sftGate at_ n (
        let bs := s.tmemBytes at_ n
        let crc := crc32c (bs.take 20 ++ List.replicate 4 0#8 ++ bs.drop 24)
        let pois := s.tmemPois at_ n
        let w := packFields [(34, boolNat pois), (33, boolNat bad), (32, boolNat (!pois && !bad && crc == h.check)), (0, crc)]
        (s.noticeTab at_ n).issueOp (.sftChk (toWord w)) (some (.s d.toNat)) false false none))))

end Sys2Proof.Machine
end

