-- ==== Sys2Proof/Machine/Elastic.lean ====
section
/-! DEFINITION. How an elastic operation is performed on this package's own memories, monitors, sync objects and barriers
(13_synchronisation_and_consistency.md R339 to R366), and how it completes (R114, R149). -/

namespace Sys2Proof.Machine

/-! ## Completing an operation -/

/-- What a completed operation writes in its scalar destination (R114); a poisoned guard or source poisons it (R134). -/
def Op.scalar (o : Op) (v : Word) (p : Bool) : List Landing :=
  match o.dest with
  | some (.s r) => [.scal r v (o.gp || p)]
  | _ => []

/-- Removes an operation and unblocks the agent that waits on it (R115, condition 5). -/
def State.dropOp (s : State) (o : Op) : State :=
  let stays (b : Block) : Bool := b.redo || b.wait.id != o.id
  { s with ops := s.ops.filter fun p => p.id != o.id }.upd o.agent fun c => { c with f := { c.f with
    blocked := c.f.blocked.filter stays, saved := { c.f.saved with blocked := c.f.saved.blocked.filter stays } } }

/-- A release of a context takes effect as it is performed: the context's open marks are cleared (R343, R348). That of a BAR
is its arrival. -/
def State.released (s : State) (o : Op) : State :=
  match o.kind with
  | .bar .. => s
  | _ => if o.rel.isSome && decide (o.agent < 2048) then s.releaseMarks o.owner else s

/-- The operation has been performed with its result (R339): one without a destination is complete, the result of
another arrives later. -/
def State.performed (s : State) (o : Op) (ls : List Landing) : State :=
  let t := s.released o
  if o.dest.isNone then t.dropOp o
  else { t with ops := updWhere (fun (p : Op) => p.id == o.id) (fun p => { p with phase := .performed, result := ls }) t.ops }

/-- The operation waits in a phase. -/
def State.setPhase (s : State) (o : Op) (ph : OpPhase) : State :=
  { s with ops := updWhere (fun (p : Op) => p.id == o.id) (fun p => { p with phase := ph }) s.ops }

/-- Lands a result of an agent: a register or predicate of its own. Of two elastic operations of one bundle with one destination
the one that arrives last gives the value (DEDUCED, log 40; R114 names no order). -/
def State.landAt (s : State) (a : Nat) (ls : List Landing) : State :=
  s.upd a fun c => ls.foldl Ctx.land c

/-- ELASTIC_RESULT_ARRIVAL: the results of operation `id` land (R114); a result of interrupted code that arrives in
handler mode is kept for ERET (R149). -/
def execElasticResultArrival (id : Nat) (s : State) : Out :=
  .next (match s.ops.find? fun o => o.id == id && o.phase == .performed with
    | none => s
    | some o =>
      let t :=
        if (s.ctx o.agent).e.hm && !o.hm then
          s.upd o.agent fun c => { c with f := { c.f with saved := { c.f.saved with
            arrived := c.f.saved.arrived ++ o.result.map fun l => ⟨c.f.lcc, o.pos, l, none⟩ } } }
        else s.landAt o.agent o.result
      t.dropOp o)

/-! ## When an access may be performed (R340) -/

/-- Is the operation an access to memory (R339)? -/
def OpKind.isAccess : OpKind → Bool
  | .read .. | .write .. | .atom .. | .amxacc .. | .notify .. | .waitv .. | .send .. | .synAdd .. | .synWait .. | .synGet .. =>
    true
  | _ => false

/-- Is the operation a load? -/
def OpKind.isLoad : OpKind → Bool
  | .read .. => true
  | _ => false

/-- Must operation `p` precede operation `o` of the same agent on common bytes (R279, R280)? Issue order, except that in
one bundle every load reads before any store takes effect. -/
def Op.before (p o : Op) : Bool :=
  if p.bun == o.bun && p.kind.isLoad != o.kind.isLoad then p.kind.isLoad else decide (p.id < o.id)

/-- The bytes that an operation writes at an address that has been translated. -/
def OpKind.physRanges : OpKind → List (Nat × Nat × Nat)
  | .write ws => ws.flatMap fun w => Loc.physRange w.2.length w.1
  | .atom _ l z _ _ => Loc.physRange z l
  | .amxacc l _ _ => Loc.physRange 64 l
  | _ => []

/-- The bytes that an operation touches, at every name they have: two addresses of one byte are one location (R262, R340). -/
def State.rangesOf (s : State) (o : Op) : List (Nat × Nat × Nat) :=
  let rs := o.kind.ranges
  rs ++ o.kind.physRanges ++ (rs.filter fun r => r.1 == 3).flatMap fun r =>
    (s.placesOf (s.reqOfOp o) (toWord r.2.1)).map fun p => (4, hbmKey p.1 p.2, hbmKey p.1 p.2 + (r.2.2 - r.2.1))

/-- Has an earlier RLD of the agent an element that has not come from its package, or that it has not requested yet (R379)? -/
def State.rldBefore (s : State) (o : Op) : Bool :=
  (s.elems.any fun e => e.agent == o.agent && e.remote && !e.arrived && decide (e.id < o.id)) ||
    s.cmds.any fun m => m.agent == o.agent && m.unit == .fabric && decide (m.id < o.id)

/-- May the operation be performed now (R340)? Earlier accesses to common bytes, earlier acquires and, for a release,
earlier accesses in its scope have been performed; a FENCE waits for every earlier access (R353). A request that has been sent
holds no later one back here: R380 does so, on another path only. -/
def State.mayPerform (s : State) (o : Op) : Bool :=
  !(s.ops.any fun p => p.agent == o.agent && p.id != o.id && !p.done && (
    (p.before o && p.phase != .sent && overlap (s.rangesOf p) (s.rangesOf o))
    || (decide (p.id < o.id) && (
      (p.acq && o.kind.isAccess)
      || (match o.rel with | some c => s.inScope (coreOf o.agent) c p | none => false)
      || (match o.kind with | .fence _ => p.kind.isAccess | _ => false)))))
  && !((match o.kind, o.rel with | .fence _, _ => true | _, some c => decide (6 ≤ c) | _, none => false) && s.rldBefore o)

/-- Does an operation write a page that is being migrated? -/
def State.opHeld (s : State) (o : Op) : Bool :=
  let held (l : Loc) : Bool := match l with | .phys d pa _ => s.heldByMig d pa | _ => false
  match o.kind with
  | .write ws => ws.any fun w => held w.1
  | .atom _ l _ _ _ | .amxacc l _ _ => held l
  | _ => false

/-! ## Loads and stores (R272, R273) -/

/-- The bytes and the poison at a place of the die's memories, once its errors have been found. -/
def State.peekLoc (s : State) (z : Nat) : Loc → List Byte × Bool
  | .ab k => ((s.bankAS false).readZ 6 k z, (s.bankAS false).anyPoison 6 k z)
  | .sp k => ((s.bankAS true).readZ 6 k z, (s.bankAS true).anyPoison 6 k z)
  | .phys die pa _ => (s.hbm.readZ 6 (hbmKey die pa) z, s.hbm.anyPoison 6 (hbmKey die pa) z)
  | .glob _ => (List.replicate z 0#8, true)

/-- A read of `n` bytes at a place finds the errors of its units (R264, R466). -/
def State.noticeLoc (s : State) (q : Req) (n : Nat) : Loc → State
  | .ab k => s.noticeAS false k n
  | .sp k => s.noticeAS true k n
  | .phys die pa va => s.noticePoison q va die pa n
  | .glob _ => s

/-- Reads the bytes of one element of an elastic load: bytes and poison. -/
def State.readLoc (s : State) (q : Req) (z : Nat) : Option Loc → State × List Byte × Bool
  | none => (s, List.replicate z 0#8, true)
  | some (.ab k) => let t := s.noticeLoc q z (.ab k); (t, t.peekLoc z (.ab k))
  | some (.sp k) => let t := s.noticeLoc q z (.sp k); (t, t.peekLoc z (.sp k))
  | some (.phys die pa va) => let t := s.noticeLoc q z (.phys die pa va); (t, t.peekLoc z (.phys die pa va))
  | some (.glob va) =>
    match s.readGlob q va z with
    | (t, .ok (bs, p)) => (t, bs, p)
    | (t, .error f) => (t.globFault q f va false, List.replicate z 0#8, true)

/-- The location `n` bytes on. -/
def Loc.plus (n : Nat) : Loc → Loc
  | .ab k => .ab (k + n)
  | .sp k => .sp (k + n)
  | .glob va => .glob (va + toWord n)
  | .phys die pa va => .phys die (pa + n) (va + toWord n)

/-- The units in which a load is performed (R339): one for each element, and the 8-byte units of a wider one. -/
def loadUnits (ls : List (Option Loc)) (z : Nat) (vec : Bool) : List (Option Loc) :=
  if vec && decide (8 < z) then ls.flatMap fun l => (List.range (z / 8)).map fun i => l.map (Loc.plus (8 * i)) else ls

/-- Some units of an operation have been performed. -/
def State.setUnits (s : State) (o : Op) (us : SMap (List Byte × Bool)) : State :=
  { s with ops := updWhere (fun (p : Op) => p.id == o.id) (fun p => { p with units := us }) s.ops }

/-- The units of an operation that are still to be performed. -/
def Op.unitsLeft (o : Op) (n : Nat) : List Nat := (List.range n).filter fun u => !o.units.any fun e => e.1 == u

/-- A load all of whose units have been performed has its result (R283 to R286). -/
def State.endRead (s : State) (o : Op) (z : Nat) (vec : Bool) (d : Nat) (us : SMap (List Byte × Bool)) : State :=
  if vec then
    let v := gatherVec (if 8 < z then 8 else z) (us.map (·.2))
    s.performed o [.vec d v.v (if o.gp then 15#4 else v.p)]
  else
    let e := (us.map (·.2)).headD ([], true)
    s.performed o (o.scalar (toWord (leNat e.1)) e.2)

/-- Unit `u` of a wide load is read; the first unit of each of its lines finds the line's errors, once (R466). -/
def State.readPart (s : State) (o : Op) (ps : List (Option Loc)) (u : Nat) : State × List Byte × Bool :=
  match ps.getD u none, ps.getD (u / 8 * 8) none with
  | some l, some base =>
    let t := if o.units.any fun e => e.1 / 8 == u / 8 then s else s.noticeLoc (s.reqOfOp o) 64 base
    (t, t.peekLoc 8 l)
  | _, _ => (s, List.replicate 8 0#8, true)

/-- A unit of an elastic load is performed; with its last one the load has its result (R283 to R286, R339). -/
def State.doRead (s : State) (o : Op) (ls : List (Option Loc)) (z : Nat) (vec : Bool) (d : Nat) : State :=
  let ps := loadUnits ls z vec
  let left := o.unitsLeft ps.length
  if left.isEmpty then s.endRead o z vec d o.units
  else
    let (t, u) := s.pickUnit left
    let (t, e) := if vec && decide (8 < z) then t.readPart o ps u else t.readLoc (s.reqOfOp o) z (ps.getD u none)
    let us := SMap.put ([], false) o.units u e
    if left.length ≤ 1 then t.endRead o z vec d us else t.setUnits o us

/-- The open mark that a store of an operation leaves (R348): the context's, none for Ladles and for ST.REL. -/
def Op.mark (o : Op) : Nat := if isLadle o.agent || o.rel.isSome then 0 else o.agent + 1

/-- Writes the bytes of one element; `part` names a unit of a whole line, with whether it is the last. -/
def State.writeLoc (s : State) (q : Req) (mark : Nat) (l : Loc) (bs : List Byte) (part : Option Bool) : State :=
  match l with
  | .ab k => s.writeAS false k bs false mark
  | .sp k => s.writeAS true k bs false mark
  | .phys die pa _ => match part with
    | none => s.writeHbm q.gang die pa bs false
    | some last => s.writeHbmUnit q.gang die pa bs false last
  | .glob _ => s

/-- A unit of a store: the number of its store and of its line there, its place, its bytes. -/
structure StoreUnit where
  line : Nat × Nat
  loc : Loc
  bytes : List Byte
deriving DecidableEq, Repr

/-- The units in which stores are performed (R339). -/
def storeUnits (ws : List (Loc × List Byte)) : List StoreUnit :=
  ws.zipIdx.flatMap fun w =>
    if w.1.2.length ≤ 8 then [⟨(w.2, 0), w.1.1, w.1.2⟩]
    else (List.range (w.1.2.length / 8)).map fun i => ⟨(w.2, i / 8), w.1.1.plus (8 * i), (w.1.2.drop (8 * i)).take 8⟩

/-- The line of a location. -/
def Loc.line : Loc → LineAt
  | .ab k => .mem false k
  | .sp k => .mem true k
  | .phys die pa va => .hbm die pa va
  | .glob _ => .lost

/-- A unit of an elastic store is performed, after those of earlier elements on its bytes (R339, R340). The last unit of a
whole line clears the line's poison (R273). -/
def State.doWrite (s : State) (o : Op) (ws : List (Loc × List Byte)) : State :=
  let ps := storeUnits ws
  let left := o.unitsLeft ps.length
  let at_ (u : Nat) : StoreUnit := ps.getD u ⟨(0, 0), .ab 0, []⟩
  let range (u : Nat) : Nat × Nat × Nat := Loc.range (at_ u).bytes.length (at_ u).loc
  let (t, u) := s.pickUnit (left.filter fun u => !left.any fun v => decide (v < u) && overlap [range v] [range u])
  let mates := (List.range ps.length).filter fun v => (at_ v).line == (at_ u).line
  let last := !left.any fun v => v != u && mates.contains v
  let whole := decide (8 ≤ mates.length)
  let t := t.writeLoc (s.reqOfOp o) o.mark (at_ u).loc (at_ u).bytes (if whole then some last else none)
  let t := if whole && last then t.cleanAt (at_ u).loc.line else t
  if left.length ≤ 1 then t.performed o [] else t.setUnits o (SMap.put ([], false) o.units u ((at_ u).bytes, false))

/-! ## Atomics (R355 to R358) -/

/-- The lines that `n` bytes at a place touch have no writer any more (R348). -/
def State.unmark (s : State) (l : Loc) (n : Nat) : State :=
  match l with
  | .ab k => { s with abMark := setMarks s.abMark k n 0 }
  | .sp k => { s with spMark := setMarks s.spMark k n 0 }
  | _ => s

/-- One read-modify-write of `z` bytes at a location of this package: the old value, or none for a poisoned unit, which
is left as it is (R357). The line has no writer afterwards, whether or not anything is written (R348). -/
def State.atomAt (s : State) (q : Req) (f : AtomOp) (l : Loc) (z : Nat) (v w : Word) : State × Option Nat :=
  let (t, bs, p) := (s.unmark l z).readLoc q z (some l)
  if p then (t, none)
  else
    let old := leNat bs
    match atomNew f z old (v.toNat % 2 ^ (8 * z)) (w.toNat % 2 ^ (8 * z)) with
    | some n => (t.writeLoc q 0 l (natLe n z) none, some old)
    | none => (t, some old)

/-- AADD to ADECP performed (R356, R357). -/
def State.doAtom (s : State) (o : Op) (f : AtomOp) (l : Loc) (z : Nat) (v w : Word) : State :=
  match s.atomAt (s.reqOfOp o) f l z v w with
  | (t, some old) => t.performed o (o.scalar (toWord old) false)
  | (t, none) => t.performed o (o.scalar 0#64 true)

/-- Does the rounded magnitude m × 2^e exceed the largest finite value of the format (SAT of R358)? -/
def FFmt.pastMax (f : FFmt) (m : Nat) (e : Int) : Bool :=
  let ex := max ((bitLength m : Int) - 1 + e) f.emin
  decide (m ≠ 0) &&
    decide (f.largest < ((ex + f.bias) * 2 ^ f.manBits + rndMag .rne false m (e - (ex - f.manBits)) - 2 ^ f.manBits).toNat)

/-- The element type of AMXACC (R358). -/
def amxType : Nat → ElTy
  | 0 => .e4m3 | 1 => .e5m2 | _ => .e2m1

/-- The new 64 B line and the status of an AMXACC on a line and an addend (R358). -/
def amxLine (ty : ElTy) (old add : List Byte) : List Byte × Word :=
  let eb := ty.runBytes
  let so := (old.getD 32 0#8).toNat
  let sa := (add.getD 32 0#8).toNat
  let ro := leNat (old.take eb)
  let ra := leNat (add.take eb)
  let vals (r : Nat) : List FVal := (List.range 32).map fun i => ty.value (ty.pick r i)
  let wild (v : FVal) : Bool := match v with | .fin .. => false | _ => true
  let bad := so == 255 || sa == 255 || (vals ro ++ vals ra).any wild
  let xs := (List.range 32).map fun i => (blockElem ty so (ty.pick ro i)).add .rne (blockElem ty sa (ty.pick ra i))
  let (sc, cs) := if bad then (255, List.replicate 32 0) else packBlock ty .rne false xs
  let sat := !bad && xs.any fun v => match v, ty.fmt with
    | .fin _ m e, some f => f.pastMax m (e - ((sc : Int) - 127))
    | _, _ => false
  (natLe (packRun ty cs) eb ++ ((old.drop eb).take (32 - eb)) ++ [BitVec.ofNat 8 sc] ++ old.drop 33,
    toWord (packFields [(17, boolNat sat), (16, boolNat bad), (8, sc), (0, so)]))

/-- One AMXACC at a line of this package: the status word, or none for a poisoned line (R358). -/
def State.amxAt (s : State) (q : Req) (l : Loc) (et : Nat) (add : List Byte) : State × Option Word :=
  let (t, bs, p) := s.readLoc q 64 (some l)
  if p then (t, none)
  else
    let r := amxLine (amxType et) bs add
    (t.writeLoc q 0 l r.1 none, some r.2)

/-- AMXACC performed (R358). -/
def State.doAmx (s : State) (o : Op) (l : Loc) (et : Nat) (add : List Byte) : State :=
  match s.amxAt (s.reqOfOp o) l et add with
  | (t, some w) => t.performed o (o.scalar w false)
  | (t, none) => t.performed o (o.scalar 0#64 true)

/-! ## FENCE (R353, R354) -/

/-- FENCE performed: the failed writes are reported and cleared; a Ladle's status is 0. -/
def State.doFence (s : State) (o : Op) : State :=
  if isLadle o.agent then s.performed o (o.scalar 0#64 false)
  else
    let y := (s.ctx o.owner).y
    (s.upd o.owner fun c => { c with y := { c.y with nfail := 0#16, fstat := 0#5 } }).performed o
      (o.scalar (toWord (packFields [(27, y.fstat.toNat), (0, y.nfail.toNat)])) false)

/-! ## Monitors (R359 to R362) -/

/-- The status of WAITV (R360). -/
def waitvWord (code val : Nat) : Word := toWord (code * 2 ^ 32 + val % 2 ^ 32)

/-- The requester of a monitor entry's read at its wake. -/
def State.monReq (s : State) (m : Monitor) : Option (Op × Req) :=
  (s.ops.find? fun o => o.id == m.op).map fun o => (o, s.reqOfOp o)

/-- Wakes one entry: its waiter reads its word and receives WOKEN (R360). -/
def State.wake (s : State) (m : Monitor) : State :=
  let t := { s with monitors := s.monitors.filter fun e => e.op != m.op }
  match s.monReq m with
  | none => t
  | some (o, q) =>
    let z := match o.kind with | .waitv _ z _ => z | _ => 8
    let (t, bs, p) := t.readLoc q z (some (.phys m.die m.pa m.va))
    t.performed o (o.scalar (waitvWord 1 (if p then 0 else leNat bs)) p)

/-- WAITV at the monitor (R360): the check and the arming are one step. -/
def State.doWaitv (s : State) (o : Op) (va : Word) (z : Nat) (v : Word) : State :=
  let q := s.reqOfOp o
  let die := bits va 50 1
  if bits va 60 4 = 0 ∧ s.ownPackage va = false then s.performed o (o.scalar (waitvWord 3 0) false)
  else if bits va 60 4 = 0 ∧ 4096 ≤ (s.monitors.filter fun m => m.die == die).length then
    s.performed o (o.scalar (waitvWord 2 0) false)
  else match s.resolveFor q va false with
    | (t, .error f) => (t.globFault q f va false).performed o (o.scalar 0#64 true)
    | (t, .ok (d, pa)) =>
      let (t, bs, p) := t.readLoc q z (some (.phys d pa va))
      if p then t.performed o (o.scalar (waitvWord 0 0) true)
      else if leNat bs ≠ v.toNat % 2 ^ (8 * z) then t.performed o (o.scalar (waitvWord 0 (leNat bs)) false)
      else
        let m : Monitor := ⟨d, pa, va, q.sup, q.part, o.id⟩
        { t with monitors := t.monitors ++ [m] }.setPhase o .armed

/-- NOTIFY: wakes all entries of the unit or the oldest (R361). -/
def State.doNotify (s : State) (o : Op) (all : Bool) (va : Word) : State :=
  let q := s.reqOfOp o
  if bits va 60 4 = 0 ∧ s.ownPackage va = false then s.performed o (o.scalar (BitVec.twoPow 64 63) false)
  else match s.resolveFor q va false with
    | (t, .error f) => (t.globFault q f va false).performed o (o.scalar 0#64 true)
    | (t, .ok (d, pa)) =>
      let hit := t.monitors.filter fun m => m.die == d && m.pa / 8 == pa / 8
      let ms := if all then hit else hit.take 1
      (ms.foldl State.wake t).performed o (o.scalar (toWord ms.length) false)

/-! ## Sync objects (R363 to R365, R448) -/

/-- Has the value of an object reached a target, modulo 2^32 (R364)? -/
def reached (val tgt : BitVec 32) : Bool := decide ((val - tgt).toNat < 2 ^ 31)

/-- An armed SYN.WAIT on an object completes once its value has reached the target (R364). -/
def State.retestWait (s : State) (key : Nat) (o : Op) : State :=
  match o.kind with
  | .synWait v tgt =>
    if o.phase == .armed && s.syncObj (clusterOf (coreOf o.agent)) (s.reqOfOp o).part v == some key && reached (SMap.at 0#32 s.sync key) tgt then
      s.performed o (o.scalar ((SMap.at 0#32 s.sync key).setWidth 64) false)
    else s
  | _ => s

/-- Gives an object a new value: the waits that it satisfies complete with it, at that point (R364). -/
def State.setSync (s : State) (key : Nat) (v : BitVec 32) : State :=
  s.ops.foldl (fun t o => t.retestWait key o) { s with sync := SMap.put 0#32 s.sync key v }

/-- Adds to an object for an agent of gang `g`, which logs the addition (R364, R419). -/
def State.syncAdd (s : State) (g key : Nat) (v : BitVec 32) : State :=
  (s.setSync key (SMap.at 0#32 s.sync key + v)).updGang g fun x => { x with undo := .sync key v :: x.undo }

/-- Drops an operation on an unmapped number with its record (R365). -/
def State.syncDrop (s : State) (o : Op) (v : Nat) : State :=
  (s.postAccess { s.reqOfOp o with agent := 0 } 11 0 (unmappedAddr (clusterOf (coreOf o.agent)) v)).performed o (o.scalar 0#64 true)

/-- SYN.ADD and SYN.GET at the object: the old value is returned (R364). -/
def State.doSynAdd (s : State) (o : Op) (v : Nat) (add : BitVec 32) : State :=
  let q := s.reqOfOp o
  match s.syncObj (clusterOf (coreOf o.agent)) q.part v with
  | none => s.syncDrop o v
  | some k => (s.syncAdd q.gang k add).performed o (o.scalar ((SMap.at 0#32 s.sync k).setWidth 64) false)

/-- SYN.GET at the object (R364). -/
def State.doSynGet (s : State) (o : Op) (v : Nat) : State :=
  match s.syncObj (clusterOf (coreOf o.agent)) (s.reqOfOp o).part v with
  | none => s.syncDrop o v
  | some k => s.performed o (o.scalar ((SMap.at 0#32 s.sync k).setWidth 64) false)

/-- SYN.WAIT at the object: completes once VAL has reached the target, modulo 2^32 (R364). -/
def State.doSynWait (s : State) (o : Op) (v : Nat) (tgt : BitVec 32) : State :=
  match s.syncObj (clusterOf (coreOf o.agent)) (s.reqOfOp o).part v with
  | none => s.syncDrop o v
  | some k =>
    let val := SMap.at 0#32 s.sync k
    if reached val tgt then s.performed o (o.scalar (val.setWidth 64) false) else s.setPhase o .armed

/-- An engine's signal: a SYN.ADD of 1 on the number as the command's own partition maps it; an unmapped one is dropped with a
record (R296, R365, R448). -/
def State.doSignal (s : State) (o : Op) (v agentCode part gang : Nat) (sup : Bool) : State :=
  let cl := clusterOf (coreOf o.owner)
  match s.syncObj cl part v with
  | none =>
    let q : Req := { part := part, sup := sup, ctx := o.owner, agent := agentCode, die := dieOf (coreOf o.owner),
                     lcc := o.cyc, pc := if agentCode ≤ 2 then o.pc else 0#64, gang := gang }
    (s.postAccess q 11 0 (unmappedAddr cl v)).performed o []
  | some k => (s.syncAdd gang k 1#32).performed o []

/-! ## Barriers (R366) -/

/-- Has every member of the set arrived at generation `n`? An exited member counts as arrived (R427). -/
def Gang.barDone (g : Gang) (grp : Bool) (rank n : Nat) : Bool :=
  (g.barSet grp rank).all fun r =>
    let b := SMap.at (0, 0) g.bars r
    g.exited.contains r || decide (n ≤ if grp then b.2 else b.1)

/-- A member arrives at generation `n` of its set. -/
def Gang.arrive (g : Gang) (grp : Bool) (rank n : Nat) : Gang :=
  let b := SMap.at (0, 0) g.bars rank
  { g with bars := SMap.put (0, 0) g.bars rank (if grp then (b.1, n) else (n, b.2)) }

/-- BAR arrives, which is its release; it completes when its generation does, and acquires (R366). -/
def State.doBar (s : State) (o : Op) (grp : Bool) (n : BitVec 32) : State :=
  match (s.gang (s.ctx o.agent).y.gang).bind fun g => (g.rankOf o.agent).map fun r => (g.id, r) with
  | none => (s.releaseMarks o.owner).performed o (o.scalar (n.setWidth 64) false)
  | some (g, r) =>
    let t := if o.phase == .issued then (s.updGang g fun y => y.arrive grp r n.toNat).releaseMarks o.owner else s
    if (t.gang g).any fun y => y.barDone grp r n.toNat then t.performed o (o.scalar (n.setWidth 64) false) else t.setPhase o .armed

/-! ## Table loads and status (R240, R243, R335) -/

/-- SFT.LOAD: the units are written in ascending order (R240). -/
def State.doSftLoad (s : State) (o : Op) (dst : Nat) (units : List (List Byte × Bool)) : State :=
  let t := (units.zipIdx).foldl (fun t u => { t with tmem := t.tmem.writeP 4 (dst + 16 * u.2) u.1.1 u.1.2 }) s
  t.performed o (o.scalar (toWord (packFields [(11, boolNat (units.any (·.2))), (0, units.length)])) false)

/-- GRD.STAT is served (R335): with CLR the sticky bits are cleared after the read. -/
def State.doGrdStat (s : State) (o : Op) (core : Nat) (clr : Bool) : State :=
  let w := s.grdStatWord core
  let t := if clr then s.updGriddle core fun g => { g with dsat := false, cmis := false, cinc := false, loss := false } else s
  t.performed o (o.scalar w false)

/-! ## The Pantry (R154, R155) -/

/-- The KIND and INDEX of a Pantry record (R52). -/
def panKind (r : Nat) : Nat × Nat :=
  if r < 2 then (1, r) else if r < 10 then (2, r - 2) else if r < 522 then (3, r - 10) else if r < 586 then (4, r - 522)
  else if r < 1610 then (5, r - 586) else if r < 1622 then (6, r - 1610) else if r < 1654 then (7, r - 1622)
  else if r = 1654 then (8, 0) else (0, 0)

/-- Word 0 of a record (R53). -/
def PanRec.word0 (p : PanRec) (r : Nat) : Word :=
  let k := panKind r
  toWord (packFields [(56, k.1), (45, k.2), (40, p.state), (32, p.cap), (0, p.ver.toNat)])

/-- PAN.ACK: PANV becomes the current version and the summary is returned and cleared (R154). -/
def State.doPanAck (s : State) (o : Op) : State :=
  let y := (s.ctx o.owner).y
  let v := s.svc.pantry.ver
  (s.upd o.owner fun c => { c with y := { c.y with panv := v, ackMask := false, ackOwn := false, ackNver := 0#8, ackKinds := 0#8 } }).performed
    o (o.scalar (toWord (packFields [(49, boolNat y.ackMask), (48, boolNat y.ackOwn), (40, y.ackNver.toNat), (32, y.ackKinds.toNat),
      (0, v.toNat)])) false)

/-- PAN.READ: a word of a record of the mirror, or the version (R155). -/
def State.doPanRead (s : State) (o : Op) (r sel : Nat) : State :=
  let w := if sel = 2 then s.svc.pantry.ver.setWidth 64
    else if 1655 ≤ r then 0#64
    else if sel = 0 then (s.pan r).word0 r else (s.pan r).feat
  s.performed o (o.scalar w false)

end Sys2Proof.Machine
end

