-- ==== Sys2Proof/Machine/FabricOps.lean ====
section
/-! DEFINITION. The fabric unit's own operations (14_athiyx_fabric.md R372 to R384): serving ports, slot tables, sending
a request with its open entry, and what a reply or a failure does to the request it closes. -/

namespace Sys2Proof.Machine

/-! ## Ports, peers and tables (R372 to R376, R469) -/

/-- A port. -/
def State.port (s : State) (p : Nat) : FabPort := SMap.get FabPort.reset s.fab.ports p

/-- Updates the fabric unit. -/
def State.updFab (s : State) (f : Fabric → Fabric) : State := { s with fab := f s.fab }

/-- Updates a port. -/
def State.updPort (s : State) (p : Nat) (f : FabPort → FabPort) : State :=
  s.updFab fun u => { u with ports := SMap.set FabPort.reset u.ports p (f (s.port p)) }

/-- A link unit (R463). -/
def State.link (s : State) (u : Nat) : Link := SMap.at Link.off s.links u

/-- Updates a link unit. -/
def State.updLink (s : State) (u : Nat) (f : Link → Link) : State :=
  { s with links := SMap.put Link.off s.links u (f (s.link u)) }

/-- PORTCFG.UP: the port's link is UP or DEGRADED (R463). -/
def State.portUp (s : State) (p : Nat) : Bool := let l := (s.link (13 + p)).state; l == 2 || l == 3

/-- Does the port carry traffic (R469)? -/
def State.portInService (s : State) (p : Nat) : Bool := s.portUp p && !s.fenced (1622 + p)

/-- The serving port of a plane (R372). -/
def State.servingPort (s : State) (plane : Nat) : Option Nat :=
  (List.range 32).find? fun p => s.portInService p && (s.port p).plane == plane

/-- A peer table entry. -/
def State.peer (s : State) (pkg : Nat) : Peer := SMap.at Peer.unknown s.fab.peers pkg

/-- Updates a peer table entry. -/
def State.updPeer (s : State) (pkg : Nat) (f : Peer → Peer) : State :=
  s.updFab fun u => { u with peers := SMap.put Peer.unknown u.peers pkg (f (s.peer pkg)) }

/-- The package's own number (R376). -/
def State.ownPkg (s : State) : Nat := bits (s.reg 0 0x940) 0 9

/-- The package's own incarnation. -/
def State.ownInc (s : State) : Byte := BitVec.ofNat 8 (bits (s.reg 0 0x940) 48 8)

/-- The number of phases of a frame, 2^FL (R370). -/
def State.phases (s : State) : Nat := 2 ^ bits (s.reg 0 0x940) 32 4

/-- Is a slot-table entry unicast to a package (R373)? -/
def slotUnicast (e : BitVec 16) (pkg : Nat) : Bool := e.toNat / 2 ^ 14 == 1 && e.toNat % 2 ^ 10 == pkg

/-- Is a slot-table entry a reduce entry of a group (R373)? -/
def slotReduce (e : BitVec 16) (group : Nat) : Bool := e.toNat / 2 ^ 14 == 2 && e.toNat % 2 ^ 10 == group

/-- The entry of a port's table at a phase. -/
def State.slotOf (s : State) (p ph : Nat) : BitVec 16 := SMap.at 0#16 (s.port p).table ph

/-- Has the port's table an entry unicast to a package? -/
def State.hasUnicast (s : State) (p pkg : Nat) : Bool := (s.port p).table.any fun e => slotUnicast e.2 pkg

/-- Does a drain name the path of a plane, port and peer (R396)? -/
def Drain.covers (d : Drain) (plane port : Nat) (peer : Option Nat) : Bool :=
  (match d.peer with | some k => peer == some k | none => true)
  && (match d.plane with | some q => q == plane | none => true)
  && (match d.port with | some q => q == port | none => true)

/-- Is the path being drained? -/
def State.drained (s : State) (plane port : Nat) (peer : Option Nat) : Bool :=
  s.fab.drains.any fun d => d.covers plane port peer

/-! ## Failures (R382) -/

/-- Why a fabric request fails (R382, R353). -/
inductive FabFail where
  | deadlink | peerrst | refused | rfault
deriving DecidableEq, Repr

/-- The status bit of a failure (R353). -/
def FabFail.bit : FabFail → Nat
  | .deadlink => 27 | .peerrst => 28 | .refused => 29 | .rfault => 30

/-- The failure that a NACK's reason names (R382). -/
def FabFail.ofReason : Nat → FabFail
  | 1 => .refused | 2 => .peerrst | _ => .rfault

/-- How a request ends: acknowledged, with data and group poison, with the status and elements of a reduction, or
failed. -/
inductive FabEnd where
  | ack
  | data (bytes : List Byte) (pois : BitVec 4)
  | result (aux : Word) (bytes : List Byte)
  | failed (f : FabFail)
deriving DecidableEq, Repr

/-- The bytes and poison that a read's end delivers (R382). -/
def FabEnd.bytes (n : Nat) : FabEnd → List Byte × BitVec 4
  | .data bs p => (bs, p)
  | _ => (List.replicate n 0#8, 15#4)

/-- Counts a failed store of an operation's owner in its next FENCE under the reason's bit (R382, R353). -/
def State.failCount (s : State) (x : Nat) : FabEnd → State
  | .failed f => s.countFail x 1 f.bit
  | _ => s

/-! ## Closing an entry (R379, R382) -/

/-- The result elements of an MLDR fill their slots: data, or poisoned zero (R393). -/
def State.fillElems (s : State) (ids : List Nat) (stamp : BitVec 32) (vs : List PVec) : State :=
  (ids.zip vs).foldl (fun t iv =>
    match t.elems.find? fun (e : Elem) => e.id == iv.1 with
    | none => t
    | some e =>
      let u := t.storeElem e.sp e.key iv.2.v iv.2.p stamp
      { u with elems := updWhere (fun (x : Elem) => x.id == e.id) (fun x => { x with arrived := true }) u.elems }.settle) s

/-- The result elements that a RESULT carries (R378: at most 256 bytes in a packet). -/
def resultVecs (bs : List Byte) : List PVec :=
  (List.range (max 1 (ceilDiv bs.length 256))).map fun i => ⟨vecOfBytes ((bs.drop (256 * i)).take 256), 0#4⟩

/-- The result elements of an MLDR that have come: they wait for the last one, since a path that fails before it makes all of
them zero and poisoned (R393). -/
def Op.results (o : Op) : List PVec := o.units.flatMap fun u => resultVecs u.2.1

/-- The end of an MLDR: its elements and its status word (R393). Two F32 elements come in two RESULTs (R378); the status
word is that of the last. -/
def State.endMldr (s : State) (o : Op) (stamp : BitVec 32) (ids : List Nat) (e : FabEnd) : State :=
  let bad (w : Word) : State := (s.fillElems ids stamp (ids.map fun _ => PVec.dead)).performed o (o.scalar w false)
  match e with
  | .result aux bs =>
    let w := aux &&& 0xFFFFFFFF0000FFFF#64
    if 2 ≤ bits aux 0 8 then bad w
    else
      let vs := o.results ++ resultVecs bs
      if vs.length < ids.length then s.setUnits o (SMap.put ([], false) o.units o.units.length (bs, false))
      else (s.fillElems ids stamp vs).performed o (o.scalar w false)
  | _ => bad 4#64

/-- The end of a request of an elastic operation (R382). -/
def State.endOp (s : State) (o : Op) (e : FabEnd) : State :=
  match o.kind with
  | .read _ z _ _ =>
    let r := e.bytes z
    s.performed o (o.scalar (toWord (leNat r.1)) (r.2 != 0#4))
  | .atom .. | .amxacc .. =>
    let r := e.bytes 8
    (s.failCount o.owner e).performed o (o.scalar (toWord (leNat r.1)) (r.2 != 0#4))
  | .mldr _ _ stamp ids => s.endMldr o stamp ids e
  | _ => (s.failCount o.owner e).performed o []

/-- A failed line of a Griddle command sets GSTAT.LOSS (R313). -/
def State.lineLoss (s : State) (id : Nat) : FabEnd → State
  | .failed _ => match s.cmds.find? fun (m : Cmd) => m.id == id with
    | some m => s.lossOf m
    | none => s
  | _ => s

/-- The end of a request that an entry stands for. -/
def State.endUse (s : State) (use : FabUse) (e : FabEnd) : State :=
  match use with
  | .op id => match s.ops.find? fun (o : Op) => o.id == id with
    | some o => s.endOp o e
    | none => s
  | .lineRead id va =>
    let r := e.bytes 64
    (s.lineLoss id e).updCmd id fun m => { m with got := m.got ++ [(va, r.1, r.2 != 0#4)], waiting := false }
  | .lineWrite id => match s.cmds.find? fun (m : Cmd) => m.id == id with
    | some m => ((s.lineLoss id e).failCount m.owner e).updCmd id fun m => { m with outs := m.outs.drop 1, waiting := false }
    | none => s
  | .elem id => match s.elems.find? fun (x : Elem) => x.id == id with
    | some x =>
      let r := e.bytes 256
      s.fillElems [id] x.stamp [⟨vecOfBytes r.1, r.2⟩]
    | none => s

/-- Does an entry stay open: a further RESULT of its MLDR is to come (R378, R393)? -/
def State.moreResults (s : State) (use : FabUse) : FabEnd → Bool
  | .result aux bs => decide (bits aux 0 8 < 2) && (match use with
    | .op id => s.ops.any fun o => o.id == id && (match o.kind with
      | .mldr _ _ _ ids => decide ((o.results ++ resultVecs bs).length < ids.length)
      | _ => false)
    | _ => false)
  | _ => false

/-- Closes an open entry with its end (R379). -/
def State.closeEntry (s : State) (q : OpenReq) (e : FabEnd) : State :=
  if s.moreResults q.use e then s.endUse q.use e
  else (s.updFab fun u => { u with entries := u.entries.filter fun x => x.tag != q.tag }).endUse q.use e

/-! ## Sending (R372, R375, R379, R380, R383) -/

/-- What a requester hands to the fabric unit: the request's OP, target, AUX, payload, poison and stamp. -/
structure FabReq where
  op : Byte
  target : Word
  aux : Word
  payload : List Byte
  pois : BitVec 4
  stamp : BitVec 32
deriving DecidableEq, Repr

/-- The AUX of a WRITE that carries no flag (assumption log 14). -/
def noFlag : Word := BitVec.allOnes 64

/-- The 64 B lines that a request touches at its target, with that of its flag word (R380); a contribution goes to a switch and
touches none (R393). -/
def FabReq.lines (r : FabReq) : List Word :=
  let n := if r.op = 2#8 then r.aux.toNat else if r.op = 3#8 then 8 else if r.op = 5#8 then 0 else r.payload.length
  ((unitsOf 6 r.target.toNat n).map fun u => toWord (64 * u))
    ++ if r.op = 1#8 ∧ r.aux ≠ noFlag then [toWord (64 * (r.aux.toNat / 64))] else []

/-- The lowest tag that no open entry uses. -/
def State.freeTag (s : State) : Nat :=
  ((List.range 1025).find? fun t => !s.fab.entries.any fun e => e.tag == t).getD 0

/-- Queues a packet at a port (R375). -/
def State.enqueue (s : State) (p : Nat) (w : Waiting) : State := s.updPort p fun x => { x with queue := x.queue ++ [w] }

/-- Does R380 hold a request back: an open request of the same context or engine overlaps it on another plane or phase? -/
def State.heldBack (s : State) (agent : Nat) (r : FabReq) (plane : Nat) (phase : Option Nat) : Bool :=
  s.fab.entries.any fun e => e.agent == agent && (e.plane != plane || e.phase != phase) && e.lines.any fun l => r.lines.contains l

/-- Sends a request for partition `part` (R379, R383): `route` is its plane and phase, none for the partition's default
plane; `group` is the reduction group of a contribution. The answer is `none` while it is held at the requester. Of two
causes of failure the first is named, in the order of the status word's bits (R354). -/
def State.sendReq (s : State) (use : FabUse) (agent part : Nat) (r : FabReq) (route : Option (Nat × Nat)) (group : Bool) :
    Option State :=
  let fp := s.reg 0 (0x970 + part)
  let plane := match route with | some x => x.1 | none => bits fp 56 5
  let phase := route.map (·.2)
  let pkg := bits r.target 51 9
  let peer := if group then none else some pkg
  let gone := !group && ((s.peer pkg).state != 1 || !(s.peer pkg).planes.getLsbD plane)
  let fail (f : FabFail) : Option State := some (s.endUse use (.failed f))
  if decide (1024 ≤ s.fab.entries.length) || s.heldBack agent r plane phase then none
  else match s.servingPort plane with
    | none => fail .deadlink
    | some p =>
      if gone || s.drained plane p peer || (route.isNone && !s.hasUnicast p pkg) then fail .deadlink
      else if !bitAt fp 63 || bits fp 0 32 == 0 then fail .refused
      else
        let tag := s.freeTag
        let pkt : Packet :=
          { op := r.op, sinc := s.ownInc, tinc := (s.peer pkg).inc, len := BitVec.ofNat 8 (ceilDiv r.payload.length 8),
            key := BitVec.ofNat 32 (bits fp 0 32), ts := r.stamp,
            route := BitVec.ofNat 32 (packFields [(27, plane), (15, phase.getD 0), (6, s.ownPkg)]),
            addr := r.target, aux := r.aux, payload := r.payload, poison := r.pois, tag := BitVec.ofNat 16 tag }
        let e : OpenReq := ⟨tag, use, plane, phase, peer, agent, r.lines, p⟩
        some ((s.updFab fun u => { u with entries := u.entries ++ [e] }).enqueue p ⟨pkt, false, phase, peer⟩)

/-- The code of a read-modify-write in an ATOMIC packet (assumption log 14). -/
def AtomOp.code : AtomOp → Nat
  | .add => 0 | .and => 1 | .or => 2 | .xor => 3 | .min => 4 | .max => 5 | .xch => 6 | .cas => 7 | .decp => 8

/-- The read-modify-write of a code; 9 is AMXACC, none for the rest. -/
def AtomOp.ofCode : Nat → Option AtomOp
  | 0 => some .add | 1 => some .and | 2 => some .or | 3 => some .xor | 4 => some .min | 5 => some .max | 6 => some .xch
  | 7 => some .cas | 8 => some .decp | _ => none

/-- The fabric stamp of an operation: its cycle plus the context's TSOFF (R147). -/
def State.opStamp (s : State) (o : Op) : BitVec 32 :=
  o.cyc.setWidth 32 + if isLadle o.agent then 0#32 else (s.ctx o.owner).y.tsoff

/-- The request that an operation on another package sends, with its route; none for an operation that stays here. -/
def State.opRequest (s : State) (o : Op) : Option (FabReq × Option (Nat × Nat) × Bool) :=
  let far (va : Word) : Bool := s.remoteLine va
  let st := s.opStamp o
  match o.kind with
  | .read [some (.glob va)] z _ _ => if far va then some (⟨2#8, va, toWord z, [], 0#4, st⟩, none, false) else none
  | .write [(.glob va, bs)] => if far va then some (⟨1#8, va, noFlag, bs, 0#4, st⟩, none, false) else none
  | .atom f (.glob va) z v w =>
    if far va then some (⟨3#8, va, v, natLe (f.code + 256 * z) 8 ++ natLe w.toNat 8, 0#4, st⟩, none, false) else none
  | .amxacc (.glob va) et line =>
    if far va then some (⟨3#8, va, 0#64, natLe (9 + 65536 * et) 8 ++ natLe 0 8 ++ line, 0#4, st⟩, none, false) else none
  | .send op t aux pl p stamp plane phase => some (⟨op, t, aux, pl, p, stamp⟩, some (plane, phase), false)
  | .mldr ctl pl stamp _ =>
    some (⟨5#8, 0#64, ctl, pl, 0#4, stamp⟩, some (bits ctl 59 5, bits ctl 47 12), true)
  | _ => none

/-- Sends the request of an operation (R379): it becomes `sent`, unless it failed at once or is held. -/
def State.sendOp (s : State) (o : Op) (r : FabReq) (route : Option (Nat × Nat)) (group : Bool) : State :=
  match (s.setPhase o .sent).sendReq (.op o.id) o.agent (s.ctx o.owner).y.part r route group with
  | none => s
  | some t => t

/-- Sends the next line of a command that lies in another package: a line of its source that has not been fetched, or
the oldest line that it has to write (R379). -/
def State.sendLine (s : State) (m : Cmd) (want : List Word) : State :=
  let stamp := m.cyc.setWidth 32 + (s.ctx m.owner).y.tsoff
  if m.waiting then s
  else match want.find? fun a => s.remoteLine a && !m.got.any fun g => g.1 == a with
    | some a =>
      let t := s.updCmd m.id fun x => { x with waiting := true }
      (t.sendReq (.lineRead m.id a) (8192 + m.id) m.part ⟨2#8, a, 64#64, [], 0#4, stamp⟩ none false).getD s
    | none =>
      match m.outs with
      | [] => s
      | l :: _ =>
        if !(decide (l.space = 0) && s.remoteLine (alignTo 64 l.va)) then s
        else
          let t := s.updCmd m.id fun x => { x with waiting := true }
          (t.sendReq (.lineWrite m.id) (8192 + m.id) m.part ⟨1#8, l.va, noFlag, l.bytes, if l.pois then 15#4 else 0#4, stamp⟩ none false).getD s

end Sys2Proof.Machine
end

