-- ==== Sys2Proof/Machine/FabricInstr.lean ====
section
/-! DEFINITION. The fabric instructions, class 111 rows 19 to 25 (14_athiyx_fabric.md R385 to R393), and the arrival of
channel elements (10_feeding_data.md R259, R295, R297; R389). -/

namespace Sys2Proof.Machine

/-! ## Fabric registers that FAB.STAT reads (R376, R392) -/

/-- PORTCFGn. -/
def State.portcfgWord (s : State) (p : Nat) : Word :=
  let x := s.port p
  toWord (packFields [(63, boolNat (s.portUp p)), (62, boolNat x.dead), (48, x.sport % 512), (32, x.dly % 4096),
    (0, bits (s.reg 0 (0x950 + p)) 0 5)])

/-- PEER of a package. -/
def State.peerWord (s : State) (pkg : Nat) : Word :=
  let x := s.peer pkg
  toWord (packFields [(62, x.state), (48, x.inc.toNat), (0, x.planes.toNat)])

/-- The register that a FAB.STAT selector names, none for one out of range (R392). -/
def State.fabStat (s : State) (v : Word) : Option Word :=
  let i := bits v 0 9
  if bits v 12 52 != 0 || bitAt v 9 then none
  else match bits v 10 2 with
    | 0 => if i = 0 then some (s.reg 0 0x940) else none
    | 1 => if i < 32 then some (s.portcfgWord i) else none
    | 2 => if i < 288 then some (s.peerWord i) else none
    | _ => if i = 0 then some (s.reg 0 0x947) else none

/-- FAB.STAT (R392). -/
def execFabStat (g : Guard) (d a : SReg) (s : State) : Out :=
  s.consuming g [a] none (match s.fabStat (s.rs a) with
    | some w => s.holdS 2 d w false
    | none => s.raise .illegal 0#64)

/-! ## Words (R385, R387) -/

/-- Is a target word ill-formed, of a KIND that is not listed, or of a package that may not be named (R387)? -/
def State.badTarget (s : State) (t : Word) (kinds : List Nat) : Bool :=
  let k := bits t 60 4
  !kinds.contains k || decide (287 < bits t 51 9) || s.ownPackage t
  || (decide (k = 1) && bits t 29 22 != 0) || (decide (k = 2) && bits t 26 22 != 0) || (decide (k = 3) && bits t 14 37 != 0)

/-- Is a flag word ill-formed, or on another package than the target (R385, R387)? -/
def State.badFlag (s : State) (f t : Word) : Bool := s.badTarget f [0, 2] || bits f 51 9 != bits t 51 9

/-- May a route not be used (R387): its phase, its plane under COLLCFG, and its slot-table entry where the plane has a
serving port? -/
def State.badRoute (s : State) (w : Word) (fits : BitVec 16 → Bool) : Bool :=
  let ph := bits w 47 12
  let cc := (s.ctx (s.ownerOf s.who)).y.collcfg
  decide (ph = 0) || decide (s.phases ≤ ph) || (bitAt cc 63 && !bitAt cc (bits w 59 5))
  || (match s.servingPort (bits w 59 5) with | some p => !fits (s.slotOf p ph) | none => false)

/-- May the issuer's channel not take a fabric receive (R387, R389, R391)? -/
def Chan.badFab (h : Chan) : Bool := !h.en || bits h.cfg 60 3 != 3

/-- R379: with every open entry in use the bundle stalls. -/
def State.entryStall (s : State) : State := if 1024 ≤ s.fab.entries.length then s.stallFor 5 else s

/-! ## SEND, SENDV, RRED (R388, R390) -/

/-- The request of a store-like fabric instruction: a release at POD when `rel` (R342, R388). -/
def State.sendInstr (s : State) (rel : Bool) (op : Byte) (t aux : Word) (bs : List Byte) (p : BitVec 4) (route : Word) : State :=
  s.entryStall.issueOp (.send op t aux bs p s.stampNow (bits route 59 5) (bits route 47 12)) none false false
    (if rel then some 6 else none)

/-- SEND (R388). -/
def execSend (g : Guard) (w : BitVec 2) (rel : Bool) (a b d : SReg) (s : State) : Out :=
  let z := 2 ^ w.toNat
  let t := s.rs a
  let f := s.rs d
  let r := s.rs (d + 1#5)
  s.consuming g [a, b, d, d + 1#5] none (
    if bits r 0 47 != 0 || s.badTarget t [0, 1, 2] || s.badFlag f t || s.badRoute r (fun e => slotUnicast e (bits t 51 9))
    then s.raise .illegal 0#64
    else s.sendInstr rel 1#8 (alignTo z t) (alignTo 8 f) (natLe (s.rs b).toNat z) 0#4 r)

/-- SENDV: the bytes and group poison of vB; a poisoned source is consumed (R278, R386, R388). -/
def execSendv (g : Guard) (rel : Bool) (a : SReg) (b : VReg) (d : SReg) (s : State) : Out :=
  let v := s.c.r.readV b.toNat
  let t := s.rs a
  let f := s.rs d
  let r := s.rs (d + 1#5)
  s.consuming g [a, d, d + 1#5] none (
    if v.p != 0#4 then s.raise .poison 0#64
    else if bits r 0 47 != 0 || s.badTarget t [0, 1, 2, 3] || s.badFlag f t || s.badRoute r (fun e => slotUnicast e (bits t 51 9))
    then s.raise .illegal 0#64
    else s.sendInstr rel 1#8 (if bits t 60 4 = 3 then t else alignTo 256 t) (alignTo 8 f) (vecBytes v.v) v.p r)

/-- RRED: a reduction at another package's SP (R390). -/
def execRred (g : Guard) (rel : Bool) (a : SReg) (b : VReg) (d : SReg) (s : State) : Out :=
  let v := s.c.r.readV b.toNat
  let t := s.rs a
  let c := s.rs d
  s.consuming g [a, d] none (
    if v.p != 0#4 then s.raise .poison 0#64
    else if bits c 0 35 != 0 || decide (5 < bits c 44 3) || s.badTarget t [2] || bits t 0 8 != 0
      || s.badRoute c (fun e => slotUnicast e (bits t 51 9))
    then s.raise .illegal 0#64
    else s.sendInstr rel 4#8 t c (vecBytes v.v) 0#4 c)

/-! ## RLD and MLDR (R389, R393) -/

/-- RLD: a command of the fabric unit that feeds the issuer's channel (R389). -/
def execRld (g : Guard) (a d : SReg) (s : State) : Out :=
  let t := s.rs a
  let c := s.rs d
  s.consuming g [a, d] none (
    if s.badTarget t [0, 2] || bits c 0 6 != 0 || ((s.ctx (s.ownerOf s.who)).chan (bits c 44 3)).badFab
      || s.badRoute c (fun e => slotUnicast e (bits t 51 9))
    then s.raise .illegal 0#64
    else s.entryStall.accept .fabric (coreOf s.who) (.rld g a d) (alignTo 256 t) c (s.stampNow.setWidth 64) 0#64 0 [])

/-- Reserves `n` result elements of an MLDR in channel `ch` of the issuer (R393). -/
def State.reserveResults (s : State) (ch : Nat) (stamp : BitVec 32) : Nat → State × List Nat
  | 0 => (s, [])
  | n + 1 =>
    let h := s.c.chan ch
    let e : Elem := ⟨s.serial, s.who, s.who, ch, h.inSp, chanKey s.who h h.ridx, 0, 0, 0, false, stamp, true, [], [], []⟩
    let t := { s with c := s.c.updChan ch Chan.reserve, elems := s.elems ++ [e] }.withSerial
    let r := State.reserveResults t ch stamp n
    (r.1, e.id :: r.2)

/-- MLDR: a contribution to a reduction group of the switch (R393). -/
def execMldr (g : Guard) (d : SReg) (a : VReg) (b : SReg) (s : State) : Out :=
  let v := s.c.r.readV a.toNat
  let c := s.rs b
  let ch := bits c 44 3
  let n := if bitAt c 43 then 1 else 2
  let h := s.c.chan ch
  let cc := s.c.y.collcfg
  s.consuming g [b] none (
    if v.p != 0#4 then s.raise .poison 0#64
    else if bits c 0 25 != 0 || h.badFab || s.badRoute c (fun e => slotReduce e (bits c 25 10))
      || (bitAt cc 63 && bits cc 32 10 != bits c 25 10)
    then s.raise .illegal 0#64
    else if h.size < (h.res - h.cons).toNat + n then s.stallFor 3
    else
      let r := s.entryStall.reserveResults ch s.stampNow n
      r.1.issueOp (.mldr c (vecBytes v.v) s.stampNow r.2) (some (.s d.toNat)) false false none)

/-! ## RECV (R391) -/

/-- The stamp of the head element of a channel of the issuing context (R468). -/
def State.headStamp (s : State) (n : Nat) : BitVec 32 :=
  let h := s.c.chan n
  SMap.at 0#32 (if h.inSp then s.spStamp else s.abStamp) (chanKey s.who h h.cidx / 256)

/-- RECV: pops the head when its stamp is the expected one, raises TSTAMP when it is not (R391). -/
def execRecv (g : Guard) (d : VReg) (n : BitVec 3) (a : SReg) (s : State) : Out :=
  let k := n.toNat
  s.consuming g [a] none (
    if (s.c.chan k).badFab then s.raise .illegal 0#64
    else
      let t := s.touchHead k
      let want := (s.rs a).setWidth 32
      if t.issue.stop.isSome || t.issue.stall.isSome then t
      else if t.headStamp k = want then t.holdV 2 d (t.headOf k)
      else s.raise .tstamp ((t.headStamp k).setWidth 64 <<< 32 ||| want.setWidth 64))

/-! ## Channel elements (R259, R389) -/

/-- May the next element of an RLD be requested: no earlier RLD of its agent is still requesting, and no earlier access
of the agent must come before it (R340, R389)? -/
def State.rldReady (s : State) (m : Cmd) (a : Word) : Bool :=
  !(s.cmds.any fun (x : Cmd) => x.unit == .fabric && x.agent == m.agent && decide (x.id < m.id))
  && !(s.ops.any fun (o : Op) => o.agent == m.agent && decide (o.id < m.id) && !o.done &&
    (o.acq || (o.phase != .sent && overlap o.kind.ranges [Loc.range 256 (.glob a)])))

/-- Requests the next element of an RLD: it is reserved, and its READ is sent (R389); both wait while the channel is
full or the request is held. -/
def State.rldNext (s : State) (m : Cmd) : State :=
  let va := m.a + intWord (signedOf 32 (bits m.b 0 32) * m.reserved)
  let done (t : State) : State :=
    if t.cmds.any fun (x : Cmd) => x.id == m.id && (x.discard || decide (bits x.b 32 12 + 1 ≤ x.reserved)) then
      { t with cmds := t.cmds.filter fun (x : Cmd) => x.id != m.id } else t
  if m.discard then done s
  else if !s.rldReady m va then s
  else
    let t := s.reserveNext m
    if t.serial = s.serial then done t
    else
      match t.sendReq (.elem s.serial) m.agent m.part ⟨2#8, va, 256#64, [], 0#4, m.d.setWidth 32⟩
          (some (bits m.b 59 5, bits m.b 47 12)) false with
      | some u => done u
      | none => s

/-- CHANNEL_ELEMENT_ARRIVAL: a reserved element arrives in its slot (R259); named by its command, the command's next
element is reserved when the channel has room. -/
def execChannelElementArrival (id : Nat) (s : State) : Out :=
  .next (match s.elems.find? fun (e : Elem) => e.id == id with
    | some e => if e.arrived || e.cmd == 0 || e.remote then s else s.arriveElem e
    | none =>
      match s.cmds.find? fun (m : Cmd) => m.id == id with
      | none => s
      | some m => if m.unit == .fabric then s.rldNext m else if s.cmdReady m then s.reserveNext m else s)

end Sys2Proof.Machine
end

