-- ==== Sys2Proof/Machine/FabricTarget.lean ====
section
/-! DEFINITION. Packets that arrive (14_athiyx_fabric.md R377 to R382, R388, R390, R393): the checks of a receiving port,
what a target performs, and the replies that close entries. -/

namespace Sys2Proof.Machine

/-! ## Checks and answers (R377, R378, R469) -/

/-- The source package of a packet. -/
def pktSrc (k : Packet) : Nat := natBits k.route.toNat 6 9

/-- The plane of a packet. -/
def pktPlane (k : Packet) : Nat := natBits k.route.toNat 27 5

/-- A saturating increment of the field of FABCNT at bit `lo` (R376). -/
def State.fabCount (s : State) (lo : Nat) : State :=
  let w := (s.reg 0 0x947).toNat
  s.setReg 0 0x947 (toWord (setBits w lo 16 (min 65535 (natBits w lo 16 + 1))))

/-- The local partition of a job key at a port: the lowest valid entry that holds it; key 0 never matches (R377). -/
def State.keyPart (s : State) (p : Nat) (key : BitVec 32) : Option Nat :=
  if key = 0#32 then none
  else ((List.range 16).find? fun i =>
      let e := SMap.at 0#64 (s.port p).members i
      bitAt e 63 && bits e 0 32 == key.toNat).map fun i => bits (SMap.at 0#64 (s.port p).members i) 56 4

/-- Answers a request on its plane; without a serving port the reply is discarded (R381, R469). -/
def State.reply (s : State) (k : Packet) (op : Byte) (reason : Nat) (payload : List Byte) (pois : BitVec 4) : State :=
  match s.servingPort (pktPlane k) with
  | none => s
  | some p =>
    let r : Packet :=
      { op := op, sinc := s.ownInc, tinc := k.sinc, len := BitVec.ofNat 8 (ceilDiv payload.length 8), key := k.key, ts := k.ts,
        route := BitVec.ofNat 32 (packFields [(27, (pktPlane k)), (6, s.ownPkg), (0, reason)]), addr := k.tag.setWidth 64,
        aux := 0#64, payload := payload, poison := pois, tag := k.tag }
    s.enqueue p ⟨r, true, none, some (pktSrc k)⟩

/-- NACK with a reason: 1 REFUSED, 2 PEERRST, 3 RFAULT (R382). -/
def State.nack (s : State) (k : Packet) (reason : Nat) : State := s.reply k 17#8 reason [] 0#4

/-- Is the source's incarnation the one last announced by a live peer (check 1 of R378)? -/
def State.liveSource (s : State) (k : Packet) : Bool := (s.peer (pktSrc k)).state == 1 && (s.peer (pktSrc k)).inc == k.sinc

/-- A request at port `p`: lost at a port out of service (R469), else the checks of R378 in order, then `f` with the local
partition. -/
def State.onRequest (s : State) (p : Nat) (k : Packet) (f : Nat → State) : Out :=
  .next (
    if !s.portInService p then s
    else if !s.liveSource k then s.fabCount 32
    else if k.tinc != s.ownInc then (s.fabCount 32).nack k 2
    else match s.keyPart p k.key with
      | none => (s.fabCount 48).nack k 1
      | some part => f part)

/-- A reply at port `p` (checks 1 and 4 of R378): it closes its entry with `e`. An entry of a contribution is answered
by the switch, which is no package (assumption log 14). -/
def State.onReply (s : State) (p : Nat) (k : Packet) (e : FabEnd) : Out :=
  let hit := s.fab.entries.find? fun (q : OpenReq) => q.tag == bits k.addr 0 16 && (q.peer.isNone || q.peer == some (pktSrc k))
  let fromSwitch := match hit with | some q => q.peer.isNone | none => false
  .next (
    if !s.portInService p then s
    else if !fromSwitch && !s.liveSource k then s.fabCount 32
    else match hit with
      | none => s.fabCount 16
      | some q => s.closeEntry q e)

/-! ## Performing at the target (R381) -/

/-- The requester of a fabric receive (R381): AGENT 5, CTX 0xFFFF, in the receiving partition. -/
def fabRecv (p part : Nat) : Req :=
  { part := part, sup := false, ctx := 0xFFFF, agent := 5, die := p / 16, lcc := 0#64, pc := 0#64, gang := 0 }

/-- The place of `z` bytes that a target word names (R385), or its fault with the record posted. -/
def State.targetLoc (s : State) (q : Req) (t : Word) (z : Nat) (write : Bool) : State × Option Loc :=
  let onDie (sp : Bool) (core : Nat) (va : Word) : State × Option Loc :=
    match s.placeAS false q.part core sp z va with
    | .ok k => (s, some (locAS sp k))
    | .error c => (s.postAccess q c (4 * boolNat write) (onDieAddr sp z va), none)
  match bits t 60 4 with
  | 0 => match s.resolve t q.part q.sup write with
    | (u, .ok (die, pa)) => (u, some (.phys die pa t))
    | (u, .error f) => (u.globFault q f t write, none)
  | 1 => onDie false (bits t 20 9) (toWord (bits t 0 20))
  | 2 => onDie true ((4 * bits t 50 1 + bits t 48 2) * 64) (toWord (bits t 0 26))
  | _ => (s.postAccess q 9 (4 * boolNat write) t, none)

/-- Writes a line's bytes at a place of the target. -/
def State.landLine (s : State) (l : Loc) (bs : List Byte) (p : Bool) : State :=
  match l with
  | .ab k => s.writeAS false k bs p 0
  | .sp k => s.writeAS true k bs p 0
  | .phys die pa _ => s.writeHbm 0 die pa bs p
  | .glob _ => s

/-- The pieces of at most 64 bytes of a request's data: offset and bytes. -/
def lineParts (bs : List Byte) : List (Nat × List Byte) :=
  (List.range (ceilDiv bs.length 64)).map fun i => (64 * i, (bs.drop (64 * i)).take 64)

/-- Does an access of `z` bytes fit its on-die space (R277, R381)? One that does not fails whole, with one record. -/
def State.targetFits (s : State) (q : Req) (t : Word) (z : Nat) (write : Bool) : State × Bool :=
  if bits t 60 4 = 0 then (s, true) else ((s.targetLoc q t z write).1, (s.targetLoc q t z write).2.isSome)

/-- Writes data with its group poison at a target, line by line; what was written before a fault stays (R381). -/
def State.targetWrite (s : State) (q : Req) (t : Word) (bs : List Byte) (pois : BitVec 4) : State × Bool :=
  (lineParts bs).foldl (fun (acc : State × Bool) c =>
    if !acc.2 then acc
    else match acc.1.targetLoc q (t + toWord c.1) c.2.length true with
      | (u, some l) => (u.landLine l c.2 (pois.getLsbD (c.1 / 64)), true)
      | (u, none) => (u, false)) (s.targetFits q t bs.length true)

/-- Reads `n` bytes at a target, with the poison of each line, or none for a fault. -/
def State.targetRead (s : State) (q : Req) (t : Word) (n : Nat) : State × Option (List Byte × BitVec 4) :=
  let r := (List.range (ceilDiv n 64)).foldl (fun (acc : State × Option (List Byte × List Bool)) i =>
    match acc.2 with
    | none => acc
    | some (bs, ps) =>
      let z := min 64 (n - 64 * i)
      match acc.1.targetLoc q (t + toWord (64 * i)) z false with
      | (u, some l) =>
        let (u, b, p) := u.readLoc q z (some l)
        (u, some (bs ++ b, ps ++ [p]))
      | (u, none) => (u, none)) (let f := s.targetFits q t n false; (f.1, if f.2 then some ([], []) else none))
  (r.1, r.2.map fun x => (x.1, groupMask fun g => x.2.getD g false))

/-- The record of poisoned memory under an atomic of the target (R381): the first read of a poisoned line of HBM has
posted it (R264). -/
def State.targetPoison (s t : State) (q : Req) (va : Word) : State :=
  if t.fltcnt != s.fltcnt then t
  else t.postFault q.part (recordBytes [(0, 1, 0x11), (1, 1, q.part), (2, 2, q.ctx), (4, 1, q.agent), (8, 8, va.toNat)])

/-- One AADD.D 1 at a flag word (R388): false for a fault or for poisoned memory. -/
def State.targetFlag (s : State) (q : Req) (flag : Word) : State × Bool :=
  match s.targetLoc q flag 8 true with
  | (u, none) => (u, false)
  | (u, some l) => match u.atomAt q .add l 8 1#64 0#64 with
    | (w, some _) => (w, true)
    | (w, none) => (u.targetPoison w q flag, false)

/-- A push of a fabric receive (R388): reserved and visible at once with its stamp, or refused with a CHANNEL record. -/
def State.targetPush (s : State) (q : Req) (t : Word) (v : PVec) (stamp : BitVec 32) : State × Bool :=
  let x := bits t 0 11
  let n := bits t 11 3
  let c := s.ctx x
  let h := c.chan n
  if c.st == .free || c.y.sup || c.y.part != q.part || h.badFab || h.full then
    (s.postAccess q 10 4 (toWord (9 * 2 ^ 60 + n * 2 ^ 11 + x)), false)
  else
    let key := chanKey x h h.ridx
    let e : Elem := ⟨s.serial, x, x, n, h.inSp, key, 0, 0, 0, true, stamp, true, [], [], []⟩
    let u := s.upd x fun c => c.updChan n Chan.reserve
    ((({ u with elems := u.elems ++ [e] }.withSerial).storeElem h.inSp key v.v v.p stamp).settle, true)

/-- Does a request write a page that is being migrated (R425)? -/
def State.targetHeld (s : State) (q : Req) (ts : List Word) : Bool :=
  ts.any fun t => decide (bits t 60 4 = 0) && s.lineHeld q t

/-- FABRIC_WRITE: the data, then the flag, then ACK (R388). -/
def execFabricWrite (p : Nat) (pkt : Packet) (s : State) : Out :=
  s.onRequest p pkt fun part =>
    let q := fabRecv p part
    if s.targetHeld q ([pkt.addr, pkt.addr + 192#64] ++ if pkt.aux = noFlag then [] else [pkt.aux]) then s
    else
      let (t, ok) :=
        if bits pkt.addr 60 4 = 3 then s.targetPush q pkt.addr ⟨vecOfBytes pkt.payload, pkt.poison⟩ pkt.ts
        else s.targetWrite q pkt.addr pkt.payload pkt.poison
      if !ok then t.nack pkt 3
      else if pkt.aux = noFlag then t.reply pkt 16#8 0 [] 0#4
      else match t.targetFlag q pkt.aux with
        | (u, true) => u.reply pkt 16#8 0 [] 0#4
        | (u, false) => u.nack pkt 3

/-- FABRIC_READ: the bytes and their poison in a DATA reply (R381). -/
def execFabricRead (p : Nat) (pkt : Packet) (s : State) : Out :=
  s.onRequest p pkt fun part =>
    match s.targetRead (fabRecv p part) pkt.addr (min 256 pkt.aux.toNat) with
    | (t, some (bs, ps)) => t.reply pkt 18#8 0 bs ps
    | (t, none) => t.nack pkt 3

/-- FABRIC_ATOMIC: one read-modify-write or AMXACC; the old value or status in a DATA reply (R356, R358, R381). -/
def execFabricAtomic (p : Nat) (pkt : Packet) (s : State) : Out :=
  s.onRequest p pkt fun part =>
    let q := fabRecv p part
    let code := (pkt.payload.getD 0 0#8).toNat
    let z := if code = 9 then 64 else (pkt.payload.getD 1 0#8).toNat
    let w := toWord (leNat ((pkt.payload.drop 8).take 8))
    if s.targetHeld q [pkt.addr] then s
    else match s.targetLoc q pkt.addr z true with
      | (t, none) => t.nack pkt 3
      | (t, some l) =>
        let r : State × Option Word :=
          if code = 9 then t.amxAt q l (pkt.payload.getD 2 0#8).toNat (pkt.payload.drop 16)
          else match AtomOp.ofCode code with
            | some f => let u := t.atomAt q f l z pkt.aux w; (u.1, u.2.map toWord)
            | none => (t, none)
        match r with
        | (u, some v) => u.reply pkt 18#8 0 (natLe v.toNat 8) 0#4
        | (u, none) => (t.targetPoison u q pkt.addr).nack pkt 3

/-- The element width in bytes of a reduce operation (R390). -/
def redWidth (op : Nat) : Nat := if op = 1 then 8 else if op = 5 then 2 else 4

/-- One new element of RRED (R390): floating sums round to nearest even without flush. -/
def redElem (op old x : Nat) : Nat :=
  let sum (f : FFmt) : Nat := f.encode .rne true false ((f.value old).add .rne (f.value x))
  match op with
  | 0 | 1 => (old + x) % 2 ^ (8 * redWidth op)
  | 2 => sum .f32
  | 3 => FFmt.pick .f32 true old x
  | 4 => FFmt.pick .f32 false old x
  | _ => sum .bf16

/-- A line of RRED: the new bytes from the old and the operand's (R390). -/
def redLine (op : Nat) (old x : List Byte) : List Byte :=
  let w := redWidth op
  (List.range (64 / w)).flatMap fun i =>
    natLe (redElem op (leNat ((old.drop (w * i)).take w)) (leNat ((x.drop (w * i)).take w))) w

/-- The lines of a reduce in ascending order; a fault or a poisoned line ends it (R381, R390). -/
def State.targetReduce (s : State) (q : Req) (t : Word) (op : Nat) (bs : List Byte) : State × Bool :=
  (lineParts bs).foldl (fun (acc : State × Bool) c =>
    if !acc.2 then acc
    else match acc.1.targetLoc q (t + toWord c.1) 64 true with
      | (u, none) => (u, false)
      | (u, some l) =>
        let (w, old, pois) := u.readLoc q 64 (some l)
        if pois then (u.targetPoison w q (onDieAddr true 64 (toWord (bits (t + toWord c.1) 0 26))), false)
        else (w.landLine l (redLine op old c.2) false, true)) (s.targetFits q t bs.length true)

/-- FABRIC_REDUCE: the reduction, then the signal, then ACK (R390). -/
def execFabricReduce (p : Nat) (pkt : Packet) (s : State) : Out :=
  s.onRequest p pkt fun part =>
    let q := fabRecv p part
    let cl := 4 * bits pkt.addr 50 1 + bits pkt.addr 48 2
    match s.targetReduce q pkt.addr (bits pkt.aux 44 3) pkt.payload with
    | (t, false) => t.nack pkt 3
    | (t, true) =>
      if !bitAt pkt.aux 43 then t.reply pkt 16#8 0 [] 0#4
      else match t.syncObj cl part (bits pkt.aux 35 8) with
        | some k => (t.syncAdd 0 k 1#32).reply pkt 16#8 0 [] 0#4
        | none => (t.postAccess q 11 0 (unmappedAddr cl (bits pkt.aux 35 8))).nack pkt 3

/-! ## Replies (R379, R382, R393) -/

/-- ACK (R379). -/
def execAck (p : Nat) (pkt : Packet) (s : State) : Out := s.onReply p pkt .ack

/-- NACK: the request fails for the reason that the packet names (R382). -/
def execNack (p : Nat) (pkt : Packet) (s : State) : Out :=
  s.onReply p pkt (.failed (FabFail.ofReason (natBits pkt.route.toNat 0 6)))

/-- DATA (R379). -/
def execData (p : Nat) (pkt : Packet) (s : State) : Out := s.onReply p pkt (.data pkt.payload pkt.poison)

/-- RESULT of a reduction group (R393). -/
def execResult (p : Nat) (pkt : Packet) (s : State) : Out := s.onReply p pkt (.result pkt.aux pkt.payload)

end Sys2Proof.Machine
end

