-- ==== Sys2Proof/Machine/FabricEvents.lean ====
section
/-! DEFINITION. Departures, slot tables, links, peers and drains (14_athiyx_fabric.md R370 to R376, R393 to R398, R469;
20_bringup_identity.md R463). -/

namespace Sys2Proof.Machine

/-! ## Departure (R370, R375) -/

/-- The lanes that a port uses: the lower of WIDTH and its record's CAP (R463). -/
def State.lanes (s : State) (p : Nat) : Nat := min (s.link (13 + p)).width (s.pan (1622 + p)).cap

/-- Does the port carry the phase (R370)? -/
def State.carries (s : State) (p ph : Nat) : Bool :=
  decide (0 < ph ∧ ph < s.phases) && (let c := s.lanes p; decide (c ≠ 0 ∧ ph % (4 / min 4 c) = 0))

/-- May a waiting packet depart at a phase (R375, R383): the phase that it names, or a phase whose entry is unicast to
its target; nothing departs on a path that is being drained (R396). -/
def State.mayDepart (s : State) (p ph : Nat) (w : Waiting) : Bool :=
  !s.drained (s.port p).plane p w.target
  && (match w.phase, w.target with
      | some n, _ => n == ph
      | none, some t => slotUnicast (s.slotOf p ph) t
      | none, none => false)

/-- The packet that departs: replies first, then requests, each in order of arrival (R375). -/
def State.nextOut (s : State) (p ph : Nat) : Option Waiting :=
  let ok := (s.port p).queue.filter (s.mayDepart p ph)
  (ok.find? fun w => w.reply).orElse fun _ => ok.head?

/-- PACKET_DEPART (R375). -/
def execPacketDepart (p ph : Nat) (s : State) : Out :=
  .next (
    if !s.portInService p || !s.carries p ph then s
    else match s.nextOut p ph with
      | none => s
      | some w =>
        let route := BitVec.ofNat 32 (setBits w.pkt.route.toNat 15 12 ph)
        (s.updPort p fun x => { x with queue := x.queue.erase w }).updFab fun u =>
          { u with sent := u.sent ++ [.packet p ph { w.pkt with route := route }] })

/-! ## Joins (R393) -/

/-- Sends the held joins whose plane has a serving port, again when `again` names their plane. -/
def State.sendJoins (s : State) (again : Option Nat) : State :=
  s.fab.joins.foldl (fun t j =>
    match s.servingPort j.plane with
    | none => t
    | some p =>
      if j.sent && again != some j.plane then t
      else t.updFab fun u =>
        { u with joins := u.joins.map (fun x => if x.plane == j.plane && x.group == j.group then { x with sent := true } else x),
                 sent := u.sent ++ [.join p j] }) s

/-- FABGRP_JOIN: a write of FABGRP (R393). -/
def execFabgrpJoin (x : Nat) (v : Word) (s : State) : Out :=
  .next (
    if !(s.ctx x).y.sup || !bitAt v 63 then s
    else
      let j : Join := ⟨bits v 58 5, bits v 48 10, bits v 40 8, bits v 0 16, false⟩
      (s.updFab fun u =>
        { u with joins := u.joins.filter (fun y => !(y.plane == j.plane && y.group == j.group)) ++ [j] }).sendJoins none)

/-! ## Records and updates (R395, R398) -/

/-- The fabric record of R398 with SLOT at T0: `die` receives it. -/
def State.fabRecordAt (s : State) (slot : Word) (die event plane pkg : Nat) (inc : Byte) : State :=
  s.post (32 + die) (recordBytes [(0, 1, 0x30), (2, 2, 0xFFFF), (4, 1, event), (5, 1, plane), (6, 2, pkg),
    (8, 8, slot.toNat), (16, 1, inc.toNat)])

/-- The fabric record of an event that happens now (R398). -/
def State.fabRecord (s : State) (die event plane pkg : Nat) (inc : Byte) : State :=
  (s.fabRecordAt (Config.slot s.tick) die event plane pkg inc).ticked

/-- A link-state update that this package originates (R395); it will not apply it again. -/
def State.announce (s : State) (plane : Nat) (ev : LinkEvent) (inc : Byte) : State × LinkUpdate :=
  let seq := s.ownPkg * 2 ^ 32 + s.fab.lsuSeq
  let u : LinkUpdate := ⟨seq, s.ownPkg, plane, ev, inc, Config.slot s.tick, none⟩
  (s.updFab fun f => { f with lsuSeq := f.lsuSeq + 1, lsuSeen := f.lsuSeen ++ [seq], lsuOut := f.lsuOut ++ [(u, 0)] }, u)

/-- Begins to drain a dead path (R396): round 1, with its update sent on again. -/
def State.drain (s : State) (peer plane port : Option Nat) (reset : Bool) (u : LinkUpdate) : State :=
  s.updFab fun f => { f with drains := f.drains ++ [⟨peer, plane, port, reset, 1, u, Config.slot s.tick⟩], lsuOut := f.lsuOut ++ [(u, 1)] }

/-- Declares the link of an own port dead (R395, R396, R463). -/
def State.declareDead (s : State) (p : Nat) : State :=
  let plane := (s.port p).plane
  let s1 := (s.updLink (13 + p) fun l => { l with state := 5 }).updPort p fun x => { x with dead := true }
  let (s2, u) := s1.announce plane .linkDown s.ownInc
  (s2.drain none none (some p) false u).fabRecord (p / 16) 1 plane s.ownPkg s.ownInc

/-- A whole peer is down (R395, R396). -/
def State.peerDown (s : State) (u : LinkUpdate) (reset : Bool) : State :=
  ((s.updPeer u.pkg fun x => { x with state := 2, planes := 0#32 }).drain (some u.pkg) none none reset u).fabRecord 0
    (if reset then 4 else 3) 0xFF u.pkg u.inc

/-- A peer is up in an incarnation; a live one of another incarnation has reset (R397). -/
def State.peerUp (s : State) (u : LinkUpdate) : State :=
  let old := s.peer u.pkg
  let t := if old.state == 1 && old.inc != u.inc then s.peerDown u true else s
  (t.updPeer u.pkg fun x => { state := 1, inc := u.inc, planes := x.planes ||| BitVec.twoPow 32 u.plane }).fabRecord 0 5 0xFF
    u.pkg u.inc

/-- Applies an update about a peer (R395): the peer table changes, and a declaration begins a drain. PEERDOWN follows
when its last plane goes down. -/
def State.applyPeer (s : State) (u : LinkUpdate) : State :=
  match u.event with
  | .linkDown =>
    let bit := BitVec.twoPow 32 u.plane
    let t := ((s.updPeer u.pkg fun x => { x with planes := x.planes &&& ~~~ bit }).drain (some u.pkg) (some u.plane) none false u).fabRecord
      0 1 u.plane u.pkg u.inc
    if (t.peer u.pkg).planes == 0#32 && (t.peer u.pkg).state == 1 then t.peerDown u false else t
  | .linkUp =>
    (s.updPeer u.pkg fun x => { x with planes := x.planes ||| BitVec.twoPow 32 u.plane }).fabRecord 0 2 u.plane u.pkg u.inc
  | .peerDownLink => s.peerDown u false
  | .peerDownReset => s.peerDown u true
  | .peerUp => s.peerUp u

/-- LSU: applied once, by its sequence number, and sent on at the next frame (R395); one that declares an own link
dead kills its port. -/
def execLsu (u : LinkUpdate) (s : State) : Out :=
  .next (
    if s.fab.lsuSeen.contains u.seq then s
    else
      let t := s.updFab fun f => { f with lsuSeen := f.lsuSeen ++ [u.seq], lsuOut := f.lsuOut ++ [(u, 0)] }
      if u.pkg ≠ s.ownPkg then t.applyPeer u
      else match u.event, t.servingPort u.plane with
        | .linkDown, some p => t.declareDead p
        | _, _ => t)

/-- LINK_DEAD: the data-link layer of a port gives up (R395). -/
def execLinkDead (p : Nat) (s : State) : Out := .next (if s.portUp p then s.declareDead p else s)

/-- LINK_RETRY: delays only (R394). -/
def execLinkRetry (p : Nat) (s : State) : Out := .next (if s.portUp p then s.fabCount 0 else s)

/-- Fails every open entry that meets a test (R396). -/
def State.failEntries (s : State) (f : FabFail) (hit : OpenReq → Bool) : State :=
  (s.fab.entries.filter hit).foldl (fun t q => t.closeEntry q (.failed f)) s

/-- Discards the packets that wait for a drained path; the requests among them fail with DEADLINK (R396). -/
def State.discardQueued (s : State) (d : Drain) : State :=
  (List.range 32).foldl (fun t p =>
    let x := t.port p
    let gone := x.queue.filter fun w => d.covers x.plane p w.target
    let u := if gone.isEmpty then t else t.updPort p fun x => { x with queue := x.queue.filter fun w => !d.covers x.plane p w.target }
    u.failEntries .deadlink fun q => gone.any fun w => !w.reply && w.pkt.tag.toNat == q.tag) s

/-- DRAIN_ROUND_EXPIRY: the round of drain `i` ends (R396, R398). -/
def execDrainRoundExpiry (i : Nat) (s : State) : Out :=
  .next (match s.fab.drains[i]? with
    | none => s
    | some d =>
      if d.round < 3 then
        let t := s.updFab fun f =>
          { f with drains := f.drains.set i { d with round := d.round + 1 }, lsuOut := f.lsuOut ++ [(d.lsu, d.round + 1)] }
        t.discardQueued d
      else
        let t := ((s.updFab fun f => { f with drains := f.drains.eraseIdx i }).discardQueued d).failEntries
          (if d.reset then .peerrst else .deadlink) fun q => d.covers q.plane q.port q.peer
        t.fabRecordAt d.slot (match d.port with | some p => p / 16 | none => 0) 6
          (match d.plane with | some p => p | none => if d.port.isSome then d.lsu.plane else 0xFF) d.lsu.pkg d.lsu.inc)

/-! ## Training (R463) -/

/-- LINK_TRAIN: LINKCTL with GO moves a port in OFF, FAILED or DEAD to TRAIN. -/
def execLinkTrain (x : Nat) (v : Word) (s : State) : Out :=
  let u := bits v 0 6
  .next (
    if !(s.ctx x).y.sup || !bitAt v 63 || decide (u < 13 ∨ 44 < u) then s
    else if [0, 4, 5].contains (s.link u).state then s.updLink u fun l => { l with state := 1 } else s)

/-- LINK_DOWN: LINKCTL with DOWN declares the link of an UP port dead locally (R396, R463). -/
def execLinkDown (x : Nat) (v : Word) (s : State) : Out :=
  let u := bits v 0 6
  .next (
    if !(s.ctx x).y.sup || !bitAt v 62 || decide (u < 13 ∨ 44 < u) then s
    else if s.portUp (u - 13) then s.declareDead (u - 13) else s)

/-- LINK_TRAINING_COMPLETE: training ends in UP, DEGRADED or FAILED and applies PORTCFG.PLANE (R463); the first port
announces the package with PEERUP, a later one its link (R395, R397). -/
def execLinkTrainingComplete (p state width sport dly : Nat) (s : State) : Out :=
  .next (
    if (s.link (13 + p)).state ≠ 1 ∨ state < 2 ∨ 4 < state then s
    else
      let s1 := s.updLink (13 + p) fun l => { state := state, width := width, retrain := min 65535 (l.retrain + 1) }
      if state = 4 then s1
      else
        let plane := bits (s.reg 0 (0x950 + p)) 0 5
        let s2 := s1.updPort p fun x => { x with dead := false, sport := sport, dly := dly, plane := plane }
        let first := !(List.range 32).any fun q => q != p && s.portUp q
        let s3 := (s2.announce plane (if first then .peerUp else .linkUp) s.ownInc).1
        let s4 := s3.fabRecord (p / 16) 2 plane s.ownPkg s.ownInc
        s4.sendJoins (if s4.servingPort plane = some p then some plane else none))

/-! ## FABID and slot tables (R373, R374, R376) -/

/-- FABID_WRITE: FL and INC take effect only while no port is UP (R376). -/
def execFabidWrite (x : Nat) (v : Word) (s : State) : Out :=
  .next (
    if !(s.ctx x).y.sup || (List.range 32).any s.portUp then s
    else
      let old := (s.reg 0 0x940).toNat
      let fl := bits v 32 4
      let w := setBits old 48 8 (bits v 48 8)
      s.setReg 0 0x940 (toWord (if 6 ≤ fl ∧ fl ≤ 12 then setBits w 32 4 fl else w)))

/-- TABLOAD: starts a load unless one is in progress (R374, R376). -/
def execTabload (x : Nat) (v : Word) (s : State) : Out :=
  .next (
    if !(s.ctx x).y.sup || s.fab.loading.isSome then s
    else s.updFab fun f => { f with loading := some (bits v 0 5) })

/-- Reads `n` lines of a table image in the supervisor's space; none for a fault, which posts nothing, or a poisoned line
(R374). -/
def State.readImage (s : State) (q : Req) (va : Word) : Nat → State × Option (List Byte)
  | 0 => (s, some [])
  | n + 1 =>
    if !s.ownPackage va then (s, none)
    else match s.readGlob q va 64 with
      | (t, .error _) => (t, none)
      | (t, .ok (bs, p)) =>
        if p then (t, none)
        else
          let r := State.readImage t q (va + 64#64) n
          (r.1, r.2.map fun m => bs ++ m)

/-- Is a table image refused: an entry of a reserved KIND, a PEER of 288 or more, or a first entry that is not 0 (R373)? -/
def badTable (es : List Nat) : Bool :=
  es.headD 0 != 0 || es.any fun e => decide (3 ≤ e / 2 ^ 14) || (decide (e / 2 ^ 14 = 1) && decide (288 ≤ e % 2 ^ 10))

/-- The 16-bit entries of an image. -/
def imageEntries (bs : List Byte) (n : Nat) : List Nat := (List.range n).map fun i => leNat ((bs.drop (2 * i)).take 2)

/-- TABLOAD_COMPLETE: the table waits for the next frame, or the load is refused as a whole (R373, R374). -/
def execTabloadComplete (s : State) : Out :=
  .next (match s.fab.loading with
    | none => s
    | some p =>
      let q : Req := { part := 0, sup := true, ctx := 0xFFFF, agent := 5, die := p / 16, lcc := 0#64, pc := 0#64, gang := 0 }
      let finish (t : State) (err : Bool) : State := t.updFab fun f => { f with loading := none, loadErr := err }
      match s.readImage q (s.reg 0 0x941) (s.phases / 32) with
      | (t, none) => finish t true
      | (t, some bs) =>
        let es := imageEntries bs s.phases
        if badTable es then finish t true
        else
          let tab := es.zipIdx.foldl (fun m e => SMap.put 0#16 m e.2 (BitVec.ofNat 16 e.1)) []
          finish (t.updPort p fun x => { x with next := some tab }) false)

/-- FRAME_BOUNDARY: loaded tables come into force, and link-state updates go out at phase 0, each on every plane but the one
that carried it here (R374, R395). -/
def execFrameBoundary (s : State) : Out :=
  let t := (List.range 32).foldl (fun t p => match (t.port p).next with
    | some tab => t.updPort p fun x => { x with table := tab, next := none }
    | none => t) s
  let planes := (List.range 32).filter fun q => (s.servingPort q).isSome
  .next (t.updFab fun f =>
    { f with lsuOut := [], sent := f.sent ++ f.lsuOut.flatMap fun u =>
      (planes.filter fun q => u.1.via != some q).map fun q => FabOut.lsu q u.2 { u.1 with via := some q } })

end Sys2Proof.Machine
end

