-- ==== Sys2Proof/Machine/SysRead.lean ====
section
/-! DEFINITION. What reads of system registers return (R148, R161, R162, R276 and the chapters that lay the registers
out), the effective feature masks, and the eligibility of cores (03_placing_work.md R55, R64). -/

namespace Sys2Proof.Machine

/-! ## Masks and eligibility (R55, R63, R64) -/

/-- The effective feature mask of a core (R55). -/
def State.effMask (s : State) (k : Nat) : Word :=
  let w := (s.pan (10 + k)).feat
  let off (w : Word) (i : Nat) (c : Bool) : Word := if c then w &&& ~~~ BitVec.twoPow 64 i else w
  if s.fenced (10 + k) || s.fenced (2 + clusterOf k) || s.fenced (dieOf k) then 0#64
  else
    let g := s.fenced (522 + octetOf k)
    let p := (List.range 32).all fun t => s.fenced (1622 + t)
    off (off (off (off (off (off w 3 g) 4 g) 5 (s.fenced (586 + 2 * k))) 6 (s.fenced (586 + 2 * k + 1))) 9 p) 10 p

/-- Is the core reserved for supervisor contexts (R63)? -/
def State.reserved (s : State) (k : Nat) : Bool := bitAt (s.reg 0 (0x8C0 + clusterOf k)) (k % 64)

/-- Is a partition in protected mode (R62)? -/
def State.protectedPart (s : State) (part : Nat) : Bool := bitAt (s.reg 0 (0x820 + part)) 63

/-- A member of a protected partition puts its pair in protected mode (R64). -/
def State.protectPair (s : State) (k part : Nat) : State :=
  if s.protectedPart part then s.updCore k fun c => { c with prot := true } else s

/-- Is one core eligible for a member of a partition with these features (R64)? -/
def State.coreEligible (s : State) (part : Nat) (feat : Word) (k : Nat) : Bool :=
  !s.fenced (10 + k) && !s.fenced (2 + clusterOf k) && !s.fenced (dieOf k)
  && bitAt (s.reg 0 (0x820 + part)) (48 + clusterOf k) && !s.reserved k && (feat &&& ~~~ s.effMask k) == 0#64

/-- Is a core, or the protected pair that begins with it, eligible (R64)? -/
def State.eligible (s : State) (part : Nat) (feat : Word) (k : Nat) : Bool :=
  if s.protectedPart part then k % 2 == 0 && s.coreEligible part feat k && s.coreEligible part feat (k + 1)
  else s.coreEligible part feat k

/-! ## Context registers (R161, R162, R405) -/

/-- Is a PANTRY event pending for a context (R59, R405, R427)? -/
def State.panPending (s : State) (x : Nat) : Bool :=
  let c := s.ctx x
  c.st != .free && !c.exiting && c.y.panv != s.svc.pantry.ver

/-- CTXCTL (R162). -/
def Ctx.ctxctl (c : Ctx) : Word := toWord (packFields [(7, boolNat c.y.sup), (6, boolNat c.e.hm), (0, boolNat c.y.chk)])

/-- SPAN (R162). -/
def Ctx.span (c : Ctx) : Word := toWord (packFields [(32, c.y.spanSize), (0, c.y.spanBase)])

/-- CTXID of context `x` (R162). -/
def Ctx.ctxid (c : Ctx) (x : Nat) : Word := toWord (packFields [(47, boolNat c.y.sup), (40, c.y.part), (0, x)])

/-- TVEC (R162). -/
def Exc.tvec (e : Exc) : Word := toWord (packFields [(63, boolNat e.tvecEn), (0, e.tvecOff.toNat)])

/-- ECAUSE (R162). -/
def Exc.ecause (e : Exc) : Word := toWord (packFields [(8, e.ecPos), (0, e.ecKind)])

/-- The stored bits of EVSTAT (R405). -/
def Exc.evstat (e : Exc) : Word := toWord (packFields [(2, boolNat e.thrn), (1, boolNat e.thr)])

/-- CHPTRn (R259). -/
def Chan.ptr (h : Chan) : Word := toWord (packFields [(32, h.res.toNat), (16, h.prod.toNat), (0, h.cons.toNat)])

/-- A ring's head register (R275). -/
def Ring.headWord (r : Ring) : Word := toWord (packFields [(48, r.drop.toNat), (24, r.tail.toNat), (0, r.head.toNat)])

/-- The operating point that a core runs at, and whether a change settles: ISSSTAT (R126). -/
def CoreSt.issstat (c : CoreSt) : Word :=
  toWord (packFields [(32, c.swcnt.toNat), (5, c.opcur.toNat), (4, boolNat c.settling.isSome), (0, c.lvl.toNat)])

/-- A register of context `x` itself, numbers 0x000 to 0x04F, with the partition's rings and the core's ISSSTAT. -/
def State.ctxReg (s : State) (x num : Nat) : Word :=
  let c := s.ctx x
  if 0x040 ≤ num ∧ num < 0x048 then (c.chan (num - 0x040)).cfg
  else if 0x048 ≤ num ∧ num < 0x050 then (c.chan (num - 0x048)).ptr
  else if 0x004 ≤ num ∧ num ≤ 0x006 then SMap.at 0#64 c.y.str (num - 3)
  else if 0x008 ≤ num ∧ num ≤ 0x00B then c.lcntOf (num - 8)
  else match num with
    | 0x000 => c.f.lcc
    | 0x001 => c.f.hcc
    | 0x002 => c.y.fcr
    | 0x003 => c.ctxctl
    | 0x007 => c.y.tsoff.setWidth 64
    | 0x010 => c.y.gidx
    | 0x011 => c.y.ctxfeat
    | 0x012 => toWord c.y.trbase
    | 0x013 => toWord c.y.trsize
    | 0x014 => c.y.panv.setWidth 64
    | 0x015 => c.span
    | 0x016 => c.ctxid x
    | 0x017 => c.y.collcfg
    | 0x018 => c.e.tvec
    | 0x019 => c.e.epc.setWidth 64
    | 0x01A => c.e.ecause
    | 0x01B => c.e.einfo
    | 0x020 => (s.ring c.y.part).reg
    | 0x021 => (s.ring (16 + c.y.part)).reg
    | 0x022 => (s.ring c.y.part).headWord
    | 0x023 => (s.ring (16 + c.y.part)).headWord
    | 0x024 => c.e.evstat ||| toWord (boolNat (s.panPending x))
    | 0x025 => s.pkgTime
    | 0x030 => (s.core (coreOf x)).issstat
    | 0x8C8 => c.y.synsel
    | _ => 0#64

/-! ## Package, die and core registers -/

/-- The queue with a number. -/
def State.queue (s : State) (q : Nat) : Queue := SMap.at Queue.reset s.svc.queues q

/-- PANCTL (R57). -/
def State.panctlWord (s : State) : Word :=
  let p := s.svc.pantry
  toWord (packFields [(63, boolNat (p.queue.any fun c => !c.hw)), (60, p.err), (0, p.ver.toNat)])

/-- BOOTSTAT (R451). -/
def State.bootstatWord (s : State) : Word := toWord (packFields [(60, s.svc.boot.stage), (48, s.svc.boot.err)])

/-- A core's test record. -/
def State.coreTest (s : State) (k : Nat) : CoreTest := SMap.at CoreTest.zero s.svc.tests k

/-- Has a core passed (PASS of R458)? -/
def CoreTest.pass (t : CoreTest) : Bool :=
  t.done && !t.overflow && !t.timeout && natBits t.bist.toNat 0 2 == 0 && natBits t.bist.toNat 5 3 == 0

/-- BOOTSUM (R458). -/
def CoreTest.bootsum (t : CoreTest) : Word :=
  toWord (packFields [(63, boolNat t.done), (62, boolNat t.pass), (61, boolNat t.overflow), (60, boolNat t.timeout), (32, t.fails),
    (8, t.nmarch), (0, t.bist.toNat)])

/-- REPSTAT (R457). -/
def CoreTest.repstat (t : CoreTest) : Word :=
  toWord (packFields [(17, boolNat t.overflow), (8, t.nmarch), (0, t.repairs.length)])

/-- LINKSTATu (R463). -/
def State.linkstatWord (s : State) (u : Nat) : Word :=
  let l := s.link u
  toWord (packFields [(60, l.state), (48, l.width), (32, l.retrain)])

/-- ERRCNT of the record that ERRSEL names (R417). -/
def State.errcntWord (s : State) : Word :=
  let r := bits (s.reg 0 0x9A0) 0 11
  let e := SMap.at ErrCount.zero s.svc.errs r
  toWord (packFields [(63, boolNat (SMap.at false s.svc.pantry.hwf r)), (32, e.ce), (0, e.ue)])

/-- The entry that SYNSEL names for SYNMAP. -/
def synmapKey (sel : Word) : Nat := (bits sel 28 3 * 16 + bits sel 12 4) * 256 + bits sel 0 8

/-- The object that SYNSEL names for SYNOBJ. -/
def synobjKey (sel : Word) : Nat := bits sel 28 3 * 256 + bits sel 20 8

/-- A bit for every partition that meets a test. -/
def partMask (f : Nat → Bool) : Word := toWord (packFields ((List.range 16).map fun n => (n, boolNat (f n))))

/-- MIGCTL (R424). -/
def MigUnit.word (m : MigUnit) : Word :=
  toWord (packFields [(63, boolNat m.run.isSome), (61, m.result)] + bits m.ctl 16 39 * 2 ^ 16)

/-- What a read of register `num` by context `x` returns (R148, R161). A write-only register reads as
zero (R12). -/
def State.sysRead (s : State) (x num : Nat) : Word :=
  let k := coreOf x
  let d := dieOf k
  if num < 0x800 ∨ num = 0x8C8 then s.ctxReg x num
  else if 0x850 ≤ num ∧ num < 0x870 then (s.ring (num - 0x850)).reg
  else if 0x8C0 ≤ num ∧ num < 0x8C8 then s.reg 0 num
  else if 0x900 ≤ num ∧ num < 0x920 then (s.ring (num - 0x900)).headWord
  else if 0x950 ≤ num ∧ num < 0x970 then s.portcfgWord (num - 0x950)
  else if 0xA20 ≤ num ∧ num < 0xA4E then s.linkstatWord (num - 0xA20)
  else match num with
    | 0x812 => s.panctlWord
    | 0x881 => let q := s.queue (bits (s.reg 0 0x880) 0 16); toWord (packFields [(40, q.part), (32, q.pmax)])
    | 0x883 => partMask fun n => SMap.at false s.svc.busy n
    | 0x890 => (s.ring (32 + d)).reg
    | 0x891 => (s.ring (32 + d)).headWord
    | 0x8C9 => let e := SMap.at 0 s.synmap (synmapKey (s.ctx x).y.synsel)
               toWord (packFields [(63, e / 256), (0, e % 256)])
    | 0x8CA => (SMap.at 0#32 s.sync (synobjKey (s.ctx x).y.synsel)).setWidth 64
    | 0x8CB => toWord (s.monitors.filter fun m => m.die == d).length
    | 0x8D5 => (SMap.at MigUnit.idle s.svc.migs d).word
    | 0x8D6 => (SMap.at MigUnit.idle s.svc.migs d).dst
    | 0x8D8 => s.reg d 0x8D8 ||| toWord (boolNat (SMap.at Placer.idle s.svc.placers d).replacing.isSome * 2 ^ 62)
    | 0x8F1 => toWord (min 255 (s.svc.tlbinv.filter fun t => t.die == d).length)
    | 0x942 => toWord (packFields [(63, boolNat s.fab.loading.isSome), (62, boolNat s.fab.loadErr)])
    | 0x944 => SMap.at 0#64 (s.port (bits (s.reg 0 0x943) 8 5)).members (bits (s.reg 0 0x943) 0 4)
    | 0x946 => s.peerWord (bits (s.reg 0 0x945) 0 9)
    | 0x9A1 => s.errcntWord
    | 0x9B1 => (s.ring (64 + d)).reg
    | 0x9B2 => (s.ring (64 + d)).headWord
    | 0xA00 => s.bootstatWord
    | 0xA01 => (s.coreTest k).bootsum
    | 0xA04 => (s.coreTest k).repstat
    | 0xA11 => toWord (packFields [(63, boolNat s.svc.boot.attBusy), (61, s.svc.boot.attErr)])
    | _ => match SysReg.row num with
      | some r => match r.scope with
        | .core => s.reg k num
        | .die => s.reg d num
        | _ => s.reg 0 num
      | none => 0#64

end Sys2Proof.Machine
end

