-- ==== Sys2Proof/Machine/Image.lean ====
section
/-! DEFINITION. The context image of CTX.SAVE and CTX.LOAD (15_interruptions.md R413): what each part of a context
writes at its offset, and the context that an image gives back. -/

namespace Sys2Proof.Machine

/-- The length of an image. -/
def imageLen : Nat := 40960

/-- A piece of an image: its offset and bytes. -/
abbrev Piece := Nat × List Byte

/-! ## Writing (R413) -/

/-- One bit for each of `n` registers. -/
def bitsOf (n : Nat) (f : Nat → Bool) : Nat := (List.range n).foldl (fun acc i => acc + boolNat (f i) * 2 ^ i) 0

/-- Four bits for each of `n` registers, from the first upward. -/
def nibblesOf (n : Nat) (f : Nat → BitVec 4) : Nat := (List.range n).foldl (fun acc i => acc + (f i).toNat * 2 ^ (4 * i)) 0

/-- The positions HELD, VALID and DOFF, 16 bytes each. -/
def positionPieces (a : Nat) (ps : List Position) : List Piece :=
  ps.zipIdx.map fun p => (a + 16 * p.2, natLe p.1.held.toNat 4 ++ natLe (boolNat p.1.valid) 4 ++ natLe p.1.doff.toNat 8)

/-- The eight positions of a control flow's table. -/
def allPositions (m : SMap Position) : List Position := (List.range 8).map fun i => SMap.at Position.zero m i

/-- A held entry's kind, destination, group poison and data (R413); none for what lands at its bundle's commit. What only
enters the ring is a vector entry of register 32 (assumption log 15). -/
def Landing.entry : Landing → Option (Nat × Nat × Nat × List Byte)
  | .vec r v p => some (1, r, p.toNat, vecBytes v)
  | .scal r v p => some (2, r, boolNat p, natLe v.toNat 8)
  | .pred r v p => some (3, r, boolNat p, natLe v.toNat 32)
  | .sys n v => some (4, n, 0, natLe v.toNat 8)
  | .fcr m v => some (4, 2, 0, natLe v.toNat 8 ++ natLe m.toNat 8)
  | .bind k t => some (5, k, 0, (t.header ++ List.replicate 32 0#8).take 32)
  | .pois k r on => some (6, r, 0, natLe k 1 ++ natLe (boolNat on) 1)
  | .store .. | .push .. | .ring => none

/-- The entry of a held result. -/
def Held.entry (h : Held) : Option (Nat × Nat × Nat × List Byte) :=
  match h.land, h.ring with
  | .ring, some v => some (1, 32, v.p.toNat, vecBytes v.v)
  | l, _ => l.entry

/-- The bytes of a held entry: tag and data. -/
def heldBytes (h : Held) (handler : Bool) : Option (Bool × List Byte) :=
  h.entry.map fun e =>
    (e.1 == 1, natLe e.1 2 ++ natLe e.2.1 2 ++ natLe h.pos 1
      ++ natLe (boolNat handler + 2 * boolNat h.ring.isSome + 4 * e.2.2.1) 1 ++ natLe 0 2 ++ natLe h.cyc.toNat 8 ++ e.2.2.2)

/-- The entries of a list, vector ones first: 272 bytes each from `v`, the others 48 bytes each from `o`. -/
def heldPieces (v o : Nat) (hs : List (Held × Bool)) : List Piece :=
  let bs := hs.filterMap fun h => heldBytes h.1 h.2
  let vs := (bs.filter (·.1)).map (·.2)
  let os := (bs.filter fun b => !b.1).map (·.2)
  (vs.zipIdx.map fun b => (v + 272 * b.2, b.1)) ++ os.zipIdx.map fun b => (o + 48 * b.2, b.1)

/-- The results that a context holds, with the handler flag: in handler mode its own, the interrupted code's, and the
interrupted code's arrivals, which land at the frozen LCC (R149, R413). -/
def Ctx.heldAll (c : Ctx) : List (Held × Bool) :=
  if !c.e.hm then c.f.pend.map fun h => (h, false)
  else (c.f.pend.map fun h => (h, true)) ++ (c.f.saved.pend.map fun h => (h, false))
    ++ c.f.saved.arrived.map fun h => (h, false)

/-- What CTX.SAVE keeps beside an image that lists `runs` Ladle runs (assumption log 15). -/
def Ctx.kept (c : Ctx) (runs : Nat) : Kept :=
  let now (q : SMap PVec) : SMap PVec := q.filter fun e => decide (e.1 < 4)
  ⟨c.f.blocked, c.f.saved.blocked, c.heldAll, now c.f.ring, now c.f.saved.ring, runs⟩

/-- Ring entries q0 to q15 as 4096 bytes, and their poison. -/
def ringBytes (m : SMap PVec) : List Byte := (List.range 16).flatMap fun q => vecBytes (SMap.at PVec.zero m (4 + q)).v

/-- The poison bits of ring entries. -/
def ringPois (m : SMap PVec) : List Byte := natLe (nibblesOf 16 fun q => (SMap.at PVec.zero m (4 + q)).p) 8

/-- The unreported failures and the summary of an acknowledgement (R154, R354). -/
def Sys.ackWord (y : Sys) : Nat :=
  packFields [(17, boolNat y.ackMask), (16, boolNat y.ackOwn), (8, y.ackNver.toNat), (0, y.ackKinds.toNat)]

/-- The header (R413). -/
def Ctx.headerPieces (c : Ctx) (x : Nat) : List Piece :=
  let hs := c.heldAll.filterMap fun h => heldBytes h.1 h.2
  [(0, natLe c.pcOff.toNat 4), (4, natLe (c.st.code + 8 * boolNat c.e.hm + 16 * boolNat c.y.sup) 4), (8, natLe c.f.lcc.toNat 8),
   (16, natLe c.f.hcc.toNat 8), (24, natLe c.e.epc.toNat 4), (28, natLe c.e.ecause.toNat 4), (32, natLe c.e.einfo.toNat 8),
   (40, natLe c.e.tvec.toNat 8), (48, natLe c.ctxctl.toNat 8), (56, natLe c.y.fcr.toNat 8),
   (64, (List.range 3).flatMap fun i => natLe (SMap.at 0#64 c.y.str (i + 1)).toNat 8), (88, natLe c.y.tsoff.toNat 4),
   (92, natLe c.y.opReq.toNat 1), (96, (List.range 4).flatMap fun i => natLe (c.lcntOf i).toNat 8), (128, natLe c.y.gidx.toNat 8),
   (136, natLe c.y.ctxfeat.toNat 8), (144, natLe c.y.panv.toNat 4), (148, natLe c.y.nfail.toNat 2), (150, natLe c.y.fstat.toNat 2),
   (152, natLe c.y.ackWord 8), (160, natLe c.span.toNat 8), (168, natLe (c.ctxid x).toNat 8), (176, natLe c.y.barWhole.toNat 4),
   (180, natLe c.y.barGrp.toNat 4), (184, natLe c.e.evstat.toNat 8), (192, natLe (hs.filter (·.1)).length 1),
   (193, natLe (hs.filter fun h => !h.1).length 1), (200, natLe c.y.energy.toNat 8), (208, natLe c.y.collcfg.toNat 8),
   (216, natLe (if c.y.sup then c.y.synsel.toNat else 0) 8), (224, natLe c.y.trbase 4), (228, natLe c.y.trsize 4),
   (232, natLe c.y.gang 8)]

/-- The table slots and channels (R413). -/
def Sys.unitPieces (y : Sys) : List Piece :=
  let code (t : TabState) : Nat := match t with | .unbound => 0 | .bound => 1 | .lost => 2
  ((List.range 4).flatMap fun k =>
    let t := SMap.at TabSlot.none y.tabs k
    [(0x400 + 64 * k, natLe (code t.st) 1), (0x404 + 64 * k, natLe (t.off % 2 ^ 32).toNat 4), (0x408 + 64 * k, t.header.take 32)])
  ++ (List.range 8).flatMap fun n =>
    let h := SMap.at Chan.zero y.chans n
    [(0x500 + 16 * n, natLe h.cfg.toNat 8 ++ natLe h.ptr.toNat 8),
     (0x580 + 8 * n, natLe h.ridx 2 ++ natLe h.vidx 2 ++ natLe h.cidx 2)]

/-- The queued Ladle runs of a context, with the number of their Ladle in the core. -/
def runPieces (runs : List (Nat × LadRun)) : List Piece :=
  runs.zipIdx.map fun r =>
    (0x600 + 32 * r.2, natLe r.1.1 1 ++ natLe 0 7 ++ natLe r.1.2.a.toNat 8 ++ natLe r.1.2.b.toNat 8 ++ natLe r.1.2.d.toNat 8)

/-- A Ladle's checkpoint at `a`, for a Ladle that serves the context (R257, R413); `base` is the context's span. -/
def ladlePieces (a : Nat) (base : Word) (c : Ctx) : List Piece :=
  [(a, (List.range 32).flatMap fun i => natLe (c.r.readS i).toNat 8),
   (a + 256, (List.range 8).flatMap fun i => natLe (c.r.readP i).toNat 32),
   (a + 512, natLe (bitsOf 32 c.r.poisS) 4 ++ natLe (bitsOf 8 c.r.poisP) 1),
   (a + 528, (List.range 4).flatMap fun i => natLe (c.lcntOf i).toNat 8),
   (a + 560, natLe (c.f.pc - base).toNat 8 ++ natLe c.f.lcc.toNat 8 ++ natLe 1 1)]
  ++ positionPieces (a + 640) ([0, 1, 6, 7].map fun i => c.f.position i)
  ++ heldPieces (a + 704) (a + 704) (c.f.pend.map fun h => (h, false))

/-- The whole image of a context with its Ladles' checkpoints and queued runs. -/
def Ctx.image (c : Ctx) (x : Nat) (lads : List (Option Ctx)) (runs : List (Nat × LadRun)) : List Piece :=
  let r := c.r
  c.headerPieces x ++ c.y.unitPieces ++ runPieces runs
  ++ (lads.zipIdx.flatMap fun l => match l.1 with
      | some k => ladlePieces (0x800 + 0x400 * l.2) (toWord c.y.spanBase) k
      | none => [])
  ++ [(0x100, (List.range 32).flatMap fun i => natLe (r.readS i).toNat 8),
      (0x200, (List.range 8).flatMap fun i => natLe (r.readP i).toNat 32),
      (0x300, natLe (bitsOf 32 r.poisS) 4 ++ natLe (bitsOf 8 r.poisP) 1),
      (0x308, natLe (nibblesOf 32 fun i => (r.readV i).p) 16 ++ ringPois c.f.ring),
      (0x1000, (List.range 32).flatMap fun i => vecBytes (r.readV i).v), (0x3000, ringBytes c.f.ring)]
  ++ positionPieces 0x340 (allPositions c.f.pos) ++ heldPieces 0x4000 0x7740 c.heldAll
  ++ (if c.e.hm then
      (0x8000, ringBytes c.f.saved.ring) :: (0x9080, ringPois c.f.saved.ring) :: positionPieces 0x9000 (allPositions c.f.saved.pos)
      else [])

/-! ## Reading (R413) -/

/-- An `n`-byte field of an image. -/
def imNat (m : Mem) (a n : Nat) : Nat := Mem.read m a n

/-- A word of an image. -/
def imWord (m : Mem) (a : Nat) : Word := Mem.word m a

/-- The registers of an image: scalars at `s`, predicates at `p`, their poison at `q`. -/
def imRegs (m : Mem) (s p q : Nat) : Regs :=
  let r := (List.range 32).foldl (fun r i => Regs.writeS r i (imWord m (s + 8 * i)) ((imNat m q 4).testBit i)) Regs.zero
  (List.range 8).foldl (fun r i => Regs.writeP r i (BitVec.ofNat 256 (imNat m (p + 32 * i) 32)) ((imNat m (q + 4) 1).testBit i)) r

/-- The vector registers of an image. -/
def imVecs (m : Mem) (r : Regs) : Regs :=
  (List.range 32).foldl (fun r i =>
    r.writeV i (vecOfBytes (Mem.bytes m (0x1000 + 256 * i) 256)) (BitVec.ofNat 4 (natBits (imNat m 0x308 16) (4 * i) 4))) r

/-- A ring of an image, with its poison at `q`. -/
def imRing (m : Mem) (a q : Nat) : SMap PVec :=
  (List.range 16).foldl (fun t i =>
    SMap.put PVec.zero t (4 + i) ⟨vecOfBytes (Mem.bytes m (a + 256 * i) 256), BitVec.ofNat 4 (natBits (imNat m q 8) (4 * i) 4)⟩) []

/-- Positions of an image: their numbers. -/
def imPositions (m : Mem) (a : Nat) (ps : List Nat) : SMap Position :=
  ps.zipIdx.foldl (fun t p =>
    let b := a + 16 * p.2
    SMap.put Position.zero t p.1 ⟨Mem.word32 m b, (imNat m (b + 4) 4).testBit 0, imWord m (b + 8)⟩) []

/-- A held entry of an image, with its handler flag; none for an empty one. A result of 32 bytes enters the ring as its
instruction expands it (R120). -/
def imHeld (tick : Nat) (m : Mem) (a : Nat) : Option (Held × Bool) :=
  let d := imNat m (a + 2) 2
  let fl := imNat m (a + 5) 1
  let p := natBits fl 2 4
  let v := imWord m (a + 16)
  let vec := vecOfBytes (Mem.bytes m (a + 16) 256)
  let pred := BitVec.ofNat 256 (imNat m (a + 16) 32)
  let all : BitVec 4 := if p.testBit 0 then 15#4 else 0#4
  let ring : PVec := match imNat m a 1 with
    | 2 => ⟨v.setWidth 2048, all⟩
    | 3 => ⟨predRing pred, all⟩
    | _ => ⟨vec, BitVec.ofNat 4 p⟩
  let land : Option Landing := match imNat m a 1 with
    | 1 => some (if 32 ≤ d then .ring else .vec d vec (BitVec.ofNat 4 p))
    | 2 => some (.scal d v (p.testBit 0))
    | 3 => some (.pred d pred (p.testBit 0))
    | 4 => some (if d = 2 then .fcr (imWord m (a + 24) &&& fcrMask 15#4) v else .sys d v)
    | 5 =>
      let hd := Mem.bytes m (a + 16) 32
      some (.bind d (if hd.all (· == 0#8) then TabSlot.none
        else ⟨.bound, Config.bindOffset tick a, hd, (SegHeader.of hd).bytes, none⟩))
    | 6 => some (.pois (imNat m (a + 16) 1) d ((imNat m (a + 17) 1).testBit 0))
    | _ => none
  land.map fun l => (⟨imWord m (a + 8), imNat m (a + 4) 1, l, if fl.testBit 1 then some ring else none⟩, fl.testBit 0)

/-- The held entries of an image's area of `n` entries of `len` bytes, vector ones or the others: an entry that stands as
CTX.SAVE wrote it is the result that CTX.SAVE kept. -/
def imHelds (tick : Nat) (kept : List (Held × Bool)) (vec : Bool) (m : Mem) (a n len : Nat) : List (Held × Bool) :=
  let ks := kept.filterMap fun h => (heldBytes h.1 h.2).bind fun b => if b.1 == vec then some (h, b.2) else none
  (List.range n).filterMap fun i =>
    match ks[i]? with
    | some k => if Mem.bytes m (a + len * i) k.2.length == k.2 then some k.1 else imHeld tick m (a + len * i)
    | none => imHeld tick m (a + len * i)

/-- The channels of an image. -/
def imChans (m : Mem) : SMap Chan :=
  (List.range 8).foldl (fun t n =>
    let p := imWord m (0x508 + 16 * n)
    SMap.put Chan.zero t n
      { cfg := imWord m (0x500 + 16 * n) &&& 0xFC0FFFFF00001FFF#64, res := BitVec.ofNat 16 (bits p 32 16), prod := BitVec.ofNat 16 (bits p 16 16),
        cons := BitVec.ofNat 16 (bits p 0 16), ridx := imNat m (0x580 + 8 * n) 2, vidx := imNat m (0x582 + 8 * n) 2,
        cidx := imNat m (0x584 + 8 * n) 2 }) []

/-- The table slots of an image. -/
def imTabs (m : Mem) : SMap TabSlot :=
  (List.range 4).foldl (fun t k =>
    let a := 0x400 + 64 * k
    let st : TabState := match imNat m a 1 with | 0 => .unbound | 1 => .bound | _ => .lost
    SMap.put TabSlot.none t k ⟨st, signedOf 32 (imNat m (a + 4) 4), Mem.bytes m (a + 8) 32, 0, none⟩) []

/-- The system state of an image; reserved bits of its registers stay zero (R12). -/
def imSys (m : Mem) : Sys :=
  let sup := (imNat m 4 4).testBit 4
  let ack := imNat m 152 8
  { sup := sup, chk := (imNat m 48 8).testBit 0, fcr := imWord m 56 &&& fcrMask 15#4,
    str := (List.range 3).foldl (fun t i => SMap.put 0#64 t (i + 1) (imWord m (64 + 8 * i))) [],
    tsoff := BitVec.ofNat 32 (imNat m 88 4), gidx := imWord m 128 &&& 0x0FFFFE00FFFFFFFF#64, collcfg := imWord m 208 &&& 0x800003FFFFFFFFFF#64, ctxfeat := imWord m 136,
    trbase := imNat m 224 4, trsize := imNat m 228 4, panv := BitVec.ofNat 32 (imNat m 144 4),
    spanBase := natBits (imNat m 160 8) 0 18, spanSize := natBits (imNat m 160 8) 32 19, part := natBits (imNat m 168 8) 40 4,
    opReq := BitVec.ofNat 3 (imNat m 92 1), energy := imWord m 200, barWhole := BitVec.ofNat 32 (imNat m 176 4),
    barGrp := BitVec.ofNat 32 (imNat m 180 4), nfail := BitVec.ofNat 16 (imNat m 148 2), fstat := BitVec.ofNat 5 (imNat m 150 2),
    ackMask := ack.testBit 17, ackOwn := ack.testBit 16, ackNver := BitVec.ofNat 8 (natBits ack 8 8),
    ackKinds := BitVec.ofNat 8 (natBits ack 0 8), synsel := if sup then imWord m 216 &&& 0x7FF0F0FF#64 else 0#64,
    gang := if sup then 0 else imNat m 232 8, stop := none, chans := imChans m, tabs := imTabs m, tokWait := false, hung := false }

/-- The context of an image: PREEMPTED (R159); `loops` is its gang's loop table, `kept` what CTX.SAVE kept beside the
image. -/
def imCtx (tick : Nat) (m : Mem) (loops : SMap Word) (kept : Kept) : Ctx :=
  let y := imSys m
  let hm := (imNat m 4 4).testBit 3
  let hs := imHelds tick kept.held true m 0x4000 52 272 ++ imHelds tick kept.held false m 0x7740 46 48
  let mine := (hs.filter fun h => h.2 == hm).map (·.1)
  let old := (hs.filter fun h => !h.2).map (·.1)
  let frozen (h : Held) : Bool := h.cyc == imWord m 8
  { st := .preempted, exiting := false, r := imVecs m (imRegs m 0x100 0x200 0x300), y := y,
    f :=
      { pc := toWord y.spanBase + toWord (imNat m 0 4), lcc := imWord m 8, hcc := imWord m 16, ring := kept.ring ++ imRing m 0x3000 0x318,
        pos := imPositions m 0x340 (List.range 8), pend := mine,
        saved := if hm then
            ⟨kept.ringBefore ++ imRing m 0x8000 0x9080, imPositions m 0x9000 (List.range 8), old.filter fun h => !frozen h,
              old.filter frozen, kept.before⟩
          else Saved.none,
        blocked := kept.blocked, lcnt := (List.range 4).foldl (fun t i => SMap.put 0#64 t i (imWord m (96 + 8 * i))) [], loops := loops },
    e :=
      { hm := hm, tvecEn := (imNat m 40 8).testBit 63, tvecOff := BitVec.ofNat 18 (imNat m 40 8) &&& 0x3FFFC#18, epc := BitVec.ofNat 32 (imNat m 24 4),
        ecPos := imNat m 29 1, ecKind := imNat m 28 1, einfo := imWord m 32, thrn := (imNat m 184 8).testBit 2,
        thr := (imNat m 184 8).testBit 1, thrEvent := none } }

/-- A Ladle's checkpoint from an image at `a`, none when its serving flag is clear; its run's loop levels are the
context's (R298). -/
def imLadle (tick : Nat) (m : Mem) (a : Nat) (base : Word) (loops : SMap Word) : Option Ctx :=
  if imNat m (a + 576) 1 = 0 then none
  else some
    { Ctx.reset with
      st := .running, r := imRegs m a (a + 256) (a + 512),
      f := { Flow.zero with
        pc := base + imWord m (a + 560), lcc := imWord m (a + 568), pos := imPositions m (a + 640) [0, 1, 6, 7],
        pend := (imHelds tick [] false m (a + 704) 6 48).map (·.1),
        lcnt := (List.range 4).foldl (fun t i => SMap.put 0#64 t i (imWord m (a + 528 + 8 * i))) [], loops := loops } }

/-- The queued runs of an image for context `x`, with their Ladles: as many as CTX.SAVE listed, and those past them that are
not all zero (assumption log 15). -/
def imRuns (m : Mem) (x runs : Nat) : List (Nat × LadRun) :=
  ((List.range 8).filter fun i => decide (i < runs) || imNat m (0x600 + 32 * i) 32 != 0).map fun i =>
    let a := 0x600 + 32 * i
    (imNat m a 1 % 2, ⟨x, imWord m (a + 8), imWord m (a + 16), imWord m (a + 24), 0⟩)

/-- The bytes of an image from its pieces. -/
def imageMem (ps : List Piece) : Mem := ps.foldl (fun m p => Mem.setBytes m p.1 p.2) []

end Sys2Proof.Machine
end

