-- ==== Sys2Proof/Machine/Preempt.lean ====
section
/-! DEFINITION. Pre-emption, resumption, CTX.SAVE and CTX.LOAD (06_scalar_control_system.md R158, R159;
15_interruptions.md R408 to R414; 09_segment_tables.md R236). -/

namespace Sys2Proof.Machine

/-- The status word of R158 and R159. -/
def statusWord (code : Nat) (st : CtxState) : Word := toWord (packFields [(8, st.code), (0, code)])

/-- Ends a supervisor instruction with its status. -/
def State.endStatus (s : State) (o : Op) (code x : Nat) : State :=
  s.performed o (o.scalar (statusWord code (s.ctx x).st) false)

/-- Is the gang of a context in rollback, or its partition in reset? -/
def State.inTransit (s : State) (x : Nat) : Bool :=
  let y := (s.ctx x).y
  (match s.gang y.gang with | some g => g.rollback.isSome | none => false) || (!y.sup && SMap.at false s.svc.busy y.part)

/-! ## PREEMPT (R158) -/

/-- Resumes one target and answers its code: it becomes RUNNING when its core is eligible (R73, R158, R160). -/
def State.resumeOne (s : State) (x : Nat) : State × Nat :=
  let c := s.ctx x
  let run (t : State) : State := (t.upd x fun c => { c with st := .running }).retarget (coreOf x)
  if c.y.sup then
    if c.st == .halted || c.st == .suspended then (run s, 0) else (s, 2)
  else if !(c.st == .preempted || c.st == .suspended) || s.inTransit x then (s, 2)
  else if !s.eligible c.y.part c.y.ctxfeat (coreOf x) then (s, 3)
  else (run s, 0)

/-- Requests a STOP of one target: the answer is its code and whether it is RUNNING and awaited (R158). One that is leaving
by EXIT is awaited until it is FREE. -/
def State.stopOne (s : State) (x us : Nat) : State × Nat × Bool :=
  let c := s.ctx x
  if c.y.sup then (s, 1, false)
  else if c.st != .running then (s, 2, false)
  else
    let q := match c.y.stop with
      | some r => { r with forced := r.forced || us == 0 }
      | none => ⟨us == 0, false⟩
    (s.upd x fun c => { c with y := { c.y with stop := some q } }, 0, true)

/-- PREEMPT as its operation is performed (R158). A context that has stopped is seen so once its release at DIE scope has
been performed (R340, R343). -/
def State.doPreempt (s : State) (o : Op) (mode x us : Nat) (gang : Bool) : State :=
  let c := s.ctx x
  let ts := if gang && !(s.gangContexts c.y.gang).isEmpty then s.gangContexts c.y.gang else [x]
  if ts.any fun m => (s.ctx m).st != .running && s.unreleased m then s
  else if c.y.sup && gang then s.endStatus o 1 x
  else match mode with
    | 2 => s.endStatus o 0 x
    | 1 =>
      let r := ts.foldl (fun (acc : State × Nat) m => let u := acc.1.resumeOne m; (u.1, max acc.2 u.2)) (s, 0)
      r.1.endStatus o r.2 x
    | _ =>
      let r := ts.foldl (fun (acc : State × Nat × List Nat) m =>
        let u := acc.1.stopOne m us
        (u.1, max acc.2.1 u.2.1, if u.2.2 then acc.2.2 ++ [m] else acc.2.2)) (s, 0, [])
      if r.2.2.isEmpty then r.1.endStatus o r.2.1 x
      else
        { r.1 with ops := updWhere (fun (p : Op) => p.id == o.id) (fun p => { p with kind := .stop r.2.2 x r.2.1, phase := .armed }) r.1.ops }

/-- PREEMPT_DEADLINE: the STOP pending for a context pre-empts by force (R158). -/
def execPreemptDeadline (x : Nat) (s : State) : Out :=
  .next (match (s.ctx x).y.stop with
    | some q => if q.atPpt then s else s.upd x fun c => { c with y := { c.y with stop := some { q with forced := true } } }
    | none => s)

/-- PREEMPTION_COMPLETE: a STOP taken at a PPT once the context's Griddle commands have completed, with a void ring, or
a forced one, with the ring kept (R408, R409). Becoming PREEMPTED is a release at DIE scope, which follows the accesses that
it orders (R340, R343). -/
def execPreemptionComplete (x : Nat) (s : State) : Out :=
  .next (match (s.ctx x).y.stop with
    | none => s
    | some q =>
      if (s.ctx x).st != .running || (s.ctx x).exiting || s.unreleased x then s
      else if q.atPpt then
        let busy := s.cmds.any fun (m : Cmd) => m.owner == x && (match m.unit with | .griddle _ => true | _ => false)
        if busy then s else (s.upd x fun c => { c with f := { c.f with ring := [] } }).stopCtx x .preempted
      else if q.forced then s.stopCtx x .preempted
      else s)

/-! ## CTX.SAVE (R159, R413, R414) -/

/-- Is the command a GRD.MUL that takes its A data from a channel (R330)? -/
def Cmd.popsChannel (m : Cmd) : Bool :=
  match m.instr with
  | .grdMul .. => bitAt m.d 63
  | _ => false

/-- Is a GRD.MUL waiting for channel elements that nothing is bringing (R330)? -/
def State.starved (s : State) (m : Cmd) : Bool :=
  let ch := bits m.d 60 3
  let h := (s.ctx m.owner).chan ch
  m.popsChannel && h.prod == h.cons && !(s.elems.any fun (e : Elem) => e.ctx == m.owner && e.ch == ch)

/-- Has everything left that CTX.SAVE waits for (R414, steps 2 and 3)? An accepted GRD.MUL takes the channel elements that it has
before they leave with the context (R310). -/
def State.saveReady (s : State) (x : Nat) : Bool :=
  !(s.ops.any fun (o : Op) => o.agent == x) && !(s.elems.any fun (e : Elem) => e.ctx == x)
  && !(s.cmds.any fun (m : Cmd) => m.owner == x && (m.feed.isSome || (m.popsChannel && !s.starved m)))

/-- A GRD.MUL whose channel leaves the core before its elements have come is abandoned, as R311 abandons one (log 33). -/
def State.dropStarved (s : State) (x : Nat) : State :=
  let gone := s.cmds.filter fun (m : Cmd) => m.owner == x && s.starved m
  gone.foldl (fun t m => { t.lossOf m with cmds := t.cmds.filter fun (c : Cmd) => c.id != m.id }) s

/-- The queued Ladle runs of a context, with the number of their Ladle in the core. -/
def State.runsOf (s : State) (x : Nat) : List (Nat × LadRun) :=
  [0, 1].flatMap fun j => ((s.ladle (2 * coreOf x + j)).runs.filter fun r => r.ctx == x).map fun r => (j, r)

/-- What is kept beside the image of a context (assumption log 15). -/
def State.keptOf (s : State) (x : Nat) : Kept := (s.ctx x).kept (s.runsOf x).length

/-- The image of a context as it stands (R413). -/
def State.imageOf (s : State) (x : Nat) : Mem :=
  let k := coreOf x
  let lads := [2 * k, 2 * k + 1].map fun l => if (s.ladle l).serving = some x then (s.ladle l).ckpt else none
  imageMem ((s.ctx x).image x lads (s.runsOf x))

/-- The second core of a pair holds copies of the first one's buffers, bundles and tables (R65); they are written as the pair
leaves protected mode, since until then no access reaches them (log 33). -/
def State.mirrorPair (s : State) (k : Nat) : State :=
  { s with
    ab := s.ab.copyUp 6 (k * 2 ^ 20) (2 ^ 20), sp := s.sp.copyUp 6 (k * 2 ^ 20) (2 ^ 20),
    tmem := s.tmem.copyUp 4 (k * 2 ^ 16) (2 ^ 16), imem := s.imem.copyUp 2 (k * 2 ^ 18) (2 ^ 18),
    abStamp := SMap.copyUp 0#32 s.abStamp (k * 2 ^ 12) (2 ^ 12), spStamp := SMap.copyUp 0#32 s.spStamp (k * 2 ^ 12) (2 ^ 12),
    abMark := SMap.copyUp 0 s.abMark (k * 2 ^ 14) (2 ^ 14), spMark := SMap.copyUp 0 s.spMark (k * 2 ^ 14) (2 ^ 14) }

/-- A free context keeps its registers until the next one is placed (R71, R437); nothing else of it stands. -/
def Ctx.freed (c : Ctx) : Ctx := { Ctx.reset with r := c.r }

/-- Frees a context; a pair leaves protected mode once all eight of its contexts are free (R64, R65). -/
def State.freeCtx (s : State) (x : Nat) : State :=
  let m := coreOf x / 2 * 2
  let t := s.upd x Ctx.freed
  if (t.core m).prot && (List.range 8).all fun j => (t.ctx (4 * m + j)).st == .free then
    (t.updCore m fun c => { c with prot := false }).mirrorPair m
  else t

/-- Takes a context off its core: FREE, its Ladles idle, its lease gone (R159, R427). -/
def State.vacate (s : State) (x : Nat) : State :=
  let k := coreOf x
  let s1 := [2 * k, 2 * k + 1].foldl (fun t l =>
    let u := t.updLadle l fun y => { y with runs := y.runs.filter (fun r => r.ctx != x), faults := y.faults.filter fun f => f.1 != x }
    if (u.ladle l).serving = some x then u.endRun l else u) s
  (((((s1.dropStarved x).expireLease x .none).releaseMarks x).freeMonitors x).freeCtx x).retarget k

/-- What tells one image from another: all of it but SPAN, TRBASE and TRSIZE, which a supervisor changes to bring the context to
another place. -/
def imageKey (m : Mem) : Mem := m.filter fun c => !decide (160 ≤ c.1 ∧ c.1 < 168) && !decide (224 ≤ c.1 ∧ c.1 < 232)

/-- Keeps beside the image what it has no place for (log 15), and for a member that it is saved, with its energy (R413, R434). -/
def State.keepWaits (s : State) (x : Nat) (m : Mem) : State :=
  let c := s.ctx x
  let r := bits c.y.gidx 41 9
  let t := s.updSvc fun v => { v with kept := (imageKey m, s.keptOf x) :: v.kept.filter fun e => e.1 != imageKey m }
  if c.y.sup then t
  else t.updGang c.y.gang fun g =>
    { g with saved := SMap.put 0#64 g.saved r c.y.energy, members := g.members.map fun m => if m.1 == r then (r, 0xFFFF) else m }

/-- What CTX.SAVE has kept beside an image, wherever it stands now. -/
def State.keptFor (s : State) (m : Mem) : Kept := ((s.svc.kept.find? fun e => e.1 == imageKey m).map (·.2)).getD Kept.none

/-- Where the `n` lines from an address lie, each translated once for a write; none when one cannot be written. -/
def State.placeLines (s : State) (q : Req) (va : Word) : Nat → State × Option (List (Nat × Nat))
  | 0 => (s, some [])
  | n + 1 =>
    if !s.ownPackage va then (s, none)
    else match s.resolveFor q va true with
      | (t, .error _) => (t, none)
      | (t, .ok p) =>
        let r := State.placeLines t q (va + 64#64) n
        (r.1, r.2.map fun l => p :: l)

/-- Writes an image line by line; false when a line cannot be written, and then nothing is (R159). -/
def State.writeImage (s : State) (q : Req) (va : Word) (m : Mem) : State × Bool :=
  match s.placeLines q va (imageLen / 64) with
  | (t, none) => (t, false)
  | (t, some ps) => (ps.zipIdx.foldl (fun t p => t.writeHbm q.gang p.1.1 p.1.2 (Mem.bytes m (64 * p.2) 64) false) t, true)

/-- Is any line of an image on a page that is being migrated (R425)? -/
def State.imageHeld (s : State) (q : Req) (va : Word) : Bool :=
  s.svc.migs.any (fun e => e.2.run.isSome) && (List.range (imageLen / 64)).any fun i => s.lineHeld q (va + toWord (64 * i))

/-- CTX.SAVE as its operation proceeds: it leaves waits, waits for what is outstanding, writes the image and frees the
context (R414). -/
def State.ctxSaveStep (s : State) (o : Op) (x : Nat) (va : Word) : State :=
  let c := s.ctx x
  if s.pairSecond (coreOf x) then s.endStatus o 1 x
  else if !(c.st == .preempted || c.st == .suspended) || s.inTransit x then s.endStatus o 2 x
  else
    let t := s.leaveWait x
    let q := t.reqOfOp o
    if !t.saveReady x || t.imageHeld q va then t
    else
      let u := [2 * coreOf x, 2 * coreOf x + 1].foldl (fun t l => if (t.ladle l).serving = some x then t.rewindLadle l else t) t
      match u.writeImage q va (u.imageOf x) with
      | (v, false) => v.endStatus o 6 x
      | (v, true) => ((v.keepWaits x (u.imageOf x)).vacate x).endStatus o 0 x

/-! ## CTX.LOAD (R159, R236, R413) -/

/-- The table slots of a context that comes to core `k`: a BOUND slot stays bound only if the bytes at its offset equal
its latched header (R236). -/
def State.judgeTabs (s : State) (k : Nat) (y : Sys) : Sys :=
  { y with tabs := y.tabs.map fun t =>
      if t.2.st != .bound then t
      else
        let hd := Mem.bytes s.tmem.bytes (k * 2 ^ 16 + ((y.trbase : Int) + t.2.off).toNat) 32
        (t.1, if hd == t.2.header then { t.2 with len := (SegHeader.of t.2.header).bytes } else { t.2 with st := .lost }) }

/-- Reads the lines of an image; none for a fault or poison (R159). -/
def State.readLines (s : State) (q : Req) (va : Word) : Nat → State × Option (List Byte)
  | 0 => (s, some [])
  | n + 1 =>
    if !s.ownPackage va then (s, none)
    else match s.readGlob q va 64 with
      | (t, .error _) => (t, none)
      | (t, .ok (bs, p)) =>
        if p then (t, none)
        else
          let r := State.readLines t q (va + 64#64) n
          (r.1, r.2.map fun m => bs ++ m)

/-- Why an image may not be loaded into context `x`, as the code of R159; 0 for none. -/
def State.loadRefusal (s : State) (x : Nat) (m : Mem) : Nat :=
  let y := imSys m
  let k := coreOf x
  let prot := !y.sup && s.protectedPart y.part
  let cores := if prot then [k, k + 1] else [k]
  let lad (j : Nat) : Bool := imNat m (0x800 + 0x400 * j + 576) 1 != 0 && (s.ladle (2 * k + j)).serving.isSome
  let gone := match s.gang y.gang with
    | none => true
    | some g => g.rollback.isSome || !g.members.contains (bits y.gidx 41 9, 0xFFFF)
  if cores.any fun c => (y.ctxfeat &&& ~~~ s.effMask c) != 0#64 then 5
  else if cores.any fun c => y.sup != s.reserved c then 7
  else if !y.sup && gone then 8
  else if (bitAt y.ctxfeat 3 && s.hasGrdOwner k) || lad 0 || lad 1 || (prot && (k % 2 == 1 || (s.ctx (x + 4)).st != .free))
      || (!y.sup && !prot && (s.core (k / 2 * 2)).prot) then 2
  else 0

/-- Places an image in context `x` (R159, R413): Ladles at their checkpoints, runs queued, the lease EXPIRED. -/
def State.placeImage (s : State) (x : Nat) (m : Mem) (kept : Kept) : State :=
  let k := coreOf x
  let g := (imSys m).gang
  let loops : SMap Word := match s.gang g with
    | some gg => gg.loops.zipIdx.foldl (fun t e => SMap.put 0#64 t e.2 e.1) []
    | none => []
  let c0 := imCtx s.tick m loops kept
  let c := { c0 with y := s.judgeTabs k c0.y }
  let s1 := (s.setCtx x c).ticked
  let s2 := [0, 1].foldl (fun t j =>
    match imLadle s.tick m (0x800 + 0x400 * j) (toWord c.y.spanBase) loops with
    | none => t
    | some lc =>
      let l := 2 * k + j
      (t.setCtx (2048 + l) lc).updLadle l fun d =>
        { d with serving := some x, stopping := false, ckpt := some lc, ckBundle := d.bundle, snaps := [] }) s1
  let s3 := (imRuns m x kept.runs).foldl (fun t r => t.updLadle (2 * k + r.1) fun d => { d with runs := d.runs ++ [r.2] }) s2
  let s4 := if bitAt c.y.ctxfeat 3 then s3.updGriddle k fun d => { d with lease := .expired, requesting := false } else s3
  let s5 := if c.y.sup then s4 else s4.protectPair k c.y.part
  (s5.retarget k).updGang g fun gg =>
    { gg with members := gg.members.map fun e => if e.1 == bits c.y.gidx 41 9 then (e.1, x) else e,
              saved := SMap.put 0#64 gg.saved (bits c.y.gidx 41 9) 0#64 }

/-- CTX.LOAD as its operation is performed (R159). -/
def State.ctxLoadStep (s : State) (o : Op) (x : Nat) (va : Word) : State :=
  if s.pairSecond (coreOf x) then s.endStatus o 1 x
  else if (s.ctx x).st != .free then s.endStatus o 2 x
  else match s.readLines (s.reqOfOp o) va (imageLen / 64) with
    | (t, none) => t.endStatus o 6 x
    | (t, some bs) =>
      let m := imageMem [(0, bs)]
      let code := t.loadRefusal x m
      if code ≠ 0 then t.endStatus o code x
      else
        (t.placeImage x m (t.keptFor m)).endStatus o 0 x

end Sys2Proof.Machine
end

