-- ==== Sys2Proof/Machine/Perform.lean ====
section
/-! DEFINITION. ACCESS_PERFORMED (13_synchronisation_and_consistency.md R339 to R342): one unit of an elastic operation, of an
engine command's line or of a channel element is carried out, or a line of another package is sent for; and GRIDDLE_COMMAND_COMPLETE (12_griddle.md R311 to
R335). -/

namespace Sys2Proof.Machine

/-! ## Operations -/

/-- Performs an operation of this package by its kind. -/
def State.performOp (s : State) (o : Op) : State :=
  match o.kind with
  | .read ls z vec d => s.doRead o ls z vec d
  | .write ws => s.doWrite o ws
  | .atom f l z v w => s.doAtom o f l z v w
  | .amxacc l et line => s.doAmx o l et line
  | .fence _ => s.doFence o
  | .waitv va z v => if o.phase == .armed then s else s.doWaitv o va z v
  | .notify all va => s.doNotify o all va
  | .synAdd obj v => s.doSynAdd o obj v
  | .synWait obj v => s.doSynWait o obj v
  | .synGet obj => s.doSynGet o obj
  | .signal obj code part gang sup => s.doSignal o obj code part gang sup
  | .bar grp gen => s.doBar o grp gen
  | .panAck => s.doPanAck o
  | .panRead r sel => s.doPanRead o r sel
  | .sftLoad dst units => s.doSftLoad o dst units
  | .sftChk w => s.performed o (o.scalar w false)
  | .lease | .grdChk _ => s
  | .grdStat core clr _ => s.doGrdStat o core clr
  | .preempt mode x us gang => s.doPreempt o mode x us gang
  | .stop ts x worst => if ts.isEmpty && !s.unreleased x then s.endStatus o worst x else s
  | .ctxSave x va => s.ctxSaveStep o x va
  | .ctxLoad x va => s.ctxLoadStep o x va
  | .send .. | .mldr .. => s
  | .record ring rec => (s.postRing ring rec).performed o []
  | .release => s.performed o []

/-- Does an operation of a Ladle wait for a committed push or the end of the run (R410)? -/
def Op.heldByRun (o : Op) : Bool :=
  match o.kind with
  | .synAdd .. | .signal .. => !o.ready
  | _ => false

/-- One operation proceeds: when R340 allows it and no migration holds it (R425), a unit of it is performed (R339), or it is
sent to its package (R379). -/
def State.advanceOp (s : State) (o : Op) : State :=
  if o.phase == .performed || o.phase == .sent || o.heldByRun || !s.mayPerform o || s.opHeld o then s
  else match s.opRequest o with
    | some (r, route, group) => s.sendOp o r route group
    | none => s.performOp o

/-- The global line that a command reads next: of a copy, or of a GRD.REST (R295, R334). -/
def Cmd.nextLine (m : Cmd) : List Word :=
  match m.instr with
  | .grdRest .. => if bits m.d 62 2 = 0 ∧ m.prog < saveLineCount m.d then [alignTo 64 (m.a + toWord (64 * m.prog))] else []
  | _ =>
    if m.prog < m.lineCount then
      match (m.job m.prog).src with
      | some (0, va) => [alignTo 64 va]
      | _ => []
    else []

/-- Is the command in the queue of an octet's Griddle? -/
def Cmd.inOctet (m : Cmd) (o : Nat) : Bool := m.unit == .griddle o

/-- Is the command the oldest of its Griddle's queue (R311)? -/
def State.oldestGrd (s : State) (m : Cmd) : Bool :=
  match m.unit with
  | .griddle o => ((s.cmds.find? fun (x : Cmd) => x.inOctet o).map Cmd.id) == some m.id
  | _ => true

/-- A command goes on (R295, R303, R313, R339): the next line of another package is sent or sent for (R379), or a unit of its
line in progress is performed. A command starts under the order of R292. -/
def State.advanceCmd (s : State) (m : Cmd) : State :=
  let far (va : Word) : Bool := s.remoteLine va && !m.got.any fun g => g.1 == va
  let out := match m.outs with | o :: _ => decide (o.space = 0) && s.remoteLine (alignTo 64 o.va) | [] => false
  if m.unit == .fabric || !s.cmdReady m || s.cmdHeld m || !s.oldestGrd m || m.waiting then s
  else if out then s.sendLine m []
  else if m.outs.isEmpty && !m.acted && m.nextLine.any far then s.sendLine m m.nextLine
  else match m.unit with
    | .griddle _ => s.grdStep m
    | _ => if m.feed.isSome || m.acted && m.outs.isEmpty then s else s.lineUnit m

/-- A channel element on its way: its next line of another package is sent for, or a unit of it is read (R295, R297, R339). -/
def State.advanceElem (s : State) (e : Elem) (m : Cmd) : State :=
  if e.remote || s.cmdHeld m then s
  else if (m.elemLines e.k).any fun a => s.remoteLine a && !m.got.any fun g => g.1 == a then s.sendLine m (m.elemLines e.k)
  else s.elemStep m e

/-- ACCESS_PERFORMED: a unit of operation, command or element `id`, or its next line of another package (R339). -/
def execAccessPerformed (id : Nat) (s : State) : Out :=
  .next (match s.ops.find? fun (o : Op) => o.id == id with
    | some o => s.advanceOp o
    | none => match s.cmds.find? fun (m : Cmd) => m.id == id with
      | some m => s.advanceCmd m
      | none => match s.elems.find? fun (e : Elem) => e.id == id && !e.arrived with
        | none => s
        | some e => match s.cmds.find? fun (m : Cmd) => m.id == e.cmd with
          | some m => s.advanceElem e m
          | none => s)

/-! ## Griddle commands (R311, R333) -/

/-- GRIDDLE_COMMAND_COMPLETE: the oldest command of octet `o` has its effects (R311); each row that GRD.CHK finds
mismatched counts one error event of the GRIDDLE record (R333). A GRD.MUL that lacks channel elements keeps its progress. -/
def execGriddleCommandComplete (o : Nat) (s : State) : Out :=
  .next (match s.cmds.find? fun (m : Cmd) => m.inOctet o with
    | none => s
    | some m =>
      if !s.cmdReady m || s.cmdHeld m then s
      else if m.acted then (s.finishLine m.id (8 * m.outs.length + 8)).finishCmd m
      else if s.restFar m then s
      else
        let r := s.grdEffect m
        let t := r.1.countUE (522 + o) r.2.2 0#64
        if r.2.1 then t.finishCmd m else t)

/-- Abandons the accepted commands of an octet: they signal nothing (R311). -/
def State.abandonGriddle (s : State) (o : Nat) : State :=
  let gone := s.cmds.filter fun (m : Cmd) => m.inOctet o
  let stuck (p : Op) : Bool := match p.kind with | .grdChk c => gone.any fun m => m.id == c | _ => false
  let t := gone.foldl (fun t m => t.lossOf m) s
  let ended := t.ops.filter stuck
  let t := { t with cmds := t.cmds.filter fun (m : Cmd) => !m.inOctet o }
  ended.foldl (fun t p => t.performed p []) t

end Sys2Proof.Machine
end

