-- ==== Sys2Proof/Machine/Launch.lean ====
section
/-! DEFINITION. Launching work: the host port, the work queues, graph images and the graph walker
(01_describing_work.md R27 to R33, 02_launching_work.md R35 to R50). -/

namespace Sys2Proof.Machine

/-! ## Reading the description of work (R27 to R32) -/

/-- The requester of a launch unit's or placer's accesses: agent 6, no context (R274). -/
def launchReq (die part : Nat) : Req :=
  { part := part, sup := false, ctx := 0xFFFF, agent := 6, die := die, lcc := 0#64, pc := 0#64, gang := 0 }

/-- Whole lines from a global address of this package; none once a line faults or is poisoned. A fault posts its record
(R70, R272). DESIGN CHOICE (log 41): an address of another package is not read and posts no record; no rule gives a launch
unit a route through the fabric. -/
def State.fetchLines (s : State) (q : Req) (a : Word) : Nat → State × Option (List Byte)
  | 0 => (s, some [])
  | n + 1 =>
    if !s.ownPackage a && bits a 60 4 == 0 then (s, none)
    else match s.readGlob q a 64 with
      | (t, .error f) => (t.globFault q f a false, none)
      | (t, .ok (bs, p)) =>
        if p then (t, none)
        else
          let r := State.fetchLines t q (a + 64#64) n
          (r.1, r.2.map fun m => bs ++ m)

/-- `n` bytes from a global address. -/
def State.fetchSpan (s : State) (q : Req) (va : Word) (n : Nat) : State × Option (List Byte) :=
  if n = 0 then (s, some [])
  else
    let o := bits va 0 6
    let r := s.fetchLines q (va - toWord o) (ceilDiv (o + n) 64)
    (r.1, r.2.map fun bs => (bs.drop o).take n)

/-- A little-endian field of an image. -/
def fieldAt (bs : List Byte) (off n : Nat) : Nat := leNat ((bs.drop off).take n)

/-- Cuts an image into `n` pieces of `len` bytes. -/
def cut (len : Nat) : Nat → List Byte → List (List Byte)
  | 0, _ => []
  | n + 1, bs => bs.take len :: cut len n (bs.drop len)

/-- A node record (R28). -/
def GNode.of (b : List Byte) : GNode :=
  { kind := fieldAt b 0 1, prio := fieldAt b 1 1, npred := fieldAt b 4 2, nsucc := fieldAt b 6 2, succ := fieldAt b 8 4,
    obj := toWord (fieldAt b 16 8), param := toWord (fieldAt b 24 8),
    w := (List.range 4).map fun i => toWord (fieldAt b (32 + 8 * i) 8) }

/-- Does a node run as a gang? -/
def GNode.isGang (n : GNode) : Bool := n.kind == 1 || n.kind == 4

/-- A COLL node's GROUP and PLANES (R28). -/
def GNode.coll (n : GNode) : Nat × Nat := let w := (n.w.headD 0#64); (bits w 0 32, bits w 32 32)

/-- Word `i` of a node's bytes 32 to 63. -/
def GNode.word (n : GNode) (i : Nat) : Word := n.w.getD i 0#64

/-- Does a node record break R30: its kind, its reserved bytes, its successor range, a COLL node's group and planes? -/
def GNode.bad (n : GNode) (b : List Byte) (nedge : Nat) : Bool :=
  decide (4 < n.kind) || fieldAt b 2 2 != 0 || fieldAt b 12 4 != 0 || decide (nedge < n.succ + n.nsucc)
  || (!n.isGang && n.obj != 0#64)
  || (decide (n.kind ≤ 1) && n.w.any (· != 0#64))
  || (n.kind == 2 && n.word 3 != 0#64)
  || (n.kind == 4 && (decide (1024 ≤ n.coll.1) || n.coll.2 == 0 || (n.w.drop 1).any (· != 0#64)))

/-- The checks of R30 on a header, nodes and edges: the nodes, or the code of R33 with the node at fault. DESIGN CHOICE (log
41): the checks that answer GRAPHFORMAT come first, over all nodes, then those that answer NPRED. -/
def checkGraph (nodes : List (List Byte)) (edges : List Nat) : Except (Nat × Option Nat) (List GNode × List Nat) :=
  let ns := nodes.map fun b => (GNode.of b, b)
  match ns.zipIdx.find? fun e => e.1.1.bad e.1.2 edges.length with
  | some e => .error (0x18, some e.2)
  | none =>
    if edges.any fun t => decide (ns.length ≤ t) then .error (0x18, none)
    else match ns.zipIdx.find? fun e => decide (e.1.1.npred ≠ (edges.filter (· == e.2)).length) with
      | some e => .error (0x19, some e.2)
      | none => .ok (ns.map (·.1), edges)

/-- Does a graph header break R27 or R30? DESIGN CHOICE (log 41): a NODEOFF or EDGEOFF that R27's alignment forbids fails as
GRAPHFORMAT, though R30 lists no such check. -/
def badHeader (h : List Byte) : Bool :=
  fieldAt h 0 4 != 0x314F4754 || fieldAt h 8 4 == 0 || decide (65536 < fieldAt h 8 4) || decide (1048576 < fieldAt h 12 4)
  || decide (fieldAt h 16 4 % 64 ≠ 0) || decide (fieldAt h 20 4 % 4 ≠ 0) || fieldAt h 24 8 != 0

/-- Reads and validates the image at `addr` whose header has been read (R30). An image that cannot be read fails its
check. -/
def State.readGraph (s : State) (q : Req) (addr : Word) (h : List Byte) :
    State × Except (Nat × Option Nat) (List GNode × List Nat) :=
  if badHeader h then (s, .error (0x18, none))
  else
    let nn := fieldAt h 8 4
    let ne := fieldAt h 12 4
    match s.fetchSpan q (addr + toWord (fieldAt h 16 4)) (64 * nn) with
    | (t, none) => (t, .error (0x18, none))
    | (t, some nb) => match t.fetchSpan q (addr + toWord (fieldAt h 20 4)) (4 * ne) with
      | (t, none) => (t, .error (0x18, none))
      | (t, some eb) => (t, checkGraph (cut 64 nn nb) ((cut 4 ne eb).map leNat))

/-! ## Queues (R38 to R45) -/

/-- Updates a queue. -/
def State.updQueue (s : State) (q : Nat) (f : Queue → Queue) : State :=
  s.updSvc fun v => { v with queues := SMap.put Queue.reset v.queues q (f (s.queue q)) }

/-- log2 of the completion ring: values other than 6 to 16 are treated as 6 (R42). -/
def Queue.logn (q : Queue) : Nat := if 6 ≤ q.csize ∧ q.csize ≤ 16 then q.csize else 6

/-- Has the completion ring a free entry (R45, condition 3)? -/
def Queue.hasRoom (q : Queue) : Bool := decide ((q.tail - q.chead).toNat < 2 ^ q.logn)

/-- The die of a queue's home launch unit (R45). -/
def homeDie (q : Nat) : Nat := if q < 32768 then 0 else 1

/-- KICK: one write decides (R44). -/
def execKick (q : Nat) (v : Word) (s : State) : Out :=
  .next (
    let u := s.queue q
    if 65536 ≤ q then s
    else if !u.en || SMap.at false s.svc.busy u.part || u.pend.length == 64 then
      s.updQueue q fun u => { u with drop := BitVec.ofNat 16 (min 65535 (u.drop.toNat + 1)) }
    else
      let k : Kick := ⟨u.seq + 1#32, v.extractLsb' 48 16, v.extractLsb' 0 45, s.svc.kickOrder⟩
      (s.updQueue q fun u => { u with seq := u.seq + 1#32, pend := u.pend ++ [k] }).updSvc fun w =>
        { w with kickOrder := w.kickOrder + 1 })

/-- A write of QGRAPH, QCBASE or QCSIZE takes effect only on a queue with nothing pending or active (R43). -/
def State.idleWrite (s : State) (q : Nat) (f : Queue → Queue) : Out :=
  .next (
    if 65536 ≤ q then s
    else if (s.queue q).pend.isEmpty && !(s.queue q).active then s.updQueue q f
    else s.updQueue q fun u => { u with cfgerr := true })

/-- QGRAPH_WRITE (R42, R43). -/
def execQgraphWrite (q : Nat) (v : Word) (s : State) : Out :=
  s.idleWrite q fun u => { u with graph := v &&& toWord (2 ^ 60 - 1) }

/-- QCBASE_WRITE: bits [5:0] read as zero (R42, R43). -/
def execQcbaseWrite (q : Nat) (v : Word) (s : State) : Out :=
  s.idleWrite q fun u => { u with cbase := v &&& ~~~ 63#64 }

/-- QCSIZE_WRITE: the ring's tail restarts at 0 (R42, R43). -/
def execQcsizeWrite (q : Nat) (v : Word) (s : State) : Out :=
  s.idleWrite q fun u => { u with csize := bits v 0 5, tail := 0#17 }

/-! ## Replays (R29, R45, R46) -/

/-- The running replay of a queue. -/
def State.replayOf (s : State) (q : Nat) : Option Replay := s.svc.replays.find? fun r => r.queue == q

/-- Updates the running replay of a queue. -/
def State.updReplay (s : State) (q : Nat) (f : Replay → Replay) : State :=
  s.updSvc fun v => { v with replays := updWhere (fun (r : Replay) => r.queue == q) f v.replays }

/-- May the oldest pending kick of a queue start, but for the order among kicks of one graph (R45)? -/
def State.kickReady (s : State) (q : Nat) : Bool :=
  let u := s.queue q
  !u.pend.isEmpty && u.hasRoom && !(s.svc.replays.any fun r => r.addr == u.graph)
  && decide ((s.svc.replays.filter fun r => r.die == homeDie q).length < 256)

/-- Bytes of the launch region that a validated copy takes (R46). -/
def GraphCopy.size (c : GraphCopy) : Nat := ceilDiv (32 + 64 * c.nodes.length + 4 * c.edges.length) 64 * 64

/-- Bytes of the working counts of a replay (R46). -/
def countBytes (nodes : Nat) : Nat := ceilDiv (4 * nodes) 64 * 64

/-- Is a replay running from a copy? -/
def State.copyBusy (s : State) (c : GraphCopy) : Bool :=
  s.svc.replays.any fun r => r.die == c.die && r.part == c.part && r.addr == c.addr

/-- The space in use in a region (R46). -/
def State.regionUsed (s : State) (die part : Nat) (reg : Word) : Nat :=
  (s.svc.copies.filter fun c => c.die == die && c.part == part && c.region == reg).foldl (fun n c =>
    n + c.size + if s.copyBusy c then countBytes c.nodes.length else 0) 0

/-- The copy with the least recent start. -/
def oldestCopy : List GraphCopy → Option GraphCopy
  | [] => none
  | c :: cs => match oldestCopy cs with
    | none => some c
    | some d => if c.last ≤ d.last then some c else some d

/-- Discards idle copies, least recently started first, until `need` bytes are free; false when that does not suffice
(R46). -/
def State.makeRoom (s : State) (die part : Nat) (reg : Word) (need : Nat) : Nat → State × Bool
  | 0 => (s, decide (need + s.regionUsed die part reg ≤ 65536 * bits reg 0 16))
  | n + 1 =>
    if need + s.regionUsed die part reg ≤ 65536 * bits reg 0 16 then (s, true)
    else match oldestCopy (s.svc.copies.filter fun c =>
        c.die == die && c.part == part && c.region == reg && !s.copyBusy c) with
      | none => (s, false)
      | some c =>
        State.makeRoom (s.updSvc fun v => { v with copies := v.copies.filter fun d =>
          !(d.die == c.die && d.part == c.part && d.addr == c.addr) }) die part reg need n

/-- A validated copy of an image, held or made now, with room for it and for the counts of a replay (R30, R45, R46). DESIGN
CHOICE (log 41): where several codes apply to a kick, those of R30 come before GRAPHSPACE, and GRAPHSPACE before PATCHRANGE. -/
def State.holdGraph (s : State) (die part : Nat) (addr : Word) : State × Except (Nat × Option Nat) GraphCopy :=
  let reg := s.reg die (0x9D0 + part)
  let q := launchReq die part
  let running := s.svc.replays.any fun r => r.die == die && r.part == part
  let mine (c : GraphCopy) : Bool := c.die == die && c.part == part
  let s := s.updSvc fun v => { v with copies := v.copies.filter fun c => !mine c || c.region == reg || running }
  match s.fetchSpan q addr 32 with
  | (t, none) => (t, .error (0x18, none))
  | (t, some h) =>
    let gen := fieldAt h 4 4
    let made : State × Except (Nat × Option Nat) (GraphCopy × Nat) :=
      match t.svc.copies.find? fun c => mine c && c.addr == addr && c.gen == gen with
      | some c => (t, .ok (c, 0))
      | none =>
        let t := t.updSvc fun v => { v with copies := v.copies.filter fun c => !(mine c && c.addr == addr) }
        match t.readGraph q addr h with
        | (u, .error e) => (u, .error e)
        | (u, .ok (ns, es)) =>
          let c : GraphCopy := ⟨die, part, addr, gen, ns, es, 0, reg⟩
          (u, .ok (c, c.size))
    match made with
    | (t, .error e) => (t, .error e)
    | (t, .ok (c, extra)) =>
      let u := if extra = 0 then t.updSvc fun v => { v with copies := v.copies.filter fun d => !(mine d && d.addr == addr) } else t
      if !bitAt reg 63 then (t, .error (0x1B, none))
      else match u.makeRoom die part reg (c.size + countBytes c.nodes.length) u.svc.copies.length with
        | (w, false) =>
          (if extra = 0 then w.updSvc fun v => { v with copies := v.copies ++ [c] } else w, .error (0x1B, none))
        | (w, true) =>
          let c := { c with last := w.serial, region := reg }
          ((w.updSvc fun v => { v with copies := v.copies ++ [c] }).withSerial, .ok c)

/-! ## Patches (R31) -/

/-- Checks patch entries one by one: the stores that they ask for, or the node of the first that fails (R31). DESIGN CHOICE
(log 41): an entry whose PARAM lies in another package fails; no rule gives a launch unit a route through the fabric. -/
def State.checkPatches (s : State) (q : Req) (nodes : List GNode) : List (List Byte) → State × Except (Option Nat) (List (Word × List Byte))
  | [] => (s, .ok [])
  | e :: es =>
    let node := fieldAt e 0 4
    let off := fieldAt e 4 4
    match nodes[node]? with
    | none => (s, .error none)
    | some n =>
      if !n.isGang || s.remoteLine n.param then (s, .error (some node))
      else match s.fetchSpan q (n.obj + 32#64) 4 with
        | (t, none) => (t, .error (some node))
        | (t, some b) =>
          if decide (off % 8 ≠ 0) || decide (leNat b < off + 8) then (t, .error (some node))
          else match State.checkPatches t q nodes es with
            | (u, .error x) => (u, .error x)
            | (u, .ok ws) => (u, .ok ((n.param + toWord off, (e.drop 8).take 8) :: ws))

/-- Applies a patch table: every entry is checked before any is applied, in table order (R31). DESIGN CHOICE (log 41): a
COUNT above 4,096 completes with PATCHRANGE, the header's reserved word is not checked, and a PARAM that is not a multiple of 8
makes its stores unaligned. -/
def State.applyPatches (s : State) (q : Req) (nodes : List GNode) (ptab : BitVec 45) : State × Except (Nat × Option Nat) Unit :=
  if ptab = 0#45 then (s, .ok ())
  else
    let va := toWord (s.ownPkg * 2 ^ 51 + ptab.toNat * 64)
    let bad (n : Option Nat) : Nat × Option Nat := (0x1C, n)
    match s.fetchSpan q va 8 with
    | (t, none) => (t, .error (bad none))
    | (t, some h) =>
      let count := fieldAt h 0 4
      if 4096 < count then (t, .error (bad none))
      else match t.fetchSpan q (va + 8#64) (16 * count) with
        | (t, none) => (t, .error (bad none))
        | (t, some bs) => match t.checkPatches q nodes (cut 16 count bs) with
          | (t, .error n) => (t, .error (bad n))
          | (t, .ok ws) =>
            (ws.foldl (fun t w => match t.writeGlob q w.1 w.2 false with
              | (u, none) => u
              | (u, some f) => u.globFault q f w.1 true) t, .ok ())

/-! ## Walking the graph (R29, R47) -/

/-- The successors of a node, in edge-array order. -/
def GNode.succs (n : GNode) (edges : List Nat) : List Nat := (edges.drop n.succ).take n.nsucc

/-- A placer. -/
def State.placer (s : State) (d : Nat) : Placer := SMap.at Placer.idle s.svc.placers d

/-- Updates a placer. -/
def State.updPlacer (s : State) (d : Nat) (f : Placer → Placer) : State :=
  s.updSvc fun v => { v with placers := SMap.put Placer.idle v.placers d (f (s.placer d)) }

/-- An item joins the ready list of its class (R47). -/
def State.joinReady (s : State) (die cls : Nat) (x : ReadyItem) : State :=
  s.updPlacer die fun p => { p with ready := p.ready.zipIdx.map fun l => if l.2 == cls then l.1 ++ [x] else l.1 }

/-- Sets the phase of a node. -/
def State.setNode (s : State) (q i : Nat) (ph : NodePhase) : State := s.updReplay q fun r => { r with phase := r.phase.set i ph }

/-- The command of a COPY or ROW node in the launch unit's own Ladle queue (R28, R47). -/
def nodeCmd (id : Nat) (r : Replay) (i : Nat) (n : GNode) : Cmd :=
  let copy := n.kind == 2
  let w := n.word 0
  { id := id, unit := .launch r.die, agent := 0xFFFF, owner := 0xFFFF, core := 256 * r.die, part := r.part, sup := false,
    instr := if copy then .copyComplete id else .rowOperationComplete id,
    a := if copy then n.word 1 else n.word 2,
    b := if copy then n.word 0 else if bits w 0 32 = 0 then n.word 1 else n.word 3,
    d := if copy then n.word 2 else toWord (bits w 32 32), e := if copy then 0#64 else toWord (bits w 0 32),
    fcr := 0#64, abLo := 0, abHi := 0, spLo := 0, spHi := 0, cyc := 0#64, pc := 0#64, step := i, reserved := 0, arrived := 0,
    bundle := r.id, discard := false, started := false, gang := 0, tags := [], bun := 0, prog := 0, spot := none, cur := [], put := [], word := 0#32, got := [], outs := [],
    waiting := false, acted := false }

/-- The class of a replay's node under its queue's PMAX (R40, R47). -/
def State.nodeClass (s : State) (q : Nat) (n : GNode) : Nat := min (min n.prio 3) (s.queue q).pmax

/-- A node becomes ready: a NOP retires at once and names its successors, COPY and ROW nodes go to the Ladle queue, the
others join a ready list; after a failure, and while its partition is reset, nothing more starts (R33, R47, R431). DESIGN
CHOICE (log 41): a PRIO above 3, which R30 does not check, acts as class 3. -/
def State.nodeReady (s : State) (q i : Nat) : State × List Nat :=
  match s.replayOf q with
  | none => (s, [])
  | some r => match r.nodes[i]? with
    | none => (s, [])
    | some n =>
      if n.kind = 0 then (s.setNode q i .retired, n.succs r.edges)
      else if r.fail.isSome || SMap.at false s.svc.busy r.part then (s, [])
      else if n.isGang then
        ((s.setNode q i .ready).joinReady r.die (s.nodeClass q n) ⟨q, i, none, false⟩, [])
      else
        let t := s.setNode q i .running
        ({ t with cmds := t.cmds ++ [nodeCmd t.serial r i n] }.withSerial, [])

/-- Decrements the counts of nodes in order; one that reaches zero becomes ready (R29). DESIGN CHOICE (log 41): the successors
of a NOP that becomes ready are decremented before the remaining successors of the node that made it ready, and before later
start nodes become ready (R47). A count that is 0 already, which overlapping successor ranges can ask to lower, stays 0 and its
node does not run again. -/
def State.decrement (s : State) (q : Nat) : Nat → List Nat → State
  | 0, _ => s
  | _, [] => s
  | fuel + 1, i :: is =>
    match s.replayOf q with
    | none => s
    | some r =>
      let c := r.counts.getD i 0
      let t := s.updReplay q fun r => { r with counts := r.counts.set i (c - 1) }
      if c = 1 then
        let u := t.nodeReady q i
        State.decrement u.1 q fuel (u.2 ++ is)
      else State.decrement t q fuel is

/-- How many decrements a replay can make. -/
def Replay.steps (r : Replay) : Nat := r.nodes.foldl (fun n x => n + x.nsucc) 1

/-- A node retires: its successors are decremented in edge-array order (R29). -/
def State.retireNode (s : State) (q i : Nat) : State :=
  match s.replayOf q with
  | none => s
  | some r => match r.nodes[i]? with
    | none => s
    | some n => (s.setNode q i .retired).decrement q r.steps (n.succs r.edges)

/-- The nodes that are ready when a replay starts, in ascending index (R47). -/
def State.startNodes (s : State) (q : Nat) (r : Replay) : State :=
  (r.nodes.zipIdx.filter fun n => n.1.npred == 0).foldl (fun t n =>
    let u := t.nodeReady q n.2
    u.1.decrement q r.steps u.2) s

/-- A node fails at placement (R33): it does not run, and the replay starts no further node. DESIGN CHOICE (log 41): of the
replay's COPY and ROW nodes in the launch unit's queue the one at its head runs to its end, and the others are withdrawn. -/
def State.failNode (s : State) (q i code : Nat) : State :=
  match s.replayOf q with
  | none => s
  | some r =>
    let t := s.updReplay q fun r =>
      { r with fail := r.fail.orElse fun _ => some (code, some i),
               phase := (r.phase.set i .failed).map fun p => if p = .ready then .waiting else p }
    let t := t.updPlacer r.die fun p => { p with ready := p.ready.map fun l => l.filter fun x => x.queue != q || x.gang.isSome }
    let first := (t.cmds.find? fun (m : Cmd) => m.unit == .launch r.die).map (·.id)
    let gone := t.cmds.filter fun (m : Cmd) => m.ofLaunch && m.bundle == r.id && !m.acted && some m.id != first
    gone.foldl (fun t m => { t with cmds := t.cmds.filter fun (x : Cmd) => x.id != m.id }.setNode q m.step .waiting) t

/-! ## Starting and completing (R45, R49, R50) -/

/-- Starts the oldest pending kick of a queue: PEND falls, ACTIVE sets, the image is validated and patched (R45). A
failure leaves a replay without nodes, which completes with its code. -/
def State.startKick (s : State) (q : Nat) (k : Kick) : State :=
  let u := s.queue q
  let die := homeDie q
  let s1 := s.updQueue q fun u => { u with pend := u.pend.drop 1, active := true }
  let r0 : Replay :=
    { queue := q, seq := k.seq, tag := k.tag, die := die, part := u.part, addr := u.graph, gen := 0, pmax := u.pmax, nodes := [],
      edges := [], counts := [], phase := [], fail := none, tstart := s1.pkgTime, id := s1.serial }
  let s2 := s1.ticked.withSerial
  let add (t : State) (r : Replay) : State := t.updSvc fun v => { v with replays := v.replays ++ [r] }
  match s2.holdGraph die u.part u.graph with
  | (t, .error e) => add t { r0 with fail := some e }
  | (t, .ok c) =>
    match t.applyPatches (launchReq die u.part) c.nodes k.ptab with
    | (t, .error e) => add t { r0 with fail := some e }
    | (t, .ok _) =>
      let r := { r0 with gen := c.gen, nodes := c.nodes, edges := c.edges, counts := c.nodes.map (·.npred),
                         phase := c.nodes.map fun _ => .waiting }
      (add t r).startNodes q r

/-- KICK_START: the oldest pending kick of queue `q` starts (R45); kicks that wait on one graph start in order of
acceptance. -/
def execKickStart (q : Nat) (s : State) : Out :=
  .next (match (s.queue q).pend with
    | [] => s
    | k :: _ =>
      let earlier := s.svc.queues.any fun e =>
        e.1 != q && e.2.graph == (s.queue q).graph && e.2.hasRoom && (match e.2.pend with | j :: _ => decide (j.order < k.order) | [] => false)
      if s.kickReady q && !earlier then s.startKick q k else s)

/-- Writes one completion record to the host and advances the tail (R49, R50). -/
def State.postCompletion (s : State) (q : Nat) (seq : BitVec 32) (tag : BitVec 16) (status : Nat) (node : Option Nat)
    (part : Nat) (tstart tend : Word) : State :=
  let u := s.queue q
  let n := u.logn
  let bs := recordBytes [(0, 4, seq.toNat), (4, 2, tag.toNat), (6, 1, status), (7, 1, 1 - u.tail.toNat / 2 ^ n % 2),
    (8, 4, node.getD 0xFFFFFFFF), (12, 2, q), (14, 1, part), (16, 8, tstart.toNat), (24, 8, tend.toNat)]
  (s.updQueue q fun u => { u with tail := u.tail + 1#17 }).updSvc fun v =>
    { v with toHost := v.toHost ++ [.write (u.cbase + toWord (32 * (u.tail.toNat % 2 ^ n))) bs] }

/-- Copies outside a partition's launch region are discarded once the partition runs no replay on the die (R46). -/
def State.dropCopies (s : State) (d n : Nat) : State :=
  if s.svc.replays.any fun r => r.die == d && r.part == n then s
  else s.updSvc fun u => { u with copies := u.copies.filter fun c => !(c.die == d && c.part == n) || c.region == s.reg d (0x9D0 + n) }

/-- Ends a replay with a status: record, ACTIVE clear, MSI-X (R49). -/
def State.endReplay (s : State) (r : Replay) (status : Nat) (node : Option Nat) : State :=
  let t := (s.postCompletion r.queue r.seq r.tag status node r.part r.tstart (s.pkgTime)).ticked
  let t := (t.updQueue r.queue fun u => { u with active := false }).updSvc fun v =>
    { v with replays := v.replays.filter fun x => x.id != r.id }
  let t := t.dropCopies r.die r.part
  let u := t.queue r.queue
  if u.ien then t.updSvc fun v => { v with toHost := v.toHost ++ [.msix u.vec] } else t

/-- How a replay ends now: its status and node, none while it runs (R30, R33, R49). -/
def Replay.outcome (r : Replay) : Option (Nat × Option Nat) :=
  let busy := r.phase.any fun p => p = .ready || p = .running
  if busy then none
  else match r.fail with
    | some e => some e
    | none => if r.phase.all fun p => p = .retired then some (0, none) else some (0x1A, none)

/-- REPLAY_COMPLETE (R49). -/
def execReplayComplete (q : Nat) (s : State) : Out :=
  .next (match s.replayOf q with
    | none => s
    | some r => match r.outcome with
      | none => s
      | some (code, node) => s.endReplay r code node)

/-! ## Host memory (R36, R451) -/

/-- Does an access of `n` bytes at an HDM offset fall in a range that the supervisor keeps, or come before stage MEM has
completed? -/
def State.hostDenied (s : State) (h n : Nat) : Bool :=
  !s.svc.boot.memUp || s.svc.hostClosed.any fun r => decide (r.1 < h + n ∧ h < r.1 + r.2)

/-- The key of an HDM offset (R36). -/
def hdmKey (h : Nat) : Nat := if h < hbmSize then hbmKey 0 h else hbmKey 1 (h - hbmSize)

/-- Counts one denied access in HOSTDENY, saturating (R464). -/
def State.countDenied (s : State) : State := s.setReg 0 0xA09 (toWord (min (2 ^ 32 - 1) (bits (s.reg 0 0xA09) 0 32 + 1)))

/-- A host read finds the errors of its HBM lines (R264, R466). -/
def State.noticeHdm (s : State) (h n : Nat) : State :=
  if h < hbmSize ∧ hbmSize < h + n then (s.notice .hbm (hdmKey h) (hbmSize - h)).notice .hbm (hdmKey hbmSize) (h + n - hbmSize)
  else s.notice .hbm (hdmKey h) n

/-- HOST_MEM_READ: the data goes to the host, poisoned where the line is or the access is denied (R36, R264). -/
def execHostMemRead (h n : Nat) (s : State) : Out :=
  .next (
    if 2 * hbmSize < h + n then s
    else if s.hostDenied h n then
      s.countDenied.updSvc fun v => { v with toHost := v.toHost ++ [.data (List.replicate n 0#8) true] }
    else
      let bs := (List.range n).map fun i => (s.hbm.readZ 6 (hdmKey (h + i)) 1).headD 0#8
      let p := (List.range n).any fun i => s.hbm.poisoned 6 (hdmKey (h + i))
      (s.noticeHdm h n).updSvc fun v => { v with toHost := v.toHost ++ [.data bs p] })

/-- HOST_MEM_WRITE: byte for byte, or dropped (R36). -/
def execHostMemWrite (h : Nat) (bytes : List Byte) (s : State) : Out :=
  .next (
    if 2 * hbmSize < h + bytes.length then s
    else if s.hostDenied h bytes.length then s.countDenied
    else if h < hbmSize ∧ hbmSize < h + bytes.length then
      (s.writeHbm 0 0 h (bytes.take (hbmSize - h)) false).writeHbm 0 1 0 (bytes.drop (hbmSize - h)) false
    else if h < hbmSize then s.writeHbm 0 0 h bytes false
    else s.writeHbm 0 1 (h - hbmSize) bytes false)

end Sys2Proof.Machine
end

