-- ==== Sys2Proof/Machine/Place.lean ====
section
/-! DEFINITION. Code objects and placement (01_describing_work.md R15 to R26; 03_placing_work.md R62 to R71): the placer
reads a code object, checks it, chooses slots for the ranks of its gang, and loads and starts the members. -/

namespace Sys2Proof.Machine

/-! ## Code objects (R17, R18) -/

/-- A section table entry (R18). -/
structure Section where
  kind : Nat
  flags : Nat
  off : Nat
  size : Nat
  dest : Nat
deriving DecidableEq, Repr

/-- A code object as read: the header's fields and its sections with their contents. -/
structure CodeObj where
  head : List Byte
  secs : List (Section × List Byte)
deriving DecidableEq, Repr

/-- A section table entry from its bytes. -/
def Section.of (b : List Byte) : Section :=
  ⟨fieldAt b 0 2, fieldAt b 2 2, fieldAt b 4 4, fieldAt b 8 4, fieldAt b 12 4⟩

/-- FEAT (R17). -/
def CodeObj.feat (o : CodeObj) : Word := toWord (fieldAt o.head 8 8)
/-- ENTRY (R17). -/
def CodeObj.entry (o : CodeObj) : Nat := fieldAt o.head 16 4
/-- GANG.GROUP (R17). -/
def CodeObj.group (o : CodeObj) : Nat := natBits (fieldAt o.head 20 4) 16 9
/-- GANG.WITHIN (R17). -/
def CodeObj.within (o : CodeObj) : Nat := natBits (fieldAt o.head 20 4) 0 3
/-- PBOFF (R17). -/
def CodeObj.pboff (o : CodeObj) : Nat := fieldAt o.head 28 4
/-- PBSIZE (R17). -/
def CodeObj.pbsize (o : CodeObj) : Nat := fieldAt o.head 32 4
/-- IMSIZE (R17). -/
def CodeObj.imsize (o : CodeObj) : Nat := fieldAt o.head 36 4

/-- The sections of a kind. -/
def CodeObj.ofKind (o : CodeObj) (k : Nat) : List (Section × List Byte) := o.secs.filter fun s => s.1.kind == k

/-- Does a header break R17? -/
def badObjHeader (h : List Byte) : Bool :=
  let gang := fieldAt h 20 4
  let within := natBits gang 0 3
  let group := natBits gang 16 9
  fieldAt h 0 4 != 0x314F4446 || fieldAt h 4 2 != 1 || fieldAt h 6 2 != 0 || fieldAt h 26 2 != 0
  || fieldAt h 40 8 != 0 || fieldAt h 48 16 != 0
  || fieldAt h 24 2 == 0 || decide (64 < fieldAt h 24 2) || decide (fieldAt h 28 4 % 64 ≠ 0)
  || decide (4096 < fieldAt h 32 4) || decide (fieldAt h 32 4 % 8 ≠ 0)
  || decide (262144 < fieldAt h 36 4) || decide (fieldAt h 36 4 % 4 ≠ 0)
  || natBits gang 3 13 != 0 || natBits gang 25 7 != 0
  || decide (3 < within) || decide (256 < group) || (within != 0 && group == 0)

/-- Has a section contents in the object? A DATA section with ZERO has none, and PARAM is not read (R18). -/
def Section.hasBody (s : Section) : Bool := s.kind != 5 && !(s.kind == 4 && s.flags % 2 == 1)

/-- The AB or SP bytes that a DATA section fills: space, first offset, end. -/
def Section.range (s : Section) : Nat × Nat × Nat :=
  (natBits s.dest 30 2, natBits s.dest 0 20, natBits s.dest 0 20 + s.size)

/-- Does a section entry break R18 by itself? DESIGN CHOICE (log 41): bits [29:20] of a DATA section's DEST, of which R18 says
nothing, have to be zero. -/
def Section.bad (s : Section) (pbsize imsize : Nat) : Bool :=
  decide (s.kind = 0 ∨ 5 < s.kind) || decide (s.off % 8 ≠ 0) || (if s.kind = 4 then decide (1 < s.flags) else s.flags != 0)
  || (match s.kind with
    | 1 => decide (s.size ≠ imsize) || s.dest != 0
    | 2 => decide (s.size ≠ 32) || s.dest != 0
    | 3 => decide (s.size < 48 ∨ s.size % 16 ≠ 0 ∨ 32 + 16 * 512 < s.size) || decide (s.dest % 32 ≠ 0)
    | 4 => decide (s.size % 64 ≠ 0) || decide (1 < natBits s.dest 30 2) || natBits s.dest 20 10 != 0 || decide (s.dest % 64 ≠ 0)
        || decide (2 ^ 20 < s.range.2.2) || (s.flags == 1 && s.off != 0)
    | _ => decide (s.size ≠ pbsize) || s.dest != 0)

/-- Do two byte ranges of AB or SP overlap? An empty range overlaps nothing. -/
def fillsMeet (a b : Nat × Nat × Nat) : Bool :=
  a.1 == b.1 && decide (a.2.1 < b.2.2 ∧ b.2.1 < a.2.2 ∧ a.2.1 < a.2.2 ∧ b.2.1 < b.2.2)

/-- The AB and SP ranges that placement fills: DATA sections and the parameter block (R18). -/
def CodeObj.fills (pboff pbsize : Nat) (secs : List Section) : List (Nat × Nat × Nat) :=
  (secs.filter fun s => s.kind == 4).map Section.range ++ if pbsize = 0 then [] else [(0, pboff, pboff + pbsize)]

/-- Do any two ranges of a list overlap? -/
def anyMeet : List (Nat × Nat × Nat) → Bool
  | [] => false
  | r :: rs => rs.any (fun x => fillsMeet r x) || anyMeet rs

/-- Do the sections together break R18? DESIGN CHOICE (log 41): without a parameter block no data lies at PBOFF, whatever its
value. -/
def badSections (h : List Byte) (secs : List Section) : Bool :=
  let n (k : Nat) : Nat := (secs.filter fun s => s.kind == k).length
  let pb := fieldAt h 32 4
  secs.any (fun s => s.bad pb (fieldAt h 36 4))
  || n 1 != 1 || decide (1 < n 2) || decide (32 < n 4) || n 5 != (if pb = 0 then 0 else 1)
  || (pb != 0 && decide (2 ^ 20 < fieldAt h 28 4 + pb)) || anyMeet (CodeObj.fills (fieldAt h 28 4) pb secs)

/-- Reads the contents of sections. -/
def State.fetchSections (s : State) (q : Req) (va : Word) : List Section → State × Option (List (Section × List Byte))
  | [] => (s, some [])
  | x :: xs =>
    match if x.hasBody then s.fetchSpan q (va + toWord x.off) x.size else (s, some []) with
    | (t, none) => (t, none)
    | (t, some b) =>
      let r := State.fetchSections t q va xs
      (r.1, r.2.map fun m => (x, b) :: m)

/-- Reads a code object once, and checks its header and sections: the code of R33 when it fails (R70). DESIGN CHOICE (log 41):
an OBJ that is not a multiple of 64, which R30 does not check, names the object at that address. -/
def State.readObject (s : State) (q : Req) (va : Word) : State × Except Nat CodeObj :=
  match s.fetchSpan q va 64 with
  | (t, none) => (t, .error 0x10)
  | (t, some h) =>
    if badObjHeader h then (t, .error 0x10)
    else match t.fetchSpan q (va + 64#64) (16 * fieldAt h 24 2) with
      | (u, none) => (u, .error 0x10)
      | (u, some tb) =>
        let secs := (cut 16 (fieldAt h 24 2) tb).map Section.of
        if badSections h secs then (u, .error 0x11)
        else match u.fetchSections q va secs with
          | (w, none) => (w, .error 0x10)
          | (w, some ss) => (w, .ok ⟨h, ss⟩)

/-! ## Loop tables (R16, R21, R22) -/

/-- The loop table of an object; without a LOOP section every level is unused (R22). -/
def CodeObj.loops (o : CodeObj) : List Word :=
  match o.ofKind 2 with
  | [] => List.replicate 4 0#64
  | s :: _ => (List.range 4).map fun i => toWord (fieldAt s.2 (8 * i) 8)

/-- KIND of an entry: 0 unused, 1 T, 2 C, 3 D. -/
def loopKind (e : Word) : Nat := bits e 62 2

/-- The extent of an entry, read from the parameter block when ESRC = 1; 1 for T and unused (R21). -/
def loopExtent (pb : List Byte) (e : Word) : Nat :=
  if loopKind e < 2 then 1 else if bitAt e 59 then fieldAt pb (bits e 32 16) 2 else bits e 32 16

/-- The product of the extents of the levels of a kind. -/
def extentProduct (pb : List Byte) (k : Nat) (es : List Word) : Nat :=
  (es.filter fun e => loopKind e == k).foldl (fun n e => n * loopExtent pb e) 1

/-- Does an entry break R21 or R22 by itself? An unused entry breaks nothing. DESIGN CHOICE (log 41): a used entry that breaks
R21 (its LVL, its reserved bits, ESRC or EXT of a T entry) is not well formed, though R22 does not list these. -/
def badLoop (pb : List Byte) (pbsize imsize i : Nat) (e : Word) : Bool :=
  let k := loopKind e
  (k != 0 && (bits e 60 2 != i || bits e 48 11 != 0))
  || (k == 1 && (bitAt e 59 || bits e 32 16 != 0 || decide (bits e 16 16 < bits e 0 16) || decide (imsize / 4 ≤ bits e 16 16)))
  || (decide (2 ≤ k) && ((bitAt e 59 && (decide (bits e 32 16 % 2 ≠ 0) || decide (pbsize < bits e 32 16 + 2)))
      || loopExtent pb e == 0))
  || (k == 3 && decide (2 < loopExtent pb e))

/-- The order of kinds: D, then C, then T, then unused (R22). -/
def kindOrder (e : Word) : Nat := 3 - loopKind e

/-- Are the kinds of the levels in the order of R22? -/
def loopsOrdered : List Word → Bool
  | [] => true
  | e :: es => es.all (fun f => decide (kindOrder e ≤ kindOrder f)) && loopsOrdered es

/-- Are the bodies of two T levels disjoint, or the inner one inside the outer one (R22)? -/
def bodiesNest (outer inner : Word) : Bool :=
  let a := bits outer 0 16
  let b := bits outer 16 16
  let c := bits inner 0 16
  let d := bits inner 16 16
  decide (b < c ∨ d < a ∨ (a ≤ c ∧ d ≤ b))

/-- Do all T levels nest (R22)? -/
def loopsNest : List Word → Bool
  | [] => true
  | e :: es => (loopKind e != 1 || es.all fun f => loopKind f != 1 || bodiesNest e f) && loopsNest es

/-- The cores of the unit that WITHIN names: octet, cluster, die. -/
def unitCores : Nat → Nat
  | 1 => 8 | 2 => 64 | _ => 256

/-- Is the loop table well formed after patching (R22)? -/
def CodeObj.loopsOk (o : CodeObj) (pb : List Byte) : Bool :=
  let es := o.loops
  let c := extentProduct pb 2 es
  (es.zipIdx.all fun e => !badLoop pb o.pbsize o.imsize e.2 e.1) && loopsOrdered es && loopsNest es
  && decide ((es.filter fun e => loopKind e == 3).length ≤ 1) && decide (c ≤ 256)
  && (o.within == 0 || (decide (c % o.group = 0) && decide (o.group ≤ unitCores o.within)))

/-- The coordinate of a rank at level `i` (R16): outermost most significant. -/
def coordinate (pb : List Byte) (es : List Word) (rank i : Nat) : Nat :=
  let inner := (es.drop (i + 1)).foldl (fun n e => n * loopExtent pb e) 1
  if loopKind (es.getD i 0#64) < 2 then 0 else rank / inner % loopExtent pb (es.getD i 0#64)

/-- GIDX of a rank (R25). -/
def gidxOf (pb : List Byte) (es : List Word) (size rank : Nat) : Word :=
  toWord (packFields ([(50, size), (41, rank)] ++ (List.range 4).map fun i => (8 * i, coordinate pb es rank i)))

/-- COLLCFG of a node's members (R26). -/
def GNode.collcfg (n : GNode) : Word :=
  if n.kind = 4 then toWord (packFields [(63, 1), (32, n.coll.1), (0, n.coll.2)]) else 0#64

/-! ## Slots (R64, R69, R305) -/

/-- What a member needs of a core. -/
structure Need where
  part : Nat
  feat : Word
  obj : Word
  gen : Nat
  imsize : Nat
  region : Nat
deriving DecidableEq, Repr

/-- What exited members of gangs that have not retired still hold on a core (R432). -/
def State.heldOn (s : State) (k : Nat) : List (Gang × Hold) :=
  s.gangs.flatMap fun g => (g.holds.filter fun h => h.core == k).map fun h => (g, h)

/-- The contexts of a core that are not FREE. -/
def State.residents (s : State) (k : Nat) : List Ctx :=
  ((List.range 4).map fun j => s.ctx (4 * k + j)).filter fun c => c.st != .free

/-- The lowest free place of `size` bytes in `[lo, hi)` on a grid, beside the ranges in use (R69; assumption log 8). -/
def lowestFree (grid lo hi size : Nat) (used : List (Nat × Nat)) : Option Nat :=
  let starts := lo :: used.map fun u => ceilDiv u.2 grid * grid
  let fits := starts.filter fun b => decide (lo ≤ b ∧ b + size ≤ hi) && used.all fun u => decide (b + size ≤ u.1 ∨ u.2 ≤ b)
  fits.foldl (fun m b => match m with | none => some b | some x => some (min x b)) none

/-- The IMEM base for an image on a core: shared with a context that runs the same object for the same partition, or with the
copy that an exited one still holds (R432), or the lowest free place (R69). -/
def State.imemBase (s : State) (k : Nat) (n : Need) : Option Nat :=
  let rs := s.residents k
  let same (c : Ctx) : Bool := !c.y.sup && c.y.part == n.part &&
    match s.gang c.y.gang with | some g => g.obj == n.obj && g.gen == n.gen | none => false
  let left := s.heldOn k
  match rs.find? same with
  | some c => some c.y.spanBase
  | none => match left.find? fun e => e.1.part == n.part && e.1.obj == n.obj && e.1.gen == n.gen with
    | some e => some e.2.spanBase
    | none => lowestFree 64 0 (2 ^ 18) n.imsize ((rs.map fun c => (c.y.spanBase, c.y.spanBase + c.y.spanSize))
        ++ left.map fun e => (e.2.spanBase, e.2.spanBase + e.2.spanSize))

/-- TBASE and TLIMIT of a partition in bytes; a TLIMIT below TBASE leaves no share (R161). -/
def State.tableShare (s : State) (part : Nat) : Nat × Nat :=
  let lo := 1024 * min 64 (bits (s.reg 0 (0x830 + part)) 0 7)
  (lo, max lo (1024 * min 64 (bits (s.reg 0 (0x840 + part)) 0 7)))

/-- The base of a table region on a core (R69). -/
def State.tableBase (s : State) (k : Nat) (n : Need) : Option Nat :=
  let sh := s.tableShare n.part
  if n.region = 0 then some sh.1
  else lowestFree 1024 sh.1 sh.2 n.region ((((s.residents k).filter fun c => c.y.trsize != 0).map fun c =>
    (c.y.trbase, c.y.trbase + c.y.trsize)) ++ ((s.heldOn k).filter fun e => e.2.trsize != 0).map fun e =>
    (e.2.trbase, e.2.trbase + e.2.trsize))

/-- May a core take the new member: a pair in protected mode takes protected members only (R64)? -/
def State.pairFits (s : State) (prot : Bool) (k : Nat) : Bool := prot || !(s.core (k / 2 * 2)).prot

/-- Is context `j` of a core free for a new member: for a protected one, on both cores of the pair (R64)? -/
def State.slotFree (s : State) (prot : Bool) (k j : Nat) : Bool :=
  (s.ctx (4 * k + j)).st == .free && (!prot || (s.ctx (4 * (k + 1) + j)).st == .free)

/-- The slot that an eligible core offers: its free context of lowest index, with room for the image and the tables
(R64, R69, R305). With `all`, every context counts as free (R67). -/
def State.slotOn (s : State) (n : Need) (all : Bool) (k : Nat) : Option Nat :=
  if !s.eligible n.part n.feat k then none
  else if all then some (4 * k)
  else if !s.pairFits (s.protectedPart n.part) k || (bitAt n.feat 3 && s.hasGrdOwner k) then none
  else if (s.imemBase k n).isNone || (s.tableBase k n).isNone then none
  else ((List.range 4).find? fun j => s.slotFree (s.protectedPart n.part) k j).map fun j => 4 * k + j

/-- The units of a kind on a die, each as its cores (R66). -/
def unitsOn (within die : Nat) : List (List Nat) :=
  let n := unitCores within
  (List.range (256 / n)).map fun u => (List.range n).map fun i => 256 * die + n * u + i

/-- place_runs of R66: each run goes to the first unit with enough slots; cores already given are not offered again. -/
def placeRuns (slot : Nat → Option Nat) (units : List (List Nat)) : List (List Nat) → List (Nat × Nat) → Option (List (Nat × Nat))
  | [], got => some got
  | run :: runs, got =>
    let slots (u : List Nat) : List Nat := (u.filter fun k => !got.any fun g => coreOf g.2 == k).filterMap slot
    match (units.map slots).find? fun l => decide (run.length ≤ l.length) with
    | none => none
    | some l => placeRuns slot units runs (got ++ run.zip l)

/-- Ranks cut into runs of GROUP; one run when WITHIN is 0 (R66). -/
def runsOf (within group : Nat) (ranks : List Nat) : List (List Nat) :=
  if within = 0 then [ranks]
  else (List.range (ceilDiv ranks.length group)).map fun i => (ranks.drop (group * i)).take group

/-- place of R66 for the rank sets with the dies each may stand on. -/
def placeSets (slot : Nat → Option Nat) (within group : Nat) : List (List Nat × List Nat) → List (Nat × Nat) → Option (List (Nat × Nat))
  | [], got => some got
  | (ranks, dies) :: rest, got =>
    match dies.findSome? fun d => placeRuns slot (unitsOn within d) (runsOf within group ranks) got with
    | none => none
    | some g => placeSets slot within group rest g

/-- The rank sets of a gang (R66). -/
def rankSets (pb : List Byte) (es : List Word) (home : Nat) : List (List Nat × List Nat) :=
  let c := extentProduct pb 2 es
  if extentProduct pb 3 es = 2 then [(List.range c, [0]), ((List.range c).map (c + ·), [1])]
  else [(List.range c, [home, 1 - home])]

/-! ## Loading and starting (R69, R71, R306) -/

/-- The size of an object's table region (R69). -/
def CodeObj.region (o : CodeObj) : Nat :=
  ceilDiv ((o.ofKind 3).foldl (fun n s => max n (s.1.dest + s.1.size)) 0) 1024 * 1024

/-- Writes the tables of an object into a region (R69). -/
def State.loadTables (s : State) (o : CodeObj) (k base : Nat) : State :=
  (o.ofKind 3).foldl (fun t x => { t with tmem := t.tmem.writeP 4 (k * 2 ^ 16 + base + x.1.dest) x.2 false }) s

/-- Writes the bundle image at a base, unless the core already holds it there (R69). DESIGN CHOICE (log 8): R81 and R246 name
supervisor contexts among the writers of IMEM, and no instruction, register or command of the spec makes such a write, so that
placement and boot are the only ones. -/
def State.loadImage (s : State) (o : CodeObj) (n : Need) (k base : Nat) : State :=
  let held := ((s.residents k).any fun c => !c.y.sup && c.y.spanBase == base && c.y.spanSize == n.imsize && c.y.part == n.part)
    || (s.heldOn k).any fun e => e.1.part == n.part && e.2.spanBase == base && e.2.spanSize == n.imsize
  if held then s
  else match o.ofKind 1 with
    | [] => s
    | x :: _ => { s with imem := s.imem.writeP 2 (k * 2 ^ 18 + base) x.2 false }

/-- Writes the DATA sections and the parameter block (R18, R69). -/
def State.loadData (s : State) (o : CodeObj) (pb : List Byte) (k : Nat) : State :=
  let t := (o.ofKind 4).foldl (fun t x =>
    let r := x.1.range
    let bs := if x.1.flags = 1 then List.replicate x.1.size 0#8 else x.2
    t.writeAS (r.1 == 1) (k * 2 ^ 20 + r.2.1) bs false 0) s
  if o.pbsize = 0 then t else t.writeAS false (k * 2 ^ 20 + o.pboff) pb false 0

/-- The core's Griddle state at zero for its new owner, with no tile of it in the array (R306). -/
def State.zeroGriddle (s : State) (k : Nat) : State :=
  let t := s.updGriddle k fun _ => Griddle.zero
  match (t.octet (octetOf k)).tile with
  | some (c, _) => if c = k then { t with octets := SMap.put Octet.reset t.octets (octetOf k) { t.octet (octetOf k) with tile := none } } else t
  | none => t

/-- Loads and starts one member (R69, R71). -/
def State.startMember (s : State) (o : CodeObj) (pb : List Byte) (n : Need) (gang : Nat) (size : Nat) (coll : Word)
    (m : Nat × Nat) : State :=
  let k := coreOf m.2
  let base := (s.imemBase k n).getD 0
  let tb := (s.tableBase k n).getD 0
  let s1 := ((s.loadImage o n k base).loadTables o k tb).loadData o pb k
  let s2 := if bitAt n.feat 3 then s1.zeroGriddle k else s1
  let loops := o.loops.zipIdx.foldl (fun t e => SMap.put 0#64 t e.2 e.1) []
  let c : Ctx :=
    { Ctx.reset with
      st := .running,
      f := { Flow.zero with pc := toWord (base + 4 * o.entry), loops := loops },
      y := { Sys.zero with gidx := gidxOf pb o.loops size m.1, collcfg := coll, ctxfeat := n.feat, trbase := tb, trsize := n.region,
                           panv := s.svc.pantry.ver, spanBase := base, spanSize := n.imsize, part := n.part, gang := gang } }
  ((s2.setCtx m.2 c).protectPair k n.part).retarget k

/-! ## Placing a node (R66 to R70) -/

/-- What an attempt to place a node comes to. -/
inductive Placed where
  | ok | nofit | fails (code : Nat)
deriving DecidableEq, Repr

/-- Is every filled byte inside the partition's windows (R247)? -/
def State.fillsInWindow (s : State) (part : Nat) (fills : List (Nat × Nat × Nat)) : Bool :=
  fills.all fun r => s.inWindow false (if r.1 = 1 then 0x8B0 else 0x8A0) part r.2.1 (r.2.2 - r.2.1)

/-- A code object with its node's parameter block, or the code of R33 (R31, R33, R70). DESIGN CHOICE (log 41): where several
codes apply, the first check that fails decides: header, sections, contents, parameter block, windows, loop table, FEAT, table
space, fit. -/
def State.readNode (s : State) (q : Req) (n : GNode) : State × Except Nat (CodeObj × List Byte) :=
  match s.readObject q n.obj with
  | (t, .error c) => (t, .error c)
  | (t, .ok o) =>
    match t.fetchSpan q n.param o.pbsize with
    | (u, none) => (u, .error 0x10)
    | (u, some pb) =>
      let fills := CodeObj.fills o.pboff o.pbsize (o.secs.map (·.1))
      let code :=
        if !u.fillsInWindow q.part fills then 0x11
        else if !o.loopsOk pb then 0x12
        else if bits o.feat 14 50 != 0 || !bitAt o.feat 0 || (n.kind == 4 && !bitAt o.feat 9 && !bitAt o.feat 10) then 0x13
        else 0
      (u, if code = 0 then .ok (o, pb) else .error code)

/-- May no node of a class be placed on the die, since a node of a higher class has waited AGELIM in the die's lists (R48)? -/
def State.dieHeld (s : State) (cls d : Nat) : Bool :=
  (s.placer d).ready.zipIdx.any fun l => decide (cls < l.2) && l.1.any fun x => x.aged

/-- Places a node: its slots are chosen, and its members loaded and started under the current Pantry version (R66 to R71).
A gang that is placed again after a rollback takes a new identifier (R413, R421). While a reset of its partition is in
progress nothing of it starts (R51). `cls` is the class of the list that the node has joined (R48). -/
def State.placeNode (s : State) (r : Replay) (i : Nat) (n : GNode) (cls : Nat) (old : Option Gang) : State × Placed :=
  if SMap.at false s.svc.busy r.part then (s, .nofit)
  else match s.readNode (launchReq r.die r.part) n with
  | (t, .error c) => (t, .fails c)
  | (t, .ok (o, pb)) =>
    let need : Need := ⟨r.part, o.feat, n.obj, r.gen, o.imsize, o.region⟩
    let sets := rankSets pb o.loops r.die
    let sh := t.tableShare r.part
    let open_ (d : Nat) : Bool := !t.dieHeld cls d
    let slots (all : Bool) : Option (List (Nat × Nat)) :=
      placeSets (t.slotOn need all) o.within o.group (sets.map fun x => (x.1, x.2.filter fun d => all || open_ d)) []
    if sh.2 - sh.1 < need.region then (t, .fails 0x14)
    else match slots false with
      | none => (t, if (slots true).isSome then .nofit else .fails 0x14)
      | some ms =>
        let size := extentProduct pb 2 o.loops * extentProduct pb 3 o.loops
        let g : Gang :=
          { id := t.serial, part := r.part, obj := n.obj, gen := r.gen, feat := o.feat, within := o.within, loops := o.loops,
            die := r.die, queue := r.queue, node := i, members := ms, exited := [], group := if o.within = 0 then 0 else o.group,
            twoDies := extentProduct pb 3 o.loops == 2, bars := [], undo := [], nolog := false, rollback := none, stops := [], energy := 0#64, saved := [], holds := [] }
        let keep (x : Gang) : Bool := match old with | some y => x.id != y.id | none => true
        let u := { t with gangs := t.gangs.filter keep ++ [g] }.withSerial
        (ms.foldl (fun t m => t.startMember o pb need g.id size n.collcfg m) u, .ok)

/-- Takes an item off every ready list of a die. -/
def State.takeReady (s : State) (die : Nat) (x : ReadyItem) : State :=
  s.updPlacer die fun p => { p with ready := p.ready.map fun l => l.filter fun y => !(y.queue == x.queue && y.node == x.node) }

end Sys2Proof.Machine
end

