-- ==== Sys2Proof/Machine/Rollback.lean ====
section
/-! DEFINITION. Gang rollback (15_interruptions.md R416, R420 to R423, R431), and PLACEMENT and AGELIM_EXPIRY, which serve
new nodes and gangs that wait to be placed again (R48, R66, R67). -/

namespace Sys2Proof.Machine

/-! ## Members in flight -/

/-- The contexts of a gang's members that stand on cores. -/
def Gang.resident (g : Gang) : List Nat := (g.members.map (·.2)).filter fun x => decide (x < 2048)

/-- Has everything that a context and its Ladles issued completed, but for what waits for the end of a Ladle's run (R410,
R421)? A GRD.MUL that lacks channel elements which nothing brings is given up (log 33). -/
def State.spent (s : State) (x : Nat) : Bool :=
  !(s.ops.any fun (o : Op) => o.owner == x && !o.heldByRun) && !(s.cmds.any fun (m : Cmd) => m.owner == x && !s.starved m)
  && !(s.elems.any fun (e : Elem) => e.ctx == x && e.remote && !e.arrived)

/-- Has everything that a context and its Ladles issued completed (R421)? -/
def State.quiet (s : State) (x : Nat) : Bool := s.spent x && !(s.ops.any fun (o : Op) => o.owner == x)

/-- Has everything that an exiting context issued completed or failed, every accepted command included (R427)? -/
def State.exited (s : State) (x : Nat) : Bool := s.quiet x && !(s.cmds.any fun (m : Cmd) => m.owner == x)

/-- Ends the runs of the Ladles that serve a context: what they held back may be performed (R410). -/
def State.endRuns (s : State) (x : Nat) : State :=
  [2 * coreOf x, 2 * coreOf x + 1].foldl (fun t l => if (t.ladle l).serving = some x then t.endRun l else t) s

/-- Stops a context for good, a stopped one in its state (R422): what it still feeds is discarded (R421, step 2). -/
def State.cutOff (s : State) (x : Nat) : State :=
  let st := if (s.ctx x).st = .preempted then .preempted else .suspended
  let t := (s.upd x fun c => { c with y := { c.y with stop := none } }).parkCtx x st
  { t with cmds := updWhere (fun (m : Cmd) => m.owner == x && m.feed.isSome) (fun m => { m with discard := true }) t.cmds }

/-- Clears what a freed context leaves behind: its channel elements and starved commands. -/
def State.sweep (s : State) (x : Nat) : State :=
  let t := { s with elems := s.elems.filter fun (e : Elem) => e.ctx != x, cmds := s.cmds.filter fun (m : Cmd) => m.owner != x }
  t.vacate x

/-! ## Beginning (R420, R421, R423) -/

/-- The ROLLBACK record (R421). -/
def State.postRollback (s : State) (g : Gang) (x cause result : Nat) (lcc : Word) (lines : Nat) : State :=
  s.postFault g.part (recordBytes [(0, 1, 0x14), (1, 1, g.part), (2, 2, x), (4, 1, cause), (5, 1, result), (8, 4, g.node),
    (12, 4, s.svc.pantry.ver.toNat), (16, 8, lcc.toNat), (24, 4, lines)])

/-- The kind code of a cause in a SUSPEND record: UNCORR, LOCKSTEP, none for REQUEST (R162, R401). -/
def causeKind : Nat → Nat
  | 1 => 21 | 2 => 20 | _ => 0

/-- Can the gang not be rolled back: a log entry is missing, or logging is off on the die of a member (R423)? -/
def State.noLog (s : State) (g : Gang) : Bool :=
  g.nolog || g.resident.any fun x => !bitAt (s.reg (dieOf (coreOf x)) (0x980 + g.part)) 63

/-- A rollback cause for member `x`: every member stops; without a whole log the gang is suspended instead
(R421, R423). Pending STOPs are kept (R422). -/
def State.beginRollback (s : State) (x cause : Nat) : State :=
  match s.gang (s.ctx x).y.gang with
  | none => s
  | some g =>
    let lcc := (s.ctx x).f.lcc
    if g.rollback.isSome || (s.ctx x).st == .free then s
    else if s.noLog g then
      let t := (g.resident.filter fun m => !(s.ctx m).exiting).foldl (fun t m =>
        (t.postSuspend m 6 (causeKind cause) 15 0#64).stopCtx m .suspended) s
      t.postRollback g x cause 1 lcc 0
    else
      let stops := g.members.filterMap fun m => if m.2 < 2048 then (s.ctx m.2).y.stop.map fun q => (m.1, m.2, q) else none
      let t := g.resident.foldl (fun t m => t.cutOff m) s
      t.updGang g.id fun y => { y with rollback := some (cause, x, lcc, 0), stops := stops }

/-- UNCORR: a member's gang is rolled back; a supervisor context stops alone (R420). The error counts on its core. -/
def execUncorr (x : Nat) (s : State) : Out :=
  .next (
    let c := s.ctx x
    if c.st == .free || decide (2048 ≤ x) then s
    else
      let t := s.countUE (10 + coreOf x) 1 0#64
      if c.y.sup then (t.postSuspend x 8 21 15 0#64).stopCtx x .suspended else t.beginRollback x 1)

/-- LOCKSTEP_MISMATCH: one error event on each core of the pair, and the gang rolls back (R416). -/
def execLockstepMismatch (x : Nat) (s : State) : Out :=
  .next (
    let c := s.ctx x
    let k := coreOf x
    if c.st == .free || c.y.sup || decide (2048 ≤ x) || !s.pairSecond (k + 1) then s
    else ((s.countUE (10 + k) 1 0#64).countUE (11 + k) 1 0#64).beginRollback x 2)

/-- What ROLLREQ does (R420). -/
def State.rollreqWrite (s : State) (v : Word) : State :=
  let x := bits v 0 11
  if !bitAt v 63 || (s.ctx x).st == .free || (s.ctx x).y.sup then s else s.beginRollback x 3

/-- ROLLREQ (R420). -/
def execRollreq (x : Nat) (v : Word) (s : State) : Out := .next (if (s.ctx x).y.sup then s.rollreqWrite v else s)

/-! ## Undoing (R421, steps 2 to 4) -/

/-- Undoes one entry of a log. -/
def State.undoItem (s : State) : UndoItem → State
  | .line die pa old p => s.writeHbm 0 die pa old p
  | .sync k v => s.setSync k (SMap.at 0#32 s.sync k - v)

/-- Adds energy to PENERGY of a partition (R434). -/
def State.chargeEnergy (s : State) (part : Nat) (e : Word) : State := s.setReg 0 (0x9C0 + part) (s.reg 0 (0x9C0 + part) + e)

/-- The energy that the members of a gang have counted, those whose images are saved included (R434). -/
def State.gangEnergy (s : State) (g : Gang) : Word :=
  g.resident.foldl (fun n x => n + (s.ctx x).y.energy) (g.saved.foldl (fun n e => n + e.2) g.energy)

/-- A rollback whose log has lost an entry meanwhile ends as R423 states: the gang is suspended, and its memory stays. Members
that are leaving by EXIT go on leaving. -/
def State.loseLog (s : State) (g : Gang) (cause x : Nat) (lcc : Word) : State :=
  let t := (g.resident.filter fun m => !(s.ctx m).exiting).foldl (fun t m =>
    (t.postSuspend m 6 (causeKind cause) 15 0#64).upd m fun c => { c with st := .suspended }) s
  let t := g.stops.foldl (fun t e => t.leaveRunning e.2.1 0) t
  (t.postRollback g x cause 1 lcc 0).updGang g.id fun y => { y with rollback := none, stops := [] }

/-- GANG_ROLLBACK: once everything in flight has completed, the runs of the members' Ladles end, monitors and leases end, the
log is replayed newest first, and the members leave their contexts (R421, steps 2 to 4). A log that has lost an entry by then is
no log (R423). A reset of the partition, which frees the members, goes before it (R51). -/
def execGangRollback (g : Nat) (s : State) : Out :=
  .next (match s.gang g with
    | none => s
    | some y => match y.rollback with
      | none => s
      | some (cause, x, lcc, _) =>
        if cause == 9 || SMap.at false s.svc.busy y.part || y.resident.isEmpty || !y.resident.all s.spent then s
        else if y.nolog then s.loseLog y cause x lcc
        else if !y.resident.all s.quiet then y.resident.foldl State.endRuns s
        else
          let lines := (y.undo.filter fun u => match u with | .line .. => true | _ => false).length
          let t := y.undo.foldl State.undoItem (s.chargeEnergy y.part (s.gangEnergy y))
          (y.resident.foldl State.sweep t).updGang g fun z =>
            { z with rollback := some (cause, x, lcc, lines), members := z.members.map fun m => (m.1, 0xFFFF), undo := [], nolog := false,
                     exited := [], bars := [], saved := [], energy := 0#64 })

/-! ## Placing again (R421, steps 5 and 6; R422) -/

/-- The STOPs that survived a rollback are pending for the members' new contexts, and are taken at their first PPT (R422);
each pair is an old context and the new one. -/
def State.moveStops (s : State) (l : List (Nat × Nat)) : State :=
  let now (x : Nat) : Nat := ((l.find? fun e => e.1 == x).map (·.2)).getD x
  let f (o : Op) : Op := match o.kind with
    | .stop ts y w => { o with kind := .stop (ts.map now) y w }
    | _ => o
  l.foldl (fun t e => t.upd e.2 fun c => { c with y := { c.y with stop := some ⟨false, false⟩ } }) { s with ops := s.ops.map f }

/-- A rolled-back gang has been placed: STOPs move to the new contexts, and the record is posted (R421, R422). -/
def State.restarted (s : State) (old : Gang) : State :=
  match old.rollback, s.gangs.find? fun g => g.queue == old.queue && g.node == old.node with
  | some (cause, x, lcc, lines), some g =>
    let t := s.moveStops (old.stops.filterMap fun e => (g.members.find? fun m => m.1 == e.1).map fun m => (e.2.1, m.2))
    t.postRollback g x cause 0 lcc lines
  | _, _ => s

/-- A rolled-back gang cannot be placed again: the node fails (R421, step 5). -/
def State.restartFails (s : State) (old : Gang) (code : Nat) : State :=
  match old.rollback with
  | some (cause, x, lcc, lines) =>
    let t := (old.stops.foldl (fun t e => t.leaveRunning e.2.1 0) s).postRollback old x cause 2 lcc lines
    { t with gangs := t.gangs.filter fun g => g.id != old.id }.failNode old.queue old.node code
  | none => s

/-- One attempt to place a gang of a class again; the flag says whether it is settled (R421, step 5). -/
def State.placeAgain (s : State) (cls : Nat) (old : Gang) : State × Bool :=
  match s.replayOf old.queue with
  | none => ({ s with gangs := s.gangs.filter fun g => g.id != old.id }, true)
  | some r => match r.nodes[old.node]? with
    | none => (s, true)
    | some n => match s.placeNode r old.node n cls (some old) with
      | (t, .ok) => (t.restarted old, true)
      | (t, .nofit) => (t, false)
      | (t, .fails c) => (t.restartFails old c, true)

/-- ROLLBACK_RESTART: the gang is placed again, or waits ahead of every node of its class (R421, steps 5 and 6). -/
def execRollbackRestart (g : Nat) (s : State) : Out :=
  .next (match s.gang g with
    | none => s
    | some y =>
      let waiting := (s.placer y.die).ready.any fun l => l.any fun i => i.gang == some g
      if y.rollback.isNone || !y.resident.isEmpty || waiting then s
      else
        let cls := match (s.replayOf y.queue).bind fun r => r.nodes[y.node]? with | some n => s.nodeClass y.queue n | none => 0
        match s.placeAgain cls y with
        | (t, true) => t
        | (t, false) =>
          t.updPlacer y.die fun p =>
            { p with ready := p.ready.zipIdx.map fun l => if l.2 == cls then ⟨y.queue, y.node, some g, false⟩ :: l.1 else l.1 })

/-! ## Placement opportunities (R48, R66, R67) -/

/-- Tries the head of the ready list of class `cls`: the state, and whether the opportunity is over. Where the head does not fit, a node of
its list that has waited AGELIM ends it (`held` for one behind the head). -/
def State.tryHead (s : State) (d cls : Nat) (x : ReadyItem) (held : Bool) : State × Bool :=
  match x.gang with
  | some g => match s.gang g with
    | none => (s.takeReady d x, true)
    | some y => match s.placeAgain cls y with
      | (t, true) => (t.takeReady d x, true)
      | (t, false) => (t, x.aged || held)
  | none => match s.replayOf x.queue with
    | none => (s.takeReady d x, true)
    | some r => match r.nodes[x.node]? with
      | none => (s.takeReady d x, true)
      | some n => match s.placeNode r x.node n cls none with
        | (t, .ok) => ((t.takeReady d x).setNode x.queue x.node .running, true)
        | (t, .fails c) => ((t.takeReady d x).failNode x.queue x.node c, true)
        | (t, .nofit) => (t, x.aged || held)

/-- PLACEMENT: the first head that fits is placed, from class 3 down; an aged head that does not fit blocks lower
classes (R48). -/
def execPlacement (d : Nat) (s : State) : Out :=
  .next ([3, 2, 1, 0].foldl (fun (acc : State × Bool) cls =>
    if acc.2 then acc
    else match ((acc.1.placer d).ready.getD cls []) with
      | [] => acc
      | x :: xs => acc.1.tryHead d cls x (xs.any fun y => y.aged)) (s, false)).1

/-- AGELIM_EXPIRY: the head of a class has waited AGELIM (R48). -/
def execAgelimExpiry (d cls : Nat) (s : State) : Out :=
  .next (s.updPlacer d fun p => { p with ready := p.ready.zipIdx.map fun l =>
    if l.2 == cls then (match l.1 with | x :: xs => { x with aged := true } :: xs | [] => []) else l.1 })

end Sys2Proof.Machine
end

