-- ==== Sys2Proof/Machine/Retire.lean ====
section
/-! DEFINITION. Exit, retirement, termination (16_retirement.md R427 to R434), partition reset (02_launching_work.md R51)
and re-placement (03_placing_work.md R73, R74). -/

namespace Sys2Proof.Machine

/-! ## Exit (R427 to R429) -/

/-- MEMBER_EXIT: once nothing of an exiting context is in flight, it is FREE; a member counts as exited in its gang
(R427, R429), and its IMEM copy and table region stay in use until the node retires (R432). A member whose gang rolls back is
stopped, and restarts with it (R421, R431). -/
def execMemberExit (x : Nat) (s : State) : Out :=
  .next (
    let c := s.ctx x
    let held := match s.gang c.y.gang with | some g => g.rollback.isSome | none => false
    if !c.exiting || decide (2048 ≤ x) || held || !s.exited x then s
    else
      let t := (s.sweep x).leaveRunning x 0
      match s.gang c.y.gang with
      | none => t
      | some g => match g.rankOf x with
        | none => t
        | some r => t.updGang g.id fun y =>
          { y with energy := y.energy + c.y.energy,
                   holds := y.holds ++ [⟨coreOf x, c.y.spanBase, c.y.spanSize, c.y.trbase, c.y.trsize⟩],
                   members := y.members.map fun m => if m.1 == r then (r, 0xFFFE) else m })

/-! ## Retirement and termination (R430 to R433) -/

/-- Retires a gang whose members have all exited: the log is discarded, the successors are decremented, what the members still
held is free, the energy is charged (R430, R432). -/
def State.retireGang (s : State) (g : Gang) : State :=
  let t := (s.updGang g.id fun y => { y with undo := [] }).retireNode g.queue g.node
  { t with gangs := t.gangs.filter fun y => y.id != g.id }.chargeEnergy g.part g.energy

/-- Ends a gang that has been terminated: its contexts are freed, and its node fails (R33): with NODEKILLED (R433), or with
the code that its object's read has given (R70). -/
def State.endKilled (s : State) (g : Gang) (code : Nat) : State :=
  let t := g.resident.foldl State.sweep s
  { t with gangs := t.gangs.filter fun y => y.id != g.id }.failNode g.queue g.node (if code = 0 then 0x21 else code)

/-- Retires a COPY or ROW node whose command has acted (R430). -/
def State.retireCommand (s : State) (m : Cmd) : State :=
  let t := { s with cmds := s.cmds.filter fun (x : Cmd) => x.id != m.id }
  match s.svc.replays.find? fun r => r.id == m.bundle with
  | some r => t.retireNode r.queue m.step
  | none => t

/-- NODE_RETIRE: the node of gang `g`, or of COPY or ROW command `g`, retires (R430); a terminated gang ends (R433). -/
def execNodeRetire (g : Nat) (s : State) : Out :=
  .next (match s.gang g with
    | some y =>
      match y.rollback with
      | some (9, _, _, code) =>
        if y.resident.all s.quiet then s.endKilled y code
        else if y.resident.all s.spent then y.resident.foldl State.endRuns s else s
      | _ =>
      if y.rollback.isNone && y.members.all fun m => m.2 == 0xFFFE then s.retireGang y
      else s
    | none => match s.cmds.find? fun (m : Cmd) => m.id == g && m.ofLaunch with
      | some m => if m.acted && m.outs.isEmpty && !m.waiting then s.retireCommand m else s
      | none => s)

/-- Is every unexited member of a gang PREEMPTED or SUSPENDED (R74, R433)? One whose image is saved is in no context, and is
neither (R413). -/
def State.allStopped (s : State) (g : Gang) : Bool :=
  (g.members.all fun m => m.2 != 0xFFFF) && g.resident.all fun x => let c := s.ctx x; (c.st == .preempted || c.st == .suspended) && !c.exiting

/-- Terminates a gang (R433): its members stay stopped until what they issued has completed, and its log is discarded. -/
def State.terminate (s : State) (g : Gang) (x code : Nat) : State :=
  (g.resident.foldl State.cutOff s).updGang g.id fun y => { y with rollback := some (9, x, 0#64, code), undo := [] }

/-- What NODEKILL does (R433): an accepted termination keeps the members stopped until what they issued has completed. -/
def State.nodekillWrite (s : State) (v : Word) : State :=
  let x := bits v 0 11
  match s.gang (s.ctx x).y.gang with
  | none => s
  | some g =>
    if !bitAt v 63 || (s.ctx x).st == .free || g.rollback.isSome || !s.allStopped g then s
    else s.terminate g x 0

/-- NODEKILL (R433). -/
def execNodekill (x : Nat) (v : Word) (s : State) : Out := .next (if (s.ctx x).y.sup then s.nodekillWrite v else s)

/-! ## Partition reset (R51) -/

/-- The contexts of a partition that are not FREE. -/
def State.contextsOf (s : State) (part : Nat) : List Nat :=
  (List.range 2048).filter fun x => let c := s.ctx x; c.st != .free && !c.y.sup && c.y.part == part

/-- Is a partition's reset in progress? -/
def State.partBusy (s : State) (n : Nat) : Bool := SMap.at false s.svc.busy n

/-- Sets or clears BUSY. -/
def State.setBusy (s : State) (n : Nat) (b : Bool) : State := s.updSvc fun v => { v with busy := SMap.put false v.busy n b }

/-- A reset of partition `n` is requested: BUSY sets, every context of it stops, and undo logs are discarded (R51, steps 1
and 2). A STOP that waits for a gang to be placed again ends (R158). -/
def State.resetRequest (s : State) (n : Nat) : State :=
  if 16 ≤ n ∨ s.partBusy n then s
  else
    let t := (s.contextsOf n).foldl (fun t x => (t.leaveRunning x 0).cutOff x) (s.setBusy n true)
    let t := ((t.gangs.filter fun g => g.part == n).flatMap fun g => g.stops).foldl (fun t e => t.leaveRunning e.2.1 0) t
    { t with gangs := updWhere (fun (g : Gang) => g.part == n) (fun g => { g with undo := [], stops := [] }) t.gangs }

/-- PCTL_RST: ignored unless PSTAT.HRST is set (R51). -/
def execPctlRst (n : Nat) (s : State) : Out := .next (if bitAt (s.reg 0 0x882) n then s.resetRequest n else s)

/-- What PRST does (R51, R161). -/
def State.prstWrite (s : State) (v : Word) : State := if bitAt v 63 then s.resetRequest (bits v 16 4) else s

/-- PRST (R51). -/
def execPrst (x : Nat) (v : Word) (s : State) : Out := .next (if (s.ctx x).y.sup then s.prstWrite v else s)

/-- The PARTRESET records of one queue in a reset of partition `n`: its running replay's, if that runs for the partition, then
one for each pending kick, if the queue belongs to it, in the order of SEQ (R51, step 3). -/
def State.resetQueue (s : State) (n q : Nat) : State :=
  let s1 := match s.replayOf q with
    | some r => if r.part = n then s.endReplay r 0x20 none else s
    | none => s
  (if (s1.queue q).part = n then (s1.queue q).pend else []).foldl (fun t k =>
    let now := t.pkgTime
    let u := (t.postCompletion q k.seq k.tag 0x20 none (t.queue q).part now now).ticked
    let u := u.updQueue q fun w => { w with pend := w.pend.drop 1 }
    if (u.queue q).ien then u.updSvc fun v => { v with toHost := v.toHost ++ [.msix (u.queue q).vec] } else u) s1

/-- PARTITION_RESET_COMPLETE: everything the partition held is freed, its replays and kicks end, and BUSY clears
(R51, steps 2 to 4). -/
def execPartitionResetComplete (n : Nat) (s : State) : Out :=
  .next (
    let xs := s.contextsOf n
    if !s.partBusy n || !xs.all s.spent || s.cmds.any (fun (m : Cmd) => m.part == n && m.ofLaunch && m.waiting) then s
    else if !xs.all s.quiet then xs.foldl State.endRuns s
    else
      let t := xs.foldl State.sweep s
      let qs := (t.svc.replays.filter fun r => r.part == n).map (·.queue)
      let gone (i : ReadyItem) : Bool := qs.contains i.queue
      let t := [0, 1].foldl (fun t d => t.updPlacer d fun p => { p with ready := p.ready.map fun l => l.filter fun i => !gone i }) t
      let t := { t with gangs := t.gangs.filter fun g => g.part != n,
                        cmds := t.cmds.filter fun (m : Cmd) => !(m.part == n && m.ofLaunch),
                        synmap := t.synmap.filter fun e => e.1 / 256 % 16 != n,
                        fltcnt := SMap.put 0#32 t.fltcnt n 0#32 }
      let owned := (t.svc.queues.filter fun e => e.2.part == n || qs.contains e.1).map (·.1)
      (owned.foldl (fun t q => t.resetQueue n q) t).setBusy n false)

/-! ## Re-placement (R73, R74) -/

/-- The result field of REPLACE on a die. -/
def State.replaceResult (s : State) (d code : Nat) : State :=
  s.setReg d 0x8D8 (toWord (setBits (s.reg d 0x8D8).toNat 59 3 code))

/-- What REPLACE does (R74): a write while BUSY is ignored; it acts on the placer of the die that holds X. -/
def State.replaceWrite (s : State) (v : Word) : State :=
  let x := bits v 0 11
  let d := dieOf (coreOf x)
  let c := s.ctx x
  if (s.placer d).replacing.isSome then s
  else
    let t := s.setReg d 0x8D8 (toWord (setBits (s.reg d 0x8D8).toNat 0 11 x))
    if !bitAt v 63 then t
    else match s.gang c.y.gang with
      | none => t.replaceResult d 3
      | some g =>
        if c.st == .free then t.replaceResult d 3
        else if g.rollback.isSome || !s.allStopped g then t.replaceResult d 2
        else t.updPlacer d fun p => { p with replacing := some x }

/-- REPLACE (R74). -/
def execReplace (x : Nat) (v : Word) (s : State) : Out := .next (if (s.ctx x).y.sup then s.replaceWrite v else s)

/-- The rank sets of a gang with the dies that each may stand on (R66): its home die is that of its replay's launch unit. -/
def Gang.rankSets (g : Gang) : List (List Nat × List Nat) :=
  let n := g.members.length
  if g.twoDies then [(List.range (n / 2), [0]), ((List.range (n - n / 2)).map (n / 2 + ·), [1])]
  else [(List.range n, [g.die, 1 - g.die])]

/-- Moves a member to a new slot, as CTX.SAVE and CTX.LOAD would, with its code and tables loaded there (R74, step 3). -/
def State.moveMember (s : State) (o : CodeObj) (n : Need) (old new : Nat) : State :=
  let k := coreOf new
  let c := s.ctx old
  let base := (s.imemBase k n).getD 0
  let tb := (s.tableBase k n).getD 0
  let t := [2 * coreOf old, 2 * coreOf old + 1].foldl (fun t l => if (t.ladle l).serving = some old then t.rewindLadle l else t) s
  let m := Mem.setBytes (Mem.setBytes (t.imageOf old) 160 (natLe (n.imsize * 2 ^ 32 + base) 8)) 224 (natLe tb 4)
  let kept := t.keptOf old
  let t := (t.vacate old).updGang c.y.gang fun g =>
    { g with members := g.members.map fun e => if e.2 == old then (e.1, 0xFFFF) else e }
  ((t.loadImage o n k base).loadTables o k tb).placeImage new m kept

/-- The ranks of a gang that a re-placement leaves or moves, with their slots; `none` when there are none to be had (R74, steps
1 and 2). The moved runs of a rank set go to one die (R66): the one where others of the set stay, if any do. -/
def State.chooseMoves (s : State) (g : Gang) (n : Need) : Option (List (Nat × Nat)) :=
  let at_ (r : Nat) : Nat := ((g.members.find? fun m => m.1 == r).map (·.2)).getD 0xFFFE
  let fine (r : Nat) : Bool := decide (2048 ≤ at_ r) || s.eligible g.part n.feat (coreOf (at_ r))
  let live (r : List Nat) : List Nat := r.filter fun k => decide (at_ k < 2048)
  let kept (ranks : List Nat) : List (Nat × Nat) :=
    ((Machine.runsOf g.within g.group ranks).filter fun r => r.all fine).flatMap fun r => (live r).map fun k => (k, at_ k)
  g.rankSets.foldl (fun acc x => match acc with
    | none => none
    | some got =>
      let go := ((Machine.runsOf g.within g.group x.1).filter fun r => !r.all fine).map live
      let dies := match kept x.1 with | [] => x.2 | m :: _ => [dieOf (coreOf m.2)]
      dies.findSome? fun d => placeRuns (s.slotOn n false) (unitsOn g.within d) go got)
    (some (g.rankSets.flatMap fun x => kept x.1))

/-- REPLACE_COMPLETE: the re-placement in progress on die `d` ends once what its members issued has completed
(R74, R414). A code object that cannot be read, or breaks its checks by now, fails the node (R33, R70): the gang is
terminated, and RESULT is NOFIT. -/
def execReplaceComplete (d : Nat) (s : State) : Out :=
  .next (match (s.placer d).replacing with
    | none => s
    | some x =>
      let fin (t : State) (code : Nat) : State := (t.updPlacer d fun p => { p with replacing := none }).replaceResult d code
      match s.gang (s.ctx x).y.gang with
      | none => fin s 3
      | some g =>
        if g.rollback.isSome || !s.allStopped g || s.partBusy g.part then fin s 2
        else
          let t := g.resident.foldl State.leaveWait s
          if !g.resident.all t.saveReady then t
          else match t.readObject (launchReq g.die g.part) g.obj with
            | (u, .error c) => fin (u.terminate g x c) 1
            | (u, .ok o) =>
              let n : Need := ⟨g.part, g.feat, g.obj, g.gen, o.imsize, o.region⟩
              match u.chooseMoves g n with
              | none => fin u 1
              | some slots =>
                let moves := slots.filterMap fun e => match g.members.find? fun m => m.1 == e.1 with
                  | some m => if m.2 < 2048 ∧ m.2 ≠ e.2 then some (m.2, e.2) else none
                  | none => none
                fin (moves.foldl (fun t m => t.moveMember o n m.1 m.2) u) 0)

end Sys2Proof.Machine
end

