-- ==== Sys2Proof/Machine/Scalar.lean ====
section
/-! DEFINITION. Classes 000 and 001: scalar register, predicate and immediate instructions
(06_scalar_control_system.md, R132 to R139). -/

namespace Sys2Proof.Machine

/-- The high 64 bits of the signed product (R135). -/
def mulHigh (a b : Word) : Word := intWord (a.toInt * b.toInt / (2 : Int) ^ 64)

/-- The high 64 bits of the unsigned product (R135). -/
def mulHighN (a b : Word) : Word := toWord (a.toNat * b.toNat / 2 ^ 64)

/-- The signed quotient, truncated toward zero; −1 for a zero divisor (R136). -/
def divS (a b : Word) : Word := if b = 0#64 then BitVec.allOnes 64 else intWord (a.toInt.tdiv b.toInt)

/-- The unsigned quotient; 2^64 − 1 for a zero divisor (R136). -/
def divN (a b : Word) : Word := if b = 0#64 then BitVec.allOnes 64 else toWord (a.toNat / b.toNat)

/-- The signed remainder, with the sign of the dividend; the dividend for a zero divisor (R136). -/
def remS (a b : Word) : Word := if b = 0#64 then a else intWord (a.toInt.tmod b.toInt)

/-- The unsigned remainder; the dividend for a zero divisor (R136). -/
def remN (a b : Word) : Word := if b = 0#64 then a else toWord (a.toNat % b.toNat)

/-- The number of leading zero bits among the low `n`. -/
def leadingZeros (v : Nat) : Nat → Nat
  | 0 => 0
  | n + 1 => if v.testBit n then 0 else 1 + leadingZeros v n

/-- The number of trailing zero bits among `n`, starting at bit `i`. -/
def trailingZeros (v i : Nat) : Nat → Nat
  | 0 => 0
  | n + 1 => if v.testBit i then 0 else 1 + trailingZeros v (i + 1) n

/-- The number of one bits among the low `n`. -/
def oneBits (v : Nat) : Nat → Nat
  | 0 => 0
  | n + 1 => boolNat (v.testBit n) + oneBits v n

/-- ADD (R135). -/
def execAdd (g : Guard) (d a b : SReg) (s : State) : Out := s.alu2 g 1 d a b (· + ·)

/-- SUB (R135). -/
def execSub (g : Guard) (d a b : SReg) (s : State) : Out := s.alu2 g 1 d a b (· - ·)

/-- AND (R135). -/
def execAnd (g : Guard) (d a b : SReg) (s : State) : Out := s.alu2 g 1 d a b (· &&& ·)

/-- OR (R135). -/
def execOr (g : Guard) (d a b : SReg) (s : State) : Out := s.alu2 g 1 d a b (· ||| ·)

/-- XOR (R135). -/
def execXor (g : Guard) (d a b : SReg) (s : State) : Out := s.alu2 g 1 d a b (· ^^^ ·)

/-- SHL (R135). -/
def execShl (g : Guard) (d a b : SReg) (s : State) : Out := s.alu2 g 1 d a b fun x y => x <<< (y.toNat % 64)

/-- SHR (R135). -/
def execShr (g : Guard) (d a b : SReg) (s : State) : Out := s.alu2 g 1 d a b fun x y => x >>> (y.toNat % 64)

/-- SAR (R135). -/
def execSar (g : Guard) (d a b : SReg) (s : State) : Out := s.alu2 g 1 d a b fun x y => x.sshiftRight (y.toNat % 64)

/-- MUL (R135). -/
def execMul (g : Guard) (d a b : SReg) (s : State) : Out := s.alu2 g 3 d a b (· * ·)

/-- MULH (R135). -/
def execMulh (g : Guard) (d a b : SReg) (s : State) : Out := s.alu2 g 3 d a b mulHigh

/-- MULHN (R135). -/
def execMulhn (g : Guard) (d a b : SReg) (s : State) : Out := s.alu2 g 3 d a b mulHighN

/-- DIV (R136). -/
def execDiv (g : Guard) (d a b : SReg) (s : State) : Out := s.alu2 g 20 d a b divS

/-- DIVN (R136). -/
def execDivn (g : Guard) (d a b : SReg) (s : State) : Out := s.alu2 g 20 d a b divN

/-- REM (R136). -/
def execRem (g : Guard) (d a b : SReg) (s : State) : Out := s.alu2 g 20 d a b remS

/-- REMN (R136). -/
def execRemn (g : Guard) (d a b : SReg) (s : State) : Out := s.alu2 g 20 d a b remN

/-- MIN (R135). -/
def execMin (g : Guard) (d a b : SReg) (s : State) : Out := s.alu2 g 1 d a b fun x y => if x.slt y then x else y

/-- MAX (R135). -/
def execMax (g : Guard) (d a b : SReg) (s : State) : Out := s.alu2 g 1 d a b fun x y => if x.slt y then y else x

/-- MINN (R135). -/
def execMinn (g : Guard) (d a b : SReg) (s : State) : Out := s.alu2 g 1 d a b fun x y => if x.ult y then x else y

/-- MAXN (R135). -/
def execMaxn (g : Guard) (d a b : SReg) (s : State) : Out := s.alu2 g 1 d a b fun x y => if x.ult y then y else x

/-- SEL: a if bit 0 of p[k] is 1, else b; every source's poison reaches the result (R134, R135). -/
def execSel (g : Guard) (d a b : SReg) (k : PReg) (s : State) : Out :=
  s.guarded g fun gp => s.holdS 1 d (if (s.rp k).getLsbD 0 then s.rs a else s.rs b) (gp || s.ps a || s.ps b || s.pp k)

/-- CLZ (R135). -/
def execClz (g : Guard) (d a : SReg) (s : State) : Out := s.alu1 g d a fun x => toWord (leadingZeros x.toNat 64)

/-- CTZ (R135). -/
def execCtz (g : Guard) (d a : SReg) (s : State) : Out := s.alu1 g d a fun x => toWord (trailingZeros x.toNat 0 64)

/-- POPC (R135). -/
def execPopc (g : Guard) (d a : SReg) (s : State) : Out := s.alu1 g d a fun x => toWord (oneBits x.toNat 64)

/-- CMP.cc: every bit of pd equals the test (R137). -/
def execCmpCc (g : Guard) (cc : BitVec 4) (pd : PReg) (a b : SReg) (s : State) : Out :=
  s.guarded g fun gp => s.holdP 1 pd (allBits (condition cc.toNat (s.rs a) (s.rs b))) (gp || s.ps a || s.ps b)

/-- PAND (R138). -/
def execPand (g : Guard) (pd pa pb : PReg) (s : State) : Out := s.pred2 g pd pa pb (· &&& ·)

/-- POR (R138). -/
def execPor (g : Guard) (pd pa pb : PReg) (s : State) : Out := s.pred2 g pd pa pb (· ||| ·)

/-- PXOR (R138). -/
def execPxor (g : Guard) (pd pa pb : PReg) (s : State) : Out := s.pred2 g pd pa pb (· ^^^ ·)

/-- PNOT (R138). -/
def execPnot (g : Guard) (pd pa : PReg) (s : State) : Out :=
  s.guarded g fun gp => s.holdP 1 pd (~~~ s.rp pa) (gp || s.pp pa)

/-- MOVP.PS: 64 bits of a predicate into a scalar register (R138). -/
def execMovpPs (g : Guard) (d : SReg) (pa : PReg) (q : BitVec 2) (s : State) : Out :=
  s.guarded g fun gp => s.holdS 1 d (toWord (natBits (s.rp pa).toNat (64 * q.toNat) 64)) (gp || s.pp pa)

/-- MOVP.SP: 64 bits of a predicate from a scalar register; the other bits keep their values, and the
destination it reads is a source of poison (R134, R138). -/
def execMovpSp (g : Guard) (pd : PReg) (a : SReg) (q : BitVec 2) (s : State) : Out :=
  s.guarded g fun gp =>
    s.holdP 1 pd (BitVec.ofNat 256 (setBits (s.rp pd).toNat (64 * q.toNat) 64 (s.rs a).toNat)) (gp || s.ps a || s.pp pd)

/-- MOVP.BC: every bit of pd from bit 0 of a scalar register (R138). -/
def execMovpBc (g : Guard) (pd : PReg) (a : SReg) (s : State) : Out :=
  s.guarded g fun gp => s.holdP 1 pd (allBits ((s.rs a).getLsbD 0)) (gp || s.ps a)

/-- ADDI with a sign-extended immediate (R139). -/
def execAddi (d a : SReg) (imm : BitVec 13) (s : State) : Out := s.aluImm d a fun x => x + imm.signExtend 64

/-- ANDI with a sign-extended immediate (R139). -/
def execAndi (d a : SReg) (imm : BitVec 13) (s : State) : Out := s.aluImm d a fun x => x &&& imm.signExtend 64

/-- ORI with a zero-extended immediate (R139). -/
def execOri (d a : SReg) (imm : BitVec 13) (s : State) : Out := s.aluImm d a fun x => x ||| imm.setWidth 64

/-- XORI with a zero-extended immediate (R139). -/
def execXori (d a : SReg) (imm : BitVec 13) (s : State) : Out := s.aluImm d a fun x => x ^^^ imm.setWidth 64

/-- SHLI (R139). -/
def execShli (d a : SReg) (n : BitVec 6) (s : State) : Out := s.aluImm d a fun x => x <<< n.toNat

/-- SHRI (R139). -/
def execShri (d a : SReg) (n : BitVec 6) (s : State) : Out := s.aluImm d a fun x => x >>> n.toNat

/-- SARI (R139). -/
def execSari (d a : SReg) (n : BitVec 6) (s : State) : Out := s.aluImm d a fun x => x.sshiftRight n.toNat

/-- MOVI: the sign-extended 18-bit immediate (R139). -/
def execMovi (d : SReg) (imm : BitVec 18) (s : State) : Out := .next (s.holdS 1 d (imm.signExtend 64) false)

/-- SHI: the destination shifted left by 18, with the immediate in its low bits (R139). -/
def execShi (d : SReg) (imm : BitVec 18) (s : State) : Out :=
  .next (s.holdS 1 d ((s.rs d <<< 18) ||| imm.setWidth 64) (s.ps d))

end Sys2Proof.Machine
end

