-- ==== Sys2Proof/Machine/Crypto.lean ====
section
/-! DEFINITION. SHA-512 and ECDSA on P-521, which the spec names and leaves to their standards (00_scope.md R6;
20_bringup_identity.md R452, R453, R461, R462). PRESUMED: both are taken from the standards, FIPS 180-4 and FIPS 186
(assumption log 7). -/

namespace Sys2Proof.Machine

/-- The number whose big-endian bytes are given. -/
def beNat (bs : List Byte) : Nat := bs.foldl (fun n b => 256 * n + b.toNat) 0

/-- The `n` big-endian bytes of a number. -/
def natBe (v : Nat) : Nat → List Byte
  | 0 => []
  | n + 1 => natBe (v / 256) n ++ [BitVec.ofNat 8 v]

/-! ## SHA-512 -/

/-- The largest number below `2 ^ n` whose `k`-th power is at most `v`, found bit by bit. -/
def rootBits (k v : Nat) : Nat → Nat → Nat
  | 0, r => r
  | n + 1, r => rootBits k v n (if (r + 2 ^ n) ^ k ≤ v then r + 2 ^ n else r)

/-- Is a number a prime? -/
def isPrime (n : Nat) : Bool := decide (2 ≤ n) && (List.range n).all fun d => decide (d < 2) || n % d != 0

/-- The first 64 bits of the fraction of the `k`-th root of a number. -/
def rootFraction (k v : Nat) : Word := BitVec.ofNat 64 (rootBits k (v * 2 ^ (64 * k)) 72 0)

/-- The first eighty primes are those below 410. -/
def shaPrimes : List Nat := (List.range 410).filter isPrime

/-- The round constants: from the cube roots of the first eighty primes. -/
def shaRounds : List Word := shaPrimes.map (rootFraction 3)

/-- The initial hash value: from the square roots of the first eight primes. -/
def shaStart : List Word := (shaPrimes.take 8).map (rootFraction 2)

/-- The message padded to blocks of 128 bytes with its length in bits. -/
def shaPad (m : List Byte) : List Byte :=
  m ++ 0x80#8 :: (List.replicate ((239 - m.length % 128) % 128) 0#8 ++ natBe (8 * m.length) 16)

/-- The small sigma functions of the message schedule. -/
def shaSigma0 (x : Word) : Word := x.rotateRight 1 ^^^ x.rotateRight 8 ^^^ x >>> 7
def shaSigma1 (x : Word) : Word := x.rotateRight 19 ^^^ x.rotateRight 61 ^^^ x >>> 6

/-- The message schedule from its last sixteen words, newest first: `n` more words. -/
def shaSchedule : Nat → List Word → List Word
  | 0, w => w
  | n + 1, w =>
    shaSchedule n ((shaSigma1 (w.getD 1 0#64) + w.getD 6 0#64 + shaSigma0 (w.getD 14 0#64) + w.getD 15 0#64) :: w)

/-- One round: the working variables a to h, and the sum of the round's constant and schedule word. -/
def shaRound (v : List Word) (kw : Word) : List Word :=
  match v with
  | [a, b, c, d, e, f, g, h] =>
    let t1 := h + (e.rotateRight 14 ^^^ e.rotateRight 18 ^^^ e.rotateRight 41) + ((e &&& f) ^^^ (~~~ e &&& g)) + kw
    let t2 := (a.rotateRight 28 ^^^ a.rotateRight 34 ^^^ a.rotateRight 39) + ((a &&& b) ^^^ (a &&& c) ^^^ (b &&& c))
    [t1 + t2, a, b, c, d + t1, e, f, g]
  | _ => v

/-- The hash value after one block of 128 bytes. -/
def shaBlock (hash : List Word) (block : List Byte) : List Word :=
  let w := (List.range 16).map fun i => (BitVec.ofNat 64 (beNat ((block.drop (8 * i)).take 8)) : Word)
  let sched := (shaSchedule 64 w.reverse).reverse
  List.zipWith (· + ·) hash ((List.zipWith (· + ·) shaRounds sched).foldl shaRound hash)

/-- The hash value after `n` blocks. -/
def shaBlocks : Nat → List Word → List Byte → List Word
  | 0, h, _ => h
  | n + 1, h, m => shaBlocks n (shaBlock h (m.take 128)) (m.drop 128)

/-- SHA-512 of a byte string. -/
def sha512 (m : List Byte) : List Byte :=
  let p := shaPad m
  (shaBlocks (p.length / 128) shaStart p).flatMap fun w => natBe w.toNat 8

/-! ## ECDSA on P-521 -/

/-- The field prime, the coefficient b (a is -3), the order of the group, and the base point of P-521. -/
def p521 : Nat := 2 ^ 521 - 1
def p521B : Nat :=
  0x0051953EB9618E1C9A1F929A21A0B68540EEA2DA725B99B315F3B8B489918EF109E156193951EC7E937B1652C0BD3BB1BF073573DF883D2C34F1EF451FD46B503F00
def p521Order : Nat :=
  0x01FFFFFFFFFFFFFFFFFFFFFFFFFFFFFFFFFFFFFFFFFFFFFFFFFFFFFFFFFFFFFFFFFA51868783BF2F966B7FCC0148F709A5D03BB5C9B8899C47AEBB6FB71E91386409
def p521Base : Nat × Nat :=
  (0x00C6858E06B70404E9CD9E3ECB662395B4429C648139053FB521F828AF606B4D3DBAA14B5E77EFE75928FE1DC127A2FFA8DE3348B3C1856A429BF97E7E31C2E5BD66,
   0x011839296A789A3BC0045C8A5FB42C7D1BD998F54449579B446817AFBD17273E662C97EE72995EF42640C550B9013FAD0761353C7086A272C24088BE94769FD16650)

/-- `b ^ e` modulo `m`, for an exponent of at most `n` bits. -/
def powMod (m b e : Nat) : Nat → Nat
  | 0 => 1
  | n + 1 =>
    let h := powMod m b (e / 2) n
    if e % 2 = 1 then h * h % m * b % m else h * h % m

/-- The inverse of a number modulo a prime. -/
def invMod (m v : Nat) : Nat := powMod m v (m - 2) 521

/-- The third point of the line of slope `l` through two points of the curve, mirrored: their sum. -/
def chord (l : Nat) (a b : Nat × Nat) : Nat × Nat :=
  let x := (l * l + 2 * p521 - a.1 - b.1) % p521
  (x, (l * (a.1 + p521 - x) + p521 - a.2) % p521)

/-- The sum of two points of the curve; none is the point at infinity. -/
def pointAdd : Option (Nat × Nat) → Option (Nat × Nat) → Option (Nat × Nat)
  | none, q => q
  | p, none => p
  | some a, some b =>
    if a.1 = b.1 then
      if (a.2 + b.2) % p521 = 0 then none
      else some (chord ((3 * a.1 * a.1 + 3 * (p521 - 1)) * invMod p521 (2 * a.2 % p521) % p521) a b)
    else some (chord ((b.2 + p521 - a.2) * invMod p521 ((b.1 + p521 - a.1) % p521) % p521) a b)

/-- A multiple of a point, for a factor of at most `n` bits. -/
def pointMul (k : Nat) (p : Option (Nat × Nat)) : Nat → Option (Nat × Nat)
  | 0 => none
  | n + 1 =>
    let h := pointMul (k / 2) p n
    let d := pointAdd h h
    if k % 2 = 1 then pointAdd d p else d

/-- A public key as an uncompressed point: 0x04, X, Y; none where it is no point of the curve. -/
def pointOf (key : List Byte) : Option (Nat × Nat) :=
  let x := beNat ((key.drop 1).take 66)
  let y := beNat ((key.drop 67).take 66)
  if key.head? = some 0x04#8 ∧ key.length = 133 ∧ x < p521 ∧ y < p521 ∧ (y * y + 3 * x) % p521 = (x * x * x + p521B) % p521
  then some (x, y) else none

/-- Does a signature, r then s of 66 bytes each, verify under a P-521 public key for a SHA-512 hash? -/
def ecdsaVerify (key sig hash : List Byte) : Bool :=
  match pointOf key with
  | none => false
  | some q =>
    let r := beNat (sig.take 66)
    let t := beNat ((sig.drop 66).take 66)
    let w := invMod p521Order t
    if r = 0 ∨ p521Order ≤ r ∨ t = 0 ∨ p521Order ≤ t then false
    else match pointAdd (pointMul (beNat hash * w % p521Order) (some p521Base) 521) (pointMul (r * w % p521Order) (some q) 521) with
      | none => false
      | some a => a.1 % p521Order == r

end Sys2Proof.Machine
end

