-- ==== Sys2Proof/Machine/March.lean ====
section
/-! DEFINITION. The boot ROM's march program as the spec lists it (20_bringup_identity.md, The march program, R454,
R458), and how a program of bundles becomes IMEM words (R82, R85). -/

namespace Sys2Proof.Machine

/-- One bundle of a listing: ADV and the slots with their positions, in canonical order. -/
structure SrcBundle where
  adv : Nat
  slots : List (Nat × Instr)
deriving DecidableEq, Repr

/-- The PMASK of a bundle's positions (R82). -/
def slotMask (ps : List Nat) : Byte := ps.foldl (fun m p => m ||| BitVec.twoPow 8 (7 - p)) 0#8

/-- The slot words, the stop bit set in the last (R85). -/
def slotWords : List (Nat × Instr) → List Word32
  | [] => []
  | [x] => [((encode x.2).getD 0#32) ||| BitVec.twoPow 32 31]
  | x :: xs => ((encode x.2).getD 0#32) :: slotWords xs

/-- The words of a bundle of VER 0 (R82, R85). -/
def SrcBundle.words (b : SrcBundle) : List Word32 :=
  Header.enc ⟨0#2, BitVec.ofNat 4 b.adv, slotMask (b.slots.map (·.1)), 0#8, 0#2, 0#3, false, 0#4⟩ :: slotWords b.slots

/-- Bundles 0 to 11 of the march program. -/
def marchPart0 : List SrcBundle :=
  [
    ⟨0, [(0, .sread 8#5 22#12), (1, .movi 12#5 1#18)]⟩,
    ⟨0, [(0, .movi 3#5 1#18), (1, .movi 11#5 3#18)]⟩,
    ⟨0, [(0, .shli 3#5 3#5 17#6), (1, .shi 11#5 262136#18)]⟩,
    ⟨0, [(0, .shri 8#5 8#5 2#6), (1, .movi 13#5 262143#18)]⟩,
    ⟨0, [(0, .andi 8#5 8#5 63#13), (1, .movi 14#5 65535#18)]⟩,
    ⟨0, [(0, .shli 17#5 8#5 20#6), (1, .movi 15#5 8#18)]⟩,
    ⟨0, [(0, .swrite 2562#12 12#5), (1, .movi 16#5 262136#18)]⟩,
    ⟨0, [(0, .movpBc ⟨0#3, false⟩ 2#3 12#5), (1, .movpBc ⟨0#3, false⟩ 3#3 0#5)]⟩,
    ⟨0, [(0, .add ⟨0#3, false⟩ 6#5 0#5 0#5), (1, .add ⟨0#3, false⟩ 7#5 0#5 0#5)]⟩,
    ⟨0, [(0, .brl ⟨0#3, false⟩ 22#19)]⟩,
    ⟨0, [(0, .movpBc ⟨0#3, false⟩ 2#3 0#5), (1, .movpBc ⟨0#3, false⟩ 3#3 12#5)]⟩,
    ⟨0, [(0, .add ⟨0#3, false⟩ 6#5 17#5 0#5), (1, .movi 7#5 65536#18)]⟩ ]

/-- Bundles 12 to 23 of the march program. -/
def marchPart1 : List SrcBundle :=
  [
    ⟨0, [(0, .brl ⟨0#3, false⟩ 14#19)]⟩,
    ⟨0, [(0, .swrite 2562#12 0#5), (1, .minn ⟨0#3, false⟩ 9#5 9#5 14#5)]⟩,
    ⟨0, [(0, .shli 9#5 9#5 32#6), (1, .shli 19#5 12#5 63#6)]⟩,
    ⟨0, [(0, .or ⟨0#3, false⟩ 9#5 9#5 19#5)]⟩,
    ⟨0, [(0, .swrite 2561#12 9#5)]⟩,
    ⟨0, [(0, .exit)]⟩,
    ⟨0, [(0, .add ⟨0#3, false⟩ 29#5 31#5 0#5), (1, .movpBc ⟨0#3, false⟩ 1#3 0#5)]⟩,
    ⟨0, [(0, .add ⟨0#3, false⟩ 1#5 6#5 0#5), (1, .add ⟨0#3, false⟩ 2#5 15#5 0#5)]⟩,
    ⟨0, [(0, .brl ⟨0#3, false⟩ 39#19), (1, .add ⟨0#3, false⟩ 5#5 0#5 0#5)]⟩,
    ⟨0, [(0, .add ⟨0#3, false⟩ 1#5 6#5 0#5), (1, .movpBc ⟨0#3, false⟩ 1#3 12#5)]⟩,
    ⟨0, [(0, .add ⟨0#3, false⟩ 4#5 0#5 0#5), (1, .add ⟨0#3, false⟩ 5#5 13#5 0#5)]⟩,
    ⟨0, [(0, .brl ⟨0#3, false⟩ 30#19)]⟩ ]

/-- Bundles 24 to 35 of the march program. -/
def marchPart2 : List SrcBundle :=
  [
    ⟨0, [(0, .add ⟨0#3, false⟩ 1#5 6#5 0#5), (1, .add ⟨0#3, false⟩ 4#5 13#5 0#5)]⟩,
    ⟨0, [(0, .brl ⟨0#3, false⟩ 25#19), (1, .add ⟨0#3, false⟩ 5#5 0#5 0#5)]⟩,
    ⟨0, [(0, .add ⟨0#3, false⟩ 1#5 6#5 11#5), (1, .add ⟨0#3, false⟩ 2#5 16#5 0#5)]⟩,
    ⟨0, [(0, .add ⟨0#3, false⟩ 4#5 0#5 0#5), (1, .add ⟨0#3, false⟩ 5#5 13#5 0#5)]⟩,
    ⟨0, [(0, .brl ⟨0#3, false⟩ 16#19)]⟩,
    ⟨0, [(0, .add ⟨0#3, false⟩ 1#5 6#5 11#5), (1, .add ⟨0#3, false⟩ 4#5 13#5 0#5)]⟩,
    ⟨0, [(0, .brl ⟨0#3, false⟩ 11#19), (1, .add ⟨0#3, false⟩ 5#5 0#5 0#5)]⟩,
    ⟨0, [(0, .add ⟨0#3, false⟩ 1#5 6#5 0#5), (1, .add ⟨0#3, false⟩ 2#5 15#5 0#5)]⟩,
    ⟨0, [(0, .brl ⟨0#3, false⟩ 5#19), (1, .add ⟨0#3, false⟩ 4#5 0#5 0#5)]⟩,
    ⟨0, [(0, .brs ⟨0#3, false⟩ 0#5 29#5)]⟩,
    ⟨0, [(0, .add ⟨0#3, false⟩ 30#5 31#5 0#5)]⟩,
    ⟨0, [(0, .loop ⟨0#3, false⟩ 0#2 3#5)]⟩ ]

/-- Bundles 36 to 46 of the march program. -/
def marchPart3 : List SrcBundle :=
  [
    ⟨2, [(6, .ld ⟨2#3, false⟩ 3#2 false 10#5 1#5 0#6), (7, .ld ⟨3#3, false⟩ 3#2 true 10#5 1#5 0#6)]⟩,
    ⟨0, [(0, .cmpCc ⟨1#3, false⟩ 1#4 4#3 10#5 4#5), (1, .add ⟨0#3, false⟩ 1#5 1#5 2#5), (6, .st ⟨2#3, false⟩ 3#2 false 5#5 1#5 0#6), (7, .st ⟨3#3, false⟩ 3#2 true 5#5 1#5 0#6)]⟩,
    ⟨0, [(0, .brl ⟨4#3, false⟩ 5#19)]⟩,
    ⟨0, []⟩,
    ⟨0, [(0, .brs ⟨0#3, false⟩ 0#5 30#5)]⟩,
    ⟨0, [(0, .sub ⟨0#3, false⟩ 21#5 1#5 2#5), (1, .addi 9#5 9#5 1#13)]⟩,
    ⟨0, [(0, .shli 20#5 21#5 44#6), (1, .cmpCc ⟨0#3, false⟩ 1#4 4#3 0#5 0#5)]⟩,
    ⟨0, [(0, .shri 20#5 20#5 50#6)]⟩,
    ⟨0, [(0, .or ⟨0#3, false⟩ 20#5 20#5 7#5)]⟩,
    ⟨0, [(0, .swrite 2563#12 20#5)]⟩,
    ⟨0, [(0, .brs ⟨0#3, false⟩ 0#5 31#5)]⟩ ]

/-- The march program: 125 words. -/
def marchWords : List Word32 :=
  (marchPart0 ++ marchPart1 ++ marchPart2 ++ marchPart3).flatMap SrcBundle.words

/-- Its loop level L0: kind T from m_top at word 98 to m_end at word 108. -/
def marchLoop : Word := 0x40000000006C0062#64

/-- The image as bytes. -/
def marchImage : List Byte := marchWords.flatMap fun w => natLe w.toNat 4

end Sys2Proof.Machine
end

