-- ==== Sys2Proof/Machine/Pantry.lean ====
section
/-! DEFINITION. The Pantry's changes and how running work learns of them (03_placing_work.md R52 to R61), operating points
(R75 to R77), and the error counters' thresholds (15_interruptions.md R417, R418). -/

namespace Sys2Proof.Machine

/-! ## Records (R52, R53) -/

/-- The base record number and the count of a kind (R52). -/
def panBase : Nat → Nat × Nat
  | 1 => (0, 2) | 2 => (2, 8) | 3 => (10, 512) | 4 => (522, 64) | 5 => (586, 1024) | 6 => (1610, 12) | 7 => (1622, 32)
  | 8 => (1654, 1) | _ => (0, 0)

/-- Is a CAP in the range of R53 for a kind? -/
def capOk (kind cap : Nat) : Bool :=
  match kind with
  | 5 => cap == 0
  | 6 => decide (cap ≤ 16)
  | 7 => cap == 1 || cap == 2 || cap == 4
  | 8 => cap == 4 || cap == 8 || cap == 16
  | _ => decide (cap ≤ 7)

/-- A staged record: its number and contents, none when a field is out of range (R57). -/
def stagedRec (b : List Byte) : Option (Nat × PanRec) :=
  let w := fieldAt b 0 8
  let kind := natBits w 56 8
  let index := natBits w 45 11
  let state := natBits w 40 2
  let cap := natBits w 32 8
  let feat := fieldAt b 8 8
  if (panBase kind).2 ≤ index ∨ natBits w 42 3 ≠ 0 ∨ state = 3 ∨ capOk kind cap = false ∨ (if kind = 3 then feat / 2 ^ 14 else feat) ≠ 0
  then none
  else some ((panBase kind).1 + index, ⟨state, cap, 0#32, toWord feat⟩)

/-- The staged records, none when one is bad. -/
def stagedRecs : List (List Byte) → Option (List (Nat × PanRec))
  | [] => some []
  | b :: bs => match stagedRec b, stagedRecs bs with
    | some r, some rs => some (r :: rs)
    | _, _ => none

/-- Does a number stand twice in a list? -/
def hasDup : List Nat → Bool
  | [] => false
  | x :: xs => xs.contains x || hasDup xs

/-- The die of a record's unit. -/
def recordDie (r : Nat) : Nat :=
  let k := panKind r
  match k.1 with
  | 1 => k.2 | 2 => k.2 / 4 | 3 => k.2 / 256 | 4 => k.2 / 32 | 5 => k.2 / 512 | 6 => k.2 / 6 | 7 => k.2 / 16 | _ => 0

/-! ## Operating points (R56, R77) -/

/-- Updates the Pantry. -/
def State.updPantry (s : State) (f : Pantry → Pantry) : State := s.updSvc fun v => { v with pantry := f v.pantry }

/-- Every domain looks at its point again. -/
def State.retargetAll (s : State) : State := (List.range 512).foldl (fun t k => t.retarget k) s

/-- OP_SETTLE_COMPLETE: domain `m`, a core or 512 + an octet, runs at its new point; a core rises only after its octet
(R77). -/
def execOpSettleComplete (m : Nat) (s : State) : Out :=
  .next (
    if m < 512 then
      match (s.core m).settling with
      | none => s
      | some p =>
        let lim := min p.toNat (s.capOf (522 + octetOf m))
        if decide ((s.core m).opcur.toNat < p.toNat ∧ (s.octet (octetOf m)).op.toNat < lim) then s
        else (s.updCore m fun c => { c with opcur := p, settling := none }).retarget m
    else
      let o := m - 512
      match (s.octet o).settling with
      | none => s
      | some p => { s with octets := SMap.put Octet.reset s.octets o { s.octet o with op := p, settling := none } }.retargetOctet o)

/-! ## Commits (R56, R57) -/

/-- A change joins the queue; caps fall as soon as it is applied (R56). -/
def State.queueChange (s : State) (c : PanChange) : State :=
  (s.updPantry fun p => { p with queue := p.queue ++ [c] }).retargetAll

/-- The requester of the Pantry's own accesses in the supervisor's space. -/
def pantryReq : Req :=
  { part := 0, sup := true, ctx := 0xFFFF, agent := 6, die := 0, lcc := 0#64, pc := 0#64, gang := 0 }

/-- What a write of PANCTL does (R57): a commit is read from PANSTG, and is queued or rejected as a whole. DESIGN CHOICE (log
41): a commit that is to be rejected on several grounds reports the first of BADREC, DUP, HWFENCE, and an NREC above 1,655 is
ignored. -/
def State.pantryWrite (s : State) (v : Word) : State :=
  let n := bits v 32 11
  let err (t : State) (e : Nat) : State := t.updPantry fun p => { p with err := e }
  if n = 0 ∨ 1655 < n ∨ (s.svc.pantry.queue.any fun c => !c.hw) then s
  else match s.readLines pantryReq (s.reg 0 0x810) (ceilDiv n 4) with
    | (t, none) => err t 1
    | (t, some bs) => match stagedRecs (cut 16 n bs) with
      | none => err t 1
      | some rs =>
        if hasDup (rs.map (·.1)) then err t 3
        else if rs.any fun r => SMap.at false t.svc.pantry.hwf r.1 then err t 2
        else t.queueChange ⟨rs, false⟩

/-- PANTRY_COMMIT (R57). -/
def execPantryCommit (x : Nat) (v : Word) (s : State) : Out := .next (if (s.ctx x).y.sup then s.pantryWrite v else s)

/-! ## Publication (R56, R58, R59, R61) -/

/-- The version after this one: it wraps to 1 (R56). -/
def nextVersion (v : BitVec 32) : BitVec 32 := if v = BitVec.allOnes 32 then 1#32 else v + 1#32

/-- Writes one record to the map at PANMAP; false when the line cannot be written (R56, step 2). -/
def State.mapRecord (s : State) (r : Nat) : State × Bool :=
  let va := s.reg 0 0x811 + toWord (16 * r)
  if !s.ownPackage va then (s, false)
  else match s.writeGlob pantryReq va (natLe ((s.pan r).word0 r).toNat 8 ++ natLe (s.pan r).feat.toNat 8) false with
    | (t, none) => (t, true)
    | (t, some _) => (t, false)

/-- Is a partition affected by a change (R58)? -/
def State.affected (s : State) (part : Nat) (rs : List Nat) : Bool :=
  let inSet (c : Nat) : Bool := bitAt (s.reg 0 (0x820 + part)) (48 + c)
  rs.any fun r =>
    let k := panKind r
    match k.1 with
    | 2 => inSet k.2
    | 3 => inSet (clusterOf k.2)
    | 4 => inSet (k.2 / 8)
    | 5 => inSet (k.2 / 128)
    | _ => true

/-- Does a record belong to a core, its octet's Griddle, its Ladles, its cluster or its die (R154)? -/
def ownRecord (k r : Nat) : Bool :=
  r == 10 + k || r == 522 + octetOf k || r == 586 + 2 * k || r == 587 + 2 * k || r == 2 + clusterOf k || r == dieOf k

/-- What a context learns of a change that affects it (R59, R154). -/
def Ctx.tell (c : Ctx) (k : Nat) (mask : Bool) (rs : List Nat) : Ctx :=
  let kinds := rs.foldl (fun b r => b ||| BitVec.twoPow 8 ((panKind r).1 - 1)) c.y.ackKinds
  { c with y := { c.y with ackNver := BitVec.ofNat 8 (min 255 (c.y.ackNver.toNat + 1)), ackKinds := kinds,
                           ackMask := c.y.ackMask || mask, ackOwn := c.y.ackOwn || rs.any (ownRecord k) } }

/-- Tells one context of a change from `old` (the machine before it) (R58, R59). -/
def State.tellCtx (s old : State) (rs : List Nat) (x : Nat) : State :=
  let c := s.ctx x
  if c.st == .free || c.exiting then s
  else if c.y.sup || s.affected c.y.part rs then
    s.upd x fun c => c.tell (coreOf x) (s.effMask (coreOf x) != old.effMask (coreOf x)) rs
  else if c.y.panv == old.svc.pantry.ver then s.upd x fun c => { c with y := { c.y with panv := s.svc.pantry.ver } }
  else s

/-- Has a member's core, or pair, lost what its code object needs (R61)? -/
def State.lost (s : State) (x : Nat) : Bool :=
  let c := s.ctx x
  let k := coreOf x
  c.st != .free && !c.y.sup && !c.exiting
  && ((c.y.ctxfeat &&& ~~~ s.effMask k) != 0#64 || (s.protectedPart c.y.part && (c.y.ctxfeat &&& ~~~ s.effMask (k + 1)) != 0#64))

/-- Suspends a gang for its member `x`, which the record names (R61): `x` when it runs, and every other running member. -/
def State.suspendFor (s : State) (x reason : Nat) : State :=
  if (s.ctx x).st == .running && !(s.ctx x).exiting then s.suspendGang x reason 0 15 0#64
  else ((s.gangContexts (s.ctx x).y.gang).filter fun m => m != x && ((s.ctx m).st == .running) && !(s.ctx m).exiting).foldl
    (fun t m => (t.postSuspend m 5 0 15 0#64).stopCtx m .suspended) (s.postSuspend x reason 0 15 0#64)

/-- The suspensions of a change from `old`: a gang in rollback is left alone (R61, R422). -/
def State.suspendLost (s old : State) : State :=
  s.gangs.foldl (fun t g =>
    if g.rollback.isSome then t
    else match g.resident.find? fun x => t.lost x && !old.lost x with
      | some x => t.suspendFor x 4
      | none => t) s

/-- What a change does to its units: the link of an UP port that is fenced is dead, the commands of a fenced Griddle are
abandoned (R311, R469), and joins that waited for a serving port look again (R393). -/
def State.fenceUnits (s old : State) (rs : List Nat) : State :=
  let newly := rs.filter fun r => s.fenced r && !old.fenced r
  let t := newly.foldl (fun t r => match panKind r with
    | (7, p) => if t.portUp p then t.declareDead p else t
    | (4, o) => t.abandonGriddle o
    | _ => t) s
  if rs.any fun r => (panKind r).1 == 7 then t.sendJoins none else t

/-- Have all core domains whose cap falls with the change being applied settled at their new point (R56, step 1)? -/
def State.capsSettled (s : State) : Bool :=
  let old := s.updPantry fun p => { p with queue := [] }
  (List.range 512).all fun k =>
    decide (old.groupCap k ≤ s.groupCap k) || ((s.core k).settling.isNone && decide ((s.core k).opcur.toNat ≤ s.groupCap k))

/-- The records that a change writes: a hardware fence sets its record, as it stands by then, to FENCED (R56). -/
def State.changed (s : State) (ch : PanChange) : List (Nat × PanRec) :=
  if ch.hw then ch.recs.map fun r => (r.1, { s.pan r.1 with state := 2 }) else ch.recs

/-- Publishes a change (R56, steps 2 to 5); HALTED supervisor contexts take the event (R60, R160). -/
def State.publish (s : State) (ch : PanChange) : State :=
  let ver := nextVersion s.svc.pantry.ver
  let rs := ch.recs.map (·.1)
  let s1 := s.updPantry fun p =>
    { p with recs := (s.changed ch).foldl (fun m r => SMap.put PanRec.zero m r.1 { r.2 with ver := ver }) p.recs, queue := p.queue.drop 1 }
  let (s2, ok) := rs.foldl (fun (acc : State × Bool) r => let u := acc.1.mapRecord r; (u.1, acc.2 && u.2)) (s1, true)
  let s3 := s2.updPantry fun p => { p with ver := ver, err := if !ok then 4 else if ch.hw then p.err else 0 }
  let s4 := (List.range 2048).foldl (fun t x => t.tellCtx s rs x) s3
  ((((s4.wakeHalted 0).wakeHalted 1).fenceUnits s rs).suspendLost s).retargetAll

/-- PANTRY_PUBLISH: the change being applied is published once the domains whose caps fall have settled (R56). -/
def execPantryPublish (s : State) : Out :=
  .next (match s.svc.pantry.queue with
    | [] => s
    | ch :: _ => if s.capsSettled then s.publish ch else s)

/-- GRACE_EXPIRY: a resident member that has not acknowledged has its gang suspended (R60, R61). -/
def execGraceExpiry (x : Nat) (s : State) : Out :=
  .next (
    let c := s.ctx x
    if s.panPending x && !c.y.sup && c.st == .running && !s.inTransit x then s.suspendGang x 3 0 15 0#64 else s)

/-! ## Error thresholds (R417, R418) -/

/-- ERRCFG of a record's kind. -/
def State.errcfg (s : State) (r : Nat) : Word := s.reg 0 (0x990 + (panKind r).1)

/-- The UE threshold of a record: 0 and values above 16 act as 16 (R417). -/
def State.ueThreshold (s : State) (r : Nat) : Nat :=
  let t := bits (s.errcfg r) 16 5
  if t = 0 ∨ 16 < t then 16 else t

/-- The ERRLIM record (R418). -/
def State.postErrlim (s : State) (r flags : Nat) : State :=
  let e := s.errs r
  (s.post (32 + recordDie r) (recordBytes [(0, 1, 0x50), (1, 1, flags), (2, 2, r), (4, 4, e.ce * 65536 + e.ue), (8, 8, e.addr.toNat),
    (16, 8, (s.pkgTime).toNat)])).ticked

/-- ERROR_THRESHOLD: the counts of a record have reached a threshold; at sixteen errors the hardware fences it (R418). -/
def execErrorThreshold (r : Nat) (s : State) : Out :=
  .next (
    let e := s.errs r
    let cethr := bits (s.errcfg r) 0 16
    let ue := decide (s.ueThreshold r ≤ e.ue) && !e.ueTold
    let ce := decide (cethr ≠ 0 ∧ cethr ≤ e.ce) && !e.ceTold
    let hw := e.ue == 16 && !SMap.at false s.svc.pantry.hwf r
    if 1655 ≤ r ∨ (!ue && !ce && !hw) then s
    else
      let t := (s.postErrlim r (packFields [(2, boolNat hw), (1, boolNat ce), (0, boolNat ue)])).updErrs r fun e =>
        { e with ueTold := e.ueTold || ue, ceTold := e.ceTold || ce }
      if hw then
        (t.updPantry fun p => { p with hwf := SMap.put false p.hwf r true }).queueChange ⟨[(r, { t.pan r with state := 2 })], true⟩
      else t)

/-- ERROR_WINDOW_EXPIRY: the counters of a kind are cleared at the end of its window (R417). -/
def execErrorWindowExpiry (k : Nat) (s : State) : Out :=
  .next (s.updSvc fun v => { v with errs := v.errs.filter fun e => (panKind e.1).1 != k })

/-- HBM_LANE_DRIFT: a lane drift beyond correction counts one error event on the stack (R264, R417). -/
def execHbmLaneDrift (sk : Nat) (s : State) : Out := .next (if 12 ≤ sk then s else s.countUE (1610 + sk) 1 0#64)

end Sys2Proof.Machine
end

