-- ==== Sys2Proof/Machine/Services.lean ====
section
/-! DEFINITION. Services that registers start: invalidation of translations (10_feeding_data.md R271), page migration
(15_interruptions.md R424 to R426), split levels and their records (05_issuing_in_logical_time.md R127, R129;
15_interruptions.md R407; 20_bringup_identity.md R464), power (R434), and the writes of partition, ring, channel and
sync-object registers (R46, R62, R63, R125, R162, R253, R258, R275, R363). -/

namespace Sys2Proof.Machine

/-- Is the requester of a register write a supervisor context (R12, R104)? -/
def State.isSup (s : State) (x : Nat) : Bool := decide (x < 2048) && (s.ctx x).y.sup

/-! ## Translations (R271, R362) -/

/-- The space that a TLBINV or MIGCTL value names (R271, R424): SUPS at `b`, PART at 50. -/
def spaceNamed (v : Word) (b : Nat) : Nat := if bitAt v b then 16 else bits v 50 4

/-- Does a monitor entry's waiter belong to what a TLBINV value names (R362)? -/
def Monitor.named (m : Monitor) (v : Word) : Bool :=
  spaceOf m.sup m.part == spaceNamed v 62 && (bitAt v 63 || bits m.va 21 29 == bits v 21 29)

/-- Does a cached translation fall to a TLBINV value (R271)? -/
def TlbEntry.named (e : TlbEntry) (v : Word) : Bool :=
  e.space == spaceNamed v 62 && (bitAt v 63 || decide (e.base / 2 ^ 16 ≤ bits v 16 34 ∧ bits v 16 34 < (e.base + 2 ^ e.size) / 2 ^ 16))

/-- Wakes the waiters of a die that a TLBINV value names (R362). -/
def State.wakeNamed (s : State) (die : Nat) (v : Word) : State :=
  (s.monitors.filter fun m => m.die == die && m.named v).foldl State.wake s

/-- What a write of TLBINV does: the invalidation is pending, and the waiters wake at once (R271). -/
def State.tlbinvWrite (s : State) (die : Nat) (v : Word) : State :=
  (s.updSvc fun w => { w with tlbinv := w.tlbinv ++ [⟨die, v⟩] }).wakeNamed die v

/-- TLBINV (R271). -/
def execTlbinv (x : Nat) (v : Word) (s : State) : Out :=
  .next (if s.isSup x then s.tlbinvWrite (dieOf (coreOf x)) v else s)

/-- Removes what a TLBINV value names from the TLBs of a die. -/
def State.dropTlb (s : State) (die : Nat) (v : Word) : State :=
  { s with tlb := s.tlb.filter fun e => !(e.die == die && e.named v) }

/-- TLBINV_COMPLETE: the oldest pending invalidation of a die (R271). -/
def execTlbinvComplete (d : Nat) (s : State) : Out :=
  .next (match s.svc.tlbinv.find? fun t => t.die == d with
    | none => s
    | some t => (s.dropTlb d t.v).updSvc fun w => { w with tlbinv := w.tlbinv.erase t })

/-! ## Migration (R424, R425) -/

/-- The migration unit of a die. -/
def State.mig (s : State) (d : Nat) : MigUnit := SMap.at MigUnit.idle s.svc.migs d

/-- Updates the migration unit of a die. -/
def State.updMig (s : State) (d : Nat) (f : MigUnit → MigUnit) : State :=
  s.updSvc fun w => { w with migs := SMap.put MigUnit.idle w.migs d (f (s.mig d)) }

/-- The address of the leaf that maps an offset, with the leaf and log2 of its page: none when the leaf is invalid,
poisoned or breaks R269 (R425). -/
def State.leafOf (s : State) (die off : Nat) : Nat → Nat → Nat → Option (Nat × Word × Nat)
  | 0, _, _ => none
  | fuel + 1, level, table =>
    let a := table + 8 * walkIndex off level
    let k := hbmKey die a
    let e := Mem.word s.hbm.bytes k
    if s.hbm.poisoned 6 k || !bitAt e 63 || badEntry e level then none
    else if bitAt e 60 then some (a, e, if level = 2 then 21 else 16)
    else State.leafOf s die off fuel (level + 1) (bits e 8 31 * 256)

/-- The leaf of a page of a space on a die. -/
def State.pageLeaf (s : State) (die space off : Nat) : Option (Nat × Word × Nat) :=
  let root := s.reg die (rootOf space)
  if bitAt root 63 then s.leafOf die off 4 0 (bits root 14 25 * 16384) else none

/-- What a write of MIGCTL does: ignored while BUSY; GO starts a migration (R424). A page without a leaf starts one
that aborts. -/
def State.migctlWrite (s : State) (d : Nat) (v : Word) : State :=
  let m := s.mig d
  if m.run.isSome then s
  else
    let t := s.updMig d fun m => { m with ctl := toWord (bits v 16 39 * 2 ^ 16) }
    if !bitAt v 60 then t
    else
      let space := spaceNamed v 54
      let off := bits v 16 34 * 65536
      let run : Migration := match s.pageLeaf d space off with
        | some (_, e, n) => ⟨space, off / 2 ^ n * 2 ^ n, n, bits e 8 31 * 256, m.dst.toNat⟩
        | none => ⟨space, off, 0, 0, m.dst.toNat⟩
      t.updMig d fun m => { m with run := some run, result := 0 }

/-- MIGRATION_START (R424). -/
def execMigrationStart (x : Nat) (v : Word) (s : State) : Out :=
  .next (if s.isSup x then s.migctlWrite (dieOf (coreOf x)) v else s)

/-- The place that a physical address inside a moved page has now. -/
def Migration.moved (m : Migration) (pa : Nat) : Nat := if m.src ≤ pa ∧ pa < m.src + 2 ^ m.size then pa - m.src + m.dst else pa

/-- A location after a migration on a die. -/
def Migration.loc (m : Migration) (d : Nat) : Loc → Loc
  | .phys die pa va => if die = d then .phys die (m.moved pa) va else .phys die pa va
  | l => l

/-- An operation's kind after a migration: the held writes go to the new page (R425). -/
def Migration.kind (m : Migration) (d : Nat) : OpKind → OpKind
  | .read ls z b r => .read (ls.map fun l => l.map (m.loc d)) z b r
  | .write ws => .write (ws.map fun w => (m.loc d w.1, w.2))
  | .atom f l z v w => .atom f (m.loc d l) z v w
  | .amxacc l e a => .amxacc (m.loc d l) e a
  | k => k

/-- An undo entry after a migration: the line it restores has moved. -/
def Migration.undo (m : Migration) (d : Nat) : UndoItem → UndoItem
  | .line die pa o p => if die = d then .line die (m.moved pa) o p else .line die pa o p
  | u => u

/-- A line in progress after a migration. -/
def Migration.line (m : Migration) (d : Nat) : LineAt → LineAt
  | .hbm die pa va => if die = d then .hbm die (m.moved pa) va else .hbm die pa va
  | l => l

/-- Who reads for a migration: a Ladle that the supervisor has reserved (R424). PRESUMED (log 43): Ladle 0, and its reads have no
virtual address, so that R274 gives them space 7. -/
def migReader (d : Nat) : Req := { part := 0, sup := true, ctx := 0xFFFF, agent := 1, die := d, lcc := 0#64, pc := 0#64, gang := 0 }

/-- Copies a page line by line; the flag tells whether a line was poisoned (R425). Each line is read once: its errors are found, and
a poisoned line that nothing has read posts its record (R264). -/
def State.copyPage (s : State) (d : Nat) (m : Migration) : State × Bool :=
  (List.range (2 ^ m.size / 64)).foldl (fun acc i =>
    let pa := m.src + 64 * i
    let t := acc.1.noticePoison (migReader d) (physAddr pa) d pa 64
    let p := t.hbm.poisoned 6 (hbmKey d pa)
    (t.writeHbmNow 0 d (m.dst + 64 * i) (Mem.bytes t.hbm.bytes (hbmKey d pa) 64) p, acc.2 || p)) (s, false)

/-- The pieces of `bs` in the 64 B lines from `pa` on. -/
def splitLines (pa : Nat) (bs : List Byte) : List (Nat × List Byte) :=
  (unitsOf 6 pa bs.length).map fun u =>
    let lo := max pa (64 * u)
    (lo, (bs.drop (lo - pa)).take (64 * u + 64 - lo))

/-- A migration is over: the writes that it has held take place, each line at `dest` (R425). -/
def State.releaseHeld (s : State) (d result : Nat) (dest : Nat → Nat) : State :=
  let held := (s.mig d).held
  held.foldl (fun t h => (splitLines h.1 h.2.1).foldl (fun t l => t.writeHbmNow h.2.2.2 d (dest l.1) l.2 h.2.2.1) t)
    (s.updMig d fun u => { u with run := none, held := [], result := result })

/-- Ends a migration without effect: RESULT ABORTED, the held writes go to the old page, and a MIGABORT record has the offset of
the first failing line. -/
def State.abortMig (s : State) (d : Nat) (m : Migration) (line : Nat) : State :=
  (s.releaseHeld d 2 id).post (32 + d)
    (recordBytes [(0, 1, 0x51), (1, 1, m.space % 16), (8, 8, m.off + line), (16, 8, m.dst)])

/-- MIGRATION_COMPLETE: the page is copied, its leaf and everything held point to the copy; or the migration aborts,
for a missing leaf, a destination that is not aligned, or one outside the die's memory (R424, R425). -/
def execMigrationComplete (d : Nat) (s : State) : Out :=
  .next (match (s.mig d).run with
    | none => s
    | some m => match s.pageLeaf d m.space m.off with
      | none => s.abortMig d m 0
      | some (a, e, n) =>
        if n ≠ m.size ∨ m.dst % 2 ^ n ≠ 0 ∨ hbmSize ≤ m.dst then s.abortMig d m 0
        else if hbmSize < m.dst + 2 ^ n then s.abortMig d m (hbmSize - m.dst)
        else
          let c := s.copyPage d m
          let leaf := toWord (setBits e.toNat 8 31 (m.dst / 256))
          let t := c.1.writeHbmNow 0 d a (natLe leaf.toNat 8) false
          let inv := toWord (boolNat (m.space == 16) * 2 ^ 62 + m.space % 16 * 2 ^ 50 + m.off)
          let u := (t.dropTlb d inv).wakeNamed d inv
          { u with ops := u.ops.map fun (o : Op) => { o with kind := m.kind d o.kind },
                   cmds := u.cmds.map fun (x : Cmd) => { x with spot := x.spot.map (m.line d) },
                   elems := u.elems.map fun (e : Elem) => { e with spots := e.spots.map (m.line d) },
                   gangs := u.gangs.map fun (g : Gang) => { g with undo := g.undo.map (m.undo d) } }.releaseHeld d
            (if c.2 then 1 else 0) m.moved)

/-! ## Split levels (R127, R129, R407, R464) -/

/-- The split level of a core: the higher of the throttle level and ISSCFG.FLOOR (R127). -/
def State.levelOf (s : State) (k : Nat) : BitVec 2 :=
  let f := (s.reg k 0x800).extractLsb' 0 2
  if (s.core k).thr < f then f else (s.core k).thr

/-- Brings the level of a core into force: when it changes, THR is set in every context, an event is due in those with
THRN, and each partition with a running context gets a THROTTLE record (R407). -/
def State.setLevel (s : State) (k cause : Nat) : State :=
  let new := s.levelOf k
  let old := (s.core k).lvl
  if new = old then s
  else
    let xs := (List.range 4).map fun j => 4 * k + j
    let t := xs.foldl (fun t x => t.upd x fun c =>
      { c with e := { c.e with thr := true,
                               thrEvent := if c.st != .free && c.e.thrn then some (new, old) else c.e.thrEvent } })
      (s.updCore k fun c => { c with lvl := new })
    let parts := (List.range 16).filter fun n => xs.any fun x =>
      let c := s.ctx x
      (c.st == .running) && !c.y.sup && c.y.part == n
    let now := s.pkgTime
    (parts.foldl (fun t n => t.post (16 + n) (recordBytes [(0, 1, 0x40), (1, 1, n), (2, 2, k),
      (4, 1, new.toNat + 4 * old.toNat), (5, 1, cause), (8, 8, now.toNat)])) t).ticked

/-- What a write of ISSCFG does (R125). -/
def State.isscfgWrite (s : State) (k : Nat) (v : Word) : State :=
  (s.setReg k 0x800 (v &&& 0xFFFF0003#64)).setLevel k 4

/-- ISSCFG_WRITE (R125). -/
def execIsscfgWrite (x : Nat) (v : Word) (s : State) : Out := .next (if s.isSup x then s.isscfgWrite (coreOf x) v else s)

/-- The nominal supply of an operating point in millivolts (R75). -/
def nominalMilliVolts (p : BitVec 3) : Nat := [600, 650, 700, 750, 800, 840, 880, 920].getD p.toNat 0

/-- SPLIT_LEVEL_STEP: one step up while a limit is exceeded, one down once both are kept (R464). The limit of IMAX x 10 mA is
compared as a power, at the nominal supply of the core's point (log 4). -/
def execSplitLevelStep (k : Nat) (up : Bool) (s : State) : Out :=
  .next (
    let d := dieOf k
    let cfg := s.reg d 0xA0A
    let temp := bits (s.reg d 0xA0B) 0 8
    let tmax := bits cfg 16 8
    let limit := bits cfg 32 16 * nominalMilliVolts (s.core k).opcur / 100
    let cur := bits cfg 32 16 != 0 && decide (limit < (s.core k).power.toNat)
    let hot := decide (tmax < temp)
    let cool := (bits cfg 32 16 == 0 || decide (10 * (s.core k).power.toNat < 9 * limit)) && decide (10 * temp < 9 * tmax)
    let l := (s.core k).thr
    if up then
      if (cur || hot) && l != 3#2 then
        (s.ticked.updCore k fun c => { c with thr := l + 1#2 }).setLevel k (boolNat cur + 2 * boolNat hot)
      else s.ticked
    else if cool && l != 0#2 then (s.ticked.updCore k fun c => { c with thr := l - 1#2 }).setLevel k 0
    else s.ticked)

/-- TEMPSTAT_UPDATE (R464). -/
def execTempstatUpdate (d : Nat) (s : State) : Out :=
  .next (s.setReg d 0xA0B (Config.temperature s.tick &&& 0xFF#64)).ticked

/-! ## Power (R434) -/

/-- The context that owns a core's issue slot; `owner` is 1 + its index while it holds it. -/
def State.slotOwner (s : State) (k : Nat) : Option Nat :=
  let o := (s.core k).owner
  if 1 ≤ o ∧ o ≤ 4 then some (4 * k + o - 1) else none

/-- The energy in microjoules of an estimate in milliwatts over a time in nanoseconds, with what earlier charges have left in
picojoules (R434). -/
def microJoules (milliWatts nanos rest : Nat) : Word := toWord ((milliWatts * nanos + rest % 1000000) / 1000000)

/-- The context that owns a core's slot is charged for the time since the last charge (R434): the estimate times the time. -/
def State.chargeSlot (s : State) (k : Nat) : State :=
  match if (s.core k).power = 0#64 then none else s.slotOwner k with
  | some x =>
    let e := microJoules (s.core k).power.toNat (Config.slotNanos s.tick) (Config.energyRest s.tick)
    (s.upd x fun c => { c with y := { c.y with energy := c.y.energy + e } }).ticked
  | none => s

/-- POWER_ESTIMATE_UPDATE: the slot's owner is charged under the estimate that ends, and the estimate changes (R434). -/
def execPowerEstimateUpdate (k : Nat) (s : State) : Out :=
  .next ((s.chargeSlot k).updCore k fun c => { c with power := Config.powerEstimate s.tick }).ticked

/-! ## Partitions and queues (R46, R62, R63, R162) -/

/-- What a write of PCFGn does: one that changes PROT is ignored while a context of the partition is placed; GRACE 0 is
taken as 1 (R62). -/
def State.pcfgWrite (s : State) (n : Nat) (v : Word) : State :=
  let w := v &&& 0x80FF0000000FFFFF#64
  if bitAt v 63 != s.protectedPart n && (!(s.contextsOf n).isEmpty || s.gangs.any fun g => g.part == n) then s
  else s.setReg 0 (0x820 + n) (if bits w 0 20 = 0 then w ||| 1#64 else w)

/-- PCFG_WRITE (R62). -/
def execPcfgWrite (x n : Nat) (v : Word) (s : State) : Out := .next (if s.isSup x && decide (n < 16) then s.pcfgWrite n v else s)

/-- CRES_WRITE: which cores of a cluster are reserved (R63). -/
def execCresWrite (x c : Nat) (v : Word) (s : State) : Out :=
  .next (if s.isSup x && decide (c < 8) then s.setReg 0 (0x8C0 + c) v else s)

/-- What a write of LREGn does: copies in the old region go once the partition has no running replay on the die (R46). -/
def State.lregWrite (s : State) (d n : Nat) (v : Word) : State :=
  let w := v &&& 0x8000007FFFFFFFFF#64
  (s.setReg d (0x9D0 + n) w).dropCopies d n

/-- LREG_WRITE (R46). -/
def execLregWrite (x n : Nat) (v : Word) (s : State) : Out :=
  .next (if s.isSup x && decide (n < 16) then s.lregWrite (dieOf (coreOf x)) n v else s)

/-- What a write of QSET does: PART and PMAX of queue QSEL, ignored while EN is set (R162). -/
def State.qsetWrite (s : State) (v : Word) : State :=
  let q := bits (s.reg 0 0x880) 0 16
  if (s.queue q).en then s else s.updQueue q fun u => { u with part := bits v 40 4, pmax := bits v 32 2 }

/-- QSET_WRITE (R162). -/
def execQsetWrite (x : Nat) (v : Word) (s : State) : Out := .next (if s.isSup x then s.qsetWrite v else s)

/-- SPCFG_WRITE (R253). -/
def execSpcfgWrite (x : Nat) (v : Word) (s : State) : Out :=
  .next (if s.isSup x then s.setReg (coreOf x) 0x8D0 (v &&& 1#64) else s)

/-! ## Record rings (R275) -/

/-- Replaces a ring. -/
def State.setRing (s : State) (i : Nat) (r : Ring) : State := { s with rings := SMap.put Ring.none s.rings i r }

/-- The ring whose register or head register has this number, for an access by context `x` (R161, R275, R435). -/
def State.ringOf (s : State) (x num : Nat) : Option Nat :=
  let d := dieOf (coreOf x)
  let p := (s.ctx x).y.part
  if 0x850 ≤ num ∧ num < 0x870 then some (num - 0x850)
  else if 0x900 ≤ num ∧ num < 0x920 then some (num - 0x900)
  else match num with
    | 0x022 => some p
    | 0x023 => some (16 + p)
    | 0x890 | 0x891 => some (32 + d)
    | 0x9B1 | 0x9B2 => some (64 + d)
    | _ => none

/-- What a write of a ring register does: a LOGN of 1 to 6 or above 16 is ignored as a whole; else it takes effect once
the ring is drained (R275, step 4). -/
def State.ringWrite (s : State) (i : Nat) (v : Word) : State :=
  let n := bits v 0 5
  if n ≠ 0 ∧ (n < 7 ∨ 16 < n) then s
  else s.setRing i ({ s.ring i with reg := v &&& 0x0FFFFFFFFFFFF01F#64, pending := true }).settle

/-- What a write of a ring's head register does (R275). -/
def State.headWrite (s : State) (i : Nat) (v : Word) : State :=
  s.setRing i ({ s.ring i with head := v.extractLsb' 0 17 }).settle

/-- RING_REGISTER_WRITE (R275). -/
def execRingRegisterWrite (x num : Nat) (v : Word) (s : State) : Out :=
  .next (if !s.isSup x || !((0x850 ≤ num && num < 0x870) || num == 0x890 || num == 0x9B1) then s
    else match s.ringOf x num with
      | some i => s.ringWrite i v
      | none => s)

/-- RING_HEAD_WRITE (R275): the partition's two heads are open to its tenants. -/
def execRingHeadWrite (x num : Nat) (v : Word) (s : State) : Out :=
  .next (
    let own := num == 0x022 || num == 0x023
    let any := (0x900 ≤ num && num < 0x920) || num == 0x891 || num == 0x9B2
    if !(decide (x < 2048) && (own || (any && s.isSup x))) then s
    else match s.ringOf x num with
      | some i => s.headWrite i v
      | none => s)

/-! ## Sync objects (R363) -/

/-- SYNOBJ as the writing context's SYNSEL names it (R363). -/
def State.synobjWrite (s : State) (x : Nat) (v : Word) : State :=
  s.setSync (synobjKey (s.ctx x).y.synsel) (v.setWidth 32)

/-- SYNOBJ_WRITE: the counter; waiters test it again (R363). -/
def execSynobjWrite (x : Nat) (v : Word) (s : State) : Out := .next (if s.isSup x then s.synobjWrite x v else s)

/-- SYNMAP as the writing context's SYNSEL names it (R363): V and OBJ are kept as written. -/
def State.synmapWrite (s : State) (x : Nat) (v : Word) : State :=
  { s with synmap := SMap.put 0 s.synmap (synmapKey (s.ctx x).y.synsel) (256 * boolNat (bitAt v 63) + bits v 0 8) }

/-! ## Channels and context registers (R143, R152, R258) -/

/-- Must a write of CHCFGn raise ILLEGAL (R258)? A buffer of SIZE 0 lies nowhere (log 20). -/
def State.chcfgBad (s : State) (x n : Nat) (v : Word) : Bool :=
  let c := s.ctx x
  let h := c.chan n
  let size := bits v 0 13
  let base := bits v 32 20
  (h.en && h.res != h.cons)
  || (bitAt v 63 && (decide (4 < bits v 60 3) || size == 0 || decide (2 ^ 20 < base + 256 * size)))
  || (size != 0 && !s.inWindow c.y.sup (if bitAt v 59 then 0x8B0 else 0x8A0) c.y.part base (256 * size))

/-- An accepted write of CHCFGn: the counts and slot indices start afresh (R258). -/
def State.chcfgWrite (s : State) (x n : Nat) (v : Word) : State :=
  s.upd x fun c => c.updChan n fun _ => { Chan.zero with cfg := v &&& 0xFC0FFFFF00001FFF#64 }

/-- Must a write of LCNTn raise ILLEGAL: a count for a level whose entry is not of kind T (R143)? -/
def State.lcntBad (s : State) (x n : Nat) (v : Word) : Bool := v != 0#64 && bits ((s.ctx x).loopEntry n) 62 2 != 1

/-- A write of LCNTn (R143). -/
def State.lcntWrite (s : State) (x n : Nat) (v : Word) : State :=
  s.upd x fun c => { c with f := { c.f with lcnt := SMap.put 0#64 c.f.lcnt n v } }

/-- A write of EPC (R152). -/
def State.epcWrite (s : State) (x : Nat) (v : Word) : State :=
  s.upd x fun c => { c with e := { c.e with epc := v.setWidth 32 } }

/-- A register write that raises ILLEGAL at context `x` (R143, R152, R258). -/
def State.writeIllegal (s : State) (x : Nat) : State :=
  let t := (s.focus x).iss fun _ => { Issue.empty with pc := (s.ctx x).f.pc }
  t.raise .illegal 0#64

/-- May context `x` make a register write now? -/
def State.writer (s : State) (x : Nat) : Bool := decide (x < 2048) && (s.ctx x).st == .running

/-- CHCFG_WRITE (R258). -/
def execChcfgWrite (x n : Nat) (v : Word) (s : State) : Out :=
  .next (if !s.writer x || decide (8 ≤ n) then s else if s.chcfgBad x n v then s.writeIllegal x else s.chcfgWrite x n v)

/-- LCNT_WRITE (R143). -/
def execLcntWrite (x n : Nat) (v : Word) (s : State) : Out :=
  .next (if !s.writer x || decide (4 ≤ n) then s else if s.lcntBad x n v then s.writeIllegal x else s.lcntWrite x n v)

/-- EPC_WRITE: ignored outside handler mode, ILLEGAL when misaligned (R152). -/
def execEpcWrite (x : Nat) (v : Word) (s : State) : Out :=
  .next (if !s.writer x || !(s.ctx x).e.hm then s else if bits v 0 2 != 0 then s.writeIllegal x else s.epcWrite x v)

/-- FCR_WRITE: as FCR.SET with every field named, in force four cycles on (R153). -/
def execFcrWrite (x : Nat) (v : Word) (s : State) : Out :=
  .next (if !s.writer x then s
    else s.upd x fun c => { c with f := { c.f with pend := c.f.pend ++ [⟨c.now + 4#64, 0, .fcr (fcrMask 15#4) v, none⟩] } })

end Sys2Proof.Machine
end

