-- ==== Sys2Proof/Machine/Boot.lean ====
section
/-! DEFINITION. Reset, boot, self-test, identity and attestation (20_bringup_identity.md R450 to R462), and the end of HBM
and bridge training (R451, R463). -/

namespace Sys2Proof.Machine

/-- Updates the boot unit. -/
def State.updBoot (s : State) (f : Boot → Boot) : State := s.updSvc fun v => { v with boot := f v.boot }

/-- The boot stops: STAGE FAILED with ERR (R451). -/
def State.bootFail (s : State) (err : Nat) : State := s.updBoot fun b => { b with stage := 15, err := err }

/-- The boot goes on to a stage. -/
def State.bootStage (s : State) (n : Nat) : State := s.updBoot fun b => { b with stage := n }

/-- Stage MEM begins: the stacks and the bridge train (R451, R463). -/
def State.startTraining (s : State) : State :=
  (List.range 13).foldl (fun t u => t.updLink u fun l => { l with state := 1 }) (s.bootStage 5)

/-! ## Reset (R450) -/

/-- A memory after a package reset: nothing that was written before. Its stuck bits are defects of the cells and stay; one
that is stuck at 1 is wrong beside the zeros (R450, R460). -/
def Bank.afresh (b : Bank) : Bank :=
  let e := Bank.empty b.word
  let wrong (f : SMap (List Nat)) (x : Nat × List (Nat × Bool)) : SMap (List Nat) := SMap.put [] f x.1 ((x.2.filter (·.2)).map (·.1))
  { e with stuck := b.stuck, flips := b.stuck.foldl wrong [] }

/-- PACKAGE_RESET: every register holds its reset value, and memory holds nothing that was written before; the flash
outside the package, stuck bits, the steps still to come and the model's counters stay, and the time starts again (R450,
R464). -/
def execPackageReset (s : State) : Out :=
  .next { (State.reset.updBoot fun b => { b with flash := s.svc.boot.flash }) with
    ab := s.ab.afresh, sp := s.sp.afresh, tmem := s.tmem.afresh, imem := s.imem.afresh, hbm := s.hbm.afresh,
    agenda := s.agenda, tick := s.tick + 1, serial := s.serial }

/-! ## The boot bundle (R452, R453) -/

/-- A table entry of the boot bundle (R452). -/
structure BootEntry where
  kind : Nat
  rsv : Nat
  off : Nat
  size : Nat
  dest : Nat
deriving DecidableEq, Repr

/-- A table entry from its 16 bytes. -/
def BootEntry.of (b : List Byte) : BootEntry := ⟨fieldAt b 0 2, fieldAt b 2 2, fieldAt b 4 4, fieldAt b 8 4, fieldAt b 12 4⟩

/-- The root key (R452). -/
def rootKey (f : Mem) : List Byte := Mem.bytes f 16 133

/-- The table of the boot bundle: the configuration entry and the images. -/
def bootTable (f : Mem) : List BootEntry := (cut 16 (1 + Mem.read f 6 2) (Mem.bytes f 160 (16 * (1 + Mem.read f 6 2)))).map BootEntry.of

/-- Does the bundle break the layout of R452? -/
def badBundle (f : Mem) : Bool :=
  let n := Mem.read f 6 2
  let len := Mem.read f 8 4
  let t := bootTable f
  Mem.read f 0 4 != 0x31424446 || Mem.read f 4 2 != 1 || decide (n < 2 ∨ 4 < n) || decide (len % 64 ≠ 0) || Mem.read f 12 4 != 0
  || Mem.read f 149 11 != 0 || (t.headD ⟨0, 0, 0, 0, 0⟩).kind != 1 || (t.drop 1).any (fun e => e.kind != 2 && e.kind != 3)
  || (t.filter fun e => e.kind == 2).length != 1 || t.any (fun e => e.kind == 2 && decide (262144 < e.size))
  || t.any (fun e => e.rsv != 0 || decide (len < e.off + e.size))

/-- The configuration record's bytes. -/
def configBytes (f : Mem) : List Byte :=
  let e := (bootTable f).headD ⟨0, 0, 0, 0, 0⟩
  Mem.bytes f e.off e.size

/-- A factory repair entry: core, memory (SP when set) and line (R453, R457). -/
def repairOf (v : Nat) : Nat × Bool × Nat := (natBits v 17 9, v.testBit 16, natBits v 0 14)

/-- Adds a repair line to a table: none when the table or the line's bank is full (R456). A bank is LINE mod 32. -/
def addRepair (l : List (Bool × Nat)) (e : Bool × Nat) : Option (List (Bool × Nat)) :=
  if decide (64 ≤ l.length) || decide (4 ≤ (l.filter fun x => x.1 == e.1 && x.2 % 32 == e.2 % 32).length) then none else some (l ++ [e])

/-- The repair tables of all cores from the factory entries, none when a bank would overflow (R453). -/
def factoryRepairs : List Nat → Option (SMap (List (Bool × Nat)))
  | [] => some []
  | v :: vs => match factoryRepairs vs with
    | none => none
    | some t =>
      let r := repairOf v
      (addRepair (SMap.at [] t r.1) r.2).map fun l => SMap.put [] t r.1 l

/-- The factory entries of a configuration record, the last first. -/
def repairWords (c : List Byte) : List Nat := ((cut 4 (fieldAt c 6 2) (c.drop 27904)).map leNat).reverse

/-- The Pantry records of a configuration record, in their order (R453). -/
def configRecs (c : List Byte) : Option (List (Nat × PanRec)) := stagedRecs (cut 16 1655 (c.drop 128))

/-- Does a configuration record break R453, given the size of SUPCODE? -/
def badConfig (c : List Byte) (supSize : Nat) : Bool :=
  let nrep := fieldAt c 6 2
  fieldAt c 0 4 != 0x31434446 || fieldAt c 4 2 != 1 || decide (4096 < nrep) || decide (c.length ≠ 27904 + 4 * nrep)
  || decide (288 ≤ fieldAt c 16 2) || fieldAt c 18 2 != 0 || decide (supSize ≤ 4 * fieldAt c 20 4)
  || (fieldAt c 24 8) != bits (toWord (fieldAt c 24 8) &&& 0x8000007FFFFFC000#64) 0 64 || fieldAt c 32 32 != 0
  || (match configRecs c with
      | none => true
      | some rs => rs.map (·.1) != List.range 1655)
  || fieldAt c (26608 + 133) 7 != 0
  || (repairWords c).any (fun v => natBits v 26 6 != 0 || natBits v 14 2 != 0) || (factoryRepairs (repairWords c)).isNone

/-- The SUPCODE entry. -/
def supEntry (f : Mem) : BootEntry := ((bootTable f).find? fun e => e.kind == 2).getD ⟨2, 0, 0, 0, 0⟩

/-- Stage ROM: the host link has trained, on as many of its 16 lanes as a free value says (R451, R463; log 7, log 34). -/
def State.trainHost (s : State) : State :=
  let lanes := (Config.hostLanes s.tick).toNat + 1
  ((s.updLink 45 fun l => { state := if lanes < 16 then 3 else 2, width := lanes, retrain := min 65535 (l.retrain + 1) }).bootStage 1).ticked

/-- Stage FETCH: the bundle is read; NOFLASH or FORMAT when it cannot be (R451, R452). -/
def State.fetchBundle (s : State) : State :=
  if s.svc.boot.flash.isEmpty then s.bootFail 1
  else if badBundle s.svc.boot.flash then s.bootFail 2
  else s.bootStage 2

/-- Stage VERIFY: KEYHASH, SIG and CONFIG, in this order (R451 to R453). -/
def State.verifyBundle (s : State) : State :=
  let f := s.svc.boot.flash
  let len := Mem.read f 8 4
  if sha512 (rootKey f) ≠ Config.romKeyHash then s.bootFail 3
  else if !ecdsaVerify (rootKey f) (Mem.bytes f len 132) (sha512 (Mem.bytes f 0 len)) then s.bootFail 4
  else if badConfig (configBytes f) (supEntry f).size then s.bootFail 5
  else s.bootStage 3

/-- BOOT_VERIFY: the boot goes one stage on, from ROM to FETCH, to VERIFY and to BIST (R451 to R453). -/
def execBootVerify (s : State) : Out :=
  .next (match s.svc.boot.stage with
    | 0 => s.trainHost
    | 1 => s.fetchBundle
    | 2 => s.verifyBundle
    | _ => s)

/-! ## Self-test (R454 to R458) -/

/-- A supervisor context with the state of R71: its span is the image at IMEM offset 0. -/
def supCtx (entry size : Nat) (ver : BitVec 32) (loops : SMap Word) : Ctx :=
  { Ctx.reset with
    st := .running
    f := { Flow.zero with pc := toWord (4 * entry), loops := loops }
    y := { Sys.zero with sup := true, ctxfeat := 0x3FFF#64, panv := ver, spanSize := size } }

/-- Loads an image at IMEM offset 0 of a core and starts its context 0 on it. -/
def State.startSup (s : State) (k entry : Nat) (img : List Byte) (loops : SMap Word) : State :=
  let t := { s with imem := s.imem.writeP 2 (k * 2 ^ 18) img false }
  (t.setCtx (4 * k) (supCtx entry img.length s.svc.pantry.ver loops)).retarget k

/-- Updates a core's test record. -/
def State.updTest (s : State) (k : Nat) (f : CoreTest → CoreTest) : State :=
  s.updSvc fun v => { v with tests := SMap.put CoreTest.zero v.tests k (f (s.coreTest k)) }

/-- Does a core run the march: are its REGS and IMEM bits clear (R454)? -/
def CoreTest.runs (t : CoreTest) : Bool := natBits t.bist.toNat 0 2 == 0

/-- The entries of a core's repair table that are not in effect yet take effect: their lines are served from spare rows
(R454, R457). DESIGN CHOICE (log 11): a spare row reads as zero until it is written, as all memory does. -/
def State.useRepairs (s : State) (k : Nat) : State :=
  let t := s.coreTest k
  let one (u : State) (e : Bool × Nat) : State :=
    let m : MemKind := if e.1 then .sp else .ab
    let a := k * 2 ^ 20 + 64 * e.2
    (u.setBank m { u.bank m with spare := SMap.put false (u.bank m).spare (a / 64) true }).writeAS e.1 a (List.replicate 64 0#8) false 0
  ((t.repairs.drop t.active).foldl one s).updTest k fun u => { u with active := u.repairs.length }

/-- BIST: the factory repairs are applied, the failures are recorded, and the march starts where it can (R454). -/
def execBist (fails : List (Nat × Byte)) (s : State) : Out :=
  .next (
    if s.svc.boot.stage ≠ 3 then s
    else
      let reps := (factoryRepairs (repairWords (configBytes s.svc.boot.flash))).getD []
      let core (t : State) (k : Nat) : State :=
        let b := ((fails.find? fun e => e.1 == k).map (·.2)).getD 0#8
        let u := (t.updTest k fun _ => { CoreTest.zero with repairs := SMap.at [] reps k, bist := b &&& 0x7F#8 }).useRepairs k
        if (u.coreTest k).runs then u.startSup k 0 marchImage (SMap.put 0#64 [] 0 marchLoop) else u
      ((List.range 512).foldl core s).bootStage 4)

/-- What a write of REPADD does (R457). -/
def State.repaddWrite (s : State) (k : Nat) (v : Word) : State :=
  let e : Bool × Nat := (bitAt v 16, bits v 0 14)
  let t := s.coreTest k
  if s.svc.boot.stage ≠ 4 ∨ t.repairs.contains e then s
  else match addRepair t.repairs e with
    | none => s.updTest k fun u => { u with overflow := true }
    | some l => s.updTest k fun u => { u with repairs := l, nmarch := u.nmarch + 1 }

/-- REPADD (R457). -/
def execRepadd (x : Nat) (v : Word) (s : State) : Out := .next (if s.isSup x then s.repaddWrite (coreOf x) v else s)

/-- Has every core that runs the march finished? -/
def State.marchDone (s : State) : Bool := (List.range 512).all fun k => !(s.coreTest k).runs || (s.coreTest k).done

/-- What a write of BOOTSUM does: FAILS and DONE; with DONE the repairs take effect, and stage MARCH ends with its last
core (R457, R458). -/
def State.bootsumWrite (s : State) (k : Nat) (v : Word) : State :=
  let t := s.updTest k fun u => { u with done := bitAt v 63, fails := bits v 32 16 }
  let t := if bitAt v 63 then t.useRepairs k else t
  if t.svc.boot.stage = 4 ∧ t.marchDone then t.startTraining else t

/-- BOOTSUM_WRITE (R458). -/
def execBootsumWrite (x : Nat) (v : Word) (s : State) : Out := .next (if s.isSup x then s.bootsumWrite (coreOf x) v else s)

/-- MARCH_TIMEOUT: cores that have not written DONE in 50 ms time out, and stage MARCH ends (R458). -/
def execMarchTimeout (s : State) : Out :=
  .next (
    if s.svc.boot.stage < 4 ∨ s.svc.boot.stage = 15 then s
    else
      let t := (List.range 512).foldl (fun t k => if (t.coreTest k).done then t else t.updTest k fun u => { u with timeout := true }) s
      if s.svc.boot.stage = 4 then t.startTraining else t)

/-- What a write of TESTCFG does: ignored outside MARCH (R455). -/
def State.testcfgWrite (s : State) (k : Nat) (v : Word) : State :=
  if s.svc.boot.stage = 4 then s.setReg k 0xA02 (v &&& 1#64) else s

/-- TESTCFG_WRITE (R455). -/
def execTestcfgWrite (x : Nat) (v : Word) (s : State) : Out := .next (if s.isSup x then s.testcfgWrite (coreOf x) v else s)

/-! ## Memory training (R451, R463) -/

/-- The channels of stack `u` that trained: 32 but where `weak` lists fewer. -/
def channelsOf (weak : List (Nat × Nat)) (u : Nat) : Nat := min 32 (((weak.find? fun e => e.1 == u).map (·.2)).getD 32)

/-- A link whose training has ended on `width` lanes: FAILED on none, DEGRADED at reduced width or rate, else UP (R463). -/
def Link.trained (l : Link) (width : Nat) (reduced : Bool) : Link :=
  { state := if width = 0 then 4 else if reduced then 3 else 2, width := width, retrain := min 65535 (l.retrain + 1) }

/-- MEM_TRAINING_COMPLETE: the stacks and the bridge have trained, and the host may use CXL.mem (R451, R463). `weak` lists
the stacks on which fewer than 32 channels trained, with their number; `bridge` holds the lanes on
which the bridge trained, and whether at reduced width or rate. -/
def execMemTrainingComplete (weak : List (Nat × Nat)) (bridge : Nat × Bool) (s : State) : Out :=
  .next (
    if s.svc.boot.stage ≠ 5 then s
    else
      let stack (t : State) (u : Nat) : State := t.updLink u fun l => l.trained (channelsOf weak u) (channelsOf weak u < 32)
      let t := ((List.range 12).foldl stack s).updLink 12 fun l => l.trained bridge.1 bridge.2
      t.updBoot fun b => { b with
        stage := 6, badStacks := (List.range 12).filter fun u => channelsOf weak u == 0, bridge := bridge.1 != 0, memUp := true })

/-! ## Version 1 of the Pantry and the supervisor (R459) -/

/-- Clears feature bits of a record that passes in part: DEGRADED, unless it is FENCED already (R459). -/
def PanRec.degrade (p : PanRec) (mask : Word) : PanRec :=
  { p with state := if p.state = 2 then 2 else 1, feat := p.feat &&& ~~~ mask }

/-- A core's record of version 1 (R459): SF is feature 2, GRD 3, B16 4 (R20). -/
def CoreTest.record (t : CoreTest) (p : PanRec) : PanRec :=
  if !t.pass then { p with state := 2 }
  else
    let q := if t.bist.getLsbD 3 || t.bist.getLsbD 4 then p.degrade 0x18#64 else p
    if t.bist.getLsbD 2 then q.degrade 4#64 else q

/-- The lowest-numbered passing core of a cluster (R459). -/
def State.firstPass (s : State) (c : Nat) : Option Nat := ((List.range 64).map fun i => 64 * c + i).find? fun k => (s.coreTest k).pass

/-- Version 1's record with number `r` (R459). -/
def State.bootRecord (s : State) (r : Nat) (p : PanRec) : PanRec :=
  let q := { p with ver := 1#32 }
  let fence (b : Bool) : PanRec := if b then { q with state := 2 } else q
  match panKind r with
  | (1, i) => fence (i == 1 && !s.svc.boot.bridge)
  | (2, c) => fence (s.firstPass c).isNone
  | (3, k) => (s.coreTest k).record q
  | (6, i) => fence (s.svc.boot.badStacks.contains i)
  | _ => q

/-- CRES of a cluster: a reserved core that has failed is replaced by the first that passes (R459). -/
def State.bootCres (s : State) (c : Nat) (v : Word) : Word :=
  (List.range 64).foldl (fun w i =>
    if !bitAt v i || (s.coreTest (64 * c + i)).pass then w
    else
      let u := w &&& ~~~ BitVec.twoPow 64 i
      match s.firstPass c with
      | some k => u ||| BitVec.twoPow 64 (k % 64)
      | none => u) v

/-- Loads the SUPDATA images (R452, R459). -/
def State.loadSupdata (s : State) (f : Mem) : State :=
  ((bootTable f).filter fun e => e.kind == 3).foldl (fun t e =>
    t.writeHbm 0 (natBits e.dest 31 1) (natBits e.dest 0 23 * 65536) (Mem.bytes f e.off e.size) false) s

/-- BOOT_PANTRY: version 1 is built and published, and the supervisor starts on every reserved core; NOSUP when no core
of die 0 passes (R459). -/
def execBootPantry (s : State) : Out :=
  .next (
    let f := s.svc.boot.flash
    let c := configBytes f
    if s.svc.boot.stage ≠ 6 then s
    else if !((List.range 256).any fun k => (s.coreTest k).pass) then s.bootFail 6
    else
      let recs := ((configRecs c).getD []).foldl (fun m e => SMap.put PanRec.zero m e.1 (s.bootRecord e.1 e.2)) []
      let t1 := s.updPantry fun p => { p with recs := recs, ver := 1#32 }
      let t2 := (List.range 8).foldl (fun t i => t.setReg 0 (0x8C0 + i) (s.bootCres i (toWord (fieldAt c (64 + 8 * i) 8)))) t1
      let roots := toWord (fieldAt c 24 8)
      let t3 := ((t2.setReg 0 0x8F2 roots).setReg 1 0x8F2 roots).setReg 0 0x940
        (toWord (setBits (t2.reg 0 0x940).toNat 0 9 (fieldAt c 16 2)))
      let t4 := (List.range 512).foldl (fun t k => (t.setCtx (4 * k) Ctx.reset).retarget k) (t3.loadSupdata f)
      let e := supEntry f
      let img := Mem.bytes f e.off e.size
      let t5 := ((List.range 512).filter fun k => t4.reserved k).foldl (fun t k => t.startSup k (fieldAt c 20 4) img []) t4
      t5.bootStage 7)

/-! ## Attestation (R461, R462) -/

/-- What a write of ATTCTL does: GO captures the version and the time (R462). -/
def State.attctlWrite (s : State) (v : Word) : State :=
  if !bitAt v 0 || s.svc.boot.attBusy then s
  else (s.updBoot fun b => { b with attBusy := true, attVer := s.svc.pantry.ver, attTime := s.pkgTime }).ticked

/-- ATTESTATION_START (R462). -/
def execAttestationStart (x : Nat) (v : Word) (s : State) : Out := .next (if s.isSup x then s.attctlWrite v else s)

/-- Has the identity unit a key: does the derived key equal CERT's, and is CERT signed by the root (R453, R461)? -/
def hasIdentity (f : Mem) : Bool :=
  let c := configBytes f
  let key := (c.drop 26608).take 133
  let sig := (c.drop 26748).take 132
  Config.identityKey ((c.drop 26880).take 1024) == key
    && ecdsaVerify (rootKey f) sig (sha512 ((c.drop 8).take 8 ++ key))

/-- The report (R462): the signed part, the signature, and zeros. -/
def attReport (f : Mem) (b : Boot) (tick : Nat) (nonce : List Byte) : List Byte :=
  let c := configBytes f
  let es := (bootTable f).drop 1
  let hash (i : Nat) : List Byte := match es[i]? with
    | some e => sha512 (Mem.bytes f e.off e.size)
    | none => List.replicate 64 0#8
  let body := natLe 0x31414446 4 ++ natLe 1 2 ++ natLe es.length 2 ++ (c.drop 8).take 8 ++ natLe b.attVer.toNat 4 ++ natLe 0 4
    ++ natLe b.attTime.toNat 8 ++ nonce ++ sha512 c ++ (List.range 4).flatMap hash ++ List.replicate 16 0#8
  body ++ (Config.identitySign tick (sha512 body)).take 132 ++ List.replicate 12 0#8

/-- Reads `n` lines in the supervisor's space for the signing unit: none when an access faults (R462). -/
def State.attRead (s : State) (va : Word) : State × Option (List Byte) :=
  if !s.ownPackage va then (s, none)
  else match s.readGlob pantryReq va 64 with
    | (t, .ok r) => (t, some r.1)
    | (t, .error _) => (t, none)

/-- Writes the report line by line; false once a line cannot be written. -/
def State.attWrite (s : State) (va : Word) : List (List Byte) → State × Bool
  | [] => (s, true)
  | l :: ls =>
    if !s.ownPackage va then (s, false)
    else match s.writeGlob pantryReq va l false with
      | (t, none) => State.attWrite t (va + 64#64) ls
      | (t, some _) => (t, false)

/-- ATTESTATION_COMPLETE: NOKEY, FAULT, or the report at ATTADDR + 64 (R461, R462). -/
def execAttestationComplete (s : State) : Out :=
  .next (
    let f := s.svc.boot.flash
    let fin (t : State) (e : Nat) : State := t.updBoot fun b => { b with attBusy := false, attErr := e }
    if !s.svc.boot.attBusy then s
    else if !hasIdentity f then fin s 1
    else
      let va := s.reg 0 0xA10
      match s.attRead va with
      | (t, none) => fin t 2
      | (t, some nonce) =>
        match t.attWrite (va + 64#64) (cut 64 9 (attReport f s.svc.boot s.tick nonce)) with
        | (u, true) => fin u.ticked 0
        | (u, false) => fin u.ticked 2)

end Sys2Proof.Machine
end

