-- ==== Sys2Proof/Machine/SysWrite.lean ====
section
/-! DEFINITION. What writes of system registers do (R12, R148, R161, R162, R276, R376, R405, R465), SREAD and SWRITE, and
the host's registers (02_launching_work.md R38 to R51). -/

namespace Sys2Proof.Machine

/-- The state that an answer holds; `s` when it holds none. -/
def nextOr (s : State) : Out → State
  | .next t => t
  | _ => s

/-! ## Context registers -/

/-- What a write of a register of context `x` itself does (R161, R162, R405). -/
def State.ctxWrite (s : State) (x num : Nat) (v : Word) : State :=
  if 0x040 ≤ num ∧ num < 0x048 then s.chcfgWrite x (num - 0x040) v
  else if 0x004 ≤ num ∧ num ≤ 0x006 then s.upd x fun c => { c with y := { c.y with str := SMap.put 0#64 c.y.str (num - 3) v } }
  else if 0x008 ≤ num ∧ num ≤ 0x00B then s.lcntWrite x (num - 8) v
  else match num with
    | 0x003 => s.upd x fun c => { c with y := { c.y with chk := bitAt v 0 } }
    | 0x007 => s.upd x fun c => { c with y := { c.y with tsoff := v.setWidth 32 } }
    | 0x018 => s.upd x fun c => { c with e := { c.e with tvecEn := bitAt v 63, tvecOff := v.extractLsb' 0 18 &&& 0x3FFFC#18 } }
    | 0x019 => s.epcWrite x v
    | 0x022 => s.headWrite (s.ctx x).y.part v
    | 0x023 => s.headWrite (16 + (s.ctx x).y.part) v
    | 0x024 => s.upd x fun c => { c with e := { c.e with thrn := bitAt v 2, thr := c.e.thr && !bitAt v 1 } }
    | 0x8C8 => s.upd x fun c => { c with y := { c.y with synsel := v &&& 0x7FF0F0FF#64 } }
    | _ => s

/-! ## Registers that only keep their fields -/

/-- The writable fields of the registers that a write only fills (R46, R57, R161, R247, R268, R376, R377, R417, R419, R424,
R434, R435, R462, R464). -/
def SysReg.fields (num : Nat) : Word :=
  if 0x830 ≤ num ∧ num < 0x850 then 0x7F#64
  else if 0x870 ≤ num ∧ num < 0x880 then 0xFFFFFFFF#64
  else if 0x8A0 ≤ num ∧ num < 0x8C0 then 0x1F1F#64
  else if 0x8C0 ≤ num ∧ num < 0x8C8 then BitVec.allOnes 64
  else if (0x8E0 ≤ num ∧ num < 0x8F0) ∨ num = 0x8F2 then 0x8000007FFFFFC000#64
  else if 0x950 ≤ num ∧ num < 0x970 then 0x1F#64
  else if 0x970 ≤ num ∧ num < 0x980 then 0x9F000000FFFFFFFF#64
  else if 0x980 ≤ num ∧ num < 0x990 then 0x8000007FFFFFFFFF#64
  else if 0x991 ≤ num ∧ num ≤ 0x998 then 0x0000FFFF001FFFFF#64
  else if 0x9C0 ≤ num ∧ num < 0x9D0 then BitVec.allOnes 64
  else match num with
    | 0x802 => 0xFFFFFFFF#64
    | 0x810 | 0x811 => ~~~ 63#64
    | 0x880 => 0xFFFF#64
    | 0x882 => 0xFFFF#64
    | 0x8D0 => 1#64
    | 0x941 => 0x0FFFFFFFFFFFFFC0#64
    | 0x943 => 0x1F0F#64
    | 0x945 => 0x1FF#64
    | 0x947 => BitVec.allOnes 64
    | 0x9A0 => 0x7FF#64
    | 0x9B0 => 0x80000000FFFFFFFF#64
    | 0xA09 => 0xFFFFFFFF#64
    | 0xA0A => 0x0000FFFF00FF0000#64
    | 0xA10 => 0x0FFFFFFFFFFFFFFF#64
    | _ => 0#64

/-- The copy of a register that an access by context `x` reaches (R161). -/
def SysReg.copyOf (x num : Nat) : Nat :=
  match SysReg.row num with
  | some r => match r.scope with
    | .core => coreOf x
    | .die => dieOf (coreOf x)
    | _ => 0
  | none => 0

/-- Fills the writable fields of a register (R12). -/
def State.fillReg (s : State) (x num : Nat) (v : Word) : State :=
  if SysReg.fields num = 0#64 then s else s.setReg (SysReg.copyOf x num) num (v &&& SysReg.fields num)

/-! ## Every register -/

/-- What a write of register `num` with `v` by context `x` does once it is allowed (R148, R161). -/
def State.sysWrite (s : State) (x num : Nat) (v : Word) : State :=
  let k := coreOf x
  let d := dieOf k
  if num < 0x800 ∨ num = 0x8C8 then s.ctxWrite x num v
  else if 0x820 ≤ num ∧ num < 0x830 then s.pcfgWrite (num - 0x820) v
  else if 0x850 ≤ num ∧ num < 0x870 then s.ringWrite (num - 0x850) v
  else if 0x900 ≤ num ∧ num < 0x920 then s.headWrite (num - 0x900) v
  else if 0x9D0 ≤ num ∧ num < 0x9E0 then s.lregWrite d (num - 0x9D0) v
  else match num with
    | 0x800 => s.isscfgWrite k v
    | 0x812 => s.pantryWrite v
    | 0x881 => s.qsetWrite v
    | 0x883 => s.prstWrite v
    | 0x890 => s.ringWrite (32 + d) v
    | 0x891 => s.headWrite (32 + d) v
    | 0x8C9 => s.synmapWrite x v
    | 0x8CA => s.synobjWrite x v
    | 0x8D4 => s.rollreqWrite v
    | 0x8D5 => s.migctlWrite d v
    | 0x8D6 => s.updMig d fun m => { m with dst := v &&& 0x0000007FFFFFFFFF#64 }
    | 0x8D7 => s.nodekillWrite v
    | 0x8D8 => s.replaceWrite v
    | 0x8F0 => s.tlbinvWrite d v
    | 0x940 => nextOr s (execFabidWrite x v s)
    | 0x942 => nextOr s (execTabload x v s)
    | 0x944 => s.updPort (bits (s.reg 0 0x943) 8 5) fun p =>
        { p with members := SMap.put 0#64 p.members (bits (s.reg 0 0x943) 0 4) (v &&& 0x8F000000FFFFFFFF#64) }
    | 0x948 => nextOr s (execFabgrpJoin x v s)
    | 0x9B1 => s.ringWrite (64 + d) v
    | 0x9B2 => s.headWrite (64 + d) v
    | 0xA01 => s.bootsumWrite k v
    | 0xA02 => s.testcfgWrite k v
    | 0xA03 => s.repaddWrite k v
    | 0xA11 => s.attctlWrite v
    | 0xA4E => let t := nextOr s (execLinkTrain x v s); nextOr t (execLinkDown x v t)
    | _ => s.fillReg x num v

/-- May a context read or write the register at all (R104, R161)? -/
def SysReg.open (sup : Bool) (num : Nat) : Bool :=
  match SysReg.row num with
  | some r => sup || r.tenant != .none
  | none => false

/-! ## SREAD and SWRITE (R148) -/

/-- SREAD: PRIV for a tenant that names a supervisor's register; the value in force at L (R148). -/
def execSread (d : SReg) (num : BitVec 12) (s : State) : Out :=
  .next (if !SysReg.open s.c.y.sup num.toNat then s.raise .priv 0#64
    else (s.holdS 2 d (s.sysRead s.who num.toNat) false).ticked)

/-- Must the write raise ILLEGAL at execution (R143, R152, R258)? -/
def State.swriteBad (s : State) (x num : Nat) (v : Word) : Bool :=
  (decide (0x040 ≤ num ∧ num < 0x048) && s.chcfgBad x (num - 0x040) v)
  || (decide (0x008 ≤ num ∧ num ≤ 0x00B) && s.lcntBad x (num - 8) v)
  || (num == 0x019 && (s.ctx x).e.hm && bits v 0 2 != 0)

/-- SWRITE: PRIV, POISON, ILLEGAL in that order; the write lands at L + 1, FCR at L + 4; EPC is ignored outside handler
mode (R131, R134, R148, R152, R153). -/
def execSwrite (num : BitVec 12) (a : SReg) (s : State) : Out :=
  let n := num.toNat
  let v := s.rs a
  .next (
    if !SysReg.open s.c.y.sup n then s.raise .priv 0#64
    else if s.ps a then s.raise .poison 0#64
    else if s.swriteBad s.who n v then s.raise .illegal 0#64
    else if n = 0x002 then s.hold 4 (.fcr (fcrMask 15#4) v) none
    else if n = 0x019 ∧ s.c.e.hm = false then s
    else s.hold 1 (.sys n v) none)

/-! ## Registers without a row of their own (R12, R38, R40, R41, R51) -/

/-- A host write of 8 bytes to a queue page: QSTAT.CFGERR, QCFG and QCHEAD; until STAGE is SUP no queue is enabled
(R38, R40 to R42, R451). -/
def State.queueWrite (s : State) (q off : Nat) (v : Word) : State :=
  if 65536 ≤ q then s
  else match off with
    | 0x000 => nextOr s (execKick q v s)
    | 0x008 => if bitAt v 47 then s.updQueue q fun u => { u with cfgerr := false } else s
    | 0x010 => s.updQueue q fun u => { u with en := bitAt v 63 && decide (s.svc.boot.stage = 7), ien := bitAt v 62, vec := bits v 0 11 }
    | 0x018 => nextOr s (execQgraphWrite q v s)
    | 0x020 => nextOr s (execQcbaseWrite q v s)
    | 0x028 => nextOr s (execQcsizeWrite q v s)
    | 0x030 => s.updQueue q fun u => { u with chead := v.extractLsb' 0 17 }
    | _ => s

/-- QSTAT of a queue (R41). -/
def Queue.stat (u : Queue) : Word :=
  toWord (packFields [(48, u.drop.toNat), (47, boolNat u.cfgerr), (46, boolNat u.active), (32, u.pend.length), (0, u.seq.toNat)])

/-- QCFG of a queue (R40). -/
def Queue.cfgWord (u : Queue) : Word :=
  toWord (packFields [(63, boolNat u.en), (62, boolNat u.ien), (40, u.part), (32, u.pmax), (0, u.vec)])

/-- What a host read of 8 bytes at an offset of a queue page returns: KICK and reserved offsets read as zero (R12, R38 to
R42). -/
def State.queueRead (s : State) (q off : Nat) : Word :=
  let u := s.queue q
  match off with
  | 0x008 => u.stat
  | 0x010 => u.cfgWord
  | 0x018 => u.graph
  | 0x020 => u.cbase
  | 0x028 => toWord u.csize
  | 0x030 => u.chead.setWidth 64
  | _ => 0#64

/-- What a host read of 8 bytes at an offset of the Hjellos DVSEC in the host port's configuration space returns: the copy of
BOOTSTAT at 0x0C (R451). The spec places nothing else there. -/
def State.dvsecRead (s : State) (off : Nat) : Option Word := if off = 0x0C then some s.bootstatWord else none

/-- What a host read of 8 bytes at an offset of the control page of partition `n` returns (R51). DESIGN CHOICE (log 42):
PCTL.RST reads as one while the reset that it requested is in progress. -/
def State.partRead (s : State) (n off : Nat) : Word :=
  match off with
  | 0x000 => toWord (boolNat (s.partBusy n))
  | 0x008 => toWord (packFields [(63, boolNat (s.partBusy n)), (62, boolNat (bitAt (s.reg 0 0x882) n)), (0, (SMap.at 0#32 s.fltcnt n).toNat)])
  | _ => 0#64

/-- A supervisor's or tenant's write as an SWRITE makes it (R148). -/
def State.regWrite (s : State) (x num : Nat) (v : Word) : State :=
  if !s.writer x || !SysReg.open (s.ctx x).y.sup num then s
  else if s.swriteBad x num v then s.writeIllegal x
  else if num = 0x002 then nextOr s (execFcrWrite x v s)
  else if num = 0x019 ∧ (s.ctx x).e.hm = false then s
  else s.sysWrite x num v

/-- REGISTER_WRITE (R12). -/
def execRegisterWrite (r : RegName) (v : Word) (s : State) : Out :=
  .next (match r with
    | .sys x num => s.regWrite x num v
    | .queue q off => s.queueWrite q off v
    | .queueSize q => if q < 65536 then s.updQueue q fun u => { u with cfgerr := true } else s
    | .part n off => if off = 0 ∧ bitAt v 0 ∧ n < 16 then nextOr s (execPctlRst n s) else s)

end Sys2Proof.Machine
end

