-- ==== Sys2Proof/Machine/Slots.lean ====
section
/-! DEFINITION. What each encoded instruction does as a slot of the bundle in issue (R87): the same meanings that
`exec` names, in one table that the bundle can run. An event row is no slot. -/

namespace Sys2Proof.Machine

/-- Runs one slot. -/
def slotExec (i : Instr) (s : State) : Out :=
  match i with
  | .add g d a b => execAdd g d a b s
  | .sub g d a b => execSub g d a b s
  | .and g d a b => execAnd g d a b s
  | .or g d a b => execOr g d a b s
  | .xor g d a b => execXor g d a b s
  | .shl g d a b => execShl g d a b s
  | .shr g d a b => execShr g d a b s
  | .sar g d a b => execSar g d a b s
  | .mul g d a b => execMul g d a b s
  | .mulh g d a b => execMulh g d a b s
  | .mulhn g d a b => execMulhn g d a b s
  | .div g d a b => execDiv g d a b s
  | .divn g d a b => execDivn g d a b s
  | .rem g d a b => execRem g d a b s
  | .remn g d a b => execRemn g d a b s
  | .min g d a b => execMin g d a b s
  | .max g d a b => execMax g d a b s
  | .minn g d a b => execMinn g d a b s
  | .maxn g d a b => execMaxn g d a b s
  | .sel g d a b k => execSel g d a b k s
  | .clz g d a => execClz g d a s
  | .ctz g d a => execCtz g d a s
  | .popc g d a => execPopc g d a s
  | .cmpCc g cc pd a b => execCmpCc g cc pd a b s
  | .pand g pd pa pb => execPand g pd pa pb s
  | .por g pd pa pb => execPor g pd pa pb s
  | .pxor g pd pa pb => execPxor g pd pa pb s
  | .pnot g pd pa => execPnot g pd pa s
  | .movpPs g d pa q => execMovpPs g d pa q s
  | .movpSp g pd a q => execMovpSp g pd a q s
  | .movpBc g pd a => execMovpBc g pd a s
  | .addi d a imm => execAddi d a imm s
  | .andi d a imm => execAndi d a imm s
  | .ori d a imm => execOri d a imm s
  | .xori d a imm => execXori d a imm s
  | .shli d a n => execShli d a n s
  | .shri d a n => execShri d a n s
  | .sari d a n => execSari d a n s
  | .movi d imm => execMovi d imm s
  | .shi d imm => execShi d imm s
  | .br g off => execBr g off s
  | .brl g off => execBrl g off s
  | .brs g d a => execBrs g d a s
  | .loop g n a => execLoop g n a s
  | .loopi n count => execLoopi n count s
  | .ppt => execPpt s
  | .yield => execYield s
  | .exit => execExit s
  | .tstamp g d => execTstamp g d s
  | .tstampSet g d a => execTstampSet g d a s
  | .sread d num => execSread d num s
  | .swrite num a => execSwrite num a s
  | .trap imm => execTrap imm s
  | .svc imm => execSvc imm s
  | .eret => execEret s
  | .fcrSet g a fields => execFcrSet g a fields s
  | .fcrGet g d => execFcrGet g d s
  | .panAck g d => execPanAck g d s
  | .panRead g d a ps => execPanRead g d a ps s
  | .poisTest g kind d x => execPoisTest g kind d x s
  | .poisClr g kind x => execPoisClr g kind x s
  | .poisSet g kind x => execPoisSet g kind x s
  | .preemptStop g d a b => execPreemptStop g d a b s
  | .preemptResume g d a b => execPreemptResume g d a b s
  | .preemptState g d a b => execPreemptState g d a b s
  | .ctxSave g d a b => execCtxSave g d a b s
  | .ctxLoad g d a b => execCtxLoad g d a b s
  | .halt => execHalt s
  | .vadd pg t d a b => execVadd pg t d a b s
  | .vsub pg t d a b => execVsub pg t d a b s
  | .vmul pg t d a b => execVmul pg t d a b s
  | .vmulh pg t d a b => execVmulh pg t d a b s
  | .vmin pg t d a b => execVmin pg t d a b s
  | .vmax pg t d a b => execVmax pg t d a b s
  | .vand pg t d a b => execVand pg t d a b s
  | .vor pg t d a b => execVor pg t d a b s
  | .vxor pg t d a b => execVxor pg t d a b s
  | .vnot pg t d a => execVnot pg t d a s
  | .vshl pg t d a b => execVshl pg t d a b s
  | .vshr pg t d a b => execVshr pg t d a b s
  | .vsar pg t d a b => execVsar pg t d a b s
  | .vcmpCc cc pg t pd a b => execVcmpCc cc pg t pd a b s
  | .vadds pg t d a b => execVadds pg t d a b s
  | .vsubs pg t d a b => execVsubs pg t d a b s
  | .fadd pg t d a b => execFadd pg t d a b s
  | .fsub pg t d a b => execFsub pg t d a b s
  | .fmul pg t d a b => execFmul pg t d a b s
  | .fma pg t d a b => execFma pg t d a b s
  | .fms pg t d a b => execFms pg t d a b s
  | .fnma pg t d a b => execFnma pg t d a b s
  | .fnms pg t d a b => execFnms pg t d a b s
  | .fmin pg t d a b => execFmin pg t d a b s
  | .fmax pg t d a b => execFmax pg t d a b s
  | .fabs pg t d a => execFabs pg t d a s
  | .fneg pg t d a => execFneg pg t d a s
  | .fcmpCc cc pg t pd a b => execFcmpCc cc pg t pd a b s
  | .fclass pg t d a => execFclass pg t d a s
  | .frnd pg t d a => execFrnd pg t d a s
  | .fscale pg t d a b => execFscale pg t d a b s
  | .vsel t d a b k => execVsel t d a b k s
  | .vmov pg t d a => execVmov pg t d a s
  | .vbcast pg t d n => execVbcast pg t d n s
  | .vimm t d imm => execVimm t d imm s
  | .vext t d a b => execVext t d a b s
  | .vins t d a b => execVins t d a b s
  | .vperm pg t d a b => execVperm pg t d a b s
  | .vslideUp pg t d a b => execVslideUp pg t d a b s
  | .vslideDn pg t d a b => execVslideDn pg t d a b s
  | .vrot pg t d a b => execVrot pg t d a b s
  | .vzip pg t d a b => execVzip pg t d a b s
  | .vunzip pg t d a b => execVunzip pg t d a b s
  | .vtrn pg t d a b => execVtrn pg t d a b s
  | .vradd pg t d a => execVradd pg t d a s
  | .vrmin pg t d a => execVrmin pg t d a s
  | .vrmax pg t d a => execVrmax pg t d a s
  | .vscanAdd pg t d a => execVscanAdd pg t d a s
  | .vdot4 pg t d a b => execVdot4 pg t d a b s
  | .vhash pg t d a b => execVhash pg t d a b s
  | .pcnt pg t d pa => execPcnt pg t d pa s
  | .pfirst pg t d pa => execPfirst pg t d pa s
  | .vshli t d a c => execVshli t d a c s
  | .vshri t d a c => execVshri t d a c s
  | .vsari t d a c => execVsari t d a c s
  | .cvt d a dty sty rm defer ov => execCvt d a dty sty rm defer ov s
  | .mxpack d a et bf rm defer ov => execMxpack d a et bf rm defer ov s
  | .mxunpack d a et bf rm defer => execMxunpack d a et bf rm defer s
  | .b16pack d a rm defer => execB16pack d a rm defer s
  | .fradd pg t d a => execFradd pg t d a s
  | .frmin pg t d a => execFrmin pg t d a s
  | .frmax pg t d a => execFrmax pg t d a s
  | .sfEval pg t d a k => execSfEval pg t d a k s
  | .sfEvalx pg t d a pr k => execSfEvalx pg t d a pr k s
  | .sftLoad g d a b => execSftLoad g d a b s
  | .sftBind g d a k => execSftBind g d a k s
  | .sftBindOff g d k => execSftBindOff g d k s
  | .sftInfo g d k w => execSftInfo g d k w s
  | .sftChk g d a => execSftChk g d a s
  | .ld g w sp d b off => execLd g w sp d b off s
  | .st g w sp d b off => execSt g w sp d b off s
  | .vld g sp d b off => execVld g sp d b off s
  | .vst g sp d b off => execVst g sp d b off s
  | .vlds g w sp d b c => execVlds g w sp d b c s
  | .vgather g w sp d b c => execVgather g w sp d b c s
  | .vscatter g w sp d b c => execVscatter g w sp d b c s
  | .gld g w d b off => execGld g w d b off s
  | .gst g w d b off => execGst g w d b off s
  | .chpop g d n => execChpop g d n s
  | .chpopDrop g n => execChpopDrop g n s
  | .chpush g n d => execChpush g n d s
  | .chpushAb g n b => execChpushAb g n b s
  | .chpushSp g n b => execChpushSp g n b s
  | .chpeek g d n b => execChpeek g d n b s
  | .chstat g d n => execChstat g d n s
  | .ldAcq g w sp gl d b off => execLdAcq g w sp gl d b off s
  | .stRel g w sp gl scope d b off => execStRel g w sp gl scope d b off s
  | .aadd g ord sp dw d b c => execAadd g ord sp dw d b c s
  | .aand g ord sp dw d b c => execAand g ord sp dw d b c s
  | .aor g ord sp dw d b c => execAor g ord sp dw d b c s
  | .axor g ord sp dw d b c => execAxor g ord sp dw d b c s
  | .amin g ord sp dw d b c => execAmin g ord sp dw d b c s
  | .amax g ord sp dw d b c => execAmax g ord sp dw d b c s
  | .axch g ord sp dw d b c => execAxch g ord sp dw d b c s
  | .acas g ord sp dw d b c => execAcas g ord sp dw d b c s
  | .adecp g ord sp dw d b => execAdecp g ord sp dw d b s
  | .amxacc g ord et d b c => execAmxacc g ord et d b c s
  | .fence g scope d => execFence g scope d s
  | .waitv g dw d b c => execWaitv g dw d b c s
  | .notify g all d b => execNotify g all d b s
  | .synAdd g d b c => execSynAdd g d b c s
  | .synWait g d b c => execSynWait g d b c s
  | .synGet g d b => execSynGet g d b s
  | .bar g grp d => execBar g grp d s
  | .copy g acq rel a b d => execCopy g acq rel a b d s
  | .copyw g acq rel a b d => execCopyw g acq rel a b d s
  | .ladRun g j a b d => execLadRun g j a b d s
  | .ladStop g j => execLadStop g j s
  | .ladStat g d j => execLadStat g d j s
  | .pref g acq a b => execPref g acq a b s
  | .rowcpy g acq rel a b d => execRowcpy g acq rel a b d s
  | .rowinit g acq rel a b d => execRowinit g acq rel a b d s
  | .grdLease g => execGrdLease g s
  | .grdFree g => execGrdFree g s
  | .grdWload g a => execGrdWload g a s
  | .grdScl g a => execGrdScl g a s
  | .grdSclAll g b => execGrdSclAll g b s
  | .grdMul g acq rel a b d => execGrdMul g acq rel a b d s
  | .grdZero g d => execGrdZero g d s
  | .grdDrain g acq rel a d => execGrdDrain g acq rel a d s
  | .grdChk g d a => execGrdChk g d a s
  | .grdSave g acq rel a d => execGrdSave g acq rel a d s
  | .grdRest g acq rel a d => execGrdRest g acq rel a d s
  | .grdStat g clr d a => execGrdStat g clr d a s
  | .send g w rel a b d => execSend g w rel a b d s
  | .sendv g rel a b d => execSendv g rel a b d s
  | .rld g a d => execRld g a d s
  | .rred g rel a b d => execRred g rel a b d s
  | .recv g d n a => execRecv g d n a s
  | .mldr g d a b => execMldr g d a b s
  | .fabStat g d a => execFabStat g d a s
  | _ => .next s

end Sys2Proof.Machine
end

