-- ==== Sys2Proof/Machine/Uses.lean ====
section
/-! DEFINITION. The registers and predicates that a slot reads, guards on and writes (R115 condition 1, R119), and the
channels that it pushes, from the operand fields alone: of the forms R94 to R98, of the pairs that R239, R294 and R356
name, and of the destinations that are also sources (R134, R189, R198). -/

namespace Sys2Proof.Machine

/-- The register of a vector operand code (R96): ring entries, channel heads and constants are none. -/
def vopRes (a : VOp) : List Res := if a.toNat < 32 then [.v a.toNat] else []

/-- The register that POIS names (R156). -/
def poisRes (kind : BitVec 2) (x : BitVec 5) : Res :=
  if kind = 1#2 then .v x.toNat else if kind = 0#2 then .s x.toNat else .p (x.toNat % 8)

/-- Registers and predicates read, guards and merged destinations among them. -/
def usesOf : Instr → List Res
  | .add g _ a b => [.p g.p.toNat, .s a.toNat, .s b.toNat]
  | .sub g _ a b => [.p g.p.toNat, .s a.toNat, .s b.toNat]
  | .and g _ a b => [.p g.p.toNat, .s a.toNat, .s b.toNat]
  | .or g _ a b => [.p g.p.toNat, .s a.toNat, .s b.toNat]
  | .xor g _ a b => [.p g.p.toNat, .s a.toNat, .s b.toNat]
  | .shl g _ a b => [.p g.p.toNat, .s a.toNat, .s b.toNat]
  | .shr g _ a b => [.p g.p.toNat, .s a.toNat, .s b.toNat]
  | .sar g _ a b => [.p g.p.toNat, .s a.toNat, .s b.toNat]
  | .mul g _ a b => [.p g.p.toNat, .s a.toNat, .s b.toNat]
  | .mulh g _ a b => [.p g.p.toNat, .s a.toNat, .s b.toNat]
  | .mulhn g _ a b => [.p g.p.toNat, .s a.toNat, .s b.toNat]
  | .div g _ a b => [.p g.p.toNat, .s a.toNat, .s b.toNat]
  | .divn g _ a b => [.p g.p.toNat, .s a.toNat, .s b.toNat]
  | .rem g _ a b => [.p g.p.toNat, .s a.toNat, .s b.toNat]
  | .remn g _ a b => [.p g.p.toNat, .s a.toNat, .s b.toNat]
  | .min g _ a b => [.p g.p.toNat, .s a.toNat, .s b.toNat]
  | .max g _ a b => [.p g.p.toNat, .s a.toNat, .s b.toNat]
  | .minn g _ a b => [.p g.p.toNat, .s a.toNat, .s b.toNat]
  | .maxn g _ a b => [.p g.p.toNat, .s a.toNat, .s b.toNat]
  | .sel g _ a b k => [.p g.p.toNat, .s a.toNat, .s b.toNat, .p k.toNat]
  | .clz g _ a => [.p g.p.toNat, .s a.toNat]
  | .ctz g _ a => [.p g.p.toNat, .s a.toNat]
  | .popc g _ a => [.p g.p.toNat, .s a.toNat]
  | .cmpCc g _ _ a b => [.p g.p.toNat, .s a.toNat, .s b.toNat]
  | .pand g _ pa pb => [.p g.p.toNat, .p pa.toNat, .p pb.toNat]
  | .por g _ pa pb => [.p g.p.toNat, .p pa.toNat, .p pb.toNat]
  | .pxor g _ pa pb => [.p g.p.toNat, .p pa.toNat, .p pb.toNat]
  | .pnot g _ pa => [.p g.p.toNat, .p pa.toNat]
  | .movpPs g _ pa _ => [.p g.p.toNat, .p pa.toNat]
  | .movpSp g pd a _ => [.p g.p.toNat, .p pd.toNat, .s a.toNat]
  | .movpBc g _ a => [.p g.p.toNat, .s a.toNat]
  | .addi _ a _ => [.s a.toNat]
  | .andi _ a _ => [.s a.toNat]
  | .ori _ a _ => [.s a.toNat]
  | .xori _ a _ => [.s a.toNat]
  | .shli _ a _ => [.s a.toNat]
  | .shri _ a _ => [.s a.toNat]
  | .sari _ a _ => [.s a.toNat]
  | .movi _ _ => []
  | .shi d _ => [.s d.toNat]
  | .br g _ => [.p g.p.toNat]
  | .brl g _ => [.p g.p.toNat]
  | .brs g _ a => [.p g.p.toNat, .s a.toNat]
  | .loop g _ a => [.p g.p.toNat, .s a.toNat]
  | .loopi _ _ => []
  | .ppt => []
  | .yield => []
  | .exit => []
  | .tstamp g _ => [.p g.p.toNat]
  | .tstampSet g _ a => [.p g.p.toNat, .s a.toNat]
  | .sread _ _ => []
  | .swrite _ a => [.s a.toNat]
  | .trap _ => []
  | .svc _ => []
  | .eret => []
  | .fcrSet g a _ => [.p g.p.toNat, .s a.toNat]
  | .fcrGet g _ => [.p g.p.toNat]
  | .panAck g _ => [.p g.p.toNat]
  | .panRead g _ a _ => [.p g.p.toNat, .s a.toNat]
  | .poisTest g kind _ x => [.p g.p.toNat, poisRes kind x]
  | .poisClr g kind x => [.p g.p.toNat, poisRes kind x]
  | .poisSet g kind x => [.p g.p.toNat, poisRes kind x]
  | .preemptStop g _ a b => [.p g.p.toNat, .s a.toNat, .s b.toNat]
  | .preemptResume g _ a b => [.p g.p.toNat, .s a.toNat, .s b.toNat]
  | .preemptState g _ a b => [.p g.p.toNat, .s a.toNat, .s b.toNat]
  | .ctxSave g _ a b => [.p g.p.toNat, .s a.toNat, .s b.toNat]
  | .ctxLoad g _ a b => [.p g.p.toNat, .s a.toNat, .s b.toNat]
  | .halt => []
  | .vadd pg _ d a b => [.p pg.toNat] ++ vopRes a ++ vopRes b ++ [.v d.toNat]
  | .vsub pg _ d a b => [.p pg.toNat] ++ vopRes a ++ vopRes b ++ [.v d.toNat]
  | .vmul pg _ d a b => [.p pg.toNat] ++ vopRes a ++ vopRes b ++ [.v d.toNat]
  | .vmulh pg _ d a b => [.p pg.toNat] ++ vopRes a ++ vopRes b ++ [.v d.toNat]
  | .vmin pg _ d a b => [.p pg.toNat] ++ vopRes a ++ vopRes b ++ [.v d.toNat]
  | .vmax pg _ d a b => [.p pg.toNat] ++ vopRes a ++ vopRes b ++ [.v d.toNat]
  | .vand pg _ d a b => [.p pg.toNat] ++ vopRes a ++ vopRes b ++ [.v d.toNat]
  | .vor pg _ d a b => [.p pg.toNat] ++ vopRes a ++ vopRes b ++ [.v d.toNat]
  | .vxor pg _ d a b => [.p pg.toNat] ++ vopRes a ++ vopRes b ++ [.v d.toNat]
  | .vnot pg _ d a => [.p pg.toNat] ++ vopRes a ++ [.v d.toNat]
  | .vshl pg _ d a b => [.p pg.toNat] ++ vopRes a ++ vopRes b ++ [.v d.toNat]
  | .vshr pg _ d a b => [.p pg.toNat] ++ vopRes a ++ vopRes b ++ [.v d.toNat]
  | .vsar pg _ d a b => [.p pg.toNat] ++ vopRes a ++ vopRes b ++ [.v d.toNat]
  | .vcmpCc _ pg _ _ a b => [.p pg.toNat] ++ vopRes a ++ vopRes b
  | .vadds pg _ d a b => [.p pg.toNat] ++ vopRes a ++ vopRes b ++ [.v d.toNat]
  | .vsubs pg _ d a b => [.p pg.toNat] ++ vopRes a ++ vopRes b ++ [.v d.toNat]
  | .fadd pg _ d a b => [.p pg.toNat] ++ vopRes a ++ vopRes b ++ [.v d.toNat]
  | .fsub pg _ d a b => [.p pg.toNat] ++ vopRes a ++ vopRes b ++ [.v d.toNat]
  | .fmul pg _ d a b => [.p pg.toNat] ++ vopRes a ++ vopRes b ++ [.v d.toNat]
  | .fma pg _ d a b => [.p pg.toNat, .v d.toNat] ++ vopRes a ++ vopRes b
  | .fms pg _ d a b => [.p pg.toNat, .v d.toNat] ++ vopRes a ++ vopRes b
  | .fnma pg _ d a b => [.p pg.toNat, .v d.toNat] ++ vopRes a ++ vopRes b
  | .fnms pg _ d a b => [.p pg.toNat, .v d.toNat] ++ vopRes a ++ vopRes b
  | .fmin pg _ d a b => [.p pg.toNat] ++ vopRes a ++ vopRes b ++ [.v d.toNat]
  | .fmax pg _ d a b => [.p pg.toNat] ++ vopRes a ++ vopRes b ++ [.v d.toNat]
  | .fabs pg _ d a => [.p pg.toNat] ++ vopRes a ++ [.v d.toNat]
  | .fneg pg _ d a => [.p pg.toNat] ++ vopRes a ++ [.v d.toNat]
  | .fcmpCc _ pg _ _ a b => [.p pg.toNat] ++ vopRes a ++ vopRes b
  | .fclass pg _ d a => [.p pg.toNat] ++ vopRes a ++ [.v d.toNat]
  | .frnd pg _ d a => [.p pg.toNat] ++ vopRes a ++ [.v d.toNat]
  | .fscale pg _ d a b => [.p pg.toNat] ++ vopRes a ++ vopRes b ++ [.v d.toNat]
  | .vsel _ _ a b k => vopRes a ++ vopRes b ++ [.p k.toNat]
  | .vmov pg _ d a => [.p pg.toNat] ++ vopRes a ++ [.v d.toNat]
  | .vbcast pg _ d n => [.p pg.toNat, .s n.toNat] ++ [.v d.toNat]
  | .vimm _ _ _ => []
  | .vext _ _ a b => vopRes a ++ [.s b.toNat]
  | .vins _ d a b => [.v d.toNat, .s a.toNat, .s b.toNat]
  | .vperm pg _ d a b => [.p pg.toNat] ++ vopRes a ++ vopRes b ++ [.v d.toNat]
  | .vslideUp pg _ d a b => [.p pg.toNat] ++ vopRes a ++ [.s b.toNat] ++ [.v d.toNat]
  | .vslideDn pg _ d a b => [.p pg.toNat] ++ vopRes a ++ [.s b.toNat] ++ [.v d.toNat]
  | .vrot pg _ d a b => [.p pg.toNat] ++ vopRes a ++ [.s b.toNat] ++ [.v d.toNat]
  | .vzip pg _ d a b => [.p pg.toNat] ++ vopRes a ++ vopRes b ++ [.v d.toNat, .v (d + 1#5).toNat]
  | .vunzip pg _ d a b => [.p pg.toNat] ++ vopRes a ++ vopRes b ++ [.v d.toNat, .v (d + 1#5).toNat]
  | .vtrn pg _ d a b => [.p pg.toNat] ++ vopRes a ++ vopRes b ++ [.v d.toNat, .v (d + 1#5).toNat]
  | .vradd pg _ _ a => [.p pg.toNat] ++ vopRes a
  | .vrmin pg _ _ a => [.p pg.toNat] ++ vopRes a
  | .vrmax pg _ _ a => [.p pg.toNat] ++ vopRes a
  | .vscanAdd pg _ d a => [.p pg.toNat] ++ vopRes a ++ [.v d.toNat]
  | .vdot4 pg _ d a b => [.p pg.toNat, .v d.toNat] ++ vopRes a ++ vopRes b
  | .vhash pg _ d a b => [.p pg.toNat] ++ vopRes a ++ vopRes b ++ [.v d.toNat]
  | .pcnt pg _ _ pa => [.p pg.toNat, .p pa.toNat]
  | .pfirst pg _ _ pa => [.p pg.toNat, .p pa.toNat]
  | .vshli _ _ a _ => vopRes a
  | .vshri _ _ a _ => vopRes a
  | .vsari _ _ a _ => vopRes a
  | .cvt _ a _ _ _ _ _ => vopRes a
  | .mxpack _ a _ _ _ _ _ => vopRes a
  | .mxunpack _ a _ _ _ _ => vopRes a
  | .b16pack _ a _ _ => vopRes a
  | .fradd pg _ _ a => [.p pg.toNat] ++ vopRes a
  | .frmin pg _ _ a => [.p pg.toNat] ++ vopRes a
  | .frmax pg _ _ a => [.p pg.toNat] ++ vopRes a
  | .sfEval pg _ d a _ => [.p pg.toNat] ++ vopRes a ++ [.v d.toNat]
  | .sfEvalx pg _ d a pr _ => [.p pg.toNat] ++ vopRes a ++ [.s (2 * pr.toNat), .s (2 * pr.toNat + 1)] ++ [.v d.toNat]
  | .sftLoad g _ a b => [.p g.p.toNat, .s a.toNat, .s b.toNat]
  | .sftBind g _ a _ => [.p g.p.toNat, .s a.toNat]
  | .sftBindOff g _ _ => [.p g.p.toNat]
  | .sftInfo g _ _ _ => [.p g.p.toNat]
  | .sftChk g _ a => [.p g.p.toNat, .s a.toNat]
  | .ld g _ _ _ b _ => [.p g.p.toNat, .s b.toNat]
  | .st g _ _ d b _ => [.p g.p.toNat, .s d.toNat, .s b.toNat]
  | .vld g _ _ b _ => [.p g.p.toNat, .s b.toNat]
  | .vst g _ d b _ => [.p g.p.toNat, .v d.toNat, .s b.toNat]
  | .vlds g _ _ _ b c => [.p g.p.toNat, .s b.toNat, .s c.toNat]
  | .vgather g _ _ _ b c => [.p g.p.toNat, .s b.toNat, .v c.toNat]
  | .vscatter g _ _ d b c => [.p g.p.toNat, .v d.toNat, .s b.toNat, .v c.toNat]
  | .gld g _ _ b _ => [.p g.p.toNat, .s b.toNat]
  | .gst g _ d b _ => [.p g.p.toNat, .s d.toNat, .s b.toNat]
  | .chpop g _ _ => [.p g.p.toNat]
  | .chpopDrop g _ => [.p g.p.toNat]
  | .chpush g _ d => [.p g.p.toNat, .v d.toNat]
  | .chpushAb g _ b => [.p g.p.toNat, .s b.toNat]
  | .chpushSp g _ b => [.p g.p.toNat, .s b.toNat]
  | .chpeek g _ _ b => [.p g.p.toNat, .s b.toNat]
  | .chstat g _ _ => [.p g.p.toNat]
  | .ldAcq g _ _ _ _ b _ => [.p g.p.toNat, .s b.toNat]
  | .stRel g _ _ _ _ d b _ => [.p g.p.toNat, .s d.toNat, .s b.toNat]
  | .aadd g _ _ _ _ b c => [.p g.p.toNat, .s b.toNat, .s c.toNat]
  | .aand g _ _ _ _ b c => [.p g.p.toNat, .s b.toNat, .s c.toNat]
  | .aor g _ _ _ _ b c => [.p g.p.toNat, .s b.toNat, .s c.toNat]
  | .axor g _ _ _ _ b c => [.p g.p.toNat, .s b.toNat, .s c.toNat]
  | .amin g _ _ _ _ b c => [.p g.p.toNat, .s b.toNat, .s c.toNat]
  | .amax g _ _ _ _ b c => [.p g.p.toNat, .s b.toNat, .s c.toNat]
  | .axch g _ _ _ _ b c => [.p g.p.toNat, .s b.toNat, .s c.toNat]
  | .acas g _ _ _ _ b c => [.p g.p.toNat, .s b.toNat, .s c.toNat, .s (c + 1#5).toNat]
  | .adecp g _ _ _ _ b => [.p g.p.toNat, .s b.toNat]
  | .amxacc g _ _ _ b c => [.p g.p.toNat, .s b.toNat, .v c.toNat]
  | .fence g _ _ => [.p g.p.toNat]
  | .waitv g _ _ b c => [.p g.p.toNat, .s b.toNat, .s c.toNat]
  | .notify g _ _ b => [.p g.p.toNat, .s b.toNat]
  | .synAdd g _ b c => [.p g.p.toNat, .s b.toNat, .s c.toNat]
  | .synWait g _ b c => [.p g.p.toNat, .s b.toNat, .s c.toNat]
  | .synGet g _ b => [.p g.p.toNat, .s b.toNat]
  | .bar g _ _ => [.p g.p.toNat]
  | .copy g _ _ a b d => [.p g.p.toNat, .s a.toNat, .s b.toNat, .s d.toNat]
  | .copyw g _ _ a b d => [.p g.p.toNat, .s a.toNat, .s b.toNat, .s d.toNat, .s (d + 1#5).toNat]
  | .ladRun g _ a b d => [.p g.p.toNat, .s a.toNat, .s b.toNat, .s d.toNat]
  | .ladStop g _ => [.p g.p.toNat]
  | .ladStat g _ _ => [.p g.p.toNat]
  | .pref g _ a b => [.p g.p.toNat, .s a.toNat, .s b.toNat]
  | .rowcpy g _ _ a b d => [.p g.p.toNat, .s a.toNat, .s b.toNat, .s d.toNat]
  | .rowinit g _ _ a b d => [.p g.p.toNat, .s a.toNat, .s b.toNat, .s d.toNat]
  | .grdLease g => [.p g.p.toNat]
  | .grdFree g => [.p g.p.toNat]
  | .grdWload g a => [.p g.p.toNat, .s a.toNat]
  | .grdScl g a => [.p g.p.toNat, .s a.toNat]
  | .grdSclAll g b => [.p g.p.toNat, .s b.toNat]
  | .grdMul g _ _ a b d => [.p g.p.toNat, .s a.toNat, .s b.toNat, .s d.toNat]
  | .grdZero g d => [.p g.p.toNat, .s d.toNat]
  | .grdDrain g _ _ a d => [.p g.p.toNat, .s a.toNat, .s d.toNat]
  | .grdChk g _ a => [.p g.p.toNat, .s a.toNat]
  | .grdSave g _ _ a d => [.p g.p.toNat, .s a.toNat, .s d.toNat]
  | .grdRest g _ _ a d => [.p g.p.toNat, .s a.toNat, .s d.toNat]
  | .grdStat g _ _ a => [.p g.p.toNat, .s a.toNat]
  | .send g _ _ a b d => [.p g.p.toNat, .s a.toNat, .s b.toNat, .s d.toNat, .s (d + 1#5).toNat]
  | .sendv g _ a b d => [.p g.p.toNat, .s a.toNat, .v b.toNat, .s d.toNat, .s (d + 1#5).toNat]
  | .rld g a d => [.p g.p.toNat, .s a.toNat, .s d.toNat]
  | .rred g _ a b d => [.p g.p.toNat, .s a.toNat, .v b.toNat, .s d.toNat]
  | .recv g _ _ a => [.p g.p.toNat, .s a.toNat]
  | .mldr g _ a b => [.p g.p.toNat, .v a.toNat, .s b.toNat]
  | .fabStat g _ a => [.p g.p.toNat, .s a.toNat]
  | _ => []

/-- Registers and predicates written. -/
def defsOf : Instr → List Res
  | .add _ d _ _ => [.s d.toNat]
  | .sub _ d _ _ => [.s d.toNat]
  | .and _ d _ _ => [.s d.toNat]
  | .or _ d _ _ => [.s d.toNat]
  | .xor _ d _ _ => [.s d.toNat]
  | .shl _ d _ _ => [.s d.toNat]
  | .shr _ d _ _ => [.s d.toNat]
  | .sar _ d _ _ => [.s d.toNat]
  | .mul _ d _ _ => [.s d.toNat]
  | .mulh _ d _ _ => [.s d.toNat]
  | .mulhn _ d _ _ => [.s d.toNat]
  | .div _ d _ _ => [.s d.toNat]
  | .divn _ d _ _ => [.s d.toNat]
  | .rem _ d _ _ => [.s d.toNat]
  | .remn _ d _ _ => [.s d.toNat]
  | .min _ d _ _ => [.s d.toNat]
  | .max _ d _ _ => [.s d.toNat]
  | .minn _ d _ _ => [.s d.toNat]
  | .maxn _ d _ _ => [.s d.toNat]
  | .sel _ d _ _ _ => [.s d.toNat]
  | .clz _ d _ => [.s d.toNat]
  | .ctz _ d _ => [.s d.toNat]
  | .popc _ d _ => [.s d.toNat]
  | .cmpCc _ _ pd _ _ => [.p pd.toNat]
  | .pand _ pd _ _ => [.p pd.toNat]
  | .por _ pd _ _ => [.p pd.toNat]
  | .pxor _ pd _ _ => [.p pd.toNat]
  | .pnot _ pd _ => [.p pd.toNat]
  | .movpPs _ d _ _ => [.s d.toNat]
  | .movpSp _ pd _ _ => [.p pd.toNat]
  | .movpBc _ pd _ => [.p pd.toNat]
  | .addi d _ _ => [.s d.toNat]
  | .andi d _ _ => [.s d.toNat]
  | .ori d _ _ => [.s d.toNat]
  | .xori d _ _ => [.s d.toNat]
  | .shli d _ _ => [.s d.toNat]
  | .shri d _ _ => [.s d.toNat]
  | .sari d _ _ => [.s d.toNat]
  | .movi d _ => [.s d.toNat]
  | .shi d _ => [.s d.toNat]
  | .brl _ _ => [.s 31]
  | .brs _ d _ => [.s d.toNat]
  | .tstamp _ d => [.s d.toNat]
  | .tstampSet _ d _ => [.s d.toNat]
  | .sread d _ => [.s d.toNat]
  | .fcrGet _ d => [.s d.toNat]
  | .panAck _ d => [.s d.toNat]
  | .panRead _ d _ _ => [.s d.toNat]
  | .poisTest _ _ d _ => [.s d.toNat]
  | .poisClr _ kind x => [poisRes kind x]
  | .poisSet _ kind x => [poisRes kind x]
  | .preemptStop _ d _ _ => [.s d.toNat]
  | .preemptResume _ d _ _ => [.s d.toNat]
  | .preemptState _ d _ _ => [.s d.toNat]
  | .ctxSave _ d _ _ => [.s d.toNat]
  | .ctxLoad _ d _ _ => [.s d.toNat]
  | .vadd _ _ d _ _ => [.v d.toNat]
  | .vsub _ _ d _ _ => [.v d.toNat]
  | .vmul _ _ d _ _ => [.v d.toNat]
  | .vmulh _ _ d _ _ => [.v d.toNat]
  | .vmin _ _ d _ _ => [.v d.toNat]
  | .vmax _ _ d _ _ => [.v d.toNat]
  | .vand _ _ d _ _ => [.v d.toNat]
  | .vor _ _ d _ _ => [.v d.toNat]
  | .vxor _ _ d _ _ => [.v d.toNat]
  | .vnot _ _ d _ => [.v d.toNat]
  | .vshl _ _ d _ _ => [.v d.toNat]
  | .vshr _ _ d _ _ => [.v d.toNat]
  | .vsar _ _ d _ _ => [.v d.toNat]
  | .vcmpCc _ _ _ pd _ _ => [.p pd.toNat]
  | .vadds _ _ d _ _ => [.v d.toNat]
  | .vsubs _ _ d _ _ => [.v d.toNat]
  | .fadd _ _ d _ _ => [.v d.toNat]
  | .fsub _ _ d _ _ => [.v d.toNat]
  | .fmul _ _ d _ _ => [.v d.toNat]
  | .fma _ _ d _ _ => [.v d.toNat]
  | .fms _ _ d _ _ => [.v d.toNat]
  | .fnma _ _ d _ _ => [.v d.toNat]
  | .fnms _ _ d _ _ => [.v d.toNat]
  | .fmin _ _ d _ _ => [.v d.toNat]
  | .fmax _ _ d _ _ => [.v d.toNat]
  | .fabs _ _ d _ => [.v d.toNat]
  | .fneg _ _ d _ => [.v d.toNat]
  | .fcmpCc _ _ _ pd _ _ => [.p pd.toNat]
  | .fclass _ _ d _ => [.v d.toNat]
  | .frnd _ _ d _ => [.v d.toNat]
  | .fscale _ _ d _ _ => [.v d.toNat]
  | .vsel _ d _ _ _ => [.v d.toNat]
  | .vmov _ _ d _ => [.v d.toNat]
  | .vbcast _ _ d _ => [.v d.toNat]
  | .vimm _ d _ => [.v d.toNat]
  | .vext _ d _ _ => [.s d.toNat]
  | .vins _ d _ _ => [.v d.toNat]
  | .vperm _ _ d _ _ => [.v d.toNat]
  | .vslideUp _ _ d _ _ => [.v d.toNat]
  | .vslideDn _ _ d _ _ => [.v d.toNat]
  | .vrot _ _ d _ _ => [.v d.toNat]
  | .vzip _ _ d _ _ => [.v d.toNat, .v (d + 1#5).toNat]
  | .vunzip _ _ d _ _ => [.v d.toNat, .v (d + 1#5).toNat]
  | .vtrn _ _ d _ _ => [.v d.toNat, .v (d + 1#5).toNat]
  | .vradd _ _ d _ => [.v d.toNat]
  | .vrmin _ _ d _ => [.v d.toNat]
  | .vrmax _ _ d _ => [.v d.toNat]
  | .vscanAdd _ _ d _ => [.v d.toNat]
  | .vdot4 _ _ d _ _ => [.v d.toNat]
  | .vhash _ _ d _ _ => [.v d.toNat]
  | .pcnt _ _ d _ => [.s d.toNat]
  | .pfirst _ _ d _ => [.s d.toNat]
  | .vshli _ d _ _ => [.v d.toNat]
  | .vshri _ d _ _ => [.v d.toNat]
  | .vsari _ d _ _ => [.v d.toNat]
  | .cvt d _ _ _ _ _ _ => [.v d.toNat]
  | .mxpack d _ _ _ _ _ _ => [.v d.toNat]
  | .mxunpack d _ _ _ _ _ => [.v d.toNat]
  | .b16pack d _ _ _ => [.v d.toNat]
  | .fradd _ _ d _ => [.v d.toNat]
  | .frmin _ _ d _ => [.v d.toNat]
  | .frmax _ _ d _ => [.v d.toNat]
  | .sfEval _ _ d _ _ => [.v d.toNat]
  | .sfEvalx _ _ d _ _ _ => [.v d.toNat]
  | .sftLoad _ d _ _ => [.s d.toNat]
  | .sftBind _ d _ _ => [.s d.toNat]
  | .sftBindOff _ d _ => [.s d.toNat]
  | .sftInfo _ d _ _ => [.s d.toNat]
  | .sftChk _ d _ => [.s d.toNat]
  | .ld _ _ _ d _ _ => [.s d.toNat]
  | .vld _ _ d _ _ => [.v d.toNat]
  | .vlds _ _ _ d _ _ => [.v d.toNat]
  | .vgather _ _ _ d _ _ => [.v d.toNat]
  | .gld _ _ d _ _ => [.s d.toNat]
  | .chpop _ d _ => [.v d.toNat]
  | .chpeek _ d _ _ => [.v d.toNat]
  | .chstat _ d _ => [.s d.toNat]
  | .ldAcq _ _ _ _ d _ _ => [.s d.toNat]
  | .aadd _ _ _ _ d _ _ => [.s d.toNat]
  | .aand _ _ _ _ d _ _ => [.s d.toNat]
  | .aor _ _ _ _ d _ _ => [.s d.toNat]
  | .axor _ _ _ _ d _ _ => [.s d.toNat]
  | .amin _ _ _ _ d _ _ => [.s d.toNat]
  | .amax _ _ _ _ d _ _ => [.s d.toNat]
  | .axch _ _ _ _ d _ _ => [.s d.toNat]
  | .acas _ _ _ _ d _ _ => [.s d.toNat]
  | .adecp _ _ _ _ d _ => [.s d.toNat]
  | .amxacc _ _ _ d _ _ => [.s d.toNat]
  | .fence _ _ d => [.s d.toNat]
  | .waitv _ _ d _ _ => [.s d.toNat]
  | .notify _ _ d _ => [.s d.toNat]
  | .synAdd _ d _ _ => [.s d.toNat]
  | .synWait _ d _ _ => [.s d.toNat]
  | .synGet _ d _ => [.s d.toNat]
  | .bar _ _ d => [.s d.toNat]
  | .ladStat _ d _ => [.s d.toNat]
  | .grdChk _ d _ => [.s d.toNat]
  | .grdStat _ _ d _ => [.s d.toNat]
  | .recv _ d _ _ => [.v d.toNat]
  | .mldr _ d _ _ => [.s d.toNat]
  | .fabStat _ d _ => [.s d.toNat]
  | _ => []

/-- A slot is nullified by an unpoisoned false scalar guard only if its form has one (R94, R95). -/
def guardOf : Instr → Option Guard
  | .add g _ _ _ => some g
  | .sub g _ _ _ => some g
  | .and g _ _ _ => some g
  | .or g _ _ _ => some g
  | .xor g _ _ _ => some g
  | .shl g _ _ _ => some g
  | .shr g _ _ _ => some g
  | .sar g _ _ _ => some g
  | .mul g _ _ _ => some g
  | .mulh g _ _ _ => some g
  | .mulhn g _ _ _ => some g
  | .div g _ _ _ => some g
  | .divn g _ _ _ => some g
  | .rem g _ _ _ => some g
  | .remn g _ _ _ => some g
  | .min g _ _ _ => some g
  | .max g _ _ _ => some g
  | .minn g _ _ _ => some g
  | .maxn g _ _ _ => some g
  | .sel g _ _ _ _ => some g
  | .clz g _ _ => some g
  | .ctz g _ _ => some g
  | .popc g _ _ => some g
  | .cmpCc g _ _ _ _ => some g
  | .pand g _ _ _ => some g
  | .por g _ _ _ => some g
  | .pxor g _ _ _ => some g
  | .pnot g _ _ => some g
  | .movpPs g _ _ _ => some g
  | .movpSp g _ _ _ => some g
  | .movpBc g _ _ => some g
  | .br g _ => some g
  | .brl g _ => some g
  | .brs g _ _ => some g
  | .loop g _ _ => some g
  | .tstamp g _ => some g
  | .tstampSet g _ _ => some g
  | .fcrSet g _ _ => some g
  | .fcrGet g _ => some g
  | .panAck g _ => some g
  | .panRead g _ _ _ => some g
  | .poisTest g _ _ _ => some g
  | .poisClr g _ _ => some g
  | .poisSet g _ _ => some g
  | .preemptStop g _ _ _ => some g
  | .preemptResume g _ _ _ => some g
  | .preemptState g _ _ _ => some g
  | .ctxSave g _ _ _ => some g
  | .ctxLoad g _ _ _ => some g
  | .sftLoad g _ _ _ => some g
  | .sftBind g _ _ _ => some g
  | .sftBindOff g _ _ => some g
  | .sftInfo g _ _ _ => some g
  | .sftChk g _ _ => some g
  | .ld g _ _ _ _ _ => some g
  | .st g _ _ _ _ _ => some g
  | .vld g _ _ _ _ => some g
  | .vst g _ _ _ _ => some g
  | .vlds g _ _ _ _ _ => some g
  | .vgather g _ _ _ _ _ => some g
  | .vscatter g _ _ _ _ _ => some g
  | .gld g _ _ _ _ => some g
  | .gst g _ _ _ _ => some g
  | .chpop g _ _ => some g
  | .chpopDrop g _ => some g
  | .chpush g _ _ => some g
  | .chpushAb g _ _ => some g
  | .chpushSp g _ _ => some g
  | .chpeek g _ _ _ => some g
  | .chstat g _ _ => some g
  | .ldAcq g _ _ _ _ _ _ => some g
  | .stRel g _ _ _ _ _ _ _ => some g
  | .aadd g _ _ _ _ _ _ => some g
  | .aand g _ _ _ _ _ _ => some g
  | .aor g _ _ _ _ _ _ => some g
  | .axor g _ _ _ _ _ _ => some g
  | .amin g _ _ _ _ _ _ => some g
  | .amax g _ _ _ _ _ _ => some g
  | .axch g _ _ _ _ _ _ => some g
  | .acas g _ _ _ _ _ _ => some g
  | .adecp g _ _ _ _ _ => some g
  | .amxacc g _ _ _ _ _ => some g
  | .fence g _ _ => some g
  | .waitv g _ _ _ _ => some g
  | .notify g _ _ _ => some g
  | .synAdd g _ _ _ => some g
  | .synWait g _ _ _ => some g
  | .synGet g _ _ => some g
  | .bar g _ _ => some g
  | .copy g _ _ _ _ _ => some g
  | .copyw g _ _ _ _ _ => some g
  | .ladRun g _ _ _ _ => some g
  | .ladStop g _ => some g
  | .ladStat g _ _ => some g
  | .pref g _ _ _ => some g
  | .rowcpy g _ _ _ _ _ => some g
  | .rowinit g _ _ _ _ _ => some g
  | .grdLease g => some g
  | .grdFree g => some g
  | .grdWload g _ => some g
  | .grdScl g _ => some g
  | .grdSclAll g _ => some g
  | .grdMul g _ _ _ _ _ => some g
  | .grdZero g _ => some g
  | .grdDrain g _ _ _ _ => some g
  | .grdChk g _ _ => some g
  | .grdSave g _ _ _ _ => some g
  | .grdRest g _ _ _ _ => some g
  | .grdStat g _ _ _ => some g
  | .send g _ _ _ _ _ => some g
  | .sendv g _ _ _ _ => some g
  | .rld g _ _ => some g
  | .rred g _ _ _ _ => some g
  | .recv g _ _ _ => some g
  | .mldr g _ _ _ => some g
  | .fabStat g _ _ => some g
  | _ => none

/-- The channel that a vector operand code pops (R96, R97). -/
def vopPops (a : VOp) : List Nat := if 48 ≤ a.toNat ∧ a.toNat < 56 then [a.toNat - 48] else []

/-- The channels whose head an instruction pops: its head operands, CHPOP and RECV (R97, R288, R391). -/
def popsOf : Instr → List Nat
  | .vadd _ _ _ a b => vopPops a ++ vopPops b
  | .vsub _ _ _ a b => vopPops a ++ vopPops b
  | .vmul _ _ _ a b => vopPops a ++ vopPops b
  | .vmulh _ _ _ a b => vopPops a ++ vopPops b
  | .vmin _ _ _ a b => vopPops a ++ vopPops b
  | .vmax _ _ _ a b => vopPops a ++ vopPops b
  | .vand _ _ _ a b => vopPops a ++ vopPops b
  | .vor _ _ _ a b => vopPops a ++ vopPops b
  | .vxor _ _ _ a b => vopPops a ++ vopPops b
  | .vnot _ _ _ a => vopPops a
  | .vshl _ _ _ a b => vopPops a ++ vopPops b
  | .vshr _ _ _ a b => vopPops a ++ vopPops b
  | .vsar _ _ _ a b => vopPops a ++ vopPops b
  | .vcmpCc _ _ _ _ a b => vopPops a ++ vopPops b
  | .vadds _ _ _ a b => vopPops a ++ vopPops b
  | .vsubs _ _ _ a b => vopPops a ++ vopPops b
  | .fadd _ _ _ a b => vopPops a ++ vopPops b
  | .fsub _ _ _ a b => vopPops a ++ vopPops b
  | .fmul _ _ _ a b => vopPops a ++ vopPops b
  | .fma _ _ _ a b => vopPops a ++ vopPops b
  | .fms _ _ _ a b => vopPops a ++ vopPops b
  | .fnma _ _ _ a b => vopPops a ++ vopPops b
  | .fnms _ _ _ a b => vopPops a ++ vopPops b
  | .fmin _ _ _ a b => vopPops a ++ vopPops b
  | .fmax _ _ _ a b => vopPops a ++ vopPops b
  | .fabs _ _ _ a => vopPops a
  | .fneg _ _ _ a => vopPops a
  | .fcmpCc _ _ _ _ a b => vopPops a ++ vopPops b
  | .fclass _ _ _ a => vopPops a
  | .frnd _ _ _ a => vopPops a
  | .fscale _ _ _ a b => vopPops a ++ vopPops b
  | .vsel _ _ a b _ => vopPops a ++ vopPops b
  | .vmov _ _ _ a => vopPops a
  | .vext _ _ a _ => vopPops a
  | .vperm _ _ _ a b => vopPops a ++ vopPops b
  | .vslideUp _ _ _ a _ => vopPops a
  | .vslideDn _ _ _ a _ => vopPops a
  | .vrot _ _ _ a _ => vopPops a
  | .vzip _ _ _ a b => vopPops a ++ vopPops b
  | .vunzip _ _ _ a b => vopPops a ++ vopPops b
  | .vtrn _ _ _ a b => vopPops a ++ vopPops b
  | .vradd _ _ _ a => vopPops a
  | .vrmin _ _ _ a => vopPops a
  | .vrmax _ _ _ a => vopPops a
  | .vscanAdd _ _ _ a => vopPops a
  | .vdot4 _ _ _ a b => vopPops a ++ vopPops b
  | .vhash _ _ _ a b => vopPops a ++ vopPops b
  | .vshli _ _ a _ => vopPops a
  | .vshri _ _ a _ => vopPops a
  | .vsari _ _ a _ => vopPops a
  | .cvt _ a _ _ _ _ _ => vopPops a
  | .mxpack _ a _ _ _ _ _ => vopPops a
  | .mxunpack _ a _ _ _ _ => vopPops a
  | .b16pack _ a _ _ => vopPops a
  | .fradd _ _ _ a => vopPops a
  | .frmin _ _ _ a => vopPops a
  | .frmax _ _ _ a => vopPops a
  | .sfEval _ _ _ a _ => vopPops a
  | .sfEvalx _ _ _ a _ _ => vopPops a
  | .chpop _ _ n => [n.toNat]
  | .chpopDrop _ n => [n.toNat]
  | .recv _ _ n _ => [n.toNat]
  | _ => []

/-- s0 and p0 are constants: they carry no token and hold no pending write (R133). -/
def Res.constant : Res → Bool
  | .s n => n == 0
  | .p n => n == 0
  | .v _ => false

end Sys2Proof.Machine
end

