-- ==== Sys2Proof/Machine/Bundle.lean ====
section
/-! DEFINITION. The issue of one bundle: fetch and decode (04_bundles_and_delta_encoding.md R78 to R104), the stall
conditions and checks (05_issuing_in_logical_time.md R115 to R119), the landing of results (R111, R120), commit, handler
return and exit (06_scalar_control_system.md R141 to R152), and the events of a boundary (15_interruptions.md R403 to R407). -/

namespace Sys2Proof.Machine

/-! ## Decode (R78 to R92, R102 to R104) -/

/-- The IMEM word of core `k` at a byte address. -/
def State.imemWord (s : State) (k a : Nat) : Word32 := BitVec.ofNat 32 (leNat (Mem.bytes s.imem.bytes (k * 2 ^ 18 + a) 4))

/-- Do `n` words from span offset `o` on lie in the span (R78)? -/
def Sys.inSpan (y : Sys) (o n : Nat) : Bool := decide (o % 4 = 0 ∧ o + 4 * n ≤ y.spanSize)

/-- An executing slot of a bundle: its position, word, DOFF and instruction (R88, R89). -/
structure SlotIn where
  pos : Nat
  word : Word32
  doff : Word
  instr : Instr
deriving DecidableEq, Repr

/-- A decoded bundle: header, the positions after it, the executing slots, the address of the sequential successor. -/
structure Bundle where
  h : Header
  pos : SMap Position
  slots : List SlotIn
  next : Word
deriving DecidableEq, Repr

/-- The CTXFEAT bit that an OPC alone fixes (R103); none where the group is decided at execution. -/
def featureOf (opc : BitVec 8) : Option Nat :=
  let o := opc.toNat
  if o < 0x60 then some 0
  else if o = 0x9B then some 4
  else if o < 0xA0 then some 1
  else if o < 0xC0 then some 2
  else if o = 0xC7 ∨ o = 0xC8 then some 7
  else if 0xCF ≤ o ∧ o ≤ 0xD7 then none
  else if o = 0xD8 then some 12
  else if o = 0xDA ∨ o = 0xDB then some 13
  else if o ≤ 0xE1 then some 0
  else if o ≤ 0xE4 then none
  else if o = 0xE5 then some 7
  else if o ≤ 0xE7 then some 8
  else if o ≤ 0xF2 then some 3
  else if o = 0xF8 then some 10
  else some 9

/-- May an address program hold the instruction (R256)? -/
def ladleOpc (opc : BitVec 8) : Bool :=
  let o := opc.toNat
  decide (o ≤ 0x44) || o == 0x46 || o == 0x47
  || (decide (0xC0 ≤ o ∧ o < 0xE0) && !([0xC2, 0xC3, 0xC4, 0xC5, 0xC6, 0xC9, 0xCB, 0xD8, 0xDA, 0xDF].contains o))
  || [0xE0, 0xE1, 0xE4, 0xE5, 0xF5].contains o

/-- Supervisor-only by its OPC (R104). -/
def supOpc (opc : BitVec 8) : Bool := decide (0x53 ≤ opc.toNat ∧ opc.toNat ≤ 0x56)

/-- Step 6 of R102 for one slot, as a context or a Ladle decodes it (R256). -/
def State.checkSlot (s : State) (pos : Nat) (w : Word32) : Except TrapKind Instr :=
  let opc := opcOf w
  let lad := isLadle s.who
  if !positionOk opc pos || (lad && decide (2 ≤ pos ∧ pos ≤ 5)) then .error .bundle
  else match decodeSlot w with
    | .error _ => .error .illegal
    | .ok i =>
      let group := if lad then some (5 + s.who % 2) else featureOf opc
      if lad && !ladleOpc opc then .error .illegal
      else if (match group with | some n => !s.hasFeat n | none => false) then .error .feature
      else if supOpc opc && !s.c.y.sup then .error .priv
      else .ok i

/-- Checks the executing slots in canonical order: the first failure decides (R102). -/
def State.checkSlots (s : State) (p : Nat → Position) : List Nat → Except Stop (List SlotIn)
  | [] => .ok []
  | n :: rest => match s.checkSlot n (p n).held with
    | .error k => .error (.trap k n 0#64)
    | .ok i => match State.checkSlots s p rest with
      | .error e => .error e
      | .ok l => .ok (⟨n, (p n).held, (p n).doff, i⟩ :: l)

/-- A position's HELD, VALID and DOFF as the bundle leaves them (R88): `str` holds STR1 to STR3, `ws` the slot words. -/
def headerPosition (h : Header) (str : SMap Word) (ws : List Word32) (p : Position) (n : Nat) : Position :=
  if maskHas h.pmask n then ⟨ws.getD ((List.range n).filter (maskHas h.pmask)).length 0#32, true, 0#64⟩
  else if maskHas h.dmask n then
    (if h.dinc ≠ 0#2 ∧ isMiOpc (opcOf p.held) = true then { p with doff := p.doff + SMap.at 0#64 str h.dinc.toNat } else p)
  else { p with valid := false }

/-- Does the bundle break a rule of R90? -/
def headerBad (h : Header) (f : Flow) : Bool :=
  h.pmask &&& h.dmask != 0#8 || (List.range 8).any fun n => maskHas h.dmask n &&
    (!(f.position n).valid || (n == 0 && ((opcOf (f.position n).held).extractLsb' 5 3 == 2#3)))

/-- Are the stop bits as R85 asks? -/
def stopBitsOk (ws : List Word32) : Bool := ws.zipIdx.all fun w => stopOf w.1 == decide (w.2 + 1 = ws.length)

/-- The span offset of the bundle that is next to issue. -/
def State.offset (s : State) : Nat := (s.c.f.pc - s.base).toNat

/-- Has a word of the bundle an uncorrectable error (R80)? -/
def State.fetchBad (s : State) : Bool :=
  let y := (s.ctx (s.ownerOf s.who)).y
  let k := coreOf s.who
  let bad (i : Nat) : Bool := y.inSpan s.offset (i + 1) && s.imem.poisoned 2 (k * 2 ^ 18 + s.c.f.pc.toNat + 4 * i)
  bad 0 || (y.inSpan s.offset 1 &&
    (List.range (maskCount (Header.of (s.imemWord k s.c.f.pc.toNat)).pmask)).any fun i => bad (i + 1))

/-- A fetch of the bundle that is next to issue counts the errors that it corrects, in its words that lie in the span (R80,
R466). A waiting slot that goes before the bundle needs no fetch (R404). -/
def State.noticeFetch (s : State) : State :=
  let y := (s.ctx (s.ownerOf s.who)).y
  let a := coreOf s.who * 2 ^ 18 + s.c.f.pc.toNat
  if s.fetchBad || !y.inSpan s.offset 1 || s.c.f.blocked.any (fun b => b.redo) then s
  else s.notice .imem a (4 * min (1 + maskCount (Header.of (s.imemWord (coreOf s.who) s.c.f.pc.toNat)).pmask) ((y.spanSize - s.offset) / 4))

/-- Decodes and checks the bundle that is next to issue (R102). -/
def State.decodeBundle (s : State) : Except Stop Bundle :=
  let y := (s.ctx (s.ownerOf s.who)).y
  let k := coreOf s.who
  let pc := s.c.f.pc
  let o := s.offset
  let h := Header.of (s.imemWord k pc.toNat)
  let n := maskCount h.pmask
  let ws := (List.range n).map fun i => s.imemWord k (pc.toNat + 4 * (i + 1))
  if !y.inSpan o 1 then .error (.trap .bundle 8 0#64)
  else if 2 ≤ h.ver.toNat then .error (.trap .bundle 8 0#64)
  else if !y.inSpan o (1 + n) || !stopBitsOk ws then .error (.trap .bundle 8 0#64)
  else if headerBad h s.c.f then .error (.trap .bundle 8 0#64)
  else if h.rsv != 0#4 || (!h.opv && h.opp != 0#3) then .error (.trap .illegal 8 0#64)
  else
    let p (i : Nat) : Position := headerPosition h y.str ws (s.c.f.position i) i
    match s.checkSlots p ((List.range 8).filter fun i => maskHas h.pmask i || maskHas h.dmask i) with
    | .error e => .error e
    | .ok l => .ok ⟨h, (List.range 8).foldl (fun m i => SMap.put Position.zero m i (p i)) [], l, pc + toWord (4 * (1 + n))⟩

/-! ## Stalls (R115 to R117, R341) -/

/-- The number of a register, for a hang record (R368). -/
def Res.num : Res → Nat
  | .s n | .p n | .v n => n

/-- R115, condition 1: a register that a slot reads, guards on or writes carries a token. -/
def State.tokenStall (s : State) (l : List SlotIn) : Option (Nat × Nat × Word) :=
  l.findSome? fun e => (usesOf e.instr ++ defsOf e.instr).findSome? fun r =>
    if s.tokened s.who r then some (1, e.pos, toWord r.num) else none

/-- R341: an acquire of the agent has not been performed, and the bundle holds a slot of class 110 or 111. -/
def State.acquireStall (s : State) (l : List SlotIn) : Option (Nat × Nat × Word) :=
  if s.ops.any fun o => o.agent == s.who && o.acq && !o.done then
    (l.find? fun e => decide (0xC0 ≤ (opcOf e.word).toNat)).map fun e => (6, e.pos, 0#64)
  else none

/-- R117: more than 64 elastic operations would be outstanding. -/
def State.skidStall (s : State) : Option (Nat × Nat × Word) :=
  if 64 < s.outstanding s.who then some (5, (s.ops.getLast?.map (·.pos)).getD 8, 0#64) else none

/-- What the blocking operation waits for, for a hang record (R368). -/
def State.blockDetail (s : State) (b : Block) : Word :=
  match b.wait with
  | .waitv id => match s.ops.find? fun o => o.id == id with
    | some o => match o.kind with | .waitv va _ _ => va | _ => 0#64
    | none => 0#64
  | .sync id => match s.ops.find? fun o => o.id == id with
    | some o => match o.kind with | .synWait n _ => toWord n | _ => 0#64
    | none => 0#64
  | _ => 0#64

/-! ## Running the slots -/

/-- Runs one slot; a slot that stops leaves nothing but its stop and its stall. -/
def State.runSlot (s : State) (e : SlotIn) : State × Option Stop :=
  let t := s.iss fun i => { i with pos := e.pos, word := e.word, doff := e.doff, stop := none }
  match slotExec e.instr t with
  | .next u => match u.issue.stop with
    | none => (u, none)
    | some p => (s.iss fun i => { i with stall := u.issue.stall, wantsLease := i.wantsLease || u.issue.wantsLease }, some p)
  | _ => (s, none)

/-- The fixed latency of an operation by its OPC (R131); none for one on a bounded or variable endpoint, or without a
result. -/
def fixedLatency (opc : BitVec 8) : Option Nat :=
  let o := opc.toNat
  if o ≤ 0x07 ∨ (0x0F ≤ o ∧ o ≤ 0x1C) ∨ (0x20 ≤ o ∧ o ≤ 0x28) ∨ [0x41, 0x42, 0x48, 0x52].contains o then some 1
  else if 0x08 ≤ o ∧ o ≤ 0x0A then some 3
  else if 0x0B ≤ o ∧ o ≤ 0x0E then some 20
  else if o = 0x49 ∨ o = 0x4F then some 2
  else if o = 0x62 ∨ o = 0x63 then some 3
  else if (0x60 ≤ o ∧ o ≤ 0x6F) ∨ (0x80 ≤ o ∧ o ≤ 0x83) ∨ (0x95 ≤ o ∧ o ≤ 0x97) then some 1
  else if (0x70 ≤ o ∧ o ≤ 0x76) ∨ [0x8D, 0x8E, 0x8F, 0x91, 0x9D, 0x9E, 0xA3, 0xC2].contains o then some 4
  else if (0x77 ≤ o ∧ o ≤ 0x7E) ∨ (0x84 ≤ o ∧ o ≤ 0x8C) ∨ [0x93, 0x94, 0xC9, 0xCB, 0xCC, 0xE4, 0xF7, 0xF9].contains o then some 2
  else if [0x92, 0x98, 0x9A, 0xA4, 0xC0, 0xCD].contains o then some 3
  else if o = 0x99 ∨ o = 0x9B then some 5
  else if o = 0x90 ∨ o = 0xC4 then some 6
  else if o = 0x9C ∨ o = 0xA0 then some 8
  else if o = 0xA1 then some 10
  else if o = 0xC5 then some 32
  else none

/-- Has a load an element of another slice or of global memory: its latency is then not fixed (R131)? -/
def State.farLoad (s : State) : Instr → Bool
  | .ld _ w sp _ b off => !allOwn [s.spot sp (2 ^ w.toNat) (s.eaMI b off.toNat (2 ^ w.toNat))]
  | .ldAcq _ w sp gl _ b off => gl || !allOwn [s.spot sp (2 ^ w.toNat) (s.eaMI b off.toNat (2 ^ w.toNat))]
  | .vld _ sp _ b off => !allOwn [s.spot sp 256 (s.eaMI b off.toNat 256)]
  | .vlds _ w sp _ b c =>
    !allOwn ((s.elemSpots sp (2 ^ w.toNat) ((List.range (256 / 2 ^ w.toNat)).map fun i => s.rs b + toWord i * s.rs c)).map (·.2))
  | .vgather _ w sp _ b c => !allOwn ((s.elemSpots sp (2 ^ w.toNat) (s.indexed (2 ^ w.toNat) b c)).map (·.2))
  | _ => false

/-- The fixed-latency results that a slot issues whatever their values, for the checks that come before the slot's own
(R119, R400): where and when they land, and whether one enters the ring. -/
def State.wouldHold (s : State) (e : SlotIn) : List Held :=
  match fixedLatency (opcOf e.word) with
  | none => []
  | some n =>
    if (s.iss fun i => { i with pos := e.pos, doff := e.doff }).farLoad e.instr then []
    else (defsOf e.instr).zipIdx.map fun r =>
      { cyc := s.c.now + toWord n, pos := e.pos,
        land := match r.1 with | .s n => .scal n 0#64 false | .p n => .pred n 0#256 false | .v n => .vec n 0#2048 0#4,
        ring := if (ringSlot e.pos).isSome && r.2 == 0 then some PVec.zero else none }

/-- What a bundle's slots came to: the state, the first stop in canonical order, and the results each slot issued. -/
structure Ran where
  s : State
  stop : Option Stop
  held : List (SlotIn × List Held)

/-- Runs the slots of a bundle in canonical order: all read the state at L (R111), and a later slot's stall is found
even after an earlier slot has stopped (R116). -/
def State.runSlots (s : State) (l : List SlotIn) : Ran :=
  l.foldl (fun r e =>
    let n := r.s.c.f.pend.length
    let u := r.s.runSlot e
    ⟨u.1, r.stop.orElse fun _ => u.2, r.held ++ [(e, if u.2.isSome then r.s.wouldHold e else u.1.c.f.pend.drop n)]⟩) ⟨s, none, []⟩

/-! ## The checking scoreboard (R119) -/

/-- The kind number of a register in the UNDERSIZE report. -/
def Res.kind : Res → Nat
  | .s _ => 0 | .p _ => 1 | .v _ => 2

/-- The latest landing of a pending write to a register; landings lie ahead of the cycle `now`, which wraps (R108). -/
def pendingAt (now : Word) (l : List Held) (r : Res) : Option Word :=
  (l.filter fun h => h.land.res == some r).foldl (fun m h => match m with
    | some c => some (if c - now < h.cyc - now then h.cyc else c)
    | none => some h.cyc) none

/-- EARLY: a slot that is not nullified reads a register whose earlier write has not landed. -/
def State.early (s : State) (e : SlotIn) : Option Stop :=
  let off := match guardOf e.instr with
    | some g => (pendingAt s.c.now s.c.f.pend (.p g.p.toNat)).isNone && !s.guardPois g && !s.guardTest g
    | none => false
  if off then none
  else (usesOf e.instr).findSome? fun r => (pendingAt s.c.now s.c.f.pend r).map fun c =>
    .trap .undersize e.pos (Config.undersizeInfo 0 r.kind r.num c)

/-- WAWORD: a write that would land no later than one issued before it, or with one of its bundle. DESIGN CHOICE (log 40): two
writes of one bundle to one register raise it at equal landing cycles only, and only the writes of the running code count, not
those of interrupted code. -/
def State.waword (s : State) (seen : List Held) (e : SlotIn) (hs : List Held) : Option Stop :=
  hs.findSome? fun h => match h.land.res with
    | none => none
    | some r =>
      let trap (c : Word) : Stop := .trap .undersize e.pos (Config.undersizeInfo 1 r.kind r.num c)
      match pendingAt s.c.now s.c.f.pend r with
      | some c => if h.cyc - s.c.now ≤ c - s.c.now then some (trap c)
                  else if seen.any fun x => x.land.res == some r && x.cyc == h.cyc then some (trap h.cyc) else none
      | none => if seen.any fun x => x.land.res == some r && x.cyc == h.cyc then some (trap h.cyc) else none

/-- RINGCOLL: two results of one position would enter the ring at one cycle. -/
def State.ringcoll (s : State) (e : SlotIn) (hs : List Held) : Option Stop :=
  hs.findSome? fun h =>
    if h.ring.isSome && s.c.f.pend.any (fun x => x.ring.isSome && x.pos == h.pos && x.cyc == h.cyc)
    then some (.trap .undersize e.pos (Config.undersizeInfo 2 3 (e.pos - 2) h.cyc)) else none

/-- The UNDERSIZE trap of a bundle, when CHK is set (R119); `s` is the state at its start. The held results of interrupted code
count for neither EARLY nor WAWORD of a handler's bundle (DEDUCED, log 40). -/
def State.undersize (s : State) (seen : List Held) : List (SlotIn × List Held) → Option Stop
  | [] => none
  | (e, hs) :: rest =>
    (((s.early e).orElse fun _ => s.waword seen e hs).orElse fun _ => s.ringcoll e hs).orElse fun _ =>
      State.undersize s (seen ++ hs) rest

/-! ## Limits on held results (R412, R467) -/

/-- Does a landing count among the vector results of R412? -/
def Landing.isVec : Landing → Bool
  | .vec .. | .ring => true
  | _ => false

/-- Does a landing count among the other results of R412? -/
def Landing.isOther : Landing → Bool
  | .scal .. | .pred .. | .fcr .. | .bind .. | .pois .. => true
  | .sys n _ => decide (4 ≤ n ∧ n ≤ 0x00B)
  | _ => false

/-- The trap of a bundle that would hold too many results, those of interrupted code included; a Ladle's limit holds for
bundles that hold a push. -/
def State.heldTrap (s : State) : Option Stop :=
  let p := s.c.f.pend ++ s.c.f.saved.pend
  if isLadle s.who then
    let n := (s.ladle (s.who - 2048)).bundle
    let pushes := s.elems.any (fun e => e.agent == s.who && e.bundle == n) ||
      s.cmds.any fun m => m.agent == s.who && m.bundle == n && m.feed.isSome
    if pushes && decide (6 < (p.filter fun h => h.land.isVec || h.land.isOther).length) then some (.trap .illegal 15 0#64) else none
  else if 52 < (p.filter fun h => h.land.isVec).length ∨ 46 < (p.filter fun h => h.land.isOther).length then
    some (.trap .illegal 15 0x48#64)
  else none

/-! ## One attempt to issue (R116, R400) -/

/-- What comes of the bundle that is next to issue. -/
inductive Attempt where
  /-- A condition of R115 holds: the reason, position and detail of R368; whether it requests the lease (R307). -/
  | stall (why : Nat × Nat × Word) (lease : Bool)
  /-- It stops and commits nothing. -/
  | stop (p : Stop)
  /-- A word of it has an uncorrectable error (R80). -/
  | uncorr
  /-- Its slots have run; it commits. -/
  | commit (s : State) (b : Bundle)
  /-- The waiting slot has been issued again (R404). -/
  | redone (s : State)

/-- Re-issues the waiting slot alone, at its own logical cycle (R404), under the conditions of R115 and R341: operations that a
handler left behind may still be outstanding. -/
def State.redoSlot (s : State) (b : Block) : Attempt :=
  match decodeSlot b.slot with
  | .error _ => .stop (.trap .illegal b.pos 0#64)
  | .ok i =>
    let pc := s.base + b.pc
    let i0 : Issue := { Issue.empty with pos := b.pos, word := b.slot, redo := some b.cyc, pc := pc, next := s.c.f.pc, serial0 := s.serial }
    let t : State := { s with c := { s.c with r := b.src }, issue := i0 }
    let e : SlotIn := ⟨b.pos, b.slot, 0#64, i⟩
    let r := t.runSlot e
    match (((s.tokenStall [e]).orElse fun _ => s.acquireStall [e]).orElse fun _ => r.1.issue.stall).orElse fun _ => r.1.skidStall, r.2 with
    | some w, _ => .stall w r.1.issue.wantsLease
    | none, some p => .stop p
    | none, none => .redone { r.1 with c := { r.1.c with r := s.c.r, f := { r.1.c.f with blocked := r.1.c.f.blocked.filter (· != b) } } }

/-- The start of a bundle: the record of its issue, and a Ladle's bundle number. -/
def State.beginBundle (s : State) (b : Bundle) : State :=
  let t := if isLadle s.who then s.updLadle (s.who - 2048) fun d => { d with bundle := d.bundle + 1 } else s
  t.iss fun _ => { Issue.empty with pc := s.c.f.pc, next := b.next, serial0 := s.serial }

/-- R115, condition 5: a blocking slot of the previous bundle has not completed. -/
def State.blockStall (s : State) : Option (Nat × Nat × Word) := s.c.f.blocked.head?.map fun b => (6, b.pos, s.blockDetail b)

/-- The issuing agent's next bundle, examined in the order of R400: decode comes first, and a stall comes before a trap of
execution (R116). A waiting slot that was left goes before it (R404). -/
def State.attempt (s : State) : Attempt :=
  match s.c.f.blocked.find? fun b => b.redo with
  | some b => s.redoSlot b
  | none =>
    if s.fetchBad then .uncorr
    else match s.decodeBundle with
      | .error p => .stop p
      | .ok b => match (s.blockStall.orElse fun _ => s.tokenStall b.slots).orElse fun _ => s.acquireStall b.slots with
        | some w => .stall w false
        | none =>
          let r := (s.beginBundle b).runSlots b.slots
          match r.s.issue.stall.orElse fun _ => r.s.skidStall with
          | some w => .stall w r.s.issue.wantsLease
          | none =>
            let bank := if bitAt (s.reg (coreOf s.who) 0x8D0) 0 then none
              else (r.s.bankTrap).map fun v => Stop.trap .bank 7 v
            let under := if s.c.y.chk && !isLadle s.who then s.undersize [] r.held else none
            match ((under.orElse fun _ => r.stop).orElse fun _ => bank).orElse fun _ => r.s.heldTrap with
            | some p => .stop p
            | none => .commit r.s b

/-! ## Landing (R111 to R113, R120) -/

/-- A release of a context takes effect as its own store or push lands (R343, R348). -/
def State.landRelease (s : State) : State := if isLadle s.who then s else s.releaseMarks s.who

/-- Lands one held result of the issuing agent. -/
def State.landHeld (s : State) (h : Held) : State :=
  let t := match h.land with
    | .store sp a bs rel => (if rel then s.landRelease else s).writeAS sp a bs false (if rel || isLadle s.who then 0 else s.who + 1)
    | .sys n v => s.sysWrite s.who n v
    | .push n sp key v p =>
      let u := s.landRelease.storeElem sp key v p 0#32
      { u with c := u.c.updChan n Chan.makeVisible }
    | l => { s with c := s.c.land l }
  match h.ring, ringSlot h.pos with
  | some v, some q => t.flow fun f => { f with ring := ringEnter f.ring q v }
  | _, _ => t

/-- The tables that a binding replaced are free once its cycle is complete (R234). -/
def Sys.settleTabs (y : Sys) (hm : Bool) : Sys :=
  { y with tabs := y.tabs.map fun t => (t.1, match t.2.prev with
    | some (_, _, m) => if m = hm then { t.2 with prev := none } else t.2
    | none => t.2) }

/-- One logical cycle passes: LCC or HCC advances, the ring shifts, and what lands at the new cycle lands. -/
def State.cycle (s : State) : State :=
  let m := s.c.now + 1#64
  let t := (s.sys fun y => y.settleTabs s.c.e.hm).flow fun f =>
    { f with lcc := if s.c.e.hm then f.lcc else m, hcc := if s.c.e.hm then m else f.hcc,
             ring := ringShift f.ring, pend := f.pend.filter fun h => h.cyc != m }
  (s.c.f.pend.filter fun h => h.cyc == m).foldl State.landHeld t

/-- `n` logical cycles pass. -/
def State.cycles (s : State) : Nat → State
  | 0 => s
  | n + 1 => State.cycles s.cycle n

/-- Lands everything that is held, in the order of its cycles, without an advance of HCC (R152). -/
def State.landAll (s : State) : Nat → State
  | 0 => s
  | n + 1 => match s.c.f.pend with
    | [] => s
    | h :: r =>
      let m := r.foldl (fun c x => if x.cyc - s.c.now < c - s.c.now then x.cyc else c) h.cyc
      State.landAll ((s.c.f.pend.filter fun x => x.cyc == m).foldl State.landHeld
        (s.flow fun f => { f with pend := f.pend.filter fun x => x.cyc != m })) n

/-! ## Loops (R142, R143) -/

/-- The word offsets START and END of a loop level (R21). -/
def Ctx.loopStart (c : Ctx) (n : Nat) : Nat := bits (c.loopEntry n) 0 16
def Ctx.loopEnd (c : Ctx) (n : Nat) : Nat := bits (c.loopEntry n) 16 16

/-- Inserts a level: START descending, then the level descending. -/
def insertLevel (start : Nat → Nat) (n : Nat) : List Nat → List Nat
  | [] => [n]
  | m :: r => if start m < start n ∨ (start m = start n ∧ m < n) then n :: m :: r else m :: insertLevel start n r

/-- The armed levels whose body ends with the bundle at word offset `o`, innermost first (R143). -/
def Ctx.endsAt (c : Ctx) (o : Nat) : List Nat :=
  ((List.range 4).filter fun n => c.lcntOf n != 0#64 && bits (c.loopEntry n) 62 2 == 1 && c.loopEnd n == o).foldr
    (insertLevel c.loopStart) []

/-- The counts after a loop end, and the level whose body is entered again, if any (R143). -/
def loopStep (cnt : SMap Word) : List Nat → SMap Word × Option Nat
  | [] => (cnt, none)
  | n :: r =>
    let c := SMap.at 0#64 cnt n
    if 1#64 < c then (SMap.put 0#64 cnt n (c - 1#64), some n) else loopStep (SMap.put 0#64 cnt n 0#64) r

/-- The bundle that follows the END bundle of level `n` (R142). -/
def State.afterLoop (s : State) (n : Nat) : Word :=
  let a := s.base + toWord (4 * s.c.loopEnd n)
  a + toWord (4 * (1 + maskCount (Header.of (s.imemWord (coreOf s.who) a.toNat)).pmask))

/-- LCNT and the PC as the bundle's commit leaves them: a taken branch wins, else the loop levels that it ends are
processed (R141 to R143). -/
def State.nextPc (s : State) : State :=
  let i := s.issue
  let armed := match i.arm with | some (n, c) => SMap.put 0#64 s.c.f.lcnt n c | none => s.c.f.lcnt
  match i.target with
  | some t => s.flow fun f => { f with pc := t, lcnt := armed }
  | none =>
    let seq := match i.arm with | some (n, c) => if c = 0#64 then s.afterLoop n else i.next | none => i.next
    let r := loopStep armed ((s.flow fun f => { f with lcnt := armed }).c.endsAt ((i.pc - s.base).toNat / 4))
    s.flow fun f => { f with lcnt := r.1, pc := match r.2 with | some n => s.base + toWord (4 * s.c.loopStart n) | none => seq }

/-! ## Commit -/

/-- The context gives up its core's issue slot (R123): 5 + its index stands for the old owner. Its energy is charged up to here
(R434). -/
def State.freeSlot (s : State) (x : Nat) : State :=
  if s.slotOwner (coreOf x) = some x then (s.chargeSlot (coreOf x)).updCore (coreOf x) fun c => { c with owner := 5 + x % 4 } else s

/-- EXIT commits (R146, R427): held results are dropped, the lease ends, its Ladles stop, and every later BAR counts
the member as arrived. -/
def State.exitCtx (s : State) (x : Nat) : State :=
  let k := coreOf x
  let s1 := s.upd x fun c => { c with exiting := true, f := { c.f with pend := [] }, y := { c.y with stop := none } }
  let s2 := [2 * k, 2 * k + 1].foldl (fun t l =>
    let u := t.updLadle l fun d => { d with runs := d.runs.filter fun r => r.ctx != x }
    if (u.ladle l).serving = some x then u.endRun l else u) (s1.expireLease x .none)
  let s3 := match s2.gang (s2.ctx x).y.gang with
    | none => s2
    | some g => match g.rankOf x with
      | none => s2
      | some r => s2.updGang g.id fun y => { y with exited := r :: y.exited }
  (s3.freeSlot x).retarget k

/-- HALT commits (R160). -/
def State.haltCtx (s : State) (x : Nat) : State :=
  ((s.upd x fun c => { c with st := .halted }).freeSlot x).retarget (coreOf x)

/-- SVC commits (R151): the service record, and the context alone is SUSPENDED. -/
def State.serveCtx (s : State) (x : Nat) (imm : BitVec 18) : State :=
  let c := s.ctx x
  (s.postReleased x (32 + dieOf (coreOf x)) (recordBytes [(0, 1, 0x01), (1, 1, c.y.part), (2, 2, x), (4, 4, imm.toNat),
    (8, 4, c.pcOff.toNat), (16, 8, c.f.lcc.toNat)])).stopCtx x .suspended

/-- ERET commits (R152): everything the handler holds lands, the interrupted code's state returns with what arrived for
it, and the next bundle is at EPC. -/
def State.returnCtx (s : State) : State :=
  let t := s.landAll s.c.f.pend.length
  let sv := t.c.f.saved
  let c : Ctx := { t.c with
    e := { t.c.e with hm := false },
    y := t.c.y.settleTabs true,
    f := { t.c.f with ring := sv.ring, pos := sv.pos, pend := sv.pend, blocked := sv.blocked, saved := Saved.none,
                      pc := s.base + t.c.e.epc.setWidth 64 } }
  { t with c := (sv.arrived.map Held.land).foldl Ctx.land c,
           ops := updWhere (fun (o : Op) => o.agent == s.who) (fun o => { o with hm := false }) t.ops }

/-- PPT at its commit (R144): the ring is void, and a pending STOP is taken. -/
def State.pointCtx (s : State) : State :=
  (s.flow fun f => { f with ring := [] }).sys fun y => { y with stop := y.stop.map fun q => { q with atPpt := true } }

/-- What a held result comes to when a later elastic operation has taken over its register (R114): it writes nothing, and a
result of VA to FN still enters the ring. -/
def Landing.void : Landing → Landing
  | .scal .. | .pred .. => .scal 0 0#64 false
  | .vec .. => .ring
  | .pois .. => .pois 0 0 false
  | l => l

/-- Registers with a token keep the arriving value: results issued before the elastic operations of this bundle no longer
write their destinations (R114). DESIGN CHOICE (log 40): the same for a fixed result of the same bundle, whichever position it has;
of two elastic operations of one bundle with one destination, the one that arrives last gives the value. -/
def State.tokensTake (s : State) : State :=
  let rs := (s.ops.filter fun o => o.agent == s.who && o.bun == s.issue.serial0).filterMap (·.dest)
  if rs.isEmpty then s
  else s.flow fun f => { f with pend := f.pend.map fun h => match h.land.res with
    | some r => if rs.contains r then { h with land := h.land.void } else h
    | none => h }

/-- The lease at the commit of a bundle: GRD.FREE takes effect, and a budget that has run out ends it (R309, R327). -/
def State.leaseCommit (s : State) : State :=
  (if s.issue.freesLease then s.freeLease (coreOf s.who) else s).budgetExpire (coreOf s.who)

/-- The releases that a bundle makes as it commits (R342, R343): each waits, as an operation, for the elastic operations of the
bundle that its scope holds. -/
def State.commitReleases (s : State) (i : Issue) (cyc : Word) : State :=
  i.rels.foldl (fun t c => t.releaseFor t.who c cyc i.serial0
    ((t.ops.any fun o => o.agent == t.who && o.bun == i.serial0 && !o.done && t.inScope (coreOf t.who) c o) ||
      (decide (6 ≤ c) && t.cmds.any fun m => m.agent == t.who && m.unit == .fabric && m.bun == i.serial0))) s

/-- A bundle of the issuing agent commits: positions, pops, the operating point, the lease, LCNT and the PC, then the A
logical cycles of R109 with their landings, and the releases. -/
def State.commitBundle (s : State) (b : Bundle) : State :=
  let i := s.issue
  let s1 := s.flow fun f => { f with pos := b.pos }
  let s2 := i.pops.foldl (fun (t : State) n => { t with c := t.c.updChan n Chan.pop }) s1
  let s3 := if b.h.opv && !isLadle s.who then (s2.sys fun y => { y with opReq := b.h.opp }).retarget (coreOf s.who) else s2
  let s4 := if i.after = .ppt then s3.pointCtx else s3
  let s5 := (s4.tokensTake.leaseCommit.nextPc).sys fun y => { y with tokWait := false, hung := false }
  (s5.cycles (1 + (if b.h.ver = 1#2 then 16 * b.h.adv.toNat else b.h.adv.toNat) + boolNat i.target.isSome)).commitReleases i s.c.f.lcc

/-- What a context does after its bundle's commit. -/
def State.afterCommit (s : State) (a : After) : State :=
  match a with
  | .nothing | .ppt => s
  | .yield => s.freeSlot s.who
  | .exit => s.exitCtx s.who
  | .halt => s.haltCtx s.who
  | .svc imm => s.serveCtx s.who imm
  | .trap imm => s.deliver .trap 0 (imm.setWidth 64) s.c.pcOff
  | .eret => s.returnCtx

/-! ## The events of a boundary (R403 to R407) -/

/-- The event that a context takes at its boundary, if any: PANTRY before THROTTLE (R403, R406, R407). -/
def State.eventFor (s : State) : Option (TrapKind × Word) :=
  let e := s.c.e
  if e.hm || !e.tvecEn then none
  else if s.panPending s.who then some (.pantry, s.svc.pantry.ver.setWidth 64)
  else match e.thrEvent with
    | some (n, o) => if e.thrn then some (.throttle, toWord (n.toNat + 4 * o.toNat)) else none
    | none => none

/-- A THROTTLE event whose conditions do not hold at a boundary outside handler mode is dropped (R407). -/
def Exc.dropThrottle (e : Exc) : Exc := if e.hm || (e.tvecEn && e.thrn) then e else { e with thrEvent := none }

/-- Enters the handler for an event (R406, R407); a wait is left first (R404). -/
def State.takeEvent (s : State) (k : TrapKind) (info : Word) : State :=
  let t := s.leaveWait s.who
  let c := t.c.enterHandler k 15 info t.c.pcOff
  { t with c := { c with e := if k = .throttle then { c.e with thrEvent := none } else c.e,
                         y := { c.y with tokWait := false, hung := false } } }

/-- Is the context held by a blocking instruction that an event does not leave (R403)? -/
def Ctx.heldFast (c : Ctx) : Bool := c.f.blocked.any fun b => !b.redo && !b.wait.left

/-- Does an attempt find an arrival token? -/
def Attempt.onToken : Attempt → Bool
  | .stall (1, _) _ => true
  | _ => false

/-- The event that is taken before the next bundle: a context that already waits on a token takes none (R403). -/
def State.eventNow (s : State) : Option (TrapKind × Word) :=
  if s.c.heldFast then none
  else match s.eventFor with
    | none => none
    | some e => if s.c.y.tokWait && s.attempt.onToken then none else some e

/-! ## Issue -/

/-- Ends a step of issue: no bundle is in issue. -/
def State.issued (s : State) : State := s.iss fun _ => Issue.empty

/-- A stalled bundle of a context (R116, R123): it gives up the slot, and may request the lease (R307). -/
def State.stalled (s : State) (why : Nat × Nat × Word) (lease : Bool) : State :=
  let t := if lease then s.updGriddle (coreOf s.who) fun g => { g with requesting := true } else s
  (t.sys fun y => { y with tokWait := why.1 == 1 }).freeSlot s.who

/-- The issue record that a stop names: the bundle, or the waiting slot's. -/
def State.stopping (s : State) : State :=
  s.iss fun i => match s.c.f.blocked.find? fun b => b.redo with
    | some b => { i with pc := s.base + b.pc, redo := some b.cyc }
    | none => { i with pc := s.c.f.pc }

/-- The issuing context's next bundle: an event first, then the bundle. -/
def State.issueNext (s : State) : State :=
  match s.eventNow with
  | some (k, info) => s.takeEvent k info
  | none =>
    let t : State := { s with c := { s.c with e := s.c.e.dropThrottle } }
    match t.attempt with
    | .stall w l => t.stalled w l
    | .stop p => (t.noticeFetch.stopping.takeStop p).upd t.who fun c => { c with y := { c.y with tokWait := false, hung := false } }
    | .uncorr => nextOr t (execUncorr t.who t)
    | .redone u => u.leaseCommit.sys fun y => { y with tokWait := false, hung := false }
    | .commit u b => ((u.noticeFetch.commitBundle b).settle).afterCommit u.issue.after

/-- Does a new Griddle owner wait for its core to settle at the lower point of the GRIDDLE record (R76)? -/
def State.ownerSettles (s : State) (x : Nat) : Bool :=
  let k := s.core (coreOf x)
  (s.ctx x).grdOwner && k.settling.isSome && decide ((s.pan (522 + octetOf (coreOf x))).cap < k.opcur.toNat)

/-- May context `x` issue: RUNNING, not exiting, no STOP that pre-empts it now (R124, R144, R403), its core's point as a Griddle
owner needs it (R76)? -/
def State.runnable (s : State) (x : Nat) : Bool :=
  let c := s.ctx x
  decide (x < 2048) && c.st == .running && !c.exiting && (match c.y.stop with | some q => !q.forced && !q.atPpt | none => true)
  && !s.ownerSettles x

/-- Is a context ready: its next bundle would issue, or it takes an event at its boundary (R124)? -/
def State.ready (s : State) (x : Nat) : Bool :=
  let t := s.focus x
  s.runnable x && (t.eventNow.isSome || (match t.attempt with | .stall _ _ => false | _ => true))

/-- Does the owner of an issue slot give it up at its bundle boundary, since a supervisor context that goes before it is ready
(R123): any, if the owner is a tenant, else one of lower index? -/
def State.mustYield (s : State) (x : Nat) : Bool :=
  (List.range 4).any fun j =>
    let z := 4 * coreOf x + j
    decide (z ≠ x) && (s.ctx z).y.sup && (!(s.ctx x).y.sup || decide (z < x)) && s.ready z

/-- BUNDLE_ISSUE: the owner of a core's issue slot issues its next bundle (R116, R122), or gives up the slot to a supervisor
context (R123). -/
def execBundleIssue (x : Nat) (s : State) : Out :=
  .next (
    if !s.runnable x || s.slotOwner (coreOf x) != some x then s
    else if s.mustYield x then s.freeSlot x
    else ((s.focus x).issueNext).issued)

end Sys2Proof.Machine
end

