-- ==== Sys2Proof/Machine/Schedule.lean ====
section
/-! DEFINITION. Ladle issue (10_feeding_data.md R255 to R257, R298, R467), the issue slot (05_issuing_in_logical_time.md
R122 to R124), hang records (13_synchronisation_and_consistency.md R367, R368) and samples (16_retirement.md R435, R436). -/

namespace Sys2Proof.Machine

/-! ## Ladles -/

/-- A bundle of a Ladle commits: its state is kept for the checkpoint while a push of it is still to be made visible
(R257). -/
def State.commitLadle (s : State) (l : Nat) (b : Bundle) : State :=
  let n := (s.ladle l).bundle
  let pushes := s.elems.any (fun e => e.agent == s.who && e.bundle == n) ||
    s.cmds.any fun m => m.agent == s.who && m.bundle == n && m.feed.isSome
  let t := s.commitBundle b
  let t := if pushes then t.updLadle l fun d => { d with snaps := d.snaps ++ [(n, t.c)] } else t
  let t := t.settle
  if s.issue.after = .exit then t.endRun l else t

/-- LADLE_BUNDLE_ISSUE: Ladle `l` issues its next bundle while the context that it serves runs (R255, R256); its traps
stop the run. -/
def execLadleBundleIssue (l : Nat) (s : State) : Out :=
  .next (match (s.ladle l).serving with
    | none => s
    | some x =>
      if (s.ctx x).st != .running || (s.ctx x).exiting || decide (1024 ≤ l) then s
      else
        let t := s.focus (2048 + l)
        (match t.attempt with
          | .stall _ _ => t
          | .stop p => t.noticeFetch.stopping.takeStop p
          | .uncorr => (t.countUE (10 + coreOf t.who) 1 0#64).stopping.takeTrap .uncorr 15 0#64
          | .redone u => u
          | .commit u b => u.noticeFetch.commitLadle l b).issued)

/-- The state of a Ladle at the start of a run (R298). -/
def Ctx.ladleStart (owner : Ctx) (r : LadRun) : Ctx :=
  { Ctx.reset with
    st := .running,
    r := (Regs.zero.writeS 1 r.b false).writeS 2 r.d false,
    f := { Flow.zero with pc := toWord owner.y.spanBase + r.a, loops := owner.f.loops } }

/-- LADLE_RUN_START: an idle Ladle takes the oldest queued run, once its context runs and the release of its acceptance has been
performed (R298, R343); a FENCED one takes none (R54). -/
def execLadleRunStart (l : Nat) (s : State) : Out :=
  .next (
    let d := s.ladle l
    if d.serving.isSome || decide (1024 ≤ l) || s.fenced (586 + l) then s
    else match d.runs with
      | [] => s
      | r :: _ =>
        if (s.ctx r.ctx).st != .running || (s.ctx r.ctx).exiting ||
          (s.ops.any fun o => o.agent == r.ctx && o.kind == .release && decide (o.bun ≤ r.bun)) then s
        else
        let c := (s.ctx r.ctx).ladleStart r
        (s.setCtx (2048 + l) c).updLadle l fun d =>
          { d with serving := some r.ctx, stopping := false, runs := d.runs.erase r, ckpt := some c, ckBundle := d.bundle, snaps := [],
                   faults := SMap.put (0, 0#64) d.faults r.ctx (0, 0#64) })

/-! ## The issue slot (R122 to R124) -/

/-- The index of the context that held a core's slot last. -/
def CoreSt.oldOwner (c : CoreSt) : Nat := if 1 ≤ c.owner ∧ c.owner ≤ 4 then c.owner - 1 else if 5 ≤ c.owner then c.owner - 5 else 3

/-- The next owner of a core's slot as R123 chooses it: a ready supervisor, else the first ready one after the old. -/
def State.nextOwner (s : State) (k : Nat) : Option Nat :=
  let old := (s.core k).oldOwner
  match (List.range 4).find? fun j => (s.ctx (4 * k + j)).y.sup && s.ready (4 * k + j) with
  | some j => some j
  | none => ([1, 2, 3, 4].map fun i => (old + i) % 4).find? fun j => s.ready (4 * k + j)

/-- ISSUE_SLOT_CHANGE: an owner that is ready keeps the slot unless a supervisor context is ready; else the next owner
takes it, and a change counts in SWCNT (R123, R126). -/
def execIssueSlotChange (k : Nat) (s : State) : Out :=
  .next (if 512 ≤ k then s
    else
      let keeps := match s.slotOwner k with
        | some x => s.ready x && !s.mustYield x
        | none => false
      if keeps then s
      else match s.nextOwner k with
        | none => (s.chargeSlot k).updCore k fun c => { c with owner := 5 + c.oldOwner }
        | some j => (s.chargeSlot k).updCore k fun c =>
          { c with owner := 1 + j, swcnt := if j = c.oldOwner then c.swcnt else c.swcnt + 1#32 })

/-- QUANTUM_EXPIRY: an owner whose tenure has reached the quantum frees the slot when another context is ready (R123). -/
def execQuantumExpiry (k : Nat) (s : State) : Out :=
  .next (match s.slotOwner k with
    | some x =>
      if bits (s.reg k 0x800) 16 16 != 0 && (List.range 4).any fun j => decide (4 * k + j ≠ x) && s.ready (4 * k + j)
      then s.freeSlot x else s
    | none => s)

/-! ## Hang records (R367, R368) -/

/-- The commands in one of the queues that a hang set reports. -/
def State.hangQueue (s : State) (k i : Nat) : List Cmd :=
  let u := match i with
    | 0 => EngUnit.copy k
    | 1 => .ladle (2 * k)
    | 2 => .ladle (2 * k + 1)
    | _ => .griddle (octetOf k)
  s.cmds.filter fun m => m.unit == u

/-- The queue record of a hang set. -/
def State.hangQueueRec (s : State) (part x i : Nat) : List Byte :=
  let q := s.hangQueue (coreOf x) i
  match q with
  | [] => recordBytes [(0, 1, 0x21), (1, 1, part), (2, 2, x), (4, 1, i), (6, 2, 0xFFFF)]
  | m :: _ => recordBytes [(0, 1, 0x21), (1, 1, part), (2, 2, x), (4, 1, i), (5, 1, q.length), (6, 2, m.owner), (8, 4, m.word.toNat),
      (16, 8, m.a.toNat), (24, 8, m.d.toNat)]

/-- Can no push come into channel `n` of a context (ORPHAN of R368)? -/
def State.noPush (s : State) (x n : Nat) : Bool :=
  let k := coreOf x
  let feeds (i : Nat) : Bool := (s.hangQueue k i).any fun m => m.owner == x && (m.feed.map (·.1)) == some n
  match bits ((s.ctx x).chan n).cfg 60 3 with
  | 0 => true
  | 1 | 2 =>
    let j := bits ((s.ctx x).chan n).cfg 60 3 - 1
    let d := s.ladle (2 * k + j)
    d.serving != some x && !(d.runs.any fun r => r.ctx == x) && !feeds (1 + j)
  | 4 => !feeds 0
  | _ => false

/-- The channels that a context's next bundle pops, as far as it decodes. -/
def State.popsNext (s : State) : List Nat :=
  match s.decodeBundle with
  | .ok b => b.slots.flatMap fun e => popsOf e.instr
  | .error _ => []

/-- The channel record of a hang set. -/
def State.hangChanRec (s : State) (part x : Nat) (pops : List Nat) (n : Nat) : List Byte :=
  let h := (s.ctx x).chan n
  let fill := (h.prod - h.cons).toNat
  let tok := (h.res - h.prod).toNat
  let orphan := pops.contains n && fill == 0 && tok == 0 && s.noPush x n
  recordBytes [(0, 1, 0x22), (1, 1, part), (2, 2, x), (4, 1, n), (5, 1, boolNat orphan), (8, 2, fill), (10, 2, tok), (12, 2, h.size),
    (14, 1, bits h.cfg 60 3), (16, 8, h.cfg.toNat)]

/-- Posts a set of records on a partition's fault ring as a whole, or drops it as a whole (R367). -/
def State.postSet (s : State) (part : Nat) (recs : List (List Byte)) : State :=
  let r := s.ring part
  if r.logn = 0 ∨ 2 ^ r.logn < (r.tail - r.head).toNat + recs.length then
    { s with rings := SMap.put Ring.none s.rings part { r with drop := BitVec.ofNat 16 (min 65535 (r.drop.toNat + recs.length)) } }
  else recs.foldl (fun t m => t.postCounted part m) s

/-- HANG_TIMEOUT: the hang record set of a tenant whose next bundle is stalled or blocked, once for each stall (R367). -/
def execHangTimeout (x : Nat) (s : State) : Out :=
  .next (
    let c := s.ctx x
    let t := s.focus x
    if c.st != .running || c.exiting || c.y.sup || c.y.hung || decide (2048 ≤ x) then s
    else match t.attempt with
      | .stall (reason, pos, detail) _ =>
        let part := c.y.part
        let pops := if c.f.blocked.isEmpty then t.popsNext else []
        let chans := (List.range 8).filter fun n => (c.chan n).en
        let head := recordBytes [(0, 1, 0x20), (1, 1, part), (2, 2, x), (4, 1, reason), (5, 1, pos), (6, 2, 4 + chans.length),
          (8, 8, c.f.lcc.toNat), (16, 4, c.pcOff.toNat), (20, 4, (Config.stallMicros s.tick).toNat), (24, 8, detail.toNat)]
        let set := [head] ++ (List.range 4).map (s.hangQueueRec part x) ++ chans.map (s.hangChanRec part x pops)
        (s.postSet part set).ticked.upd x fun c => { c with y := { c.y with hung := true } }
      | _ => s)

/-! ## Samples (R435, R436) -/

/-- The sample of one core's issue slot (R436). -/
def State.sample (s : State) (k : Nat) : List Byte :=
  let u := s.core k
  let unit := [(16, 4, bits u.power 0 32), (20, 2, k), (22, 1, u.opcur.toNat), (23, 1, u.lvl.toNat), (24, 8, (s.pkgTime).toNat)]
  match s.slotOwner k with
  | none => recordBytes ([(0, 2, 0xFFFF), (3, 1, 8)] ++ unit)
  | some x =>
    let c := s.ctx x
    let stalled := match (s.focus x).attempt with | .stall _ _ => true | _ => false
    recordBytes ([(0, 2, x), (2, 1, if c.y.sup then 0 else c.y.part),
      (3, 1, boolNat c.y.sup + 2 * boolNat c.e.hm + 4 * boolNat stalled), (4, 4, c.pcOff.toNat), (8, 8, c.f.lcc.toNat)] ++ unit)

/-- PC_SAMPLE: every core of a die that samples writes its sample (R435). -/
def execPcSample (d : Nat) (s : State) : Out :=
  .next (if d < 2 ∧ bitAt (s.reg d 0x9B0) 63 = true then
      ((List.range 256).foldl (fun (t : State) i => t.post (64 + d) (s.sample (256 * d + i))) s).ticked
    else s)

end Sys2Proof.Machine
end

