-- ==== Sys2Proof/Machine/Dispatch.lean ====
section
/-! DEFINITION. Every instruction and every step of the opcode table with its meaning (R82 to R104 and the rules of
each row): one arm each. -/

namespace Sys2Proof.Machine

/-- The meaning of an instruction as a slot of the bundle in issue, or of a step of the package. -/
def exec (i : Instr) (s : State) : Host.Outcome State Fault Refusal :=
  match i with
  | .add g d a b => Sys2Proof.Machine.execAdd g d a b s
  | .sub g d a b => Sys2Proof.Machine.execSub g d a b s
  | .and g d a b => Sys2Proof.Machine.execAnd g d a b s
  | .or g d a b => Sys2Proof.Machine.execOr g d a b s
  | .xor g d a b => Sys2Proof.Machine.execXor g d a b s
  | .shl g d a b => Sys2Proof.Machine.execShl g d a b s
  | .shr g d a b => Sys2Proof.Machine.execShr g d a b s
  | .sar g d a b => Sys2Proof.Machine.execSar g d a b s
  | .mul g d a b => Sys2Proof.Machine.execMul g d a b s
  | .mulh g d a b => Sys2Proof.Machine.execMulh g d a b s
  | .mulhn g d a b => Sys2Proof.Machine.execMulhn g d a b s
  | .div g d a b => Sys2Proof.Machine.execDiv g d a b s
  | .divn g d a b => Sys2Proof.Machine.execDivn g d a b s
  | .rem g d a b => Sys2Proof.Machine.execRem g d a b s
  | .remn g d a b => Sys2Proof.Machine.execRemn g d a b s
  | .min g d a b => Sys2Proof.Machine.execMin g d a b s
  | .max g d a b => Sys2Proof.Machine.execMax g d a b s
  | .minn g d a b => Sys2Proof.Machine.execMinn g d a b s
  | .maxn g d a b => Sys2Proof.Machine.execMaxn g d a b s
  | .sel g d a b k => Sys2Proof.Machine.execSel g d a b k s
  | .clz g d a => Sys2Proof.Machine.execClz g d a s
  | .ctz g d a => Sys2Proof.Machine.execCtz g d a s
  | .popc g d a => Sys2Proof.Machine.execPopc g d a s
  | .cmpCc g cc pd a b => Sys2Proof.Machine.execCmpCc g cc pd a b s
  | .pand g pd pa pb => Sys2Proof.Machine.execPand g pd pa pb s
  | .por g pd pa pb => Sys2Proof.Machine.execPor g pd pa pb s
  | .pxor g pd pa pb => Sys2Proof.Machine.execPxor g pd pa pb s
  | .pnot g pd pa => Sys2Proof.Machine.execPnot g pd pa s
  | .movpPs g d pa q => Sys2Proof.Machine.execMovpPs g d pa q s
  | .movpSp g pd a q => Sys2Proof.Machine.execMovpSp g pd a q s
  | .movpBc g pd a => Sys2Proof.Machine.execMovpBc g pd a s
  | .addi d a imm => Sys2Proof.Machine.execAddi d a imm s
  | .andi d a imm => Sys2Proof.Machine.execAndi d a imm s
  | .ori d a imm => Sys2Proof.Machine.execOri d a imm s
  | .xori d a imm => Sys2Proof.Machine.execXori d a imm s
  | .shli d a n => Sys2Proof.Machine.execShli d a n s
  | .shri d a n => Sys2Proof.Machine.execShri d a n s
  | .sari d a n => Sys2Proof.Machine.execSari d a n s
  | .movi d imm => Sys2Proof.Machine.execMovi d imm s
  | .shi d imm => Sys2Proof.Machine.execShi d imm s
  | .br g off => Sys2Proof.Machine.execBr g off s
  | .brl g off => Sys2Proof.Machine.execBrl g off s
  | .brs g d a => Sys2Proof.Machine.execBrs g d a s
  | .loop g n a => Sys2Proof.Machine.execLoop g n a s
  | .loopi n count => Sys2Proof.Machine.execLoopi n count s
  | .ppt => Sys2Proof.Machine.execPpt s
  | .yield => Sys2Proof.Machine.execYield s
  | .exit => Sys2Proof.Machine.execExit s
  | .tstamp g d => Sys2Proof.Machine.execTstamp g d s
  | .tstampSet g d a => Sys2Proof.Machine.execTstampSet g d a s
  | .sread d num => Sys2Proof.Machine.execSread d num s
  | .swrite num a => Sys2Proof.Machine.execSwrite num a s
  | .trap imm => Sys2Proof.Machine.execTrap imm s
  | .svc imm => Sys2Proof.Machine.execSvc imm s
  | .eret => Sys2Proof.Machine.execEret s
  | .fcrSet g a fields => Sys2Proof.Machine.execFcrSet g a fields s
  | .fcrGet g d => Sys2Proof.Machine.execFcrGet g d s
  | .panAck g d => Sys2Proof.Machine.execPanAck g d s
  | .panRead g d a ps => Sys2Proof.Machine.execPanRead g d a ps s
  | .poisTest g kind d x => Sys2Proof.Machine.execPoisTest g kind d x s
  | .poisClr g kind x => Sys2Proof.Machine.execPoisClr g kind x s
  | .poisSet g kind x => Sys2Proof.Machine.execPoisSet g kind x s
  | .preemptStop g d a b => Sys2Proof.Machine.execPreemptStop g d a b s
  | .preemptResume g d a b => Sys2Proof.Machine.execPreemptResume g d a b s
  | .preemptState g d a b => Sys2Proof.Machine.execPreemptState g d a b s
  | .ctxSave g d a b => Sys2Proof.Machine.execCtxSave g d a b s
  | .ctxLoad g d a b => Sys2Proof.Machine.execCtxLoad g d a b s
  | .halt => Sys2Proof.Machine.execHalt s
  | .vadd pg t d a b => Sys2Proof.Machine.execVadd pg t d a b s
  | .vsub pg t d a b => Sys2Proof.Machine.execVsub pg t d a b s
  | .vmul pg t d a b => Sys2Proof.Machine.execVmul pg t d a b s
  | .vmulh pg t d a b => Sys2Proof.Machine.execVmulh pg t d a b s
  | .vmin pg t d a b => Sys2Proof.Machine.execVmin pg t d a b s
  | .vmax pg t d a b => Sys2Proof.Machine.execVmax pg t d a b s
  | .vand pg t d a b => Sys2Proof.Machine.execVand pg t d a b s
  | .vor pg t d a b => Sys2Proof.Machine.execVor pg t d a b s
  | .vxor pg t d a b => Sys2Proof.Machine.execVxor pg t d a b s
  | .vnot pg t d a => Sys2Proof.Machine.execVnot pg t d a s
  | .vshl pg t d a b => Sys2Proof.Machine.execVshl pg t d a b s
  | .vshr pg t d a b => Sys2Proof.Machine.execVshr pg t d a b s
  | .vsar pg t d a b => Sys2Proof.Machine.execVsar pg t d a b s
  | .vcmpCc cc pg t pd a b => Sys2Proof.Machine.execVcmpCc cc pg t pd a b s
  | .vadds pg t d a b => Sys2Proof.Machine.execVadds pg t d a b s
  | .vsubs pg t d a b => Sys2Proof.Machine.execVsubs pg t d a b s
  | .fadd pg t d a b => Sys2Proof.Machine.execFadd pg t d a b s
  | .fsub pg t d a b => Sys2Proof.Machine.execFsub pg t d a b s
  | .fmul pg t d a b => Sys2Proof.Machine.execFmul pg t d a b s
  | .fma pg t d a b => Sys2Proof.Machine.execFma pg t d a b s
  | .fms pg t d a b => Sys2Proof.Machine.execFms pg t d a b s
  | .fnma pg t d a b => Sys2Proof.Machine.execFnma pg t d a b s
  | .fnms pg t d a b => Sys2Proof.Machine.execFnms pg t d a b s
  | .fmin pg t d a b => Sys2Proof.Machine.execFmin pg t d a b s
  | .fmax pg t d a b => Sys2Proof.Machine.execFmax pg t d a b s
  | .fabs pg t d a => Sys2Proof.Machine.execFabs pg t d a s
  | .fneg pg t d a => Sys2Proof.Machine.execFneg pg t d a s
  | .fcmpCc cc pg t pd a b => Sys2Proof.Machine.execFcmpCc cc pg t pd a b s
  | .fclass pg t d a => Sys2Proof.Machine.execFclass pg t d a s
  | .frnd pg t d a => Sys2Proof.Machine.execFrnd pg t d a s
  | .fscale pg t d a b => Sys2Proof.Machine.execFscale pg t d a b s
  | .vsel t d a b k => Sys2Proof.Machine.execVsel t d a b k s
  | .vmov pg t d a => Sys2Proof.Machine.execVmov pg t d a s
  | .vbcast pg t d n => Sys2Proof.Machine.execVbcast pg t d n s
  | .vimm t d imm => Sys2Proof.Machine.execVimm t d imm s
  | .vext t d a b => Sys2Proof.Machine.execVext t d a b s
  | .vins t d a b => Sys2Proof.Machine.execVins t d a b s
  | .vperm pg t d a b => Sys2Proof.Machine.execVperm pg t d a b s
  | .vslideUp pg t d a b => Sys2Proof.Machine.execVslideUp pg t d a b s
  | .vslideDn pg t d a b => Sys2Proof.Machine.execVslideDn pg t d a b s
  | .vrot pg t d a b => Sys2Proof.Machine.execVrot pg t d a b s
  | .vzip pg t d a b => Sys2Proof.Machine.execVzip pg t d a b s
  | .vunzip pg t d a b => Sys2Proof.Machine.execVunzip pg t d a b s
  | .vtrn pg t d a b => Sys2Proof.Machine.execVtrn pg t d a b s
  | .vradd pg t d a => Sys2Proof.Machine.execVradd pg t d a s
  | .vrmin pg t d a => Sys2Proof.Machine.execVrmin pg t d a s
  | .vrmax pg t d a => Sys2Proof.Machine.execVrmax pg t d a s
  | .vscanAdd pg t d a => Sys2Proof.Machine.execVscanAdd pg t d a s
  | .vdot4 pg t d a b => Sys2Proof.Machine.execVdot4 pg t d a b s
  | .vhash pg t d a b => Sys2Proof.Machine.execVhash pg t d a b s
  | .pcnt pg t d pa => Sys2Proof.Machine.execPcnt pg t d pa s
  | .pfirst pg t d pa => Sys2Proof.Machine.execPfirst pg t d pa s
  | .vshli t d a c => Sys2Proof.Machine.execVshli t d a c s
  | .vshri t d a c => Sys2Proof.Machine.execVshri t d a c s
  | .vsari t d a c => Sys2Proof.Machine.execVsari t d a c s
  | .cvt d a dty sty rm defer ov => Sys2Proof.Machine.execCvt d a dty sty rm defer ov s
  | .mxpack d a et bf rm defer ov => Sys2Proof.Machine.execMxpack d a et bf rm defer ov s
  | .mxunpack d a et bf rm defer => Sys2Proof.Machine.execMxunpack d a et bf rm defer s
  | .b16pack d a rm defer => Sys2Proof.Machine.execB16pack d a rm defer s
  | .fradd pg t d a => Sys2Proof.Machine.execFradd pg t d a s
  | .frmin pg t d a => Sys2Proof.Machine.execFrmin pg t d a s
  | .frmax pg t d a => Sys2Proof.Machine.execFrmax pg t d a s
  | .sfEval pg t d a k => Sys2Proof.Machine.execSfEval pg t d a k s
  | .sfEvalx pg t d a pr k => Sys2Proof.Machine.execSfEvalx pg t d a pr k s
  | .sftLoad g d a b => Sys2Proof.Machine.execSftLoad g d a b s
  | .sftBind g d a k => Sys2Proof.Machine.execSftBind g d a k s
  | .sftBindOff g d k => Sys2Proof.Machine.execSftBindOff g d k s
  | .sftInfo g d k w => Sys2Proof.Machine.execSftInfo g d k w s
  | .sftChk g d a => Sys2Proof.Machine.execSftChk g d a s
  | .ld g w sp d b off => Sys2Proof.Machine.execLd g w sp d b off s
  | .st g w sp d b off => Sys2Proof.Machine.execSt g w sp d b off s
  | .vld g sp d b off => Sys2Proof.Machine.execVld g sp d b off s
  | .vst g sp d b off => Sys2Proof.Machine.execVst g sp d b off s
  | .vlds g w sp d b c => Sys2Proof.Machine.execVlds g w sp d b c s
  | .vgather g w sp d b c => Sys2Proof.Machine.execVgather g w sp d b c s
  | .vscatter g w sp d b c => Sys2Proof.Machine.execVscatter g w sp d b c s
  | .gld g w d b off => Sys2Proof.Machine.execGld g w d b off s
  | .gst g w d b off => Sys2Proof.Machine.execGst g w d b off s
  | .chpop g d n => Sys2Proof.Machine.execChpop g d n s
  | .chpopDrop g n => Sys2Proof.Machine.execChpopDrop g n s
  | .chpush g n d => Sys2Proof.Machine.execChpush g n d s
  | .chpushAb g n b => Sys2Proof.Machine.execChpushAb g n b s
  | .chpushSp g n b => Sys2Proof.Machine.execChpushSp g n b s
  | .chpeek g d n b => Sys2Proof.Machine.execChpeek g d n b s
  | .chstat g d n => Sys2Proof.Machine.execChstat g d n s
  | .ldAcq g w sp gl d b off => Sys2Proof.Machine.execLdAcq g w sp gl d b off s
  | .stRel g w sp gl scope d b off => Sys2Proof.Machine.execStRel g w sp gl scope d b off s
  | .aadd g ord sp dw d b c => Sys2Proof.Machine.execAadd g ord sp dw d b c s
  | .aand g ord sp dw d b c => Sys2Proof.Machine.execAand g ord sp dw d b c s
  | .aor g ord sp dw d b c => Sys2Proof.Machine.execAor g ord sp dw d b c s
  | .axor g ord sp dw d b c => Sys2Proof.Machine.execAxor g ord sp dw d b c s
  | .amin g ord sp dw d b c => Sys2Proof.Machine.execAmin g ord sp dw d b c s
  | .amax g ord sp dw d b c => Sys2Proof.Machine.execAmax g ord sp dw d b c s
  | .axch g ord sp dw d b c => Sys2Proof.Machine.execAxch g ord sp dw d b c s
  | .acas g ord sp dw d b c => Sys2Proof.Machine.execAcas g ord sp dw d b c s
  | .adecp g ord sp dw d b => Sys2Proof.Machine.execAdecp g ord sp dw d b s
  | .amxacc g ord et d b c => Sys2Proof.Machine.execAmxacc g ord et d b c s
  | .fence g scope d => Sys2Proof.Machine.execFence g scope d s
  | .waitv g dw d b c => Sys2Proof.Machine.execWaitv g dw d b c s
  | .notify g all d b => Sys2Proof.Machine.execNotify g all d b s
  | .synAdd g d b c => Sys2Proof.Machine.execSynAdd g d b c s
  | .synWait g d b c => Sys2Proof.Machine.execSynWait g d b c s
  | .synGet g d b => Sys2Proof.Machine.execSynGet g d b s
  | .bar g grp d => Sys2Proof.Machine.execBar g grp d s
  | .copy g acq rel a b d => Sys2Proof.Machine.execCopy g acq rel a b d s
  | .copyw g acq rel a b d => Sys2Proof.Machine.execCopyw g acq rel a b d s
  | .ladRun g j a b d => Sys2Proof.Machine.execLadRun g j a b d s
  | .ladStop g j => Sys2Proof.Machine.execLadStop g j s
  | .ladStat g d j => Sys2Proof.Machine.execLadStat g d j s
  | .pref g acq a b => Sys2Proof.Machine.execPref g acq a b s
  | .rowcpy g acq rel a b d => Sys2Proof.Machine.execRowcpy g acq rel a b d s
  | .rowinit g acq rel a b d => Sys2Proof.Machine.execRowinit g acq rel a b d s
  | .grdLease g => Sys2Proof.Machine.execGrdLease g s
  | .grdFree g => Sys2Proof.Machine.execGrdFree g s
  | .grdWload g a => Sys2Proof.Machine.execGrdWload g a s
  | .grdScl g a => Sys2Proof.Machine.execGrdScl g a s
  | .grdSclAll g b => Sys2Proof.Machine.execGrdSclAll g b s
  | .grdMul g acq rel a b d => Sys2Proof.Machine.execGrdMul g acq rel a b d s
  | .grdZero g d => Sys2Proof.Machine.execGrdZero g d s
  | .grdDrain g acq rel a d => Sys2Proof.Machine.execGrdDrain g acq rel a d s
  | .grdChk g d a => Sys2Proof.Machine.execGrdChk g d a s
  | .grdSave g acq rel a d => Sys2Proof.Machine.execGrdSave g acq rel a d s
  | .grdRest g acq rel a d => Sys2Proof.Machine.execGrdRest g acq rel a d s
  | .grdStat g clr d a => Sys2Proof.Machine.execGrdStat g clr d a s
  | .send g w rel a b d => Sys2Proof.Machine.execSend g w rel a b d s
  | .sendv g rel a b d => Sys2Proof.Machine.execSendv g rel a b d s
  | .rld g a d => Sys2Proof.Machine.execRld g a d s
  | .rred g rel a b d => Sys2Proof.Machine.execRred g rel a b d s
  | .recv g d n a => Sys2Proof.Machine.execRecv g d n a s
  | .mldr g d a b => Sys2Proof.Machine.execMldr g d a b s
  | .fabStat g d a => Sys2Proof.Machine.execFabStat g d a s
  | .bundleIssue x => Sys2Proof.Machine.execBundleIssue x s
  | .issueSlotChange k => Sys2Proof.Machine.execIssueSlotChange k s
  | .quantumExpiry k => Sys2Proof.Machine.execQuantumExpiry k s
  | .elasticResultArrival id => Sys2Proof.Machine.execElasticResultArrival id s
  | .accessPerformed id => Sys2Proof.Machine.execAccessPerformed id s
  | .ladleRunStart l => Sys2Proof.Machine.execLadleRunStart l s
  | .ladleBundleIssue l => Sys2Proof.Machine.execLadleBundleIssue l s
  | .channelElementArrival id => Sys2Proof.Machine.execChannelElementArrival id s
  | .copyComplete id => Sys2Proof.Machine.execCopyComplete id s
  | .rowOperationComplete id => Sys2Proof.Machine.execRowOperationComplete id s
  | .griddleCommandComplete o => Sys2Proof.Machine.execGriddleCommandComplete o s
  | .leaseGrant o => Sys2Proof.Machine.execLeaseGrant o s
  | .leaseBudgetExpiry k => Sys2Proof.Machine.execLeaseBudgetExpiry k s
  | .kick q v => Sys2Proof.Machine.execKick q v s
  | .kickStart q => Sys2Proof.Machine.execKickStart q s
  | .placement d => Sys2Proof.Machine.execPlacement d s
  | .agelimExpiry d cls => Sys2Proof.Machine.execAgelimExpiry d cls s
  | .memberExit x => Sys2Proof.Machine.execMemberExit x s
  | .nodeRetire g => Sys2Proof.Machine.execNodeRetire g s
  | .replayComplete q => Sys2Proof.Machine.execReplayComplete q s
  | .qgraphWrite q v => Sys2Proof.Machine.execQgraphWrite q v s
  | .qcbaseWrite q v => Sys2Proof.Machine.execQcbaseWrite q v s
  | .qcsizeWrite q v => Sys2Proof.Machine.execQcsizeWrite q v s
  | .hostMemRead h n => Sys2Proof.Machine.execHostMemRead h n s
  | .hostMemWrite h bytes => Sys2Proof.Machine.execHostMemWrite h bytes s
  | .pctlRst n => Sys2Proof.Machine.execPctlRst n s
  | .prst x v => Sys2Proof.Machine.execPrst x v s
  | .partitionResetComplete n => Sys2Proof.Machine.execPartitionResetComplete n s
  | .qsetWrite x v => Sys2Proof.Machine.execQsetWrite x v s
  | .lregWrite x n v => Sys2Proof.Machine.execLregWrite x n v s
  | .pantryCommit x v => Sys2Proof.Machine.execPantryCommit x v s
  | .pantryPublish => Sys2Proof.Machine.execPantryPublish s
  | .opSettleComplete m => Sys2Proof.Machine.execOpSettleComplete m s
  | .graceExpiry x => Sys2Proof.Machine.execGraceExpiry x s
  | .pcfgWrite x n v => Sys2Proof.Machine.execPcfgWrite x n v s
  | .cresWrite x n v => Sys2Proof.Machine.execCresWrite x n v s
  | .replace x v => Sys2Proof.Machine.execReplace x v s
  | .replaceComplete d => Sys2Proof.Machine.execReplaceComplete d s
  | .isscfgWrite x v => Sys2Proof.Machine.execIsscfgWrite x v s
  | .splitLevelStep k up => Sys2Proof.Machine.execSplitLevelStep k up s
  | .tempstatUpdate d => Sys2Proof.Machine.execTempstatUpdate d s
  | .chcfgWrite x n v => Sys2Proof.Machine.execChcfgWrite x n v s
  | .spcfgWrite x v => Sys2Proof.Machine.execSpcfgWrite x v s
  | .tlbinv x v => Sys2Proof.Machine.execTlbinv x v s
  | .tlbinvComplete d => Sys2Proof.Machine.execTlbinvComplete d s
  | .ringRegisterWrite x num v => Sys2Proof.Machine.execRingRegisterWrite x num v s
  | .ringHeadWrite x num v => Sys2Proof.Machine.execRingHeadWrite x num v s
  | .synobjWrite x v => Sys2Proof.Machine.execSynobjWrite x v s
  | .hangTimeout x => Sys2Proof.Machine.execHangTimeout x s
  | .preemptDeadline x => Sys2Proof.Machine.execPreemptDeadline x s
  | .preemptionComplete x => Sys2Proof.Machine.execPreemptionComplete x s
  | .uncorr x => Sys2Proof.Machine.execUncorr x s
  | .lockstepMismatch x => Sys2Proof.Machine.execLockstepMismatch x s
  | .rollreq x v => Sys2Proof.Machine.execRollreq x v s
  | .gangRollback g => Sys2Proof.Machine.execGangRollback g s
  | .rollbackRestart g => Sys2Proof.Machine.execRollbackRestart g s
  | .nodekill x v => Sys2Proof.Machine.execNodekill x v s
  | .errorThreshold r => Sys2Proof.Machine.execErrorThreshold r s
  | .errorWindowExpiry k => Sys2Proof.Machine.execErrorWindowExpiry k s
  | .hbmLaneDrift sk => Sys2Proof.Machine.execHbmLaneDrift sk s
  | .migrationStart x v => Sys2Proof.Machine.execMigrationStart x v s
  | .migrationComplete d => Sys2Proof.Machine.execMigrationComplete d s
  | .powerEstimateUpdate k => Sys2Proof.Machine.execPowerEstimateUpdate k s
  | .pcSample d => Sys2Proof.Machine.execPcSample d s
  | .fabidWrite x v => Sys2Proof.Machine.execFabidWrite x v s
  | .tabload x v => Sys2Proof.Machine.execTabload x v s
  | .tabloadComplete => Sys2Proof.Machine.execTabloadComplete s
  | .fabgrpJoin x v => Sys2Proof.Machine.execFabgrpJoin x v s
  | .packetDepart p ph => Sys2Proof.Machine.execPacketDepart p ph s
  | .fabricWrite p pkt => Sys2Proof.Machine.execFabricWrite p pkt s
  | .fabricRead p pkt => Sys2Proof.Machine.execFabricRead p pkt s
  | .fabricAtomic p pkt => Sys2Proof.Machine.execFabricAtomic p pkt s
  | .fabricReduce p pkt => Sys2Proof.Machine.execFabricReduce p pkt s
  | .ack p pkt => Sys2Proof.Machine.execAck p pkt s
  | .nack p pkt => Sys2Proof.Machine.execNack p pkt s
  | .data p pkt => Sys2Proof.Machine.execData p pkt s
  | .result p pkt => Sys2Proof.Machine.execResult p pkt s
  | .lsu u => Sys2Proof.Machine.execLsu u s
  | .linkDead p => Sys2Proof.Machine.execLinkDead p s
  | .linkRetry p => Sys2Proof.Machine.execLinkRetry p s
  | .drainRoundExpiry ix => Sys2Proof.Machine.execDrainRoundExpiry ix s
  | .linkTrain x v => Sys2Proof.Machine.execLinkTrain x v s
  | .linkDown x v => Sys2Proof.Machine.execLinkDown x v s
  | .linkTrainingComplete p state width sport dly => Sys2Proof.Machine.execLinkTrainingComplete p state width sport dly s
  | .packageReset => Sys2Proof.Machine.execPackageReset s
  | .bootVerify => Sys2Proof.Machine.execBootVerify s
  | .bist fails => Sys2Proof.Machine.execBist fails s
  | .marchTimeout => Sys2Proof.Machine.execMarchTimeout s
  | .bootPantry => Sys2Proof.Machine.execBootPantry s
  | .repadd x v => Sys2Proof.Machine.execRepadd x v s
  | .bootsumWrite x v => Sys2Proof.Machine.execBootsumWrite x v s
  | .testcfgWrite x v => Sys2Proof.Machine.execTestcfgWrite x v s
  | .attestationStart x v => Sys2Proof.Machine.execAttestationStart x v s
  | .attestationComplete => Sys2Proof.Machine.execAttestationComplete s
  | .epcWrite x v => Sys2Proof.Machine.execEpcWrite x v s
  | .lcntWrite x n v => Sys2Proof.Machine.execLcntWrite x n v s
  | .fcrWrite x v => Sys2Proof.Machine.execFcrWrite x v s
  | .registerWrite r v => Sys2Proof.Machine.execRegisterWrite r v s
  | .frameBoundary => Sys2Proof.Machine.execFrameBoundary s
  | .memTrainingComplete weak bridge => Sys2Proof.Machine.execMemTrainingComplete weak bridge s

end Sys2Proof.Machine
end

