-- ==== Sys2Proof/Machine/Step.lean ====
section
/-! DEFINITION. One step of the package: the next entry of the agenda, or the default policy (assumption log 1), and how
a lone instruction is placed where the next step fetches it. -/

namespace Sys2Proof.Machine

/-- The contexts that run. -/
def State.running (s : State) : List Nat :=
  (((s.who, s.c) :: s.parked).filter fun e => decide (e.1 < 2048) && e.2.st == .running).map (·.1)

/-- The core whose turn follows under the default policy: the next one in number that has a running context. -/
def State.nextTurn (s : State) : Nat :=
  let ks := s.running.map coreOf
  let least (l : List Nat) : Option Nat := l.foldl (fun m k => some (match m with | none => k | some n => min n k)) none
  ((least (ks.filter fun k => decide (s.turn < k))).orElse fun _ => least ks).getD s.turn

/-- The oldest thing outstanding that can go on by itself. -/
def State.oldest (s : State) : Option Instr :=
  match s.ops.find? fun o => o.phase == .performed || (o.phase == .issued && s.mayPerform o) with
  | some o => some (if o.phase == .performed then .elasticResultArrival o.id else .accessPerformed o.id)
  | none => match s.cmds with
    | m :: _ => some (match m.unit, m.instr with
      | .griddle o, _ => .griddleCommandComplete o
      | _, .rowcpy .. | _, .rowinit .. | _, .rowOperationComplete _ => .rowOperationComplete m.id
      | _, _ => .copyComplete m.id)
    | [] => none

/-- The step that the default policy takes: the owner of the turn's issue slot issues; without one, the slot changes
hands; with nobody ready, the oldest thing outstanding goes on. -/
def State.defaultEvent (s : State) : Instr :=
  let k := s.turn
  match s.slotOwner k with
  | some x => if s.runnable x then .bundleIssue x else .issueSlotChange k
  | none => if (s.nextOwner k).isSome then .issueSlotChange k else s.oldest.getD (.issueSlotChange k)

/-- One step: the head of the agenda, or the default policy's choice. An encoded instruction is no step of its own (it
runs as a slot of a bundle), and is passed over where the agenda names one. -/
def step (s : State) : Host.Outcome State Fault Refusal :=
  match s.agenda with
  | e :: rest => if e.opc.isSome then .next { s with agenda := rest } else exec e { s with agenda := rest }
  | [] => exec s.defaultEvent { s with turn := s.nextTurn }

/-- The context that runs a placed instruction: context 0 of core 0, a running supervisor whose span is the whole of its
IMEM and which has every feature group; nothing blocks it and no event is pending. -/
def Ctx.fetching (c : Ctx) (ver : BitVec 32) : Ctx :=
  { c with
    st := .running, exiting := false,
    e := { c.e with thrEvent := none },
    y := { c.y with sup := true, ctxfeat := 0x3FFF#64, spanBase := 0, spanSize := 262144, stop := none, panv := ver, tokWait := false },
    f := { c.f with blocked := [], pc := if c.f.pc.toNat % 4 = 0 ∧ c.f.pc.toNat + 8 ≤ 262144 then c.f.pc else 0#64 } }

/-- The instruction whose bits are `w`, as a bundle of one slot, where context 0 of core 0 fetches its next bundle, with
that context owning the issue slot of the core whose turn it is (assumption log 8). -/
def State.withFetchWord (s : State) (nbits w : Nat) : State :=
  let word := BitVec.ofNat 32 (w % 2 ^ Nat.min nbits 32)
  let h := loneHeader (homePosition (opcOf word))
  let t := s.focus 0
  let c := t.c.fetching t.svc.pantry.ver
  let a := c.f.pc.toNat
  let bytes := natLe (h.toNat) 4 ++ natLe (word ||| 0x80000000#32).toNat 4
  { (t.updCore 0 fun k => { k with owner := 1, settling := none }) with
    c := c, agenda := [], turn := 0, imem := t.imem.writeP 2 a bytes false }

end Sys2Proof.Machine
end

