-- ==== Sys2Proof/Safety.lean ====
section
/-! DEFINITION. What statements about the machine are made of: when a slot executes, what a bundle's record must be for
its slots to run, the memories as a program sees them, and the invariants that every step keeps. -/

namespace Sys2Proof.Safety

open Sys2Proof.Machine

/-! ## When a slot executes -/

/-- The slot is not nullified: its guard is true, or poisoned and so counts as true (R95, R134). -/
abbrev Executes (s : State) (g : Guard) : Prop := s.guardPois g = true ∨ s.guardTest g = true

/-- The guard is unpoisoned and false (R95). -/
abbrev Nullified (s : State) (g : Guard) : Prop := s.guardPois g = false ∧ s.guardTest g = false

/-- A slot that consumes its sources runs: its guard is unpoisoned and true, its scalar sources unpoisoned (R134, R278). -/
abbrev Ready (s : State) (g : Guard) (srcs : List SReg) : Prop :=
  s.guardPois g = false ∧ s.guardTest g = true ∧ ∀ a ∈ srcs, s.ps a = false

/-- No slot of the bundle has stopped or stalled it yet. -/
abbrev Clear (s : State) : Prop := s.issue.stop = none ∧ s.issue.stall = none

/-- The slot finds no race (R349). -/
abbrev NoRace (s : State) : Prop := (s.issue.races.filter fun r => r.1 == s.issue.pos) = []

/-- The slot's access to the lines of `n` bytes at key `k` meets no race (R349). -/
abbrev RaceFree (s : State) (sp store openTest : Bool) (k n : Nat) : Prop :=
  isLadle s.who = true ∨ ∀ u ∈ unitsOf 6 k n, s.raceLine sp store openTest (64 * u) = none

/-- No operation of an earlier bundle of the agent on the bytes is still to be performed (R280). -/
abbrev Unqueued (s : State) (sp : Bool) (k n : Nat) : Prop :=
  ∀ o ∈ s.ops, o.agent = s.who → o.bun < s.issue.serial0 → o.phase ≠ .performed →
    overlap o.kind.ranges [Loc.range n (locAS sp k)] = false

/-- No access of an earlier bundle of the agent to a location that the scope holds is still to be performed, nor a line of
another package that an RLD of the agent asked for still to come (R342, R379). -/
abbrev Unheld (s : State) (scope : Nat) : Prop :=
  (∀ o ∈ s.ops, o.agent = s.who → o.bun < s.issue.serial0 → o.done = false →
    ∀ l ∈ o.kind.touches, scope < s.scopeOfLoc (coreOf s.who) l) ∧ s.rldOpen s.who scope = false

/-- The second state is the first one after an access found the errors of lines of its memories: marks that stand for words
which already read as lost, error counts, and the record of the SP errors that have counted, may be new (R466). -/
structure Noticed (s t : State) : Prop where
  frame : t = { s with ab := { s.ab with pois := t.ab.pois }, sp := { s.sp with pois := t.sp.pois },
                       tmem := { s.tmem with pois := t.tmem.pois }, spSeen := t.spSeen,
                       svc := { s.svc with errs := t.svc.errs } }
  lost : ∀ sp u, (t.bankAS sp).lost 6 u = (s.bankAS sp).lost 6 u
  tmem : ∀ u, t.tmem.lost 4 u = s.tmem.lost 4 u

/-- The state after a load of the own memories found the errors of its lines; a raw load finds none (R455, R466). -/
def noted (s : State) (sp : Bool) (k n : Nat) : State := if s.rawLoads k then s else s.noticeAS sp k n

/-- Byte `k + j` of the own memories as a load of key `k` returns it: raw under TESTCFG.RAW (R455), zero in a poisoned line
(R273). -/
def loadedByte (s : State) (sp : Bool) (k j : Nat) : Nat :=
  if s.rawLoads k then ((if sp then s.sp else s.ab).rawByte (k + j)).toNat
  else if (s.bankAS sp).poisoned 6 (k + j) then 0 else (Mem.byte (s.bankAS sp).bytes (k + j)).toNat

/-- The state with the lines of an access to the own SP slice noted for the bank test (R249, R250). -/
def banked (s : State) (sp write whole : Bool) (k n : Nat) : State := if sp then s.occupy k n write whole else s

/-- The poison of a read of `n` bytes at key `k`: some byte lies in a poisoned line (R273). -/
def Tainted (b : Bank) (k n : Nat) : Prop := ∃ i, i < n ∧ b.poisoned 6 (k + i) = true

/-- Every channel head among the operand codes can be read: the channel is enabled, the context consumes it, and it is
not empty (R97, R260). -/
def HeadsReady (s : State) (as : List VOp) : Prop :=
  ∀ a ∈ as, ∀ n, headCode a = some n →
    (s.c.chan n).en = true ∧ bitAt (s.c.chan n).cfg 58 = false ∧ (s.c.chan n).prod ≠ (s.c.chan n).cons

/-- The state after an operand's channel head is read: recorded for the bundle, which pops it at its commit, and the errors
of its lines found (R97, R466). -/
def readOp (s : State) (a : VOp) : State :=
  match headCode a with
  | some n => s.readHead n
  | none => s

/-- The state after the heads of `as` are read. -/
def reading (s : State) (as : List VOp) : State := as.foldl readOp s

/-- The element of a vector result under a lane guard: computed where active, kept elsewhere (R188, R189). -/
def Merged (p : Pred) (w : Nat) (old v : Vec) (f : Nat → Nat) : Prop :=
  ∀ i, i < 256 / w → elemOf v w i = if active p w i then f i else elemOf old w i

/-- Lane-wise poison of a vector result (R191, L): group `g` is poisoned exactly when the guard or a scalar source is, or
group `g` of a vector source is, or group `g` of the old destination is while it is a source there: always when `whole`,
else when an element of the group is inactive. -/
def LanePoison (s : State) (pg : PReg) (w : Nat) (d : VReg) (as : List VOp) (scalars : List SReg) (whole : Prop) (q : BitVec 4) :
    Prop :=
  ∀ g, g < 4 → (q.getLsbD g = true ↔ s.pp pg = true ∨ (∃ n ∈ scalars, s.ps n = true) ∨ (∃ a ∈ as, (s.vop a).p.getLsbD g = true) ∨
    ((s.c.r.readV d.toNat).p.getLsbD g = true ∧ (whole ∨ ∃ j, j < 64 / w ∧ active (s.rp pg) w (64 * g / w + j) = false)))

/-- Cross-lane poison of a vector result (R191, X): every group when any poison bit of any source is set; `olds` are the
old destinations that are sources (R189). -/
def CrossPoison (s : State) (guards : List PReg) (olds : List (BitVec 4)) (as : List VOp) (scalars : List SReg) (q : BitVec 4) : Prop :=
  ((∃ p ∈ guards, s.pp p = true) ∨ (∃ n ∈ scalars, s.ps n = true) ∨ (∃ a ∈ as, (s.vop a).p ≠ 0#4) ∨ (∃ o ∈ olds, o ≠ 0#4) → q = 15#4) ∧
  (¬ ((∃ p ∈ guards, s.pp p = true) ∨ (∃ n ∈ scalars, s.ps n = true) ∨ (∃ a ∈ as, (s.vop a).p ≠ 0#4) ∨ (∃ o ∈ olds, o ≠ 0#4)) →
    q = 0#4)

/-- Instruction `i` issues a vector result for `d` at L + n, whose elements of width `w` are merged under `pg` (R189) and
whose poison meets `Q`; nothing else changes but the channel heads it reads. -/
def Merges (i : Instr) (s : State) (n : Nat) (as : List VOp) (pg : PReg) (w : Nat) (d : VReg) (Q : BitVec 4 → Prop)
    (f : Nat → Nat) : Prop :=
  ∃ v q, exec i s = .next ((reading s as).holdV n d ⟨v, q⟩) ∧ Merged (s.rp pg) w (s.c.r.readV d.toNat).v v f ∧ Q q

/-- Instruction `i` issues a vector result for `d` at L + n, written whole: its `m` elements of width `w` are `f i` and every
byte above them is zero. -/
def Writes (i : Instr) (s : State) (n : Nat) (as : List VOp) (w m : Nat) (d : VReg) (Q : BitVec 4 → Prop) (f : Nat → Nat) : Prop :=
  ∃ v q, exec i s = .next ((reading s as).holdV n d ⟨v, q⟩) ∧ (∀ k, k < m → elemOf v w k = f k) ∧
    (∀ b, m * w ≤ b → b < 256 → elemOf v 1 b = 0) ∧ Q q

/-- Instruction `i` issues a predicate result of element width `w` for `pd` at L + n: every bit of an element is its test
where it is active and 0 elsewhere; it is poisoned exactly when a source is, and enters the ring as bytes (R190, R191, R196). -/
def Tests (i : Instr) (s : State) (n : Nat) (as : List VOp) (pg : PReg) (w : Nat) (pd : PReg) (f : Nat → Bool) : Prop :=
  ∃ v : Pred, ∃ bad : Bool, exec i s
      = .next ((reading s as).hold n (.pred pd.toNat v bad) (some ⟨predRing v, if bad then 15#4 else 0#4⟩)) ∧
    (∀ b, b < 256 → v.getLsbD b = (active (s.rp pg) w (b / w) && f (b / w))) ∧
    (bad = true ↔ s.pp pg = true ∨ ∃ a ∈ as, (s.vop a).p ≠ 0#4)

/-- Instruction `i` issues a scalar result of a vector position at L + n; it enters the ring in bytes 0 to 7 (R190, R191). -/
def Extracts (i : Instr) (s : State) (n : Nat) (as : List VOp) (d : SReg) (v : Word) (bad : Prop) : Prop :=
  ∃ p : Bool, exec i s
      = .next ((reading s as).hold n (.scal d.toNat v p) (some ⟨v.setWidth 2048, if p then 15#4 else 0#4⟩)) ∧ (p = true ↔ bad)

/-- Instruction `i` answers state `t` with one more engine command, the last of its queue: its words and tags, its issuer and
the cycle of its acceptance (R292). -/
def Accepts (i : Instr) (s t : State) (u : EngUnit) (a b d e : Word) (tags : List TagRange) : Prop :=
  ∃ m : Cmd, exec i s = .next { t with cmds := t.cmds ++ [m], serial := t.serial + 1 } ∧ m.id = t.serial ∧ m.unit = u ∧
    m.core = coreOf s.who ∧ m.instr = i ∧ m.a = a ∧ m.b = b ∧ m.d = d ∧ m.e = e ∧ m.tags = tags ∧ m.agent = s.who ∧
    m.owner = s.ownerOf s.who ∧ m.cyc = s.issueCycle ∧ m.prog = 0 ∧ m.started = false ∧ m.acted = false

/-! ## Memory as a program sees it -/

/-- The five memories hold the same bytes at every address. -/
def SameMemory (s t : State) : Prop :=
  ∀ a, Mem.byte t.ab.bytes a = Mem.byte s.ab.bytes a ∧ Mem.byte t.sp.bytes a = Mem.byte s.sp.bytes a
    ∧ Mem.byte t.tmem.bytes a = Mem.byte s.tmem.bytes a ∧ Mem.byte t.imem.bytes a = Mem.byte s.imem.bytes a
    ∧ Mem.byte t.hbm.bytes a = Mem.byte s.hbm.bytes a

/-- Every memory is in its canonical form: addresses strictly rising, no byte listed that an unlisted address reads as. -/
abbrev MemoryCanonical (s : State) : Prop :=
  Mem.wf s.ab.bytes = true ∧ Mem.wf s.sp.bytes = true ∧ Mem.wf s.tmem.bytes = true ∧ Mem.wf s.imem.bytes = true
    ∧ Mem.wf s.hbm.bytes = true

end Sys2Proof.Safety
end

