-- ==== Sys2Proof/Certificates/Slice0/Obligations.lean ====
section
/-! DEFINITION. The statements for the provers. -/

open Sys2Proof Sys2Proof.Machine Sys2Proof.Safety

/-- R135 with the latencies of R131: what every scalar register instruction but the divisions writes, and when, for every
executing guard; a poisoned guard or source poisons the result. Nothing else changes: the next state is the old one with the
result held. -/
def Obligations.ScalarRegisterResults : Prop :=
  ∀ (s : State) (g : Guard) (d a b : SReg) (k : PReg), Executes s g →
    let x := s.rs a
    let y := s.rs b
    let p2 := s.guardPois g || s.ps a || s.ps b
    let p1 := s.guardPois g || s.ps a
    let res (n : Nat) (v : Word) (p : Bool) : Out := .next (s.hold n (.scal d.toNat v p) none)
    exec (.add g d a b) s = res 1 (x + y) p2 ∧ exec (.sub g d a b) s = res 1 (x - y) p2 ∧
    exec (.and g d a b) s = res 1 (x &&& y) p2 ∧ exec (.or g d a b) s = res 1 (x ||| y) p2 ∧
    exec (.xor g d a b) s = res 1 (x ^^^ y) p2 ∧
    exec (.shl g d a b) s = res 1 (x <<< (y.extractLsb' 0 6)) p2 ∧
    exec (.shr g d a b) s = res 1 (x >>> (y.extractLsb' 0 6)) p2 ∧
    exec (.sar g d a b) s = res 1 (x.sshiftRight (y.extractLsb' 0 6).toNat) p2 ∧
    exec (.mul g d a b) s = res 3 ((x.setWidth 128 * y.setWidth 128).extractLsb' 0 64) p2 ∧
    exec (.mulh g d a b) s = res 3 ((x.signExtend 128 * y.signExtend 128).extractLsb' 64 64) p2 ∧
    exec (.mulhn g d a b) s = res 3 ((x.setWidth 128 * y.setWidth 128).extractLsb' 64 64) p2 ∧
    exec (.min g d a b) s = res 1 (if x.toInt ≤ y.toInt then x else y) p2 ∧
    exec (.max g d a b) s = res 1 (if x.toInt ≤ y.toInt then y else x) p2 ∧
    exec (.minn g d a b) s = res 1 (if x.toNat ≤ y.toNat then x else y) p2 ∧
    exec (.maxn g d a b) s = res 1 (if x.toNat ≤ y.toNat then y else x) p2 ∧
    exec (.sel g d a b k) s = res 1 (if (s.rp k).getLsbD 0 = true then x else y) (p2 || s.pp k) ∧
    (∃ n, exec (.clz g d a) s = res 1 (BitVec.ofNat 64 n) p1 ∧ n ≤ 64 ∧
      (∀ i, i < n → x.getLsbD (63 - i) = false) ∧ (n < 64 → x.getLsbD (63 - n) = true)) ∧
    (∃ n, exec (.ctz g d a) s = res 1 (BitVec.ofNat 64 n) p1 ∧ n ≤ 64 ∧
      (∀ i, i < n → x.getLsbD i = false) ∧ (n < 64 → x.getLsbD n = true)) ∧
    exec (.popc g d a) s = res 1 (BitVec.ofNat 64 ((List.range 64).countP fun i => x.getLsbD i)) p1


/-- R136: division never traps and takes 20 logical cycles for every operand value; quotients are truncated toward zero,
remainders have the sign of the dividend, and a zero divisor and −2^63 by −1 give the edges of the table. -/
def Obligations.ScalarDivision : Prop :=
  (∀ (s : State) (g : Guard) (d a b : SReg), Executes s g →
    let x := s.rs a
    let y := s.rs b
    let p := s.guardPois g || s.ps a || s.ps b
    ∃ q r qn rn : Word,
      exec (.div g d a b) s = .next (s.hold 20 (.scal d.toNat q p) none) ∧
      exec (.rem g d a b) s = .next (s.hold 20 (.scal d.toNat r p) none) ∧
      exec (.divn g d a b) s = .next (s.hold 20 (.scal d.toNat qn p) none) ∧
      exec (.remn g d a b) s = .next (s.hold 20 (.scal d.toNat rn p) none) ∧
      (y = 0#64 → q = BitVec.allOnes 64 ∧ r = x ∧ qn = BitVec.allOnes 64 ∧ rn = x) ∧
      (x = BitVec.intMin 64 ∧ y = BitVec.allOnes 64 → q = BitVec.intMin 64 ∧ r = 0#64) ∧
      (y ≠ 0#64 → ¬(x = BitVec.intMin 64 ∧ y = BitVec.allOnes 64) →
        q.toInt = x.toInt.tdiv y.toInt ∧ r.toInt = x.toInt.tmod y.toInt) ∧
      (y ≠ 0#64 → qn.toNat = x.toNat / y.toNat ∧ rn.toNat = x.toNat % y.toNat)) ∧
  divS (BitVec.ofInt 64 (-7)) 2#64 = BitVec.ofInt 64 (-3) ∧ remS (BitVec.ofInt 64 (-7)) 2#64 = BitVec.ofInt 64 (-1) ∧
  divN 0xFFFFFFFFFFFFFFF9#64 2#64 = 0x7FFFFFFFFFFFFFFC#64


/-- R137 and R138: CMP.cc writes all 256 bits of pd with its test, the predicate instructions work over 256 bits, and MOVP moves
64 bits or spreads one; a poisoned guard or source poisons the result. R139: the immediate instructions, which have no guard;
SHI also reads its destination (R134). -/
def Obligations.PredicateAndImmediateResults : Prop :=
  (∀ (s : State) (g : Guard) (d a b : SReg) (pd pa pb : PReg) (q : BitVec 2), Executes s g →
     let x := s.rs a
     let y := s.rs b
     let gp := s.guardPois g
     let cmp (cc : BitVec 4) (t : Bool) : Prop :=
       exec (.cmpCc g cc pd a b) s
         = .next (s.hold 1 (.pred pd.toNat (if t then BitVec.allOnes 256 else 0#256) (gp || s.ps a || s.ps b)) none)
     let res (v : Pred) (p : Bool) : Out := .next (s.hold 1 (.pred pd.toNat v p) none)
     (cmp 0#4 (decide (x = y)) ∧ cmp 1#4 (decide (x ≠ y)) ∧ cmp 2#4 (decide (x.toInt < y.toInt)) ∧
       cmp 3#4 (decide (y.toInt ≤ x.toInt)) ∧ cmp 4#4 (decide (x.toNat < y.toNat)) ∧ cmp 5#4 (decide (y.toNat ≤ x.toNat)) ∧
       cmp 6#4 (decide (x &&& y ≠ 0#64)) ∧ cmp 7#4 (decide (x &&& y = 0#64))) ∧
     (∀ cc : BitVec 4, 8 ≤ cc.toNat → (Instr.cmpCc g cc pd a b).wf = false) ∧
     exec (.pand g pd pa pb) s = res (s.rp pa &&& s.rp pb) (gp || s.pp pa || s.pp pb) ∧
     exec (.por g pd pa pb) s = res (s.rp pa ||| s.rp pb) (gp || s.pp pa || s.pp pb) ∧
     exec (.pxor g pd pa pb) s = res (s.rp pa ^^^ s.rp pb) (gp || s.pp pa || s.pp pb) ∧
     exec (.pnot g pd pa) s = res (~~~ s.rp pa) (gp || s.pp pa) ∧
     exec (.movpPs g d pa q) s = .next (s.hold 1 (.scal d.toNat ((s.rp pa).extractLsb' (64 * q.toNat) 64) (gp || s.pp pa)) none) ∧
     (∃ v : Pred, exec (.movpSp g pd a q) s = res v (gp || s.ps a || s.pp pd) ∧
       v.extractLsb' (64 * q.toNat) 64 = x ∧
       ∀ i, i < 256 → i / 64 ≠ q.toNat → v.getLsbD i = (s.rp pd).getLsbD i) ∧
     exec (.movpBc g pd a) s = res (if x.getLsbD 0 = true then BitVec.allOnes 256 else 0#256) (gp || s.ps a)) ∧
  (∀ (s : State) (d a : SReg) (i13 : BitVec 13) (i18 : BitVec 18) (n : BitVec 6),
     let x := s.rs a
     let res (v : Word) (p : Bool) : Out := .next (s.hold 1 (.scal d.toNat v p) none)
     exec (.addi d a i13) s = res (x + i13.signExtend 64) (s.ps a) ∧
     exec (.andi d a i13) s = res (x &&& i13.signExtend 64) (s.ps a) ∧
     exec (.ori d a i13) s = res (x ||| i13.zeroExtend 64) (s.ps a) ∧
     exec (.xori d a i13) s = res (x ^^^ i13.zeroExtend 64) (s.ps a) ∧
     exec (.shli d a n) s = res (x <<< n) (s.ps a) ∧ exec (.shri d a n) s = res (x >>> n) (s.ps a) ∧
     (∃ v : Word, exec (.sari d a n) s = res v (s.ps a) ∧ v.toInt = x.toInt / 2 ^ n.toNat) ∧
     exec (.movi d i18) s = res (i18.signExtend 64) false ∧
     (∃ v : Word, exec (.shi d i18) s = res v (s.ps d) ∧ v.toNat = (s.rs d).toNat * 2 ^ 18 % 2 ^ 64 + i18.toNat))

/-- R133 with R102: s0 reads as zero and p0 as all ones, never poisoned and never carrying a token; a write of s0 or p0 lands
nowhere, and a predicate destination p0 is refused at decode. R95: a slot whose scalar guard is unpoisoned and false does
nothing, for every instruction with a scalar guard; guard p0 always executes, and inverted never does. -/
def Obligations.ConstantsAndNullifiedSlots : Prop :=
  ((∀ s : State, s.rs 0#5 = 0#64 ∧ s.ps 0#5 = false ∧ s.rp 0#3 = BitVec.allOnes 256 ∧ s.pp 0#3 = false) ∧
   (∀ (c : Ctx) (v : Word) (q : Pred) (p : Bool), (c.land (.scal 0 v p)).r = c.r ∧ (c.land (.pred 0 q p)).r = c.r ∧
     (c.land (.pois 0 0 p)).r = c.r ∧ (c.land (.pois 2 0 p)).r = c.r) ∧
   (∀ (s t : State) (kind : OpKind) (gp acq : Bool) (rel : Option Nat) (a : Nat),
     (∀ o ∈ s.ops, o.dest ≠ some (.s 0)) → t = s.issueOp kind (some (.s 0)) gp acq rel → t.tokened a (.s 0) = false) ∧
   (∀ (g : Guard) (cc : BitVec 4) (c2 : BitVec 2) (a b : SReg) (pa pb pg : PReg) (t : BitVec 3) (x y : VOp) (f : BitVec 2),
     (Instr.cmpCc g cc 0#3 a b).wf = false ∧ (Instr.pand g 0#3 pa pb).wf = false ∧ (Instr.por g 0#3 pa pb).wf = false ∧
     (Instr.pxor g 0#3 pa pb).wf = false ∧ (Instr.pnot g 0#3 pa).wf = false ∧ (Instr.movpSp g 0#3 a f).wf = false ∧
     (Instr.movpBc g 0#3 a).wf = false ∧ (Instr.vcmpCc c2 pg t 0#3 x y).wf = false ∧ (Instr.fcmpCc c2 pg t 0#3 x y).wf = false)) ∧
  ((∀ (i : Instr) (g : Guard) (s : State), guardOf i = some g → Nullified s g → exec i s = .next s) ∧
   (∀ s : State, Executes s ⟨0#3, false⟩ ∧ Nullified s ⟨0#3, true⟩))

/-- R141: a branch whose guard is true and whose sources are unpoisoned is taken: the target of BR and BRL is the bundle's header
plus four times the signed offset, that of BRS the span offset in its register; BRL and BRS link the offset of the sequential
successor at L + 1. A BRS target with bits [1:0] or [63:18] non-zero raises ILLEGAL. -/
def Obligations.BranchesAreTaken : Prop :=
  ∀ (s : State) (g : Guard) (d a : SReg) (off : BitVec 19),
    let to_ (v : Word) (t : State) : State := { t with issue := { t.issue with target := some v } }
    let link (r : Nat) (t : State) : State := t.hold 1 (.scal r (s.issue.next - s.base) false) none
    (Ready s g [] →
      exec (.br g off) s = .next (to_ (s.issue.pc + BitVec.ofInt 64 (4 * off.toInt)) s) ∧
      exec (.brl g off) s = .next (link 31 (to_ (s.issue.pc + BitVec.ofInt 64 (4 * off.toInt)) s))) ∧
    (Ready s g [a] → (s.rs a).toNat % 4 = 0 → (s.rs a).toNat < 2 ^ 18 →
      exec (.brs g d a) s = .next (link d.toNat (to_ (s.base + s.rs a) s))) ∧
    (Ready s g [a] → ((s.rs a).toNat % 4 ≠ 0 ∨ 2 ^ 18 ≤ (s.rs a).toNat) → exec (.brs g d a) s = .next (s.raise .illegal 0#64))


/-- R142: LOOP and LOOPI record for their bundle's commit the level that it arms and the count, when the level's entry is of kind
T and the body starts at the sequential successor; otherwise they raise ILLEGAL, and a poisoned count or guard raises POISON.
Nothing else changes. R142, R143: at its commit a bundle with a LOOP or LOOPI gives its level the count. Without a taken
branch the armed levels that end with the bundle are then processed innermost first: START descending, then the level
descending. Levels on their last trip are disarmed until one with trips left is counted down and entered again; with none, the
sequential successor follows, or, after a LOOP of count 0, the bundle after the END of its level. A taken branch wins and
leaves every count as it is (R141). What a LOOP of count 0 in the END bundle of another armed level does (that level is
processed, and its jump back wins) is the model's reading, assumption log 19. -/
def Obligations.LoopsRun : Prop :=
  (∀ (s : State) (g : Guard) (n : BitVec 2) (a : SReg) (count : BitVec 13),
     let e := s.c.loopEntry n.toNat
     let fits := bits e 62 2 = 1 ∧ s.issue.next = s.base + toWord (4 * bits e 0 16)
     let armed (v : Word) : Out := .next { s with issue := { s.issue with arm := some (n.toNat, v) } }
     (fits → (Ready s g [a] → exec (.loop g n a) s = armed (s.rs a)) ∧ exec (.loopi n count) s = armed (count.zeroExtend 64)) ∧
     (Executes s g → s.guardPois g = true ∨ s.ps a = true → exec (.loop g n a) s = .next (s.raise .poison 0#64)) ∧
     (¬ fits → (Ready s g [a] → exec (.loop g n a) s = .next (s.raise .illegal 0#64)) ∧
       exec (.loopi n count) s = .next (s.raise .illegal 0#64))) ∧
  (∀ s : State,
     let t := s.nextPc
     let c := s.c
     let word := (s.issue.pc - s.base).toNat / 4
     let count (n : Nat) : Word := match s.issue.arm with
       | some (m, v) => if n = m then v else c.lcntOf n
       | none => c.lcntOf n
     let header (n : Nat) : Header := Header.of (s.imemWord (coreOf s.who) (s.base + toWord (4 * c.loopEnd n)).toNat)
     let follows : Word := match s.issue.arm with
       | some (m, v) => if v = 0#64 then s.base + toWord (4 * c.loopEnd m) + toWord (4 * (1 + maskCount (header m).pmask)) else s.issue.next
       | none => s.issue.next
     (∀ v, s.issue.target = some v → t.c.f.pc = v ∧ ∀ n, t.c.lcntOf n = count n) ∧
     (s.issue.target = none →
       ∃ done rest : List Nat,
         (∀ n, n ∈ done ++ rest ↔ n < 4 ∧ count n ≠ 0#64 ∧ bits (c.loopEntry n) 62 2 = 1 ∧ c.loopEnd n = word) ∧
         (done ++ rest).Pairwise (fun m n => c.loopStart n < c.loopStart m ∨ (c.loopStart n = c.loopStart m ∧ n < m)) ∧
         (∀ n ∈ done, count n = 1#64 ∧ t.c.lcntOf n = 0#64) ∧
         (match rest with
           | [] => t.c.f.pc = follows
           | n :: _ => 1#64 < count n ∧ t.c.lcntOf n = count n - 1#64 ∧ t.c.f.pc = s.base + toWord (4 * c.loopStart n)) ∧
         ∀ n, n ∉ done → rest.head? ≠ some n → t.c.lcntOf n = count n))

/-- R121, R144 to R146, R150 to R152, R160, R434: what PPT, YIELD, EXIT, TRAP, SVC, ERET and HALT ask for at the commit of their
bundle; nothing else changes at their issue. PPT voids the ring and takes a pending STOP at the commit, a bundle without one
leaves the STOP (R144). YIELD gives up the issue slot at its commit, with its energy charged, and does nothing else (R145).
EXIT in handler mode and ERET outside it raise ILLEGAL, HALT of a tenant PRIV. R147, R153, R156: TSTAMP and TSTAMP.SET (the
stamp is (L + TSOFF) mod 2^32 with the frozen LCC in a handler), FCR.SET (in force at L + 4, by the mask of its fields) and
FCR.GET, and POIS, under a guard that runs. POIS under a poisoned guard leaves its result poisoned. -/
def Obligations.PointsStampAndFormat : Prop :=
  (∀ (s : State) (imm : BitVec 18),
     let at_ (a : After) : Out := .next { s with issue := { s.issue with after := a } }
     (encode .yield = some 0x23000000#32 ∧ (s.slotOwner (coreOf s.who) ≠ some s.who → s.afterCommit .yield = s) ∧
       (s.slotOwner (coreOf s.who) = some s.who →
         s.afterCommit .yield = (s.chargeSlot (coreOf s.who)).updCore (coreOf s.who) fun u => { u with owner := 5 + s.who % 4 })) ∧
     (s.c.f.pend = [] → ∀ b t, t = s.commitBundle b →
       (s.issue.after = .ppt → (∀ q, t.c.f.readQ q = PVec.zero) ∧ t.c.y.stop = s.c.y.stop.map fun q => { q with atPpt := true }) ∧
       (s.issue.after ≠ .ppt → t.c.y.stop = s.c.y.stop)) ∧
     exec .ppt s = at_ .ppt ∧ exec .yield s = at_ .yield ∧ exec (.trap imm) s = at_ (.trap imm) ∧
     exec (.svc imm) s = at_ (.svc imm) ∧
     (s.c.e.hm = false → exec .exit s = at_ .exit ∧ exec .eret s = .next (s.raise .illegal 0#64)) ∧
     (s.c.e.hm = true → exec .eret s = at_ .eret ∧ exec .exit s = .next (s.raise .illegal 0#64)) ∧
     (s.c.y.sup = true → exec .halt s = at_ .halt) ∧
     (s.c.y.sup = false → exec .halt s = .next (s.raise .priv 0#64))) ∧
  (∀ (s : State) (g : Guard) (d a : SReg) (fields : BitVec 4) (kind : BitVec 2) (x : BitVec 5),
     let y := s.c.y
     let scal (n : Nat) (v : Word) (p : Bool) (t : State) : State := t.hold n (.scal d.toNat v p) none
     (Ready s g [] →
       exec (.tstamp g d) s = .next (scal 1 (toWord ((s.c.f.lcc.toNat + y.tsoff.toNat) % 2 ^ 32)) false s) ∧
       exec (.fcrGet g d) s = .next (scal 2 y.fcr false s)) ∧
     (Ready s g [a] →
       exec (.tstampSet g d a) s
         = .next ((scal 1 (y.tsoff.zeroExtend 64) false s).hold 1 (.sys 0x007 (toWord ((s.rs a).toNat % 2 ^ 32))) none) ∧
       ∃ m : Word, exec (.fcrSet g a fields) s = .next (s.hold 4 (.fcr m (s.rs a)) none) ∧
         ∀ i, i < 64 → m.getLsbD i =
           ((decide (i < 2) && fields.getLsbD 0) || (decide (i = 2) && fields.getLsbD 1) ||
             (decide (i = 3) && fields.getLsbD 2) || (decide (8 ≤ i ∧ i < 16) && fields.getLsbD 3))) ∧
     (∀ (c : Ctx) (m v : Word), (c.land (.fcr m v)).y.fcr = ((c.y.fcr &&& ~~~ m) ||| (v &&& m))) ∧
     (Executes s g →
       (∃ v : Word, exec (.poisTest g kind d x) s = .next (scal 1 v (s.guardPois g) s) ∧
         (kind = 0#2 → v = toWord (boolNat (s.c.r.poisS x.toNat))) ∧
         (kind = 1#2 → v = (s.c.r.readV x.toNat).p.zeroExtend 64) ∧
         (kind = 2#2 → v = toWord (boolNat (s.c.r.poisP x.toNat)))) ∧
       exec (.poisClr g kind x) s = .next (s.hold 1 (.pois kind.toNat x.toNat (s.guardPois g)) none) ∧
       exec (.poisSet g kind x) s = .next (s.hold 1 (.pois kind.toNat x.toNat true) none)))

/-- R114, R115: an elastic operation is queued with its operands and a fresh serial number, its destination carries a token until
it arrives, and nothing else changes but the bundle's count of elastic operations; s0 carries none. A release is issued so
when no earlier access that its scope holds is still to be performed (R342), an access of another package when an entry of the
fabric is free (R379). A blocking instruction leaves its agent blocked on the operation, beside what else blocks it. -/
def Obligations.ElasticOperationsAreQueued : Prop :=
  ∀ (s : State) (kind : OpKind) (dest : Option Res) (gp acq : Bool) (rel : Option Nat),
    (s.fab.entries.length < 1024 ∨ ∀ va, Loc.glob va ∉ kind.locs) → (∀ c, rel = some c → Unheld s c) →
    ∃ o : Op, o.id = s.serial ∧ o.agent = s.who ∧ o.owner = s.ownerOf s.who ∧ o.kind = kind ∧ o.gp = gp ∧ o.acq = acq ∧
      o.rel = rel ∧ o.phase = .issued ∧ o.cyc = s.issueCycle ∧ o.pos = s.issue.pos ∧ o.result = [] ∧ o.units = [] ∧
      o.bun = s.issue.serial0 ∧
      (dest = some (.s 0) → o.dest = none) ∧ (dest ≠ some (.s 0) → o.dest = dest) ∧
      s.issueOp kind dest gp acq rel
        = { s with ops := s.ops ++ [o], serial := s.serial + 1, issue := { s.issue with elastic := s.issue.elastic + 1 } } ∧
      (∀ r, o.dest = some r → (s.issueOp kind dest gp acq rel).tokened s.who r = true) ∧
      ∀ w, ∃ b : Block, ((s.issueOp kind dest gp acq rel).block w).c.f.blocked = s.c.f.blocked ++ [b] ∧
        b.wait = w o.id ∧ b.redo = false ∧ b.slot = s.issue.word ∧ b.pos = s.issue.pos ∧ b.cyc = s.issueCycle


/-- R148 with R104, R134, R152: SREAD answers the register's value at L + 2, SWRITE writes at L + 1 (FCR at L + 4, by every
field); a tenant's access to a register of supervisors raises PRIV, a poisoned source POISON, and EPC outside handler mode is
ignored. That PRIV is checked before POISON is assumption log 20. R154, R155, R158, R159: PAN.ACK and PAN.READ issue their
operation; PREEMPT, CTX.SAVE and CTX.LOAD of a supervisor issue theirs and block, with the operands that the rules name; a
tenant's raise PRIV, and an image address that is no multiple of 256 raises ILLEGAL. -/
def Obligations.SystemInstructions : Prop :=
  (∀ (s : State) (d a : SReg) (num : BitVec 12),
     (SysReg.open s.c.y.sup num.toNat = true →
       exec (.sread d num) s
         = .next (s.hold 2 (.scal d.toNat (s.sysRead s.who num.toNat) false) none).ticked) ∧
     (SysReg.open s.c.y.sup num.toNat = false →
       exec (.sread d num) s = .next (s.raise .priv 0#64) ∧ exec (.swrite num a) s = .next (s.raise .priv 0#64)) ∧
     (SysReg.open s.c.y.sup num.toNat = true → s.ps a = true → exec (.swrite num a) s = .next (s.raise .poison 0#64)) ∧
     (SysReg.open s.c.y.sup num.toNat = true → s.ps a = false →
       (s.swriteBad s.who num.toNat (s.rs a) = true → exec (.swrite num a) s = .next (s.raise .illegal 0#64)) ∧
       (s.swriteBad s.who num.toNat (s.rs a) = false →
         (num = 0x002#12 → exec (.swrite num a) s = .next (s.hold 4 (.fcr 0xFF0F#64 (s.rs a)) none)) ∧
         (num = 0x019#12 → s.c.e.hm = false → exec (.swrite num a) s = .next s) ∧
         (num ≠ 0x002#12 → ¬ (num = 0x019#12 ∧ s.c.e.hm = false) →
           exec (.swrite num a) s = .next (s.hold 1 (.sys num.toNat (s.rs a)) none))))) ∧
  (∀ (s : State) (g : Guard) (d a b : SReg) (sel : BitVec 2),
     let op (k : OpKind) : State := s.issueOp k (some (.s d.toNat)) false false none
     let x := (s.rs a).toNat % 2048
     let pre (m : Nat) : OpKind := .preempt m x ((s.rs b).toNat % 2 ^ 20) ((s.rs a).getLsbD 11)
     (Ready s g [] → exec (.panAck g d) s = .next (op .panAck)) ∧
     (Ready s g [a] → exec (.panRead g d a sel) s = .next (op (.panRead (s.rs a).toNat sel.toNat))) ∧
     (Ready s g [a, b] → s.c.y.sup = true →
       exec (.preemptStop g d a b) s = .next ((op (pre 0)).block .op) ∧
       exec (.preemptResume g d a b) s = .next ((op (pre 1)).block .op) ∧
       exec (.preemptState g d a b) s = .next ((op (pre 2)).block .op) ∧
       ((s.rs b).toNat % 256 = 0 →
         exec (.ctxSave g d a b) s = .next ((op (.ctxSave x (s.rs b))).block .op) ∧
         exec (.ctxLoad g d a b) s = .next ((op (.ctxLoad x (s.rs b))).block .op)) ∧
       ((s.rs b).toNat % 256 ≠ 0 →
         exec (.ctxSave g d a b) s = .next (s.raise .illegal 0#64) ∧ exec (.ctxLoad g d a b) s = .next (s.raise .illegal 0#64))) ∧
     (Ready s g [a, b] → s.c.y.sup = false →
       exec (.preemptStop g d a b) s = .next (s.raise .priv 0#64) ∧ exec (.preemptResume g d a b) s = .next (s.raise .priv 0#64) ∧
       exec (.preemptState g d a b) s = .next (s.raise .priv 0#64) ∧ exec (.ctxSave g d a b) s = .next (s.raise .priv 0#64) ∧
       exec (.ctxLoad g d a b) s = .next (s.raise .priv 0#64)))

/-- R134 and R278: every instruction that consumes its sources, each with its guard and the sources that it consumes, raises
POISON when one of them is poisoned, unless its guard is unpoisoned and false, and nothing else happens. The instructions of
supervisors are those of a supervisor here, and those of a FEATURE group that is decided at execution have it. The vector
instructions that consume their data do so once their guard and scalar sources are clean. SWRITE has no guard. -/
def Obligations.PoisonedSourcesTrap : Prop :=
  ∀ (s : State) (g : Guard) (d a b c : SReg) (v x : VReg) (n : BitVec 3) (w k : BitVec 2) (o6 : BitVec 6) (o2 : BitVec 2)
    (off : BitVec 19) (num : BitVec 12) (p q j : Bool), Executes s g →
    let poison : Out := .next (s.raise .poison 0#64)
    let traps (srcs : List SReg) (i : Instr) : Prop := s.guardPois g = true ∨ (∃ r ∈ srcs, s.ps r = true) → exec i s = poison
    (traps [] (.br g off) ∧ traps [] (.brl g off) ∧ traps [a] (.brs g d a) ∧ traps [a] (.loop g k a) ∧
      traps [] (.tstamp g d) ∧ traps [a] (.tstampSet g d a) ∧ traps [a] (.fcrSet g a (o2 ++ o2)) ∧ traps [] (.fcrGet g d) ∧
      traps [] (.panAck g d) ∧ traps [a] (.panRead g d a k)) ∧
    (SysReg.open s.c.y.sup num.toNat = true → s.ps a = true → exec (.swrite num a) s = poison) ∧
    (s.c.y.sup = true → traps [a, b] (.preemptStop g d a b) ∧ traps [a, b] (.preemptResume g d a b) ∧
      traps [a, b] (.preemptState g d a b) ∧ traps [a, b] (.ctxSave g d a b) ∧ traps [a, b] (.ctxLoad g d a b)) ∧
    (traps [a, b] (.sftLoad g d a b) ∧ traps [a] (.sftBind g d a k) ∧ traps [a] (.sftChk g d a)) ∧
    (traps [b, d] (.st g w p d b o6) ∧ traps [b, d] (.gst g w d b o6) ∧ traps [b, d] (.stRel g w p q n d b o2) ∧
      traps [b] (.vst g p v b o6) ∧ traps [b] (.vscatter g w p v b x) ∧ traps [] (.chpop g v n) ∧ traps [] (.chpopDrop g n) ∧
      traps [] (.chpush g n v) ∧ traps [b] (.chpushAb g n b) ∧ traps [b] (.chpushSp g n b) ∧ traps [] (.chstat g d n)) ∧
    (s.needFeat (if p then 0 else 11) = none →
      traps [b, c] (.aadd g k p q d b c) ∧ traps [b, c] (.aand g k p q d b c) ∧ traps [b, c] (.aor g k p q d b c) ∧
      traps [b, c] (.axor g k p q d b c) ∧ traps [b, c] (.amin g k p q d b c) ∧ traps [b, c] (.amax g k p q d b c) ∧
      traps [b, c] (.axch g k p q d b c) ∧ traps [b, c, c + 1#5] (.acas g k p q d b c) ∧ traps [b] (.adecp g k p q d b)) ∧
    (traps [b] (.amxacc g k w d b v) ∧ traps [] (.fence g n d) ∧ traps [b, c] (.waitv g q d b c) ∧ traps [b] (.notify g q d b) ∧
      traps [b, c] (.synAdd g d b c) ∧ traps [b, c] (.synWait g d b c) ∧ traps [b] (.synGet g d b) ∧ traps [] (.bar g q d)) ∧
    (((copyGeo (s.rs d) 0#64 false).dsp = 0 ∨ (copyGeo (s.rs d) 0#64 false).ssp = 0 → s.needFeat 7 = none) →
      traps [a, b, d] (.copy g p q a b d)) ∧
    (((copyGeo (s.rs d) (s.rs (d + 1#5)) true).dsp = 0 ∨ (copyGeo (s.rs d) (s.rs (d + 1#5)) true).ssp = 0 → s.needFeat 7 = none) →
      traps [a, b, d, d + 1#5] (.copyw g p q a b d)) ∧
    (traps [a, b] (.pref g p a b) ∧ traps [a, b, d] (.rowcpy g p q a b d) ∧ traps [a, b, d] (.rowinit g p q a b d)) ∧
    (s.needLad j = none → traps [a, b, d] (.ladRun g j a b d) ∧ traps [] (.ladStop g j) ∧ traps [] (.ladStat g d j)) ∧
    (s.needB16 = none → traps [] (.grdLease g) ∧ traps [] (.grdFree g) ∧ traps [a] (.grdWload g a) ∧ traps [a] (.grdScl g a) ∧
      traps [b] (.grdSclAll g b) ∧ traps [a, b, d] (.grdMul g p q a b d) ∧ traps [d] (.grdZero g d) ∧
      traps [a, d] (.grdDrain g p q a d) ∧ traps [a] (.grdChk g d a) ∧ traps [a, d] (.grdSave g p q a d) ∧
      traps [a, d] (.grdRest g p q a d) ∧ traps [a] (.grdStat g q d a)) ∧
    (traps [a, b, d, d + 1#5] (.send g w q a b d) ∧ traps [a, d, d + 1#5] (.sendv g q a v d) ∧ traps [a, d] (.rld g a d) ∧
      traps [a, d] (.rred g q a v d) ∧ traps [a] (.recv g v n a) ∧ traps [b] (.mldr g d v b) ∧ traps [a] (.fabStat g d a)) ∧
    (let bad (y : VReg) : Prop := (s.c.r.readV y.toNat).p ≠ 0#4
     (Ready s g [b] → bad v → exec (.vst g p v b o6) s = poison ∧ exec (.mldr g d v b) s = poison) ∧
     (Ready s g [b] → bad v ∨ bad x → exec (.vscatter g w p v b x) s = poison) ∧
     (Ready s g [a, d, d + 1#5] → bad v → exec (.sendv g q a v d) s = poison) ∧
     (Ready s g [a, d] → bad v → exec (.rred g q a v d) s = poison) ∧
     (Ready s g [b] → (s.c.r.readV v.toNat).p.getLsbD 0 = true → exec (.amxacc g k w d b v) s = poison))


/-- R194 to R196 and R204 (integer elements): results of each active element, inactive ones kept; lane-wise poison. Values wrap
modulo 2^(8w); VADDS and VSUBS clamp; a shift count of the width or more gives 0, or the sign for VSAR. -/
def Obligations.VectorIntegerResults : Prop :=
  ∀ (s : State) (pg pd : PReg) (t : BitVec 3) (d : VReg) (a b : VOp) (cc : BitVec 2), Clear s → HeadsReady s [a, b] →
    let w := intW t
    let m : Nat := 2 ^ (8 * w)
    let x (i : Nat) : Nat := s.el a w i
    let y (i : Nat) : Nat := s.el b w i
    let X (i : Nat) : Int := if t.toNat < 4 then signedOf (8 * w) (x i) else (x i : Int)
    let Y (i : Nat) : Int := if t.toNat < 4 then signedOf (8 * w) (y i) else (y i : Int)
    let lo : Int := if t.toNat < 4 then -(2 : Int) ^ (8 * w - 1) else 0
    let hi : Int := if t.toNat < 4 then (2 : Int) ^ (8 * w - 1) - 1 else (2 : Int) ^ (8 * w) - 1
    let wrap (v : Int) : Nat := (v % (m : Int)).toNat
    let ok (i : Instr) (n : Nat) (f : Nat → Nat) : Prop := Merges i s n [a, b] pg w d (LanePoison s pg w d [a, b] [] False) f
    ok (.vadd pg t d a b) 1 (fun i => (x i + y i) % m) ∧
    ok (.vsub pg t d a b) 1 (fun i => wrap ((x i : Int) - y i)) ∧
    ok (.vmul pg t d a b) 3 (fun i => x i * y i % m) ∧
    ok (.vmulh pg t d a b) 3 (fun i => wrap (X i * Y i / (m : Int))) ∧
    ok (.vmin pg t d a b) 1 (fun i => if X i ≤ Y i then x i else y i) ∧
    ok (.vmax pg t d a b) 1 (fun i => if X i ≤ Y i then y i else x i) ∧
    ok (.vand pg t d a b) 1 (fun i => x i &&& y i) ∧ ok (.vor pg t d a b) 1 (fun i => x i ||| y i) ∧
    ok (.vxor pg t d a b) 1 (fun i => x i ^^^ y i) ∧
    ok (.vshl pg t d a b) 1 (fun i => if y i < 8 * w then x i * 2 ^ y i % m else 0) ∧
    ok (.vshr pg t d a b) 1 (fun i => if y i < 8 * w then x i / 2 ^ y i else 0) ∧
    ok (.vsar pg t d a b) 1 (fun i => if y i < 8 * w then wrap (signedOf (8 * w) (x i) / 2 ^ y i)
      else if signedOf (8 * w) (x i) < 0 then m - 1 else 0) ∧
    ok (.vadds pg t d a b) 1 (fun i => wrap (max lo (min hi (X i + Y i)))) ∧
    ok (.vsubs pg t d a b) 1 (fun i => wrap (max lo (min hi (X i - Y i)))) ∧
    Tests (.vcmpCc cc pg t pd a b) s 1 [a, b] pg w pd (fun i =>
      (decide (cc = 0#2 ∧ x i = y i)) || (decide (cc = 1#2 ∧ x i ≠ y i)) || (decide (cc = 2#2 ∧ X i < Y i)) ||
        (decide (cc = 3#2 ∧ Y i ≤ X i)))


/-- R194 (VNOT), R203 to R205: NOT, moves, broadcasts, immediates, selections, immediate shifts (whose counts are below the width,
R204) and single elements; each with the guard, latency and poison of its row. -/
def Obligations.VectorMoveResults : Prop :=
  ∀ (s : State) (pg k : PReg) (t : BitVec 3) (d : VReg) (a b : VOp) (n m : SReg) (imm : BitVec 12) (c : BitVec 6),
    Clear s → HeadsReady s [a, b] →
    let w := intW t
    let M : Nat := 2 ^ (8 * w)
    let N := 256 / w
    let x (i : Nat) : Nat := s.el a w i
    let wrap (v : Int) : Nat := (v % (M : Int)).toNat
    let old := s.c.r.readV d.toNat
    Merges (.vnot pg t d a) s 1 [a] pg w d (LanePoison s pg w d [a] [] False) (fun i => M - 1 - x i) ∧
    Merges (.vmov pg t d a) s 1 [a] pg w d (LanePoison s pg w d [a] [] False) x ∧
    Merges (.vbcast pg t d n) s 1 [] pg w d (LanePoison s pg w d [] [n] False) (fun _ => (s.rs n).toNat % M) ∧
    Writes (.vimm t d imm) s 1 [] w N d (fun q => q = 0#4) (fun _ => wrap imm.toInt) ∧
    Writes (.vsel t d a b k) s 1 [a, b] w N d
      (fun q => ∀ g, g < 4 → (q.getLsbD g = true ↔
        s.pp k = true ∨ (s.vop a).p.getLsbD g = true ∨ (s.vop b).p.getLsbD g = true))
      (fun i => if active (s.rp k) w i then x i else s.el b w i) ∧
    (c.toNat < 8 * w →
      Writes (.vshli t d a c) s 1 [a] w N d (fun q => q = (s.vop a).p) (fun i => x i * 2 ^ c.toNat % M) ∧
      Writes (.vshri t d a c) s 1 [a] w N d (fun q => q = (s.vop a).p) (fun i => x i / 2 ^ c.toNat) ∧
      Writes (.vsari t d a c) s 1 [a] w N d (fun q => q = (s.vop a).p) (fun i => wrap (signedOf (8 * w) (x i) / 2 ^ c.toNat))) ∧
    Extracts (.vext t n a m) s 2 [a] n
      (intWord (let e := x ((s.rs m).toNat % N); if t.toNat < 4 then signedOf (8 * w) e else (e : Int)))
      (s.ps m = true ∨ (s.vop a).p ≠ 0#4) ∧
    Writes (.vins t d n m) s 2 [] w N d (CrossPoison s [] [old.p] [] [n, m])
      (fun i => if i = (s.rs m).toNat % N then (s.rs n).toNat % M else elemOf old.v w i)


/-- R206 and R207: permutes, slides, rotations and the pair instructions; a count of N or more gives zeros for the slides, and the
old destinations are sources, under p0 too (R189). -/
def Obligations.VectorPermuteResults : Prop :=
  ∀ (s : State) (pg : PReg) (t : BitVec 3) (d : VReg) (a b : VOp) (n : SReg), Clear s → HeadsReady s [a, b] →
    let w := intW t
    let N := 256 / w
    let h := N / 2
    let k := (s.rs n).toNat
    let x (i : Nat) : Nat := s.el a w i
    let y (i : Nat) : Nat := s.el b w i
    let old (r : Nat) : List (BitVec 4) := [(s.c.r.readV r).p]
    let shift (i : Instr) (f : Nat → Nat) : Prop := Merges i s 2 [a] pg w d (CrossPoison s [pg] (old d.toNat) [a] [n]) f
    let pair (i : Instr) (f g : Nat → Nat) : Prop := ∃ u v q,
      exec i s = .next (((reading s [a, b]).holdV 2 d ⟨u, q⟩).hold 2 (.vec (d.toNat + 1) v q) none) ∧
      Merged (s.rp pg) w (s.c.r.readV d.toNat).v u f ∧ Merged (s.rp pg) w (s.c.r.readV (d.toNat + 1)).v v g ∧
      CrossPoison s [pg] (old d.toNat ++ old (d.toNat + 1)) [a, b] [] q
    Merges (.vperm pg t d a b) s 2 [a, b] pg w d (CrossPoison s [pg] (old d.toNat) [a, b] []) (fun i => x (y i % N)) ∧
    shift (.vslideUp pg t d a n) (fun i => if k ≤ i then x (i - k) else 0) ∧
    shift (.vslideDn pg t d a n) (fun i => if i + k < N then x (i + k) else 0) ∧
    shift (.vrot pg t d a n) (fun i => x ((i + k) % N)) ∧
    pair (.vzip pg t d a b) (fun i => if i % 2 = 0 then x (i / 2) else y (i / 2))
      (fun i => if i % 2 = 0 then x (h + i / 2) else y (h + i / 2)) ∧
    pair (.vunzip pg t d a b) (fun i => if i < h then x (2 * i) else y (2 * (i - h)))
      (fun i => if i < h then x (2 * i + 1) else y (2 * (i - h) + 1)) ∧
    pair (.vtrn pg t d a b) (fun i => if i % 2 = 0 then x i else y (i - 1))
      (fun i => if i % 2 = 0 then x (i + 1) else y i)


/-- R208, R211 to R214: integer reductions over the active elements, running sums, byte dot products, the hash and the counts of
predicates. With no active element VRADD gives 0, VRMIN the type's maximum and VRMAX its minimum. -/
def Obligations.VectorReductionResults : Prop :=
  ∀ (s : State) (pg pa : PReg) (t : BitVec 3) (d : VReg) (a b : VOp) (n : SReg), Clear s → HeadsReady s [a, b] →
    let w := intW t
    let M : Nat := 2 ^ (8 * w)
    let N := 256 / w
    let on := (List.range N).filter (active (s.rp pg) w)
    let both := (List.range N).filter fun i => active (s.rp pg) w i && active (s.rp pa) w i
    let val (e : Nat) : Int := if t.toNat < 4 then signedOf (8 * w) e else (e : Int)
    let red (i : Instr) (P : Nat → Prop) : Prop := ∃ r, P r ∧
      Writes i s 4 [a] w N d (CrossPoison s [pg] [] [a] []) (fun j => if j = 0 then r else 0)
    let old := s.c.r.readV d.toNat
    let byte (o : VOp) (i : Nat) : Int := if t = 2#3 then signedOf 8 (s.el o 1 i) else (s.el o 1 i : Int)
    red (.vradd pg t d a) (fun r => r = (on.map (s.el a w)).sum % M) ∧
    red (.vrmin pg t d a) (fun r => (on = [] → r = if t.toNat < 4 then M / 2 - 1 else M - 1) ∧
      (on ≠ [] → (∃ i ∈ on, r = s.el a w i) ∧ ∀ i ∈ on, val r ≤ val (s.el a w i))) ∧
    red (.vrmax pg t d a) (fun r => (on = [] → r = if t.toNat < 4 then M / 2 else 0) ∧
      (on ≠ [] → (∃ i ∈ on, r = s.el a w i) ∧ ∀ i ∈ on, val (s.el a w i) ≤ val r)) ∧
    Merges (.vscanAdd pg t d a) s 6 [a] pg w d (CrossPoison s [pg] [old.p] [a] [])
      (fun i => ((on.filter (decide <| · ≤ i)).map (s.el a w)).sum % M) ∧
    (t = 2#3 ∨ t = 6#3 →
      Merges (.vdot4 pg t d a b) s 4 [a, b] pg 4 d (LanePoison s pg 4 d [a, b] [] True) (fun i =>
        (((elemOf old.v 4 i : Int) + byte a (4 * i) * byte b (4 * i) + byte a (4 * i + 1) * byte b (4 * i + 1)
          + byte a (4 * i + 2) * byte b (4 * i + 2) + byte a (4 * i + 3) * byte b (4 * i + 3)) % 2 ^ 32).toNat) ∧
      Merges (.vhash pg t d a b) s 3 [a, b] pg 4 d (LanePoison s pg 4 d [a, b] [] False) (fun i =>
        let h0 : BitVec 32 := BitVec.ofNat 32 (s.el a 4 i) + BitVec.ofNat 32 (s.el b 4 i) * 0x8B314E2D#32
        let h1 := (h0 ^^^ (h0 >>> 15)) * 0x3A9F5C71#32
        (h1 ^^^ (h1 >>> 13)).toNat)) ∧
    Extracts (.pcnt pg t n pa) s 2 [] n (toWord both.length) (s.pp pa = true ∨ s.pp pg = true) ∧
    Extracts (.pfirst pg t n pa) s 2 [] n (toWord (both.headD N)) (s.pp pa = true ∨ s.pp pg = true)


/-- R197 to R202: floating elements. Each arithmetic result is one rounding, under FCR, of the exact value; FMA and its kin read
the old element as a source of every element. FMIN, FMAX, FABS, FNEG, FCLASS and FCMP.cc as their rows say. R209 and R210:
FRADD adds the active elements in the fixed pairwise tree, FRMIN and FRMAX fold them with the rules of FMIN and FMAX; element
0 takes the result, the rest is zero. With no active element the results are +0, +Inf and −Inf. -/
def Obligations.FloatResults : Prop :=
  (∀ (s : State) (pg pd : PReg) (t : BitVec 3) (d : VReg) (a b : VOp) (cc : BitVec 2), t.toNat < 3 → Clear s →
     HeadsReady s [a, b] →
     let F : FFmt := if t = 0#3 then .f32 else if t = 1#3 then .bf16 else .f16
     let w := if t = 0#3 then 4 else 2
     let fcr := s.c.y.fcr
     let mode := RMode.of (bits fcr 0 2)
     let ftz := fcr.getLsbD 2
     let x (i : Nat) : Nat := s.el a w i
     let y (i : Nat) : Nat := s.el b w i
     let X (i : Nat) : FVal := F.operand ftz (x i)
     let Y (i : Nat) : FVal := F.operand ftz (y i)
     let Z (i : Nat) : FVal := F.operand ftz (elemOf (s.c.r.readV d.toNat).v w i)
     let rnd (v : FVal) : Nat := F.encode mode true ftz v
     let two (i : Instr) (n : Nat) (whole : Prop) (f : Nat → Nat) : Prop :=
       Merges i s n [a, b] pg w d (LanePoison s pg w d [a, b] [] whole) f
     let one (i : Instr) (f : Nat → Nat) : Prop := Merges i s 2 [a] pg w d (LanePoison s pg w d [a] [] False) f
     two (.fadd pg t d a b) 4 False (fun i => rnd ((X i).add mode (Y i))) ∧
     two (.fsub pg t d a b) 4 False (fun i => rnd ((X i).add mode (Y i).neg)) ∧
     two (.fmul pg t d a b) 4 False (fun i => rnd ((X i).mul (Y i))) ∧
     two (.fma pg t d a b) 4 True (fun i => rnd (((X i).mul (Y i)).add mode (Z i))) ∧
     two (.fms pg t d a b) 4 True (fun i => rnd (((X i).mul (Y i)).add mode (Z i).neg)) ∧
     two (.fnma pg t d a b) 4 True (fun i => rnd (((X i).mul (Y i)).neg.add mode (Z i).neg)) ∧
     two (.fnms pg t d a b) 4 True (fun i => rnd (((X i).mul (Y i)).neg.add mode (Z i))) ∧
     two (.fmin pg t d a b) 2 False (fun i => F.pick false (F.flush ftz (x i)) (F.flush ftz (y i))) ∧
     two (.fmax pg t d a b) 2 False (fun i => F.pick true (F.flush ftz (x i)) (F.flush ftz (y i))) ∧
     one (.fabs pg t d a) (fun i => if F.isNan (x i) then F.nanCode.getD 0 else x i % 2 ^ (8 * w - 1)) ∧
     one (.fneg pg t d a) (fun i => if F.isNan (x i) then F.nanCode.getD 0 else (x i + 2 ^ (8 * w - 1)) % 2 ^ (8 * w)) ∧
     one (.fclass pg t d a) (fun i => 2 ^ F.classBit (x i)) ∧
     one (.frnd pg t d a) (fun i => rnd (match X i with
       | .fin n m e => .fin n (rndMag mode n m e) 0
       | v => v)) ∧
     two (.fscale pg t d a b) 2 False (fun i => rnd (match X i with
       | .fin n m e => .fin n m (if m = 0 then e else e + signedOf (8 * w) (y i))
       | v => v)) ∧
     Tests (.fcmpCc cc pg t pd a b) s 2 [a, b] pg w pd (fun i =>
       if cc = 0#2 then (X i).eq (Y i) else if cc = 1#2 then (X i).lt (Y i) else if cc = 2#2 then (X i).lt (Y i) || (X i).eq (Y i)
       else F.isNan (x i) || F.isNan (y i))) ∧
  (∀ (s : State) (pg : PReg) (t : BitVec 3) (d : VReg) (a : VOp), t.toNat < 3 → Clear s → HeadsReady s [a] →
     let F : FFmt := if t = 0#3 then .f32 else if t = 1#3 then .bf16 else .f16
     let w := if t = 0#3 then 4 else 2
     let N := 256 / w
     let mode := RMode.of (bits s.c.y.fcr 0 2)
     let ftz := s.c.y.fcr.getLsbD 2
     let leaf (i : Nat) : Option Nat := if active (s.rp pg) w i then some (F.flush ftz (s.el a w i)) else none
     let plus (x y : Nat) : Nat := F.encode mode true ftz ((F.value x).add mode (F.value y))
     let join (x y : Option Nat) : Option Nat := match x, y with
       | some x, some y => some (plus x y)
       | some x, none => some x
       | none, y => y
     let on := (List.range N).filter (active (s.rp pg) w)
     let red (i : Instr) (n : Nat) (r : Nat) : Prop :=
       Writes i s n [a] w N d (CrossPoison s [pg] [] [a] []) (fun j => if j = 0 then r else 0)
     (∃ r, red (.fradd pg t d a) 8 r ∧ (on = [] → r = 0) ∧
       ∀ tree : Nat → Nat → Option Nat, (∀ lo, tree lo 0 = leaf lo) →
         (∀ lo k, tree lo (k + 1) = join (tree lo k) (tree (lo + 2 ^ k) k)) →
         ∀ k, 2 ^ k = N → ∀ x, tree 0 k = some x → r = if F.isNan x then F.nanCode.getD 0 else x) ∧
     (∃ r, red (.frmin pg t d a) 4 r ∧ (on = [] → some r = F.infCode) ∧
       ((∃ i ∈ on, F.isNan (s.el a w i) = true) → some r = F.nanCode) ∧
       (on ≠ [] → (∀ i ∈ on, F.isNan (s.el a w i) = false) →
         (∃ i ∈ on, r = F.flush ftz (s.el a w i)) ∧ ∀ i ∈ on, (F.value (F.flush ftz (s.el a w i))).lt (F.value r) = false)) ∧
     (∃ r, red (.frmax pg t d a) 4 r ∧ (on = [] → some r = F.infCode.map (F.signed true)) ∧
       ((∃ i ∈ on, F.isNan (s.el a w i) = true) → some r = F.nanCode) ∧
       (on ≠ [] → (∀ i ∈ on, F.isNan (s.el a w i) = false) →
         (∃ i ∈ on, r = F.flush ftz (s.el a w i)) ∧ ∀ i ∈ on, (F.value r).lt (F.value (F.flush ftz (s.el a w i))) = false)))

/-- R216 to R219: the conversions write their destination whole at their latency with cross-lane poison; elements convert in
order, and the bytes above the last one are zero. MXPACK and B16PACK lay the runs out from byte 0 and the scales from byte
248. -/
def Obligations.ConversionResults : Prop :=
  ∀ (s : State) (d : VReg) (a : VOp) (dty sty : BitVec 4) (et : BitVec 3) (bf : Bool) (rm : BitVec 2) (defer ov : Bool) (ty : ElTy),
    Clear s → HeadsReady s [a] → ElTy.of et.toNat = some ty →
    let fcr := s.c.y.fcr
    let mode := if defer then RMode.of (bits fcr 0 2) else RMode.of rm.toNat
    let ieee := if defer then fcr.getLsbD 3 else ov
    let ftz := fcr.getLsbD 2
    let ds := (CvtTy.of dty).bytes
    let ss := (CvtTy.of sty).bytes
    let Q := CrossPoison s [] [] [a] []
    let F : FFmt := if bf then .bf16 else .f32
    let blk (f : FFmt) (y : ElTy) (e : Bool) (b : Nat) : Nat × List Nat :=
      packBlock y mode e ((List.range 32).map fun i => f.operand ftz (s.el a f.bytes (32 * b + i)))
    let packs (i : Instr) (f : FFmt) (y : ElTy) (e : Bool) : Prop := ∃ v q, exec i s = .next ((reading s [a]).holdV 5 d ⟨v, q⟩) ∧ Q q ∧
      (∀ b k, b < 8 / f.bytes → k < 32 →
        natBits v.toNat (8 * y.runBytes * b + y.bitWidth * k) y.bitWidth = ((blk f y e b).2.getD k 0) % 2 ^ y.bitWidth) ∧
      (∀ b, b < 8 / f.bytes → elemOf v 1 (248 + b) = (blk f y e b).1)
    Writes (.cvt d a dty sty rm defer ov) s 3 [a] ds (256 / max ss ds) d Q
      (fun i => cvtElem (CvtTy.of dty) (CvtTy.of sty) mode ieee ftz (s.el a ss i) % 2 ^ (8 * ds)) ∧
    (ty ≠ .i16 → packs (.mxpack d a et bf rm defer ov) F ty ieee) ∧
    Writes (.mxunpack d a et bf rm defer) s 3 [a] F.bytes (256 / F.bytes) d Q
      (fun i => F.encode mode true ftz (blockElem ty (elemOf (s.vop a).v 1 (248 + i / 32))
        (ty.pick (natBits (s.vop a).v.toNat (8 * ty.runBytes * (i / 32)) (8 * ty.runBytes)) (i % 32)))) ∧
    packs (.b16pack d a rm defer) .f32 .i16 false


/-- R277, R247, R248, R65: where an access to AB or SP goes. The address is aligned down to min(z, 64); its bytes must lie in the
space, in one slice, and, for a tenant, in its partition's window; else the access fails with WINDOW, or with PAIRSLICE in the
second slice of a protected pair. A failure is known with the slice that its address names: the own one, or another. -/
def Obligations.AccessesArePlaced : Prop :=
  ∀ (s : State) (sp : Bool) (n : Nat) (va : Word), let z := 2 ^ n
    n ≤ 8 →
    let q := s.reqOf s.who
    let k := coreOf s.who
    let a := va.toNat - va.toNat % min z 64
    let w := s.reg 0 ((if sp then 0x8B0 else 0x8A0) + q.part)
    let off := a % 2 ^ 20
    let core := clusterOf k * 64 + a / 2 ^ 20
    let windowed := q.sup = true ∨ (65536 * bits w 0 5 ≤ off ∧ off + z ≤ 65536 * bits w 8 5)
    (alignTo z va).toNat = a ∧
    (sp = false → a + z ≤ 2 ^ 20 → windowed → s.spot sp z va = .own (k * 2 ^ 20 + a)) ∧
    (sp = false → (2 ^ 20 < a + z ∨ ¬ windowed) → s.spot sp z va = .bad 7 false) ∧
    (sp = true → a < 2 ^ 26 → off + z ≤ 2 ^ 20 → windowed →
      (core = k → s.spot sp z va = .own (k * 2 ^ 20 + off)) ∧
      (core ≠ k → s.spot sp z va = if s.pairSecond core then .bad 8 true else .other (core * 2 ^ 20 + off))) ∧
    (sp = true → (2 ^ 26 ≤ a ∨ 2 ^ 20 < off + z ∨ ¬ windowed) → s.spot sp z va = .bad 7 (decide (a < 2 ^ 26 ∧ core ≠ k)))


/-- R278, R280, R283, R352: LD, GLD and LD.ACQ. A poisoned base gives poisoned zero and no access; own memory answers at L + 3
with the little-endian bytes, those of a poisoned line as zero, poisoned then and under a poisoned guard; another slice and
global memory answer elastically; a faulting access posts its record and gives poisoned zero, elastically where its address
names another slice. An earlier bundle's operation on the same bytes stalls the load. Which translation a load uses is
assumption log 10. -/
def Obligations.ScalarLoads : Prop :=
  ∀ (s : State) (g : Guard) (w : BitVec 2) (sp : Bool) (d b : SReg) (off : BitVec 6) (o2 : BitVec 2), Executes s g → NoRace s →
    let z := 2 ^ w.toNat
    let va (n : Nat) : Word := s.rs b + toWord (n * z) + s.issue.doff
    let zero (n : Nat) (t : State) : Out := .next (t.hold n (.scal d.toNat 0#64 true) none)
    let read (t : State) (l : Option Loc) (acq : Bool) : Out :=
      .next (t.issueOp (.read [l] z false d.toNat) (some (.s d.toNat)) (s.guardPois g) acq none)
    let onDie (i : Instr) (a : Word) (acq : Bool) : Prop :=
      (∀ k, s.spot sp z a = .own k → RaceFree s sp false true k z →
        (Unqueued s sp k z →
          ∃ v p, exec i s = .next ((banked (noted s sp k z) sp false false k z).hold 3 (.scal d.toNat v p) none) ∧
            (∀ j, j < z → v.toNat / 256 ^ j % 256 = loadedByte s sp k j) ∧
            v.toNat < 256 ^ z ∧ (p = true ↔ s.guardPois g = true ∨ (s.rawLoads k = false ∧ Tainted (s.bankAS sp) k z))) ∧
        (¬ Unqueued s sp k z → ∃ t, exec i s = .next t ∧ t.issue.stall ≠ none)) ∧
      (∀ k, s.spot sp z a = .other k → RaceFree s sp false true k z → exec i s = read s (some (locAS sp k)) acq) ∧
      (∀ c far t, s.spot sp z a = .bad c far → t = s.postAccess (s.reqOf s.who) c 0 (onDieAddr sp z a) →
        exec i s = if far then read t none acq else zero 3 t)
    (s.ps b = true →
      exec (.ld g w sp d b off) s = zero 3 s ∧ exec (.gld g w d b off) s = zero 1 s ∧
      exec (.ldAcq g w sp false d b o2) s = zero 3 s ∧ exec (.ldAcq g w false true d b o2) s = zero 1 s) ∧
    (s.ps b = false →
      onDie (.ld g w sp d b off) (va off.toNat) false ∧ onDie (.ldAcq g w sp false d b o2) (va o2.toNat) true ∧
      exec (.gld g w d b off) s = read s (some (.glob (alignTo z (va off.toNat)))) false ∧
      exec (.ldAcq g w false true d b o2) s = read s (some (.glob (alignTo z (va o2.toNat)))) true)


/-- R278 to R280, R283, R342, R352, R272: ST, GST and ST.REL whose sources are unpoisoned. The low 8z bits go to own memory at L +
1, elastically to another slice and to global memory; a write that its windows forbid is dropped, recorded and counted; one
that its page forbids suspends the context at the bundle, and is recorded and counted for a Ladle. ST.REL is issued as a
release of its scope, and one that is dropped still releases as its bundle commits. A store that follows an operation of its
own bundle, on the same bytes or in the scope of its release, follows it as an operation. That an own store behind an
operation of its bundle on the same bytes is an operation itself is the model's choice (assumption log 40). -/
def Obligations.ScalarStores : Prop :=
  ∀ (s : State) (g : Guard) (w : BitVec 2) (sp : Bool) (d b : SReg) (off : BitVec 6) (o2 : BitVec 2) (scope : BitVec 3),
    Ready s g [b, d] → NoRace s →
    let z := 2 ^ w.toNat
    let va (n : Nat) : Word := s.rs b + toWord (n * z) + s.issue.doff
    let bs := natLe (s.rs d).toNat z
    let q := s.reqOf s.who
    let onDie (i : Instr) (rel : Option Nat) (a : Word) : Prop :=
      (∀ k, s.spot sp z a = .own k → RaceFree s sp true true k z → Unqueued s sp k z → (∀ c, rel = some c → Unheld s c) →
        (s.afterOwn (locAS sp k) z rel = false →
          exec i s = .next ((banked s sp true false k z).hold 1 (.store sp k bs rel.isSome) none)) ∧
        (s.afterOwn (locAS sp k) z rel = true →
          exec i s = .next ((banked s sp true false k z).issueOp (.write [(locAS sp k, bs)]) none false false rel))) ∧
      (∀ k, s.spot sp z a = .other k → RaceFree s sp true true k z →
        exec i s = .next (s.issueOp (.write [(locAS sp k, bs)]) none false false rel)) ∧
      (∀ c far u, s.spot sp z a = .bad c far → u = s.postAccess q c 4 (onDieAddr sp z a) → (∀ c, rel = some c → Unheld u c) →
        exec i s = .next ((match rel with
          | some c => u.iss fun i => { i with rels := i.rels ++ [c] }
          | none => u).countFail (u.ownerOf u.who) 1 31))
    let global (i : Instr) (rel : Option Nat) (a : Word) : Prop :=
      (bits a 60 4 = 0 → s.ownPackage a = false → exec i s = .next (s.issueOp (.write [(.glob a, bs)]) none false false rel)) ∧
      (∀ u die pa, bits a 60 4 ≠ 0 ∨ s.ownPackage a = true → s.resolveFor q a true = (u, .ok (die, pa)) →
        exec i s = .next (u.issueOp (.write [(.phys die pa a, bs)]) none false false rel)) ∧
      (∀ u f, bits a 60 4 ≠ 0 ∨ s.ownPackage a = true → s.resolveFor q a true = (u, .error f) →
        exec i s = .next (if isLadle s.who then (u.globFault q f a true).countFail q.ctx 1 31
          else u.stopWith (.access u.issue.pos 0 f.code (accessFlags q a f.level true) (a &&& toWord (2 ^ 60 - 1)))))
    onDie (.st g w sp d b off) none (va off.toNat) ∧
    onDie (.stRel g w sp false scope d b o2) (some scope.toNat) (va o2.toNat) ∧
    global (.gst g w d b off) none (alignTo z (va off.toNat)) ∧
    global (.stRel g w false true scope d b o2) (some scope.toNat) (alignTo z (va o2.toNat))


/-- R278, R284 to R286, R455: vector loads. A poisoned base, stride or index gives zero with every poison bit set; own memory
answers at L + 4, L + 6 or L + 32 with every element's bytes and the poison of the lane groups that hold a poisoned one; an
element whose address names another slice makes the load elastic, with its own elements as they stand at its logical cycle;
elements outside the windows are zero, poisoned and recorded one by one. That the own elements of an elastic VLDS or VGATHER
are read at the bundle's cycle is the model's reading of R252 (assumption log 40). -/
def Obligations.VectorLoads : Prop :=
  ∀ (s : State) (g : Guard) (w : BitVec 2) (sp : Bool) (d : VReg) (b c : SReg) (x : VReg) (off : BitVec 6), Executes s g → NoRace s →
    let z := 2 ^ w.toNat
    let a := s.rs b + toWord (off.toNat * 256) + s.issue.doff
    let dead (n : Nat) (t : State) : Out := .next (t.holdV n d ⟨0#2048, 15#4⟩)
    let strided := (List.range (256 / z)).map fun i => s.rs b + toWord i * s.rs c
    let indexed := (List.range (min 64 (256 / z))).map fun i => s.rs b + toWord (z * elemOf (s.c.r.readV x.toNat).v 4 i)
    let bad (k : Nat) : Prop := s.rawLoads k = false ∧ Tainted (s.bankAS sp) k z
    let elems (i : Instr) (n : Nat) (eas : List Word) (bk : Bool) : Prop :=
      ∀ (ps : List Spot) (u t : State), eas.map (s.spot sp z) = ps →
        u = (eas.zip ps).foldl (fun u e => u.spotFault sp z e.1 false e.2) s →
        t = ps.foldl (fun t p => match p with
          | .own k => banked (noted t sp k z) (sp && bk) false true k z
          | _ => t) u →
        (∀ p ∈ ps, ∀ k, (p = .own k → Unqueued u sp k z ∧ RaceFree u sp false true k z) ∧ (p = .other k → RaceFree u sp false true k z)) →
        ((∀ p ∈ ps, (∀ k, p ≠ .other k) ∧ ∀ c, p ≠ .bad c true) →
          ∃ v q, exec i s = .next (t.holdV n d ⟨v, q⟩) ∧
            (∀ e j, e < ps.length → j < z → elemOf v 1 (z * e + j) = match ps[e]? with
              | some (.own k) => loadedByte s sp k j
              | _ => 0) ∧
            (∀ m, ps.length * z ≤ m → m < 256 → elemOf v 1 m = 0) ∧
            (∀ h, h < 4 → (q.getLsbD h = true ↔ s.guardPois g = true ∨ ∃ e, e < ps.length ∧ e * z / 64 = h ∧
              match ps[e]? with
              | some (.own k) => bad k
              | _ => True))) ∧
        ((∃ p ∈ ps, (∃ k, p = .other k) ∨ ∃ c, p = .bad c true) →
          ∃ us, exec i s = .next ((t.issueOp (.read (ps.map (Spot.loc sp)) z true d.toNat) (some (.v d.toNat)) (s.guardPois g)
              false none).withUnits us) ∧
            ∀ e v, (e, v) ∈ us ↔ ∃ p, ps[e]? = some p ∧ (∀ k, p ≠ .other k) ∧ v.1.length = z ∧ match p with
              | .own k => (∀ j, j < z → (v.1.getD j 0#8).toNat = loadedByte s sp k j) ∧ (v.2 = true ↔ bad k)
              | _ => v = (List.replicate z 0#8, true))
    (s.ps b = true → exec (.vld g sp d b off) s = dead 4 s) ∧
    (s.ps b = true ∨ s.ps c = true → exec (.vlds g w sp d b c) s = dead 6 s) ∧
    (s.ps b = true ∨ (s.c.r.readV x.toNat).p ≠ 0#4 → exec (.vgather g w sp d b x) s = dead 32 s) ∧
    (s.ps b = false →
      (∀ k, s.spot sp 256 a = .own k → RaceFree s sp false true k 256 → Unqueued s sp k 256 →
        ∃ v q, exec (.vld g sp d b off) s = .next ((banked (noted s sp k 256) sp false false k 256).holdV 4 d ⟨v, q⟩) ∧
          (∀ j, j < 256 → elemOf v 1 j = loadedByte s sp k j) ∧
          (∀ h, h < 4 → (q.getLsbD h = true ↔ s.guardPois g = true ∨
            (s.rawLoads k = false ∧ Tainted (s.bankAS sp) (k + 64 * h) 64)))) ∧
      (∀ k, s.spot sp 256 a = .other k → RaceFree s sp false true k 256 → exec (.vld g sp d b off) s
        = .next (s.issueOp (.read [some (locAS sp k)] 256 true d.toNat) (some (.v d.toNat)) (s.guardPois g) false none)) ∧
      (∀ e far t, s.spot sp 256 a = .bad e far → t = s.postAccess (s.reqOf s.who) e 0 (onDieAddr sp 256 a) →
        exec (.vld g sp d b off) s = if far
          then .next (t.issueOp (.read [none] 256 true d.toNat) (some (.v d.toNat)) (s.guardPois g) false none) else dead 4 t) ∧
      (s.ps c = false → elems (.vlds g w sp d b c) 6 strided true) ∧
      ((s.c.r.readV x.toNat).p = 0#4 → elems (.vgather g w sp d b x) 32 indexed false))


/-- R272, R278 to R280, R284, R286: VST and VSCATTER, whose base, indices and data are unpoisoned. Elements of own memory land at
L + 1 in ascending order, so that the highest index remains; those outside the windows are dropped, recorded and counted;
elements of other slices go as one elastic write, and with them all of them where one follows an operation of the bundle on
its bytes. Poisoned data raises POISON. That an own store behind an operation of its bundle on the same bytes is an operation
itself is the model's choice (assumption log 40). -/
def Obligations.VectorStores : Prop :=
  ∀ (s : State) (g : Guard) (w : BitVec 2) (sp : Bool) (d x : VReg) (b : SReg) (off : BitVec 6), Ready s g [b] → NoRace s →
    let z := 2 ^ w.toNat
    let v := s.c.r.readV d.toNat
    let a := s.rs b + toWord (off.toNat * 256) + s.issue.doff
    let eas := (List.range (min 64 (256 / z))).map fun i => s.rs b + toWord (z * elemOf (s.c.r.readV x.toNat).v 4 i)
    let write (t : State) (ws : List (Loc × List Byte)) : State := t.issueOp (.write ws) none false false none
    let data (i : Nat) : List Byte := natLe (elemOf v.v z i) z
    (v.p ≠ 0#4 → exec (.vst g sp d b off) s = .next (s.raise .poison 0#64)) ∧
    (v.p ≠ 0#4 ∨ (s.c.r.readV x.toNat).p ≠ 0#4 → exec (.vscatter g w sp d b x) s = .next (s.raise .poison 0#64)) ∧
    (v.p = 0#4 →
      (∀ k, s.spot sp 256 a = .own k → RaceFree s sp true true k 256 → Unqueued s sp k 256 →
        (s.afterOwn (locAS sp k) 256 none = false → exec (.vst g sp d b off) s
          = .next ((banked s sp true false k 256).hold 1 (.store sp k (vecBytes v.v) false) none)) ∧
        (s.afterOwn (locAS sp k) 256 none = true → exec (.vst g sp d b off) s
          = .next (write (banked s sp true false k 256) [(locAS sp k, vecBytes v.v)]))) ∧
      (∀ k, s.spot sp 256 a = .other k → RaceFree s sp true true k 256 → exec (.vst g sp d b off) s
        = .next (write s [(locAS sp k, vecBytes v.v)])) ∧
      (∀ c far, s.spot sp 256 a = .bad c far → ∃ u, u = s.postAccess (s.reqOf s.who) c 4 (onDieAddr sp 256 a) ∧
        exec (.vst g sp d b off) s = .next (u.countFail (u.ownerOf u.who) 1 31)) ∧
      ((s.c.r.readV x.toNat).p = 0#4 → ∀ (ps : List Spot) (u t : State), eas.map (s.spot sp z) = ps →
        u = (eas.zip ps).foldl (fun u e => u.spotFault sp z e.1 true e.2) s →
        t = u.countFail (u.ownerOf u.who) (ps.countP fun p => match p with | .bad .. => true | _ => false) 31 →
        (∀ p ∈ ps, ∀ k, (p = .own k → Unqueued t sp k z ∧ RaceFree t sp true true k z) ∧ (p = .other k → RaceFree t sp true true k z)) →
        ((∀ k, .own k ∈ ps → s.afterOwn (locAS sp k) z none = false) →
          ∀ far, far = ps.zipIdx.filterMap (fun e => match e.1 with | .other k => some (locAS sp k, data e.2) | _ => none) →
          ∀ r, r = ps.zipIdx.foldl (fun u e => match e.1 with
            | .own k => u.hold 1 (.store sp k (data e.2) false) none
            | _ => u) t → exec (.vscatter g w sp d b x) s = .next (if far = [] then r else write r far)) ∧
        ((∃ k, .own k ∈ ps ∧ s.afterOwn (locAS sp k) z none = true) → exec (.vscatter g w sp d b x) s = .next (write t
          (ps.zipIdx.filterMap fun e => match e.1 with
            | .own k | .other k => some (locAS sp k, data e.2)
            | .bad .. => none)))))


/-- R260, R278, R287 to R291: the channel instructions. CHPOP, CHPOP.DROP and CHPEEK need an enabled channel that the context
consumes, CHPUSH one that it produces; an empty or full channel stalls the bundle; a Ladle's push goes to a channel of the
context it serves, and is refused with a record where that names another producer; CHSTAT answers the counts. -/
def Obligations.ChannelInstructions : Prop :=
  ∀ (s : State) (g : Guard) (d : VReg) (n : BitVec 3) (b r : SReg), Clear s → NoRace s →
    let h := s.c.chan n.toNat
    let k := (s.rs b).toNat
    let mine := h.en = true ∧ bitAt h.cfg 58 = false
    let feeds := h.en = true ∧ bits h.cfg 60 3 = 0
    let fill := (h.prod - h.cons).toNat
    let popped := s.readHead n.toNat
    let element (j : Nat) : PVec := s.elemAt h.inSp (coreOf s.who * 2 ^ 20 + bits h.cfg 32 20 + 256 * j)
    let pushed (t : State) (v : PVec) : Out :=
      .next ({ t with c := t.c.updChan n.toNat Chan.reserve }.hold 1
        (.push n.toNat h.inSp (coreOf s.who * 2 ^ 20 + bits h.cfg 32 20 + 256 * h.ridx) v.v v.p) none)
    let from_ (sp : Bool) : Instr := if sp then .chpushSp g n b else .chpushAb g n b
    let x := s.ownerOf s.who
    let hx := (s.ctx x).chan n.toNat
    (Ready s g [] →
      (mine → h.prod ≠ h.cons → exec (.chpop g d n) s = .next (popped.holdV 2 d (element h.cidx)) ∧
        exec (.chpopDrop g n) s = .next popped) ∧
      (mine → h.prod = h.cons → exec (.chpop g d n) s = .next (s.stallFor 2) ∧ exec (.chpopDrop g n) s = .next (s.stallFor 2)) ∧
      (¬ mine → exec (.chpop g d n) s = .next (s.raise .illegal 0#64) ∧ exec (.chpopDrop g n) s = .next (s.raise .illegal 0#64)) ∧
      (isLadle s.who = false → feeds → h.full = false → Unheld s 1 → exec (.chpush g n d) s = pushed s (s.c.r.readV d.toNat)) ∧
      (isLadle s.who = false → feeds → h.full = true → exec (.chpush g n d) s = .next (s.stallFor 3)) ∧
      (isLadle s.who = true ∨ ¬ feeds → exec (.chpush g n d) s = .next (s.raise .illegal 0#64)) ∧
      exec (.chstat g r n) s = .next (s.hold 2 (.scal r.toNat (toWord (boolNat hx.en * 2 ^ 63
        + (hx.res - hx.prod).toNat * 2 ^ 32 + (hx.size - (hx.res - hx.cons).toNat) * 2 ^ 16 + (hx.prod - hx.cons).toNat)) false) none)) ∧
    (Ready s g [b] → ∀ sp : Bool,
      (∀ key, s.spot sp 256 (s.rs b) = .other key → exec (from_ sp) s = .next (s.raise .illegal 0#64)) ∧
      (∀ c, s.spot sp 256 (s.rs b) = .bad c true → exec (from_ sp) s = .next (s.raise .illegal 0#64)) ∧
      (∀ t v, ((∃ key, s.spot sp 256 (s.rs b) = .own key ∧ RaceFree s sp false true key 256 ∧ Unqueued s sp key 256 ∧
            t = banked (noted s sp key 256) sp false false key 256 ∧ v = s.elemAt sp key) ∨
          (∃ c, s.spot sp 256 (s.rs b) = .bad c false ∧ t = s.postAccess (s.reqOf s.who) c 0 (onDieAddr sp 256 (s.rs b)) ∧
            v = ⟨0#2048, 15#4⟩)) →
        (isLadle s.who = false → feeds → h.full = false → Unheld s 1 → exec (from_ sp) s = pushed t v) ∧
        (isLadle s.who = true →
          (hx.en = false ∨ bits hx.cfg 60 3 ≠ 1 + (s.who - 2048) % 2 → exec (from_ sp) s
            = .next (t.postAccess (t.reqOf t.who) 10 4 (toWord (9 * 2 ^ 60 + n.toNat * 2 ^ 11 + x)))) ∧
          (hx.en = true → bits hx.cfg 60 3 = 1 + (s.who - 2048) % 2 → hx.full = false →
            (∀ m ∈ s.cmds, m.agent = s.who → m.bun < s.issue.serial0 → m.feed = none) →
            ∃ e : Elem, e.ctx = x ∧ e.ch = n.toNat ∧ e.agent = s.who ∧ e.arrived = true ∧
              e.key = coreOf x * 2 ^ 20 + bits hx.cfg 32 20 + 256 * hx.ridx ∧ exec (from_ sp) s = .next
              (({ t.upd x fun c => c.updChan n.toNat Chan.reserve with elems := t.elems ++ [e] }.withSerial).storeElem hx.inSp e.key
                v.v v.p 0#32))))) ∧
    (Executes s g →
      (s.ps b = true → exec (.chpeek g d n b) s = .next (s.holdV 2 d ⟨0#2048, 15#4⟩)) ∧
      (s.ps b = false → mine → k < h.size → k < fill → ∃ v key, key = coreOf s.who * 2 ^ 20 + bits h.cfg 32 20
          + 256 * ((h.cidx + k) % h.size) ∧ v = s.elemAt h.inSp key ∧
        exec (.chpeek g d n b) s = .next ((s.noticeAS h.inSp key 256).holdV 2 d ⟨v.v, if s.guardPois g then 15#4 else v.p⟩)) ∧
      (s.ps b = false → mine → k < h.size → fill ≤ k → exec (.chpeek g d n b) s = .next (s.stallFor 2)) ∧
      (s.ps b = false → ¬ mine ∨ h.size ≤ k → exec (.chpeek g d n b) s = .next (s.raise .illegal 0#64)))


/-- R134, R272, R338, R356, R357: the atomics AADD to ADECP. They consume their guard, address and operands; ACQ and REL make them
an acquire and a release of the scope that holds their location; SP units of any slice and global units are issued
elastically; an SP address outside the window gives poisoned zero with a record; a page that forbids the write suspends the
context, and gives a Ladle poisoned zero with a record. A group that is absent raises FEATURE first. R356: what an atomic
writes, for units of 4 and 8 bytes: none for an ACAS that does not match and for an ADECP of a value that is not positive.
R358: AMXACC consumes vC's lane group 0 and needs a multiple of 64; then it is issued with the addend's bytes 0 to 63, under
the rules of atomics of a global line, whose page may suspend the context. -/
def Obligations.GlobalUpdates : Prop :=
  (∀ (s : State) (g : Guard) (ord : BitVec 2) (sp dw : Bool) (d b c : SReg), NoRace s →
     let x := s.rs b
     let y := s.rs c
     let z := if dw then 8 else 4
     let forms : List (Instr × AtomOp × List SReg × Word × Word) :=
       [(.aadd g ord sp dw d b c, .add, [c], y, 0#64), (.aand g ord sp dw d b c, .and, [c], y, 0#64),
        (.aor g ord sp dw d b c, .or, [c], y, 0#64), (.axor g ord sp dw d b c, .xor, [c], y, 0#64),
        (.amin g ord sp dw d b c, .min, [c], y, 0#64), (.amax g ord sp dw d b c, .max, [c], y, 0#64),
        (.axch g ord sp dw d b c, .xch, [c], y, 0#64), (.acas g ord sp dw d b c, .cas, [c, c + 1#5], y, s.rs (c + 1#5)),
        (.adecp g ord sp dw d b, .decp, [], 0#64, 0#64)]
     let acq := ord.getLsbD 0
     let rel := if ord.getLsbD 1 then some (if sp then 3 else if s.ownPackage x = false then 6 else
       if bits x 50 1 = dieOf (coreOf s.who) then 4 else 5) else none
     let dest := some (Res.s d.toNat)
     let feat := s.needFeat (if sp then 0 else 11)
     ∀ e ∈ forms,
       (∀ k, Executes s g → feat = some k → exec e.1 s = .next (s.raise k 0#64)) ∧
       (Ready s g (b :: e.2.2.1) → feat = none →
         (sp = true → ∀ k, s.spot true z x = .own k ∨ s.spot true z x = .other k → RaceFree s true true false k z →
           exec e.1 s = .next (s.issueOp (.atom e.2.1 (.sp k) z e.2.2.2.1 e.2.2.2.2) dest false acq rel)) ∧
         (sp = true → ∀ k far, s.spot true z x = .bad k far → exec e.1 s
           = .next ((s.postAccess (s.reqOf s.who) k 4 (onDieAddr true z x)).issueOp (.read [none] z false d.toNat) dest false acq rel)) ∧
         (sp = false → ∀ a q, a = alignTo z x → q = s.reqOf s.who →
           (bits a 60 4 = 0 → s.ownPackage a = false → exec e.1 s
             = .next (s.issueOp (.atom e.2.1 (.glob a) z e.2.2.2.1 e.2.2.2.2) dest false acq rel)) ∧
           (∀ u die pa, bits a 60 4 ≠ 0 ∨ s.ownPackage a = true → s.resolveFor q a true = (u, .ok (die, pa)) →
             exec e.1 s = .next (u.issueOp (.atom e.2.1 (.phys die pa a) z e.2.2.2.1 e.2.2.2.2) dest false acq rel)) ∧
           (∀ u f, bits a 60 4 ≠ 0 ∨ s.ownPackage a = true → s.resolveFor q a true = (u, .error f) →
             exec e.1 s = .next (if isLadle s.who
               then ((u.globFault q f a true).countFail q.ctx 1 31).issueOp (.read [none] z false d.toNat) dest false acq rel
               else u.stopWith (.access u.issue.pos 0 f.code (accessFlags q a f.level true) (a &&& toWord (2 ^ 60 - 1)))))))) ∧
  (∀ (z : Nat) (o v w : Nat), (z = 4 ∨ z = 8) → o < 2 ^ (8 * z) → v < 2 ^ (8 * z) →
     let M := 2 ^ (8 * z)
     let sg (x : Nat) : Int := if x < M / 2 then (x : Int) else (x : Int) - (M : Int)
     atomNew .add z o v w = some ((o + v) % M) ∧ atomNew .and z o v w = some (o &&& v) ∧
     atomNew .or z o v w = some (o ||| v) ∧ atomNew .xor z o v w = some (o ^^^ v) ∧
     (∃ x, atomNew .min z o v w = some x ∧ (x = o ∨ x = v) ∧ sg x = min (sg o) (sg v)) ∧
     (∃ x, atomNew .max z o v w = some x ∧ (x = o ∨ x = v) ∧ sg x = max (sg o) (sg v)) ∧
     atomNew .xch z o v w = some v ∧
     (o = v → atomNew .cas z o v w = some w) ∧ (o ≠ v → atomNew .cas z o v w = none) ∧
     (0 < sg o → atomNew .decp z o v w = some (o - 1)) ∧ (sg o ≤ 0 → atomNew .decp z o v w = none)) ∧
  (∀ (s : State) (g : Guard) (ord et : BitVec 2) (d b : SReg) (c : VReg), Ready s g [b] →
     let v := s.c.r.readV c.toNat
     let a := s.rs b
     let q := s.reqOf s.who
     let rel := if ord.getLsbD 1 then some (if s.ownPackage a = false then 6 else
       if bits a 50 1 = dieOf (coreOf s.who) then 4 else 5) else none
     let op (l : Loc) : OpKind := .amxacc l et.toNat ((vecBytes v.v).take 64)
     let i := Instr.amxacc g ord et d b c
     (v.p.getLsbD 0 = true → exec i s = .next (s.raise .poison 0#64)) ∧
     (v.p.getLsbD 0 = false →
       (a.toNat % 64 ≠ 0 → exec i s = .next (s.raise .illegal 0#64)) ∧
       (a.toNat % 64 = 0 → bits a 60 4 = 0 → s.ownPackage a = false →
         exec i s = .next (s.issueOp (op (.glob a)) (some (.s d.toNat)) false (ord.getLsbD 0) rel)) ∧
       (∀ u die pa, a.toNat % 64 = 0 → bits a 60 4 ≠ 0 ∨ s.ownPackage a = true → s.resolveFor q a true = (u, .ok (die, pa)) →
         exec i s = .next (u.issueOp (op (.phys die pa a)) (some (.s d.toNat)) false (ord.getLsbD 0) rel)) ∧
       (∀ u f, a.toNat % 64 = 0 → bits a 60 4 ≠ 0 ∨ s.ownPackage a = true → s.resolveFor q a true = (u, .error f) →
         exec i s = .next (if isLadle s.who
           then ((u.globFault q f a true).countFail q.ctx 1 31).issueOp (.read [none] 64 false d.toNat) (some (.s d.toNat)) false
             (ord.getLsbD 0) rel
           else u.stopWith (.access u.issue.pos 0 f.code (accessFlags q a f.level true) (a &&& toWord (2 ^ 60 - 1)))))))

/-- R115, R343, R353, R360, R361, R364 to R366: FENCE, WAITV, NOTIFY and the sync objects. FENCE, NOTIFY, SYN.ADD and BAR are
issued as releases of their scopes; FENCE, WAITV and SYN.WAIT block; a number above 255 raises ILLEGAL, an unmapped one
suspends the context. BAR takes the next generation of its set and blocks; its arrival counts once the accesses before it are
performed; without a gang it stands for the whole of one context, in handler mode it raises ILLEGAL, and so does a group
barrier of a gang without groups. -/
def Obligations.FencesAndWaits : Prop :=
  ∀ (s : State) (g : Guard) (scope : BitVec 3) (dw all grp : Bool) (d b c : SReg),
    let dest := some (Res.s d.toNat)
    let z := if dw then 8 else 4
    let v := (s.rs b).toNat
    let part := (s.reqOf s.who).part
    let cl := clusterOf (coreOf s.who)
    let mapped := isLadle s.who = true ∨ s.syncObj cl part v ≠ none
    let low := (s.rs c).setWidth 32
    let fenced := (s.issueOp (.fence scope.toNat) dest false true (some scope.toNat)).block .op
    (Ready s g [] → exec (.fence g scope d) s = .next fenced) ∧
    (Ready s g [b, c] →
      exec (.waitv g dw d b c) s = .next ((s.issueOp (.waitv (alignTo z (s.rs b)) z (s.rs c)) dest false true none).block .waitv) ∧
      (v < 256 → mapped →
        exec (.synAdd g d b c) s = .next (s.issueOp (.synAdd v low) dest false false (some 3)) ∧
        exec (.synWait g d b c) s = .next ((s.issueOp (.synWait v low) dest false true none).block .sync)) ∧
      (256 ≤ v → exec (.synAdd g d b c) s = .next (s.raise .illegal 0#64) ∧ exec (.synWait g d b c) s = .next (s.raise .illegal 0#64)) ∧
      (v < 256 → ¬ mapped → ∀ i ∈ [Instr.synAdd g d b c, Instr.synWait g d b c],
        exec i s = .next (s.stopWith (.access s.issue.pos 0 11 0 (toWord (8 * 2 ^ 60 + cl * 256 + v)))))) ∧
    (Ready s g [b] →
      exec (.notify g all d b) s = .next (s.issueOp (.notify all (alignTo 8 (s.rs b))) dest false false (some 5)) ∧
      (v < 256 → mapped → exec (.synGet g d b) s = .next (s.issueOp (.synGet v) dest false true none)) ∧
      (v < 256 → ¬ mapped → exec (.synGet g d b) s
        = .next (s.stopWith (.access s.issue.pos 0 11 0 (toWord (8 * 2 ^ 60 + cl * 256 + v))))) ∧
      (256 ≤ v → exec (.synGet g d b) s = .next (s.raise .illegal 0#64))) ∧
    (Ready s g [] → (s.c.e.hm = true → exec (.bar g grp d) s = .next (s.raise .illegal 0#64)) ∧
      (s.c.e.hm = false → s.gang s.c.y.gang = none →
        exec (.bar g false d) s = .next (((s.sys fun y => { y with barWhole := y.barWhole + 1#32 }).issueOp
          (.bar false (s.c.y.barWhole + 1#32)) dest false true none).block fun id => .bar id false (s.c.y.barWhole + 1#32)) ∧
        exec (.bar g true d) s = .next (s.raise .illegal 0#64)) ∧
      (∀ gg rank, s.c.e.hm = false → s.gang s.c.y.gang = some gg → gg.rankOf s.who = some rank → s.issue.redo = none →
        (grp = true → gg.group = 0 → exec (.bar g grp d) s = .next (s.raise .illegal 0#64)) ∧
        (grp = false ∨ gg.group ≠ 0 →
          let n := (if grp then s.c.y.barGrp else s.c.y.barWhole) + 1#32
          let t := s.sys fun y => if grp then { y with barGrp := n } else { y with barWhole := n }
          let cores := ((gg.members.filter fun m => (grp = false ∨ m.1 / gg.group = rank / gg.group) ∧ m.2 < 2048).map fun m => coreOf m.2)
          let holds (sc : Nat) : Prop := ∀ p ∈ cores, ∀ q ∈ cores, match sc with
            | 2 => octetOf p = octetOf q
            | 3 => clusterOf p = clusterOf q
            | 4 => dieOf p = dieOf q
            | _ => True
          ∃ sc, 2 ≤ sc ∧ sc ≤ 5 ∧ holds sc ∧ (∀ k, 2 ≤ k → k < sc → ¬ holds k) ∧
            exec (.bar g grp d) s = .next ((t.issueOp (.bar grp n) dest false true (some sc)).block fun id => .bar id grp n))))


/-- R292: an engine command that its queue can take is appended with what it binds at acceptance: its issuer, owner, core,
partition, windows, format control, logical cycle and program address; nothing else changes. A full queue stalls the bundle.
R281, R293, R294, R297, R343: COPY, COPYW and PREF whose sources are unpoisoned are accepted by the core's copy engine, or a
Ladle's own queue, with their words, where a place is free; else they stall. A condition of R294 or R297 raises ILLEGAL; rel
or a signal makes the hand-over a release of its scope as the bundle commits, which an earlier access in the scope stalls. A
copy to or from global memory needs its feature group. R281, R301, R302: ROWCPY and ROWINIT. ILLEGAL for a row count outside 1
to 64; every row is translated, with a fault suspending the context at the bundle; ROWX for the first row that has operands
that are not whole rows, that lie in another package, or, for ROWCPY, in two subarrays; else the command is accepted with its
words where its queue has a place. -/
def Obligations.CopyCommandsAreAccepted : Prop :=
  (∀ (s : State) (u : EngUnit) (core : Nat) (i : Instr) (a b d e : Word) (step : Nat) (tags : List TagRange),
     let c := s.ctx (s.ownerOf s.who)
     let ab := s.reg 0 (0x8A0 + c.y.part)
     let sp := s.reg 0 (0x8B0 + c.y.part)
     (s.queueFull u = true → s.accept u core i a b d e step tags = s.stallFor 4) ∧
     (s.queueFull u = false → ∃ m : Cmd, s.accept u core i a b d e step tags = { s with cmds := s.cmds ++ [m], serial := s.serial + 1 } ∧
       m.id = s.serial ∧ m.unit = u ∧ m.core = core ∧ m.instr = i ∧ m.a = a ∧ m.b = b ∧ m.d = d ∧ m.e = e ∧ m.step = step ∧
       m.tags = tags ∧ m.agent = s.who ∧ m.owner = s.ownerOf s.who ∧ m.part = c.y.part ∧ m.sup = c.y.sup ∧ m.fcr = c.y.fcr ∧
       m.gang = c.y.gang ∧ m.cyc = s.issueCycle ∧ m.pc = s.issue.pc - toWord c.y.spanBase ∧ m.word = s.issue.word ∧
       m.bun = s.issue.serial0 ∧ (c.y.sup = false → m.abLo = 65536 * bits ab 0 5 ∧ m.abHi = 65536 * bits ab 8 5 ∧
         m.spLo = 65536 * bits sp 0 5 ∧ m.spHi = 65536 * bits sp 8 5) ∧
       m.started = false ∧ m.discard = false ∧ m.reserved = 0 ∧ m.arrived = 0 ∧ m.got = [] ∧ m.outs = [] ∧ m.acted = false ∧
       m.prog = 0 ∧ m.spot = none ∧ m.cur = [] ∧ m.put = []) ∧
     (s.queueFull u = true ↔ (match u with | .copy _ => 16 | .ladle _ => 8 | .griddle _ => 16 | .fabric => 2 ^ 64 | .launch _ => 2 ^ 64)
       ≤ s.cmds.countP fun m => m.unit == u)) ∧
  (∀ (s : State) (g : Guard) (acq rel : Bool) (a b d : SReg),
     let unit : EngUnit := if isLadle s.who then .ladle (s.who - 2048) else .copy (coreOf s.who)
     let ctl := s.rs d
     let geo := s.rs (d + 1#5)
     let taken (i : Instr) (needs : Bool) (scope : Nat) (b d e : Word) (tags : List TagRange) : Prop :=
       (s.queueFull unit = false → (needs = true → Unheld s scope) →
         Accepts i s (if needs then s.iss fun i => { i with rels := i.rels ++ [scope] } else s) unit (s.rs a) b d e tags) ∧
       (s.queueFull unit = true ∨ (needs = true ∧ ¬ Unheld s scope) → ∃ t, exec i s = .next t ∧ t.issue.stall ≠ none)
     let one (i : Instr) (w : Word) (wide : Bool) (srcs : List SReg) : Prop := ∀ cg, cg = copyGeo ctl w wide →
       (∀ k, Executes s g → cg.dsp = 0 ∨ cg.ssp = 0 → s.needFeat 7 = some k → exec i s = .next (s.raise k 0#64)) ∧
       (Ready s g srcs → (cg.dsp = 0 ∨ cg.ssp = 0 → s.needFeat 7 = none) →
         (s.copyIllegal cg ctl (s.rs a) (s.rs b) = true → exec i s = .next (s.raise .illegal 0#64)) ∧
         (s.copyIllegal cg ctl (s.rs a) (s.rs b) = false → taken i (rel || bitAt ctl 55) (bits ctl 56 3) (s.rs b) ctl w
           (s.copyTag false cg.ssp (s.rs b) cg.len cg.sstr cg.rows ++ s.copyTag true cg.dsp (s.rs a) cg.len cg.dstr cg.rows)))
     one (.copy g acq rel a b d) 0#64 false [a, b, d] ∧ one (.copyw g acq rel a b d) geo true [a, b, d, d + 1#5] ∧
     (Ready s g [a, b] → ∀ w h, w = s.rs b → h = (s.ctx (s.ownerOf s.who)).chan (bits w 61 3) →
       let bad := bits w 32 4 ≠ 0 ∨ bits w 36 13 = 0 ∨ 4096 < bits w 36 13 ∨ bits w 0 6 ≠ 0 ∨
         bits h.cfg 60 3 ≠ (if isLadle s.who then 1 + (s.who - 2048) % 2 else 4)
       (bad → exec (.pref g acq a b) s = .next (s.raise .illegal 0#64)) ∧
       (¬ bad → taken (.pref g acq a b) (bitAt w 60) (bits w 49 3) w 0#64 0#64 []))) ∧
  (∀ (s : State) (g : Guard) (acq rel : Bool) (a b d : SReg), Ready s g [a, b, d] →
     let ctl := s.rs d
     let n := bits ctl 0 7
     let q := s.reqOf s.who
     let x := s.rs a
     let y := s.rs b
     let needs := rel || bitAt ctl 63
     let scope := bits ctl 52 3
     let taken (t : State) (i : Instr) : Prop := ∀ unit, unit = t.copyUnit → t.queueFull unit = false → (needs = true → Unheld t scope) →
       ∃ m : Cmd, exec i s = .next { (if needs then t.iss fun i => { i with rels := i.rels ++ [scope] } else t) with
           cmds := t.cmds ++ [m], serial := t.serial + 1 } ∧
         m.id = t.serial ∧ m.unit = unit ∧ m.core = coreOf t.who ∧ m.instr = i ∧ m.a = x ∧ m.b = y ∧ m.d = ctl ∧ m.tags = [] ∧
         m.agent = t.who ∧ m.acted = false
     let rowx (t : State) (reason k : Nat) : Out := .next (t.raise .rowx (toWord (reason * 256 + k)))
     let susp (t : State) (f : AFault) (va : Word) (w : Bool) : Out :=
       .next (t.stopWith (.access t.issue.pos 0 f.code (accessFlags q va f.level w) (va &&& toWord (2 ^ 60 - 1))))
     let cpy := Instr.rowcpy g acq rel a b d
     let init := Instr.rowinit g acq rel a b d
     (bits ctl 7 45 ≠ 0 ∨ n = 0 ∨ 64 < n → exec cpy s = .next (s.raise .illegal 0#64) ∧ exec init s = .next (s.raise .illegal 0#64)) ∧
     (bits ctl 7 45 = 0 → 1 ≤ n → n ≤ 64 →
       (∀ t f va, s.rowPas q x true 0 n = (t, .error (f, va)) → exec cpy s = susp t f va true ∧ exec init s = susp t f va true) ∧
       (∀ t ps, s.rowPas q x true 0 n = (t, .ok ps) →
         (∀ k, k < n → (ps.getD k none = none ↔ decide (bits (x + toWord (1024 * k)) 60 4 = 0) = true ∧
           s.ownPackage (x + toWord (1024 * k)) = false)) ∧
         (bits x 0 10 ≠ 0 → exec init s = rowx t 0 0) ∧
         (bits x 0 10 = 0 →
           (∀ k, k < n → ps.getD k none = none → (∀ j, j < k → ps.getD j none ≠ none) → exec init s = rowx t 2 k) ∧
           ((∀ k, k < n → ps.getD k none ≠ none) → taken t init)) ∧
         (∀ u f va, t.rowPas q y false 0 n = (u, .error (f, va)) → exec cpy s = susp u f va false) ∧
         (∀ u qs, t.rowPas q y false 0 n = (u, .ok qs) →
           let far (k : Nat) : Prop := ps.getD k none = none ∨ qs.getD k none = none
           let apart (k : Nat) : Prop := ∃ v w, ps.getD k none = some v ∧ qs.getD k none = some w ∧ (v.1 ≠ w.1 ∨ hbmSub v.2 ≠ hbmSub w.2)
           (bits x 0 10 ≠ 0 ∨ bits y 0 10 ≠ 0 → exec cpy s = rowx u 0 0) ∧
           (bits x 0 10 = 0 → bits y 0 10 = 0 →
             (∀ k, k < n → (∀ j, j < k → ¬ far j ∧ ¬ apart j) →
               (far k → exec cpy s = rowx u 2 k) ∧ (¬ far k → apart k → exec cpy s = rowx u 1 k)) ∧
             ((∀ k, k < n → ¬ far k ∧ ¬ apart k) → taken u cpy))))))

/-- R54, R103, R298 to R300, R343: LAD.RUN queues a run of its Ladle, up to four, as a release at CORE scope (R298); a FENCED
Ladle takes none. LAD.STOP takes the context's runs back and ends the one in progress; LAD.STAT answers at L + 2. Each needs
its Ladle's feature. R54, R255, R256, R298, R343, R410, R466: LADLE_RUN_START gives an idle Ladle that is not FENCED its
oldest queued run, once the run's context runs and no release of its acceptance is outstanding: the two scalars, the pc in the
span, logical cycle 0 and its checkpoint. LADLE_BUNDLE_ISSUE issues a bundle of a Ladle whose context runs; a trap stops the
run with its kind and changes nothing of the context; an uncorrectable bundle counts on the core. The order in which a run is
taken is assumption log 25. -/
def Obligations.LadlesRun : Prop :=
  (∀ (s : State) (g : Guard) (j : Bool) (a b d : SReg),
     let feat := if j then 6 else 5
     let l := 2 * coreOf s.who + (if j then 1 else 0)
     let y := s.ladle l
     let pc := (s.rs a).toNat
     let kept := s.updLadle l fun y => { y with runs := y.runs.filter fun r => r.ctx != s.who }
     (s.needFeat feat = none →
       (Ready s g [a, b, d] →
         (pc % 4 = 0 → pc < 2 ^ 18 → y.runs.length < 4 → s.fenced (586 + l) = false → Unheld s 1 → exec (.ladRun g j a b d) s
           = .next ((s.iss fun i => { i with rels := i.rels ++ [1] }).updLadle l fun y =>
             { y with runs := y.runs ++ [⟨s.who, s.rs a, s.rs b, s.rs d, s.issue.serial0⟩] })) ∧
         (pc % 4 = 0 → pc < 2 ^ 18 → 4 ≤ y.runs.length ∨ s.fenced (586 + l) = true → exec (.ladRun g j a b d) s = .next (s.stallFor 4)) ∧
         (pc % 4 ≠ 0 ∨ 2 ^ 18 ≤ pc → exec (.ladRun g j a b d) s = .next (s.raise .illegal 0#64))) ∧
       (Ready s g [] →
         (y.serving ≠ some s.who → exec (.ladStop g j) s = .next kept) ∧
         (y.serving = some s.who → exec (.ladStop g j) s = .next (kept.endRun l) ∧ ((kept.endRun l).ladle l).serving = none) ∧
         exec (.ladStat g d j) s = .next (s.hold 2 (.scal d.toNat (s.ladStat (s.ownerOf s.who) l) false) none))) ∧
     (∀ k, s.needFeat feat = some k → Executes s g → exec (.ladRun g j a b d) s = .next (s.raise k 0#64) ∧
       exec (.ladStop g j) s = .next (s.raise k 0#64) ∧ exec (.ladStat g d j) s = .next (s.raise k 0#64))) ∧
  (∀ (s : State) (l : Nat), l < 1024 → s.who < 2048 →
     let y := s.ladle l
     let ok (x : Nat) : Prop := (s.ctx x).st = .running ∧ (s.ctx x).exiting = false
     let t := s.focus (2048 + l)
     let held (r : LadRun) : Prop := ∃ o ∈ s.ops, o.agent = r.ctx ∧ o.kind = .release ∧ o.bun ≤ r.bun
     (y.serving ≠ none ∨ s.fenced (586 + l) = true ∨ (∀ r rest, y.runs = r :: rest → ¬ ok r.ctx ∨ held r) →
       exec (.ladleRunStart l) s = .next s) ∧
     (y.serving = none → s.fenced (586 + l) = false → ∀ r rest, y.runs = r :: rest → ok r.ctx → ¬ held r → ∃ u,
       exec (.ladleRunStart l) s = .next u ∧ (u.ladle l).serving = some r.ctx ∧
       (u.ctx (2048 + l)).f.pc = toWord (s.ctx r.ctx).y.spanBase + r.a ∧ (u.ctx (2048 + l)).f.lcc = 0#64 ∧
       (u.ctx (2048 + l)).f.pend = [] ∧ (u.ctx (2048 + l)).r = (Regs.zero.writeS 1 r.b false).writeS 2 r.d false ∧
       (u.ladle l).ckpt = some (u.ctx (2048 + l)) ∧ (u.ladle l).runs = rest) ∧
     (y.serving = none → exec (.ladleBundleIssue l) s = .next s) ∧
     (∀ x, y.serving = some x → ¬ ok x → exec (.ladleBundleIssue l) s = .next s) ∧
     (∀ x, y.serving = some x → ok x →
       (∀ w b, t.attempt = .stall w b → exec (.ladleBundleIssue l) s = .next t.issued) ∧
       (∀ k pos info, t.attempt = .stop (.trap k pos info) → exec (.ladleBundleIssue l) s
         = .next (t.noticeFetch.stopping.ladleTrap l k).issued) ∧
       (t.attempt = .uncorr → exec (.ladleBundleIssue l) s = .next (((t.countUE (10 + l / 2) 1 0#64).stopping.ladleTrap l .uncorr)).issued) ∧
       (∀ w b, t.attempt = .commit w b → exec (.ladleBundleIssue l) s = .next (w.noticeFetch.commitLadle l b).issued)))

/-- R103, R307, R309, R312, R314, R325 to R335: the Griddle instructions of an owner that holds the lease, whose octet is not
fenced and whose queue has room: each is accepted with its words and takes one command and its steps from the budget.
GRD.LEASE gives a held lease back, asks and blocks; GRD.FREE ends it: both when their bundle commits, and a commit that leaves
no command or no step in the budget of a held lease makes it EXPIRED. A supervisor names a target core whose owner does not
run; a tenant that does raises PRIV. With FMTA or FMTB at 6 each needs the B16 feature. That GRD.LEASE gives a held lease
back, and that a spent budget ends it, as the bundle commits is the model's reading (assumption log 40): R327 says so of
GRD.FREE alone. R103, R312, R314, R325, R326, R330, R332, R334: GRD.MUL, GRD.DRAIN, GRD.SAVE and GRD.REST of an owner that
holds the lease, whose words keep every limit: accepted with the steps that they occupy and the lines that they have yet to
read or write, as a release when rel or SYNV asks for one. A supervisor's GRD.SAVE or GRD.REST may name a target core whose
owner does not run. With FMTA or FMTB at 6 each needs the B16 feature. -/
def Obligations.GriddleCommandsAreQueued : Prop :=
  (∀ (s : State) (g : Guard) (clr : Bool) (a b d : SReg),
     let k := coreOf s.who
     let gr := s.griddle k
     let x := s.rs a
     let y := s.rs b
     let w := s.rs d
     let fb := bits s.c.y.fcr 12 4
     let unit := EngUnit.griddle (octetOf k)
     let open_ := gr.lease = .held ∧ s.queueFull unit = false ∧ s.fenced (522 + octetOf k) = false
     let taken (t : State) (i : Instr) (p q r : Word) (steps : Nat) (tags : List TagRange) : State :=
       (t.accept unit k i p q r 0#64 0 tags).updGriddle k fun g => { g with budCmds := g.budCmds - 1, budSteps := g.budSteps - steps }
     let other (v : Word) : Nat := clusterOf k * 64 + bits v 40 6
     let idle (c : Nat) : Prop := ∀ j, j < 4 → (s.ctx (4 * c + j)).grdOwner = true → (s.ctx (4 * c + j)).st ≠ .running
     let frees := s.iss fun i => { i with freesLease := true }
     let given := if gr.lease = .held then frees else s
     let all := [Instr.grdLease g, .grdFree g, .grdWload g a, .grdScl g a, .grdSclAll g b, .grdZero g d, .grdChk g d a, .grdStat g clr d a]
     (s.needB16 = if bits s.c.y.fcr 8 4 = 6 ∨ fb = 6 then s.needFeat 4 else none) ∧
     (∀ e, s.needB16 = some e → Executes s g → ∀ i ∈ all, exec i s = .next (s.raise e 0#64)) ∧
     (s.issue.freesLease = true → (s.leaseCommit.griddle k).lease = .none ∧ (s.leaseCommit.griddle k).requesting = false) ∧
     (s.issue.freesLease = false → (s.leaseCommit.griddle k).lease
       = if gr.lease = .held ∧ (gr.budCmds = 0 ∨ gr.budSteps = 0) then .expired else gr.lease) ∧
     (s.needB16 = none →
     (Ready s g [] →
       exec (.grdLease g) s = .next ((given.issueOp .lease none false false none).block .lease) ∧ exec (.grdFree g) s = .next frees) ∧
     (Ready s g [a] → open_ →
       (fb ≤ 6 → x.toNat < 2 ^ 21 → x.toNat % 4 = 0 → exec (.grdWload g a) s
         = .next (taken s (.grdWload g a) x 0#64 0#64
           (if fb = 2 ∨ fb = 3 then 32 else if fb = 4 then 24 else if fb = 6 then 72 else 40) [])) ∧
       (x.toNat % 64 = 0 → x.toNat + 128 ≤ 2 ^ 20 → exec (.grdScl g a) s
         = .next (taken s (.grdScl g a) x 0#64 0#64 1 [⟨false, false, k * 2 ^ 20 + x.toNat, 128, 0, 1⟩])) ∧
       (∀ r m, rowWord x = some (r, m) → bits x 16 48 = 0 → Clear s →
         ∃ t, t = taken s (.grdChk g d a) x 0#64 0#64 m [] ∧ exec (.grdChk g d a) s
           = .next (t.issueOp (.grdChk s.serial) (some (.s d.toNat)) false false none))) ∧
     (Ready s g [b] → open_ → exec (.grdSclAll g b) s = .next (taken s (.grdSclAll g b) 0#64 y 0#64 1 [])) ∧
     (Ready s g [d] → open_ → ∀ r m, rowWord w = some (r, m) → w.toNat < 2 ^ 16 →
       exec (.grdZero g d) s = .next (taken s (.grdZero g d) 0#64 0#64 w m [])) ∧
     (Ready s g [a] → bits x 48 16 = 0 → bitAt x 46 = false → bits x 0 40 = 0 →
       (bitAt x 47 = false →
         exec (.grdStat g clr d a) s = .next (s.issueOp (.grdStat k clr false) (some (.s d.toNat)) false false none)) ∧
       (bitAt x 47 = true → s.c.y.sup = true → idle (other x) →
         exec (.grdStat g clr d a) s = .next (s.issueOp (.grdStat (other x) clr true) (some (.s d.toNat)) false false none))) ∧
     (Ready s g [d] → ∀ r m, rowWord w = some (r, m) → bits w 48 16 = 0 → bitAt w 46 = false → bits w 16 24 = 0 →
       bitAt w 47 = true → s.c.y.sup = true → idle (other w) → s.fenced (522 + octetOf (other w)) = false →
       exec (.grdZero g d) s = .next (s.accept (.griddle (octetOf (other w))) (other w) (.grdZero g d) 0#64 0#64 w 0#64 0 [])) ∧
     (Ready s g [a] → bitAt x 47 = true → s.c.y.sup = false → exec (.grdStat g clr d a) s = .next (s.raise .priv 0#64) ∧
       exec (.grdZero g a) s = .next (s.raise .priv 0#64)) ∧
     (∀ i ∈ [Instr.grdWload g a, .grdScl g a, .grdSclAll g a], Ready s g [a] → fb ≤ 6 → x.toNat % 64 = 0 → x.toNat + 128 ≤ 2 ^ 20 →
       s.fenced (522 + octetOf k) = false →
       (gr.lease = .none → exec i s = .next (s.raise .illegal 0#64)) ∧
       (gr.lease = .expired → exec i s = .next ((s.stallFor 4).iss fun i => { i with wantsLease := true })) ∧
       (gr.lease = .held → s.queueFull unit = true → exec i s = .next (s.stallFor 4))))) ∧
  (∀ (s : State) (g : Guard) (acq rel : Bool) (a b d : SReg) (m r : Nat),
     let k := coreOf s.who
     let x := s.rs a
     let y := s.rs b
     let w := s.rs d
     let fa := bits s.c.y.fcr 8 4
     let fb := bits s.c.y.fcr 12 4
     let unit := EngUnit.griddle (octetOf k)
     let base := if rel || bitAt w 59 then s.iss fun i => { i with rels := i.rels ++ [bits w 48 3] } else s
     let taken (i : Instr) (p q : Word) (steps : Nat) (tags : List TagRange) : Out :=
       .next ((base.accept unit k i p q w 0#64 0 tags).updGriddle k fun g =>
         { g with budCmds := g.budCmds - 1, budSteps := g.budSteps - steps })
     let kb := bits w 16 16 + 1
     let h := s.c.chan (bits w 60 3)
     let mode := bits w 60 2
     let spc := bits w 62 2
     let dty := bits w 34 4
     let size := if mode = 0 then 1024 * m else if mode = 1 then 512 * m else if mode = 2 then 2048 else 2 ^ 21
     let far := clusterOf k * 64 + bits w 40 6
     let steps := if mode = 0 then 4 * m else if mode = 1 then 2 * m else if mode = 2 then 8 else 8192
     let row := 128 * (if dty = 2 ∨ dty = 8 then 4 else if dty = 9 ∨ dty = 10 then 2 else 1)
     let line (save : Bool) : List TagRange := if spc = 0 then [] else [⟨save, spc == 2, k * 2 ^ 20 + x.toNat % 2 ^ 20, size, 0, 1⟩]
     let scales : TagRange := ⟨false, false, k * 2 ^ 20 + bits y 0 26, kb, bits y 32 20, m⟩
     let array := mulSteps ((s.freshAhead k).1 && (s.freshAhead k).2 == fb) fa fb m kb
     (∀ e, s.needB16 = some e → Executes s g → ∀ i ∈ [Instr.grdMul g acq rel a b d, .grdDrain g acq rel a d, .grdSave g acq rel a d,
       .grdRest g acq rel a d], exec i s = .next (s.raise e 0#64)) ∧
     (s.needB16 = none → ((rel || bitAt w 59) = true → Unheld s (bits w 48 3)) →
       Ready s g [a, d] → spc ≤ 2 → bitAt w 47 = true → s.c.y.sup = true →
       (∀ j, j < 4 → (s.ctx (4 * far + j)).grdOwner = true → (s.ctx (4 * far + j)).st ≠ .running) →
       s.fenced (522 + octetOf far) = false → bitAt w 46 = false → bits w 16 24 = 0 → (2 ≤ mode → bits w 0 16 = 0) →
       (mode ≤ 1 → bits w 0 7 = r ∧ bits w 8 7 + 1 = m ∧ r + m ≤ 128 ∧ bitAt w 15 = false ∧ bitAt w 7 = false) →
       x.toNat % 64 = 0 → (spc = 0 → x.toNat < 2 ^ 60) → (spc ≠ 0 → x.toNat % 2 ^ 20 + size ≤ 2 ^ 20 ∧
         x.toNat / 2 ^ 20 = if spc = 2 then far % 64 else 0) →
       let line (save : Bool) : List TagRange := if spc = 0 then [] else [⟨save, spc == 2, far * 2 ^ 20 + x.toNat % 2 ^ 20, size, 0, 1⟩]
       exec (.grdSave g acq rel a d) s
         = .next (base.accept (.griddle (octetOf far)) far (.grdSave g acq rel a d) x 0#64 w 0#64 0 (line true)) ∧
       exec (.grdRest g acq rel a d) s
         = .next (base.accept (.griddle (octetOf far)) far (.grdRest g acq rel a d) x 0#64 w 0#64 0 (line false))) ∧
     (s.needB16 = none → (s.griddle k).lease = .held → s.queueFull unit = false → s.fenced (522 + octetOf k) = false →
     ((rel || bitAt w 59) = true → Unheld s (bits w 48 3)) → bits w 0 7 = r → bits w 8 7 + 1 = m → r + m ≤ 128 → bitAt w 15 = false →
     bitAt w 7 = false →
     (∀ ty, Ready s g [a, b, d] → ElTy.of fa = some ty → fb ≤ 6 → (fa = 6 ↔ fb = 6) → bits w 32 6 = 0 → bits y 52 12 = 0 → bits y 26 6 = 0 →
       bits y 0 26 + (m - 1) * bits y 32 20 + kb ≤ 2 ^ 20 →
       (bitAt w 63 = false → bits x 52 12 = 0 → bits x 26 6 = 0 → bits x 0 3 = 0 → bits x 32 3 = 0 →
         bits x 0 26 + (m - 1) * bits x 32 20 + kb * ty.runBytes ≤ 2 ^ 20 →
         exec (.grdMul g acq rel a b d) s = taken (.grdMul g acq rel a b d) x y array
           [scales, ⟨false, false, k * 2 ^ 20 + bits x 0 26, kb * ty.runBytes, bits x 32 20, m⟩]) ∧
       (bitAt w 63 = true → x = 0#64 → h.en = true → bitAt h.cfg 58 = true →
         exec (.grdMul g acq rel a b d) s = taken (.grdMul g acq rel a b d) x y array [scales])) ∧
     (Ready s g [a, d] → spc = 1 ∨ spc = 2 → dty ∈ [2, 8, 9, 10, 11, 12] → bitAt w 60 = false → bits w 16 14 = 0 →
       (bitAt w 31 = true → bits w 32 2 = 0 ∧ bitAt w 30 = false) → (bitAt w 30 = true → dty = 11 ∨ dty = 12) →
       bits x 52 12 = 0 → bits x 26 6 = 0 → bits x 20 6 = (if spc = 2 then k % 64 else 0) → bits x 0 6 = 0 → bits x 32 6 = 0 →
       bits x 0 20 + (m - 1) * bits x 32 20 + row ≤ 2 ^ 20 →
       exec (.grdDrain g acq rel a d) s = taken (.grdDrain g acq rel a d) x 0#64 (ceilDiv (m * (row / 128)) 2)
         [⟨true, spc == 2, k * 2 ^ 20 + bits x 0 20, row, bits x 32 20, m⟩]) ∧
     (Ready s g [a, d] → spc ≤ 2 → bitAt w 47 = false → bitAt w 46 = false → bits w 16 24 = 0 → (2 ≤ mode → bits w 0 16 = 0) →
       x.toNat % 64 = 0 → (spc = 0 → x.toNat < 2 ^ 60) → (spc ≠ 0 → x.toNat % 2 ^ 20 + size ≤ 2 ^ 20 ∧
         x.toNat / 2 ^ 20 = if spc = 2 then k % 64 else 0) →
       exec (.grdSave g acq rel a d) s = taken (.grdSave g acq rel a d) x 0#64 steps (line true) ∧
       exec (.grdRest g acq rel a d) s = taken (.grdRest g acq rel a d) x 0#64 steps (line false))))

/-- R134, R385 to R393: the fabric instructions. With well-formed words, a route that the serving port's slots hold and an open
request entry free, SEND, SENDV and RRED issue their packet, RLD its command, MLDR reserves its result elements and issues its
contribution, RECV pops a head whose stamp is the expected one and raises TSTAMP for another, and FAB.STAT answers at L + 2. -/
def Obligations.FabricInstructions : Prop :=
  ∀ (s : State) (g : Guard) (w : BitVec 2) (rel : Bool) (a b d : SReg) (v : VReg) (n : BitVec 3), s.fab.entries.length < 1024 →
    let z := 2 ^ w.toNat
    let x := s.rs a
    let f := s.rs d
    let r := s.rs (d + 1#5)
    let data := s.c.r.readV v.toNat
    let vecs : List Byte := (List.range 256).map fun i => BitVec.ofNat 8 (elemOf data.v 1 i)
    let scope := if rel then some 6 else none
    let unicast (c : Word) : Bool := s.badRoute c (fun e => slotUnicast e (bits x 51 9))
    let sent (op : Byte) (t aux : Word) (bs : List Byte) (p : BitVec 4) (c : Word) : Out :=
      .next (s.issueOp (.send op t aux bs p s.stampNow (bits c 59 5) (bits c 47 12)) none false false scope)
    let fine := bits r 0 47 = 0 ∧ s.badFlag f x = false ∧ unicast r = false
    let h := s.c.chan n.toNat
    let want := (s.rs a).setWidth 32
    (Ready s g [a, b, d, d + 1#5] → fine → s.badTarget x [0, 1, 2] = false →
      exec (.send g w rel a b d) s = sent 1#8 (alignTo z x) (alignTo 8 f) (natLe (s.rs b).toNat z) 0#4 r) ∧
    (Ready s g [a, d, d + 1#5] → data.p = 0#4 → fine → s.badTarget x [0, 1, 2, 3] = false →
      exec (.sendv g rel a v d) s = sent 1#8 (if bits x 60 4 = 3 then x else alignTo 256 x) (alignTo 8 f) vecs 0#4 r) ∧
    (Ready s g [a, d] → data.p = 0#4 → bits f 0 35 = 0 → bits f 44 3 ≤ 5 → s.badTarget x [2] = false → x.toNat % 256 = 0 →
      unicast f = false → exec (.rred g rel a v d) s = sent 4#8 x f vecs 0#4 f) ∧
    (Ready s g [a, d] → bits f 0 6 = 0 → ((s.ctx (s.ownerOf s.who)).chan (bits f 44 3)).badFab = false →
      s.badTarget x [0, 2] = false → unicast f = false → exec (.rld g a d) s
        = .next (s.accept .fabric (coreOf s.who) (.rld g a d) (alignTo 256 x) f (s.stampNow.setWidth 64) 0#64 0 [])) ∧
    (Ready s g [b] → ∀ c ch m, c = s.rs b → ch = s.c.chan (bits c 44 3) → m = (if bitAt c 43 then 1 else 2) → data.p = 0#4 →
      bits c 0 25 = 0 → ch.badFab = false → s.badRoute c (fun e => slotReduce e (bits c 25 10)) = false →
      (bitAt s.c.y.collcfg 63 = true → bits s.c.y.collcfg 32 10 = bits c 25 10) → (ch.res - ch.cons).toNat + m ≤ ch.size →
      ∃ t ids, s.reserveResults (bits c 44 3) s.stampNow m = (t, ids) ∧ ids.length = m ∧
        exec (.mldr g d v b) s = .next (t.issueOp (.mldr c vecs s.stampNow ids) (some (.s d.toNat)) false false none)) ∧
    (Ready s g [a] → Clear s → h.badFab = false → bitAt h.cfg 58 = false → h.prod ≠ h.cons →
      (s.headStamp n.toNat = want → exec (.recv g v n a) s = .next ((s.readHead n.toNat).holdV 2 v (s.headOf n.toNat))) ∧
      (s.headStamp n.toNat ≠ want → exec (.recv g v n a) s
        = .next (s.raise .tstamp ((s.headStamp n.toNat).setWidth 64 <<< 32 ||| want.setWidth 64)))) ∧
    (Ready s g [a] → (∀ u, s.fabStat x = some u → exec (.fabStat g d a) s = .next (s.hold 2 (.scal d.toNat u false) none)) ∧
      (s.fabStat x = none → exec (.fabStat g d a) s = .next (s.raise .illegal 0#64)))


/-- R225, R228, R229: the segment that an F32 element selects in a well-formed LIN table, and what the policy makes of an element
outside the domain. Inside, segment i is below NSEG and spans from LO + i × w to LO + (i + 1) × w; every number stands in
units of 2^e0. A NaN stays a NaN under every policy. R230, R231: what one element comes to: the canonical NaN, the SAT value
in the final conversion, a fault unless poison covers the element, or the polynomial of its segment's coefficients, scaled and
converted once. R231, R232, R237 to R239: SF.EVAL and SF.EVALX. An UNBOUND or LOST slot raises SFGAP; else the lowest element
that faults raises SFGAP or SFDOM with its place; else the result lands at L + 8 or L + 10: each active element is the segment
result of the element, pre-mapped by the pair for SF.EVALX, others keep the old value, and bytes above the elements are zero.
A read of the head's lines and of the segments may find their errors. -/
def Obligations.SegmentsAreEvaluated : Prop :=
  (∀ (h : SegHeader) (c : Nat), h.ok = true → h.mode = 0 →
     let x := FFmt.f32.value c
     let lo := FFmt.f32.value h.lo
     (x = .nan → h.path c = .nan) ∧
     (x.lt lo = true → h.path c = if h.pol = 0 then .seg 0 (.fin false 0 0) else if h.pol = 1 then .sat h.satlo else .dom 0) ∧
     (x ≠ .nan → x.lt lo = false → x.lt (FFmt.f32.value h.hi) = false → ∃ w, h.widthExp = some w ∧ h.path c
       = if h.pol = 0 then .seg (h.nseg - 1) (.fin false 1 w) else if h.pol = 1 then .sat h.sathi else .dom 1) ∧
     (x.lt lo = false → x.lt (FFmt.f32.value h.hi) = true → ∃ i t w nx mx ex nl ml el e0,
       x = .fin nx mx ex ∧ lo = .fin nl ml el ∧ h.widthExp = some w ∧ e0 = min (min ex el) w ∧ h.path c = .seg i t ∧ i < h.nseg ∧
       scaled nl ml el e0 + i * 2 ^ (w - e0).toNat ≤ scaled nx mx ex e0 ∧
       scaled nx mx ex e0 < scaled nl ml el e0 + (i + 1) * 2 ^ (w - e0).toNat)) ∧
  (∀ (s : State) (h : SegHeader) (a : Int) (dt : FFmt) (cov : Bool) (c : Nat),
     let final (v : FVal) : Nat := dt.encode s.rnd true s.ftz v
     let coef (i d : Nat) : FVal := FFmt.f32.value (leNat (s.tmemBytes (a + 32 + 16 * (i : Int) + 4 * (d : Int)) 4))
     let round (v : FVal) : FVal := FFmt.f32.value (FFmt.f32.encode .rne true false v)
     let step (t p q : FVal) : FVal := round ((p.mul t).add .rne q)
     (h.path c = .nan → s.segElem h a dt cov c = .val dt.qnan cov) ∧
     (∀ v, h.path c = .sat v → s.segElem h a dt cov c = .val (final (FFmt.f32.value v)) cov) ∧
     (∀ side, h.path c = .dom side → s.segElem h a dt cov c = if cov then .val dt.qnan true else .dom side) ∧
     (∀ i t, h.path c = .seg i t → 0 ≤ a → ∀ pois, pois = (cov || s.tmemPois (a + 32 + 16 * (i : Int)) 16) →
       (h.isGap i = true → s.segElem h a dt cov c = if pois then .val dt.qnan true else .gap i) ∧
       (h.isGap i = false → ∀ p, p = (match h.deg with
           | 0 => coef i 0
           | 1 => step t (coef i 1) (coef i 0)
           | 2 => step t (step t (coef i 2) (coef i 1)) (coef i 0)
           | _ => step t (step t (step t (coef i 3) (coef i 2)) (coef i 1)) (coef i 0)) → h.deg ≤ 3 →
         s.segElem h a dt cov c = .val (final (h.scale p)) pois))) ∧
  (∀ (s : State) (pg : PReg) (t : BitVec 3) (d : VReg) (a : VOp) (k : BitVec 2) (pr : BitVec 4),
     Clear s → HeadsReady s [a] → t ≠ 7#3 →
     let slot := SMap.at TabSlot.none s.c.y.tabs k.toNat
     let ty : FFmt × FFmt := match t.toNat with
       | 0 => (.f32, .f32) | 1 => (.bf16, .bf16) | 2 => (.f16, .f16) | 3 => (.f32, .bf16) | 4 => (.bf16, .f32)
       | 5 => (.f16, .f32) | _ => (.f32, .f16)
     let ws := ty.1.bytes
     let wd := ty.2.bytes
     let n := if t.toNat = 1 ∨ t.toNat = 2 then 128 else 64
     let al := FFmt.f32.value ((s.rs (pr ++ 0#1)).toNat % 2 ^ 32)
     let be := FFmt.f32.value ((s.rs (pr ++ 1#1)).toNat % 2 ^ 32)
     let old := s.c.r.readV d.toNat
     let forms : List (Instr × Nat × Bool × (FVal → FVal)) :=
       [(.sfEval pg t d a k, 8, s.pp pg, fun v => v),
        (.sfEvalx pg t d a pr k, 10, s.pp pg || (s.ps (pr ++ 0#1) || s.ps (pr ++ 1#1)), fun v => (al.mul v).add .rne be)]
     ∀ e ∈ forms,
       let cov (i : Nat) : Bool := e.2.2.1 || (s.vop a).p.getLsbD (i * ws / 64)
       let out (i : Nat) : SegOut :=
         if active (s.rp pg) wd i then s.segElem (SegHeader.of slot.header) (s.c.y.trbase + slot.off) ty.2 (cov i)
           (FFmt.f32.encode .rne true false (e.2.2.2 (ty.1.value (elemOf (s.vop a).v ws i))))
         else .val (elemOf old.v wd i) (cov i || old.p.getLsbD (i * wd / 64))
       (slot.st = .unbound → exec e.1 s = .next ((reading s [a]).raise .sfgap (segInfo 1 0 0 k.toNat 255))) ∧
       (slot.st = .lost → exec e.1 s = .next ((reading s [a]).raise .sfgap (segInfo 2 0 0 k.toNat 255))) ∧
       (slot.st = .bound →
         (∀ i, i < n → (∀ j, j < i → ∃ c p, out j = .val c p) →
           (∀ seg, out i = .gap seg → exec e.1 s = .next ((reading s [a]).raise .sfgap (segInfo 0 0 seg k.toNat i))) ∧
           (∀ side, out i = .dom side → exec e.1 s = .next ((reading s [a]).raise .sfdom (segInfo 0 side 0 k.toNat i)))) ∧
         ((∀ j, j < n → ∃ c p, out j = .val c p) → ∃ r v q, Noticed (reading s [a]) r ∧ exec e.1 s = .next (r.holdV e.2.1 d ⟨v, q⟩) ∧
           (∀ j c p, j < n → out j = .val c p → elemOf v wd j = c % 256 ^ wd) ∧
           (∀ b, n * wd ≤ b → b < 256 → elemOf v 1 b = 0) ∧
           (∀ g, g < 4 → (q.getLsbD g = true ↔ e.2.2.1 = true ∨ ∃ j c, j < n ∧ out j = .val c true ∧ j * wd / 64 = g)))))

/-- R220, R227, R233 to R235, R240 to R244: SFT.LOAD, SFT.BIND, SFT.CHK, SFT.BIND.OFF and SFT.INFO. The operand limits raise
ILLEGAL, the context's own incomplete load on the range stalls SFT.BIND and SFT.CHK before the header is read, a byte outside
the share raises TRANGE, a table or another context's load in the way TBUSY; else the load is issued with its units and their
poison, the header is read and bound from L + 4, the CRC is issued, the slot is cleared from L + 4, and eight bytes of the
latched header land at L + 3. What is read may have errors that are found. That the own load's stall has reason 6 is
assumption log 22. -/
def Obligations.SegmentTableInstructions : Prop :=
  ∀ (s : State) (g : Guard) (d a b : SReg) (k w : BitVec 2), NoRace s →
    let src := (s.rs a).toNat
    let loff := signedOf 32 (bits (s.rs b) 0 32)
    let n := bits (s.rs b) 32 11
    let off := (s.rs a).toInt
    let at_ : Int := s.c.y.trbase + off
    let dst : Int := s.c.y.trbase + loff
    let limits := src < 2 ^ 20 ∧ src % 16 = 0 ∧ loff % 16 = 0 ∧ 1 ≤ n ∧ n ≤ 1024 ∧ bits (s.rs b) 43 21 = 0 ∧ src + 16 * n ≤ 2 ^ 20
    let key := coreOf s.who * 2 ^ 20 + src
    let load := Instr.sftLoad g d a b
    let bind := Instr.sftBind g d a k
    let chk := Instr.sftChk g d a
    let hdr := s.tmemBytes at_ 32
    let h := SegHeader.of hdr
    let pois := s.tmemPois at_ 32
    let own (m : Nat) : Prop := firstBusy at_ m (s.tabLoads true) ≠ none
    let bindLen := if h.ok then 32 + 16 * h.nseg else 32
    let badLen := decide (h.nseg = 0 ∨ 512 < h.nseg)
    let chkLen := if badLen then 32 else 32 + 16 * h.nseg
    let fits (m : Nat) : Prop := s.tabOutside at_ m = none ∧ ¬ own m ∧ firstBusy at_ m (s.tabLoads false) = none
    let status (t : TabSlot) (st : Nat) : Out := .next (((s.noticeTab at_ 32).hold 4 (.bind k.toNat t) none).vscal 4 d (toWord st) false)
    (Ready s g [a, b] →
      (¬ limits → exec load s = .next (s.raise .illegal 0#64)) ∧
      (limits → (∀ x, s.tabOutside dst (16 * n) = some x → exec load s = .next (s.raise .trange (tabInfo x 0))) ∧
        (s.tabOutside dst (16 * n) = none →
          (∀ x c, firstBusy dst (16 * n) (s.tabHolders ++ s.tabLoads false) = some (x, c) →
            exec load s = .next (s.raise .tbusy (tabInfo x c))) ∧
          (firstBusy dst (16 * n) (s.tabHolders ++ s.tabLoads false) = none →
            (∀ l, src / 64 ≤ l → l ≤ (src + 16 * n - 1) / 64 → s.spot false 64 (toWord (64 * l)) = .own (coreOf s.who * 2 ^ 20 + 64 * l) ∧
              RaceFree s false false true (coreOf s.who * 2 ^ 20 + 64 * l) 64 ∧ Unqueued s false (coreOf s.who * 2 ^ 20 + 64 * l) 64) →
            ∃ us r, Noticed s r ∧
              exec load s = .next (r.issueOp (.sftLoad (coreOf s.who * 2 ^ 16 + dst.toNat) us) (some (.s d.toNat)) false false none) ∧
              us.length = n ∧ ∀ i, i < n → us.getD i ([], false)
                = (s.ab.readZ 6 (key + 16 * i) 16, s.ab.poisoned 6 (key + 16 * i)))))) ∧
    (Ready s g [a] →
      (off % 32 ≠ 0 → exec bind s = .next (s.raise .illegal 0#64) ∧ exec chk s = .next (s.raise .illegal 0#64)) ∧
      (off % 32 = 0 → own 32 → exec bind s = .next (s.stallFor 6) ∧ exec chk s = .next (s.stallFor 6)) ∧
      (∀ x, off % 32 = 0 → ¬ own 32 → s.tabOutside at_ 32 = some x →
        exec bind s = .next (s.raise .trange (tabInfo x 0)) ∧ exec chk s = .next (s.raise .trange (tabInfo x 0))) ∧
      (off % 32 = 0 → ¬ own 32 → s.tabOutside at_ 32 = none →
        (∀ i m, (i = bind ∧ m = bindLen) ∨ (i = chk ∧ m = chkLen) →
          (own m → exec i s = .next (s.stallFor 6)) ∧
          (∀ x, ¬ own m → s.tabOutside at_ m = some x → exec i s = .next (s.raise .trange (tabInfo x 0))) ∧
          (∀ x c, ¬ own m → s.tabOutside at_ m = none → firstBusy at_ m (s.tabLoads false) = some (x, c) →
            exec i s = .next (s.raise .tbusy (tabInfo x c)))) ∧
        (fits bindLen → h.ok = true → pois = false → exec bind s = status ⟨.bound, off, hdr, bindLen, none⟩ (h.nseg * 2 ^ 32)) ∧
        (fits bindLen → h.ok = false ∨ pois = true → exec bind s = status ⟨.unbound, off, [], 32, none⟩ (if pois then 3 else 1)) ∧
        (fits chkLen → ∀ tab crc, tab = s.tmemBytes at_ chkLen → crc = crc32c (tab.take 20 ++ [0#8, 0#8, 0#8, 0#8] ++ tab.drop 24) →
          exec chk s = .next ((s.noticeTab at_ chkLen).issueOp (.sftChk (toWord (boolNat (s.tmemPois at_ chkLen) * 2 ^ 34
            + boolNat badLen * 2 ^ 33 + boolNat (!s.tmemPois at_ chkLen && !badLen && crc == h.check) * 2 ^ 32 + crc)))
            (some (.s d.toNat)) false false none)))) ∧
    (Executes s g →
      exec (.sftBindOff g d k) s = .next ((s.hold 4 (.bind k.toNat TabSlot.none) none).vscal 4 d 2#64 (s.guardPois g)) ∧
      ∀ slot, slot = SMap.at TabSlot.none s.c.y.tabs k.toNat → exec (.sftInfo g d k w) s
        = .next (s.vscal 3 d (if slot.st = .bound then toWord (leNat ((slot.header.drop (8 * w.toNat)).take 8)) else 0#64) (s.guardPois g)))


/-- R12, R46, R62, R63, R162, R253, R271, R275, R363, R424: the events that write a supervisor's register change nothing unless a
supervisor context makes them; from one, each does what its rule says: SYNOBJ the counter that SYNSEL names, which the waits
armed on it test again, SPCFG.BANKOFF, CRES, QSET while the queue is disabled, LREG with its copies, PCFG (GRACE 0 becomes 1,
PROT is fixed while a context of the partition is placed), a ring register (LOGN 1 to 6 or above 16 is ignored), a ring head,
an invalidation that wakes the waiters it names, and a migration, ignored while one is in progress. That these rows are steps
of their own is assumption log 27. -/
def Obligations.SupervisorRegisterWrites : Prop :=
  ∀ (s : State) (x n num : Nat) (v : Word),
    let d := dieOf (coreOf x)
    let sup := x < 2048 ∧ (s.ctx x).y.sup = true
    let ring (i : Nat) : Ring := SMap.at Ring.none s.rings i
    let setR (i : Nat) (r : Ring) : Out := .next { s with rings := SMap.put Ring.none s.rings i r.settle }
    let ringAt (i : Nat) : Out := if bits v 0 5 ≠ 0 ∧ (bits v 0 5 < 7 ∨ 16 < bits v 0 5) then .next s
      else setR i { ring i with reg := v &&& 0x0FFFFFFFFFFFF01F#64, pending := true }
    let headAt (i : Nat) : Out := setR i { ring i with head := v.extractLsb' 0 17 }
    (¬ sup → ∀ i ∈ [Instr.synobjWrite x v, .spcfgWrite x v, .cresWrite x n v, .qsetWrite x v, .lregWrite x n v, .pcfgWrite x n v,
      .isscfgWrite x v, .ringRegisterWrite x num v, .tlbinv x v, .migrationStart x v], exec i s = .next s) ∧
    (sup →
      (∀ key, key = bits (s.ctx x).y.synsel 28 3 * 256 + bits (s.ctx x).y.synsel 20 8 →
        exec (.synobjWrite x v) s = .next (s.ops.foldl (fun t o => t.retestWait key o)
          { s with sync := SMap.put 0#32 s.sync key (v.setWidth 32) })) ∧
      exec (.spcfgWrite x v) s = .next (s.setReg (coreOf x) 0x8D0 (v &&& 1#64)) ∧
      (n < 8 → exec (.cresWrite x n v) s = .next (s.setReg 0 (0x8C0 + n) v)) ∧
      (∀ q, q = bits (s.reg 0 0x880) 0 16 → ((s.queue q).en = true → exec (.qsetWrite x v) s = .next s) ∧
        ((s.queue q).en = false → exec (.qsetWrite x v) s
          = .next (s.updQueue q fun u => { u with part := bits v 40 4, pmax := bits v 32 2 }))) ∧
      (n < 16 → ∀ w, w = v &&& 0x8000007FFFFFFFFF#64 → ∀ t, t = s.setReg d (0x9D0 + n) w →
        ((∃ r ∈ s.svc.replays, r.die = d ∧ r.part = n) → exec (.lregWrite x n v) s = .next t) ∧
        ((∀ r ∈ s.svc.replays, r.die = d → r.part ≠ n) → exec (.lregWrite x n v) s = .next (t.updSvc fun u =>
          { u with copies := u.copies.filter fun c => !(c.die == d && c.part == n) || c.region == w }))) ∧
      (n < 16 → ∀ w, w = v &&& 0x80FF0000000FFFFF#64 → ∀ placed, placed = (!(s.contextsOf n).isEmpty || s.gangs.any fun g => g.part == n) →
        (placed = true → bitAt v 63 ≠ s.protectedPart n → exec (.pcfgWrite x n v) s = .next s) ∧
        ((placed = false ∨ bitAt v 63 = s.protectedPart n) → exec (.pcfgWrite x n v) s
          = .next (s.setReg 0 (0x820 + n) (if bits w 0 20 = 0 then w ||| 1#64 else w)))) ∧
      (0x850 ≤ num → num < 0x870 → exec (.ringRegisterWrite x num v) s = ringAt (num - 0x850)) ∧
      (num = 0x890 → exec (.ringRegisterWrite x num v) s = ringAt (32 + d)) ∧
      (num = 0x9B1 → exec (.ringRegisterWrite x num v) s = ringAt (64 + d)) ∧
      (0x900 ≤ num → num < 0x920 → exec (.ringHeadWrite x num v) s = headAt (num - 0x900)) ∧
      (num = 0x891 → exec (.ringHeadWrite x num v) s = headAt (32 + d)) ∧
      (num = 0x9B2 → exec (.ringHeadWrite x num v) s = headAt (64 + d)) ∧
      exec (.tlbinv x v) s = .next ((s.monitors.filter fun m => m.die == d && m.named v).foldl State.wake
        (s.updSvc fun w => { w with tlbinv := w.tlbinv ++ [⟨d, v⟩] })) ∧
      ((s.mig d).run ≠ none → exec (.migrationStart x v) s = .next s) ∧
      ((s.mig d).run = none → bitAt v 60 = true → ∀ space off, space = (if bitAt v 54 then 16 else bits v 50 4) → off = bits v 16 34 * 65536 →
        exec (.migrationStart x v) s = .next (s.updMig d fun m => ⟨toWord (bits v 16 39 * 2 ^ 16), m.dst, 0,
          some (match s.pageLeaf d space off with
            | some (_, e, b) => ⟨space, off / 2 ^ b * 2 ^ b, b, bits e 8 31 * 256, m.dst.toNat⟩
            | none => ⟨space, off, 0, 0, m.dst.toNat⟩), m.held⟩)))


/-- R129, R127, R407: a write of ISSCFG keeps its fields and brings the higher of FLOOR and the throttle level into force at once;
a level that changes sets EVENTS.THR in every context of the core, and a THROTTLE event is due in those that ask for one.
SPLIT_LEVEL_STEP moves the throttle level by one step, up while a limit is exceeded and down once both are kept, and stays
between 0 and 3: the core's power estimate against IMAX at the supply of its operating point (R75), the temperature against
TMAX (R464). That a change is in force at once is assumption log 24; that IMAX is compared as a power is log 4. R434, R461,
R462, R464: attestation ends with NOKEY without an identity key, with FAULT where ATTADDR's lines cannot be read; the
temperature and the estimate are what the sensors give. As the estimate changes, the slot's owner is charged with the old one
times the time that has passed (in µJ, from mW and ns, with the pJ that earlier charges have left). The readings are free
values (assumption log 4). -/
def Obligations.PowerAndSensors : Prop :=
  (∀ (s : State) (x k : Nat) (v : Word) (up : Bool), k < 512 →
     let level (a b : BitVec 2) : BitVec 2 := if a.toNat < b.toNat then b else a
     let cfg := s.reg (dieOf k) 0xA0A
     let temp := bits (s.reg (dieOf k) 0xA0B) 0 8
     let tmax := bits cfg 16 8
     let limit := bits cfg 32 16 * [600, 650, 700, 750, 800, 840, 880, 920].getD (s.core k).opcur.toNat 0 / 100
     let power := (s.core k).power.toNat
     let tooHot := (bits cfg 32 16 ≠ 0 ∧ limit < power) ∨ tmax < temp
     let under := (bits cfg 32 16 = 0 ∨ 10 * power < 9 * limit) ∧ 10 * temp < 9 * tmax
     let thr := (s.core k).thr
     (x < 2048 → (s.ctx x).y.sup = true → coreOf x = k → ∃ t, exec (.isscfgWrite x v) s = .next t ∧
       t.reg k 0x800 = v &&& 0xFFFF0003#64 ∧ (t.core k).thr = thr ∧ (t.core k).lvl = level thr (v.extractLsb' 0 2) ∧
       (∀ j, j < 4 → (s.core k).lvl ≠ level thr (v.extractLsb' 0 2) → (t.ctx (4 * k + j)).e.thr = true ∧
         ((s.ctx (4 * k + j)).st ≠ .free → (s.ctx (4 * k + j)).e.thrn = true →
           (t.ctx (4 * k + j)).e.thrEvent = some (level thr (v.extractLsb' 0 2), (s.core k).lvl))) ∧
       (level thr (v.extractLsb' 0 2) = (s.core k).lvl → t = s.setReg k 0x800 (v &&& 0xFFFF0003#64))) ∧
     (∃ t, exec (.splitLevelStep k up) s = .next t ∧
       (t.core k).thr.toNat = (if up then if tooHot ∧ thr.toNat < 3 then thr.toNat + 1 else thr.toNat
         else if under ∧ 0 < thr.toNat then thr.toNat - 1 else thr.toNat) ∧
       ((t.core k).thr ≠ thr → (t.core k).lvl = level (t.core k).thr ((s.reg k 0x800).extractLsb' 0 2)))) ∧
  (∀ (s : State) (d k x : Nat),
     let b := s.svc.boot
     let ends (t : State) (e : Nat) : Out := .next (t.updBoot fun b => { b with attBusy := false, attErr := e })
     let u := s.updCore k fun c => { c with power := Config.powerEstimate s.tick }
     (b.attBusy = false → exec .attestationComplete s = .next s) ∧
     (b.attBusy = true → hasIdentity b.flash = false → exec .attestationComplete s = ends s 1) ∧
     (b.attBusy = true → hasIdentity b.flash = true →
       (∀ t, s.attRead (s.reg 0 0xA10) = (t, none) → exec .attestationComplete s = ends t 2) ∧
       (∀ t n w, s.attRead (s.reg 0 0xA10) = (t, some n) →
         t.attWrite (s.reg 0 0xA10 + 64#64) (cut 64 9 (attReport b.flash b s.tick n)) = (w, true) →
         exec .attestationComplete s = ends w.ticked 0)) ∧
     exec (.tempstatUpdate d) s = .next ((s.setReg d 0xA0B (Config.temperature s.tick &&& 0xFF#64)).ticked) ∧
     let est := (s.core k).power.toNat
     let charge := toWord ((est * Config.slotNanos s.tick + Config.energyRest s.tick % 1000000) / 1000000)
     ((s.core k).owner = 0 ∨ 5 ≤ (s.core k).owner ∨ est = 0 → exec (.powerEstimateUpdate k) s = .next u.ticked) ∧
     (1 ≤ (s.core k).owner → (s.core k).owner ≤ 4 → est ≠ 0 → x = 4 * k + (s.core k).owner - 1 → exec (.powerEstimateUpdate k) s
       = .next (((s.upd x fun c => { c with y := { c.y with energy := c.y.energy + charge } }).ticked.updCore k fun c =>
           { c with power := Config.powerEstimate s.tick }).ticked)))

/-- R143, R152, R153, R258, R275: the events that write a context's own registers act only while the context runs. CHCFG that R258
forbids, a count for a level that is not of kind T, and a misaligned EPC raise ILLEGAL; else the channel starts afresh, the
count stands, EPC stands in handler mode and is ignored outside it, FCR is in force four cycles on, and the partition's ring
heads advance. That a channel buffer of SIZE 0 lies in every window is the model's reading (assumption log 20). R12, R38, R51,
R104, R148: REGISTER_WRITE. A write by a context that does not run, or of a register that its level may not name, changes
nothing; one that must raise ILLEGAL raises it; any other lands on the register that its number names. A queue page takes
QSTAT's CFGERR, QCFG, the four addresses and QCHEAD; QCFG.EN needs stage SUP; an access of another size only sets CFGERR. A
partition page takes PCTL.RST. What a host reads: QSTAT, QCFG, the three addresses, QCHEAD and PSTAT with their fields, and
zero from KICK and every other offset. That these rows are steps of their own is assumption log 27; what the host reads, and
that a write of an odd size is a REGISTER_WRITE, is assumption log 42. -/
def Obligations.RegisterWrites : Prop :=
  (∀ (s : State) (x n num : Nat) (v : Word), x < 2048 → n < 4 →
     let c := s.ctx x
     let h := c.chan num
     let size := bits v 0 13
     let base := bits v 32 20
     let outside := ¬ (c.y.sup = true ∨ ∃ w, w = s.reg 0 ((if bitAt v 59 then 0x8B0 else 0x8A0) + c.y.part) ∧
       65536 * bits w 0 5 ≤ base ∧ base + 256 * size ≤ 65536 * bits w 8 5)
     let bad := (h.en = true ∧ h.res ≠ h.cons) ∨ (bitAt v 63 = true ∧ (4 < bits v 60 3 ∨ size = 0 ∨ 2 ^ 20 < base + 256 * size)) ∨
       (size ≠ 0 ∧ outside)
     let illegal : Out := .next (((s.focus x).iss fun _ => { Issue.empty with pc := c.f.pc }).raise .illegal 0#64)
     (c.st ≠ .running → ∀ i ∈ [Instr.chcfgWrite x num v, .lcntWrite x n v, .epcWrite x v, .fcrWrite x v], exec i s = .next s) ∧
     (c.st = .running →
       (num < 8 → bad → exec (.chcfgWrite x num v) s = illegal) ∧
       (num < 8 → ¬ bad → exec (.chcfgWrite x num v) s
         = .next (s.setCtx x (c.updChan num fun _ => { Chan.zero with cfg := v &&& 0xFC0FFFFF00001FFF#64 }))) ∧
       (v ≠ 0#64 → bits (c.loopEntry n) 62 2 ≠ 1 → exec (.lcntWrite x n v) s = illegal) ∧
       (v = 0#64 ∨ bits (c.loopEntry n) 62 2 = 1 → exec (.lcntWrite x n v) s
         = .next (s.setCtx x { c with f := { c.f with lcnt := SMap.put 0#64 c.f.lcnt n v } })) ∧
       (c.e.hm = false → exec (.epcWrite x v) s = .next s) ∧
       (c.e.hm = true → bits v 0 2 ≠ 0 → exec (.epcWrite x v) s = illegal) ∧
       (c.e.hm = true → bits v 0 2 = 0 → exec (.epcWrite x v) s
         = .next (s.setCtx x { c with e := { c.e with epc := v.setWidth 32 } })) ∧
       exec (.fcrWrite x v) s = .next (s.setCtx x { c with f := { c.f with
         pend := c.f.pend ++ [⟨c.now + 4#64, 0, .fcr 0xFF0F#64 v, none⟩] } })) ∧
     (∀ i, (num = 0x022 ∧ i = c.y.part) ∨ (num = 0x023 ∧ i = 16 + c.y.part) → exec (.ringHeadWrite x num v) s
       = .next { s with rings := SMap.put Ring.none s.rings i (Ring.settle { SMap.at Ring.none s.rings i with head := v.extractLsb' 0 17 }) })) ∧
  (∀ (s : State) (x num q n off : Nat) (v : Word),
     let c := s.ctx x
     let wr (t : State) : Prop := exec (.registerWrite (.sys x num) v) s = .next t
     let runs := x < 2048 ∧ c.st = .running
     (¬ runs ∨ SysReg.open c.y.sup num = false → wr s) ∧
     (runs → SysReg.open c.y.sup num = true → (s.swriteBad x num v = true →
         wr (((s.focus x).iss fun _ => { Issue.empty with pc := c.f.pc }).raise .illegal 0#64)) ∧
       (s.swriteBad x num v = false →
         (num = 0x003 → wr (s.setCtx x { c with y := { c.y with chk := v.getLsbD 0 } })) ∧
         (num = 0x007 → wr (s.setCtx x { c with y := { c.y with tsoff := v.setWidth 32 } })) ∧
         (0x004 ≤ num → num ≤ 0x006 → wr (s.setCtx x { c with y := { c.y with str := SMap.put 0#64 c.y.str (num - 3) v } })) ∧
         (num = 0x018 → wr (s.setCtx x { c with e := { c.e with tvecEn := v.getLsbD 63, tvecOff := v.extractLsb' 0 18 &&& 0x3FFFC#18 } })) ∧
         (num = 0x024 → wr (s.setCtx x { c with e := { c.e with thrn := v.getLsbD 2, thr := c.e.thr && !v.getLsbD 1 } })) ∧
         (num = 0x8C8 → wr (s.setCtx x { c with y := { c.y with synsel := v &&& 0x7FF0F0FF#64 } })) ∧
         (num = 0x8D0 → wr (s.setReg (coreOf x) 0x8D0 (v &&& 1#64))) ∧
         (0x8A0 ≤ num → num < 0x8C0 → wr (s.setReg 0 num (v &&& 0x1F1F#64))) ∧
         (0x8E0 ≤ num → num < 0x8F0 → wr (s.setReg (dieOf (coreOf x)) num (v &&& 0x8000007FFFFFC000#64))))) ∧
     (q < 65536 → ∀ pg : Nat → Out, pg = (fun o => exec (.registerWrite (.queue q o) v) s) →
       (bitAt v 47 = true → pg 0x008 = .next (s.updQueue q fun u => { u with cfgerr := false })) ∧
       pg 0x010 = .next (s.updQueue q fun u =>
         { u with en := v.getLsbD 63 && s.svc.boot.stage == 7, ien := v.getLsbD 62, vec := bits v 0 11 }) ∧
       pg 0x030 = .next (s.updQueue q fun u => { u with chead := v.extractLsb' 0 17 }) ∧
       pg 0x000 = exec (.kick q v) s ∧ pg 0x018 = exec (.qgraphWrite q v) s ∧ pg 0x020 = exec (.qcbaseWrite q v) s ∧
       pg 0x028 = exec (.qcsizeWrite q v) s) ∧
     (65536 ≤ q → exec (.registerWrite (.queue q off) v) s = .next s) ∧
     (q < 65536 → exec (.registerWrite (.queueSize q) v) s = .next (s.updQueue q fun u => { u with cfgerr := true })) ∧
     (∀ u, u = s.queue q → u.pend.length ≤ 64 → u.part < 16 → u.pmax < 4 → u.vec < 2 ^ 11 →
       (s.queueRead q 0x008).toNat = u.drop.toNat * 2 ^ 48 + boolNat u.cfgerr * 2 ^ 47 + boolNat u.active * 2 ^ 46
         + u.pend.length * 2 ^ 32 + u.seq.toNat ∧
       (s.queueRead q 0x010).toNat = boolNat u.en * 2 ^ 63 + boolNat u.ien * 2 ^ 62 + u.part * 2 ^ 40 + u.pmax * 2 ^ 32 + u.vec ∧
       s.queueRead q 0x018 = u.graph ∧ s.queueRead q 0x020 = u.cbase ∧ s.queueRead q 0x028 = toWord u.csize ∧
       s.queueRead q 0x030 = u.chead.setWidth 64 ∧
       (off ∉ [0x008, 0x010, 0x018, 0x020, 0x028, 0x030] → s.queueRead q off = 0#64)) ∧
     ((s.partRead n 0x008).toNat = boolNat (s.partBusy n) * 2 ^ 63 + boolNat (bitAt (s.reg 0 0x882) n) * 2 ^ 62
       + (SMap.at 0#32 s.fltcnt n).toNat) ∧
     (n < 16 → bitAt v 0 = true → exec (.registerWrite (.part n 0) v) s = exec (.pctlRst n) s))

/-- R42 to R44: the queue pages. A kick is accepted with the queue's next sequence number unless the queue is disabled, its
partition is in reset, or 64 kicks wait: then DROP counts it. QGRAPH, QCBASE and QCSIZE (which restarts the ring's tail) take
effect on a queue with nothing pending or active; else CFGERR is set. R29, R30, R33, R45, R49: KICK_START takes the oldest
pending kick of a queue that can start: its ring has room, no replay of the graph runs, the launch unit has a place, and no
earlier kick of the graph waits in a queue whose ring has room. The queue becomes active and the replay starts its nodes, or
fails with the code of what failed. REPLAY_COMPLETE ends a replay with nothing ready or running: the record carries status,
phase and tail, ACTIVE clears, and the interrupt is sent when enabled. The codes of what the rules leave open are assumption
log 28. -/
def Obligations.ReplaysRun : Prop :=
  (∀ (s : State) (q : Nat) (v : Word), q < 65536 →
     let u := s.queue q
     let busy := SMap.at false s.svc.busy u.part
     let idle := u.pend = [] ∧ u.active = false
     let set (f : Queue → Queue) : Out := .next (s.updQueue q f)
     (u.en = true → busy = false → u.pend.length ≠ 64 → exec (.kick q v) s = .next ((s.updQueue q fun u =>
       { u with seq := u.seq + 1#32, pend := u.pend ++ [⟨u.seq + 1#32, v.extractLsb' 48 16, v.extractLsb' 0 45, s.svc.kickOrder⟩] }).updSvc
       fun w => { w with kickOrder := w.kickOrder + 1 })) ∧
     (u.en = false ∨ busy = true ∨ u.pend.length = 64 → exec (.kick q v) s
       = set fun u => { u with drop := if u.drop.toNat = 65535 then u.drop else u.drop + 1#16 }) ∧
     (idle → exec (.qgraphWrite q v) s = set (fun u => { u with graph := v &&& 0x0FFFFFFFFFFFFFFF#64 }) ∧
       exec (.qcbaseWrite q v) s = set (fun u => { u with cbase := v &&& ~~~ 63#64 }) ∧
       exec (.qcsizeWrite q v) s = set (fun u => { u with csize := bits v 0 5, tail := 0#17 })) ∧
     (¬ idle → ∀ i ∈ [Instr.qgraphWrite q v, .qcbaseWrite q v, .qcsizeWrite q v], exec i s = set fun u => { u with cfgerr := true })) ∧
  (∀ (s : State) (q : Nat),
     let u := s.queue q
     let die := if q < 32768 then 0 else 1
     let s1 := ((s.updQueue q fun u => { u with pend := u.pend.drop 1, active := true }).ticked).withSerial
     let can := u.hasRoom = true ∧ (∀ r ∈ s.svc.replays, r.addr ≠ u.graph) ∧ (s.svc.replays.filter fun r => r.die == die).length < 256
     let r0 (k : Kick) (c : GraphCopy) (f : Option (Nat × Option Nat)) : Replay :=
       { queue := q, seq := k.seq, tag := k.tag, die := die, part := u.part, addr := u.graph, gen := c.gen, pmax := u.pmax,
         nodes := c.nodes, edges := c.edges, counts := c.nodes.map (·.npred), phase := c.nodes.map fun _ => .waiting, fail := f,
         tstart := s.pkgTime, id := s.serial }
     let none_ : GraphCopy := ⟨0, 0, 0#64, 0, [], [], 0, 0#64⟩
     let add (t : State) (r : Replay) : State := t.updSvc fun v => { v with replays := v.replays ++ [r] }
     (u.pend = [] ∨ ¬ can → exec (.kickStart q) s = .next s) ∧
     (∀ k ks, u.pend = k :: ks → can →
       (∀ e ∈ s.svc.queues, e.1 = q ∨ e.2.graph ≠ u.graph ∨ e.2.hasRoom = false ∨ ∀ j js, e.2.pend = j :: js → k.order ≤ j.order) →
       (∀ t e, s1.holdGraph die u.part u.graph = (t, .error e) → exec (.kickStart q) s = .next (add t (r0 k none_ (some e)))) ∧
       (∀ t c, s1.holdGraph die u.part u.graph = (t, .ok c) →
         (∀ w e, t.applyPatches (launchReq die u.part) c.nodes k.ptab = (w, .error e) →
           exec (.kickStart q) s = .next (add w (r0 k none_ (some e)))) ∧
         (∀ w, t.applyPatches (launchReq die u.part) c.nodes k.ptab = (w, .ok ()) →
           exec (.kickStart q) s = .next ((add w (r0 k c none)).startNodes q (r0 k c none))))) ∧
     (s.replayOf q = none → exec (.replayComplete q) s = .next s) ∧
     (∀ r, s.replayOf q = some r →
       let busy := ∃ p ∈ r.phase, p = .ready ∨ p = .running
       let out : Nat × Option Nat := match r.fail with
         | some e => e
         | none => if r.phase.all (· == .retired) then (0, none) else (0x1A, none)
       (busy → exec (.replayComplete q) s = .next s) ∧
       (¬ busy → r.queue = q → ∃ t, exec (.replayComplete q) s = .next t ∧
         t.queue q = { u with tail := u.tail + 1#17, active := false } ∧
         t.svc.replays = s.svc.replays.filter (fun x => x.id != r.id) ∧
         ∃ bs, t.svc.toHost = s.svc.toHost ++ [.write (u.cbase + toWord (32 * (u.tail.toNat % 2 ^ u.logn))) bs]
             ++ (if u.ien then [.msix u.vec] else []) ∧ bs.length = 32 ∧
           (∀ o n x, (o, n, x) ∈ [(0, 4, r.seq.toNat), (4, 2, r.tag.toNat), (6, 1, out.1 % 256),
             (7, 1, if u.tail.toNat / 2 ^ u.logn % 2 = 0 then 1 else 0)] → leNat ((bs.drop o).take n) = x))))

/-- R36, R264, R451, R464: host accesses to device memory. One that the supervisor's ranges or the boot stage deny is counted; a
read then gives poisoned zeros and a write is dropped. Else the bytes of the window, die 0 first, are read, those of poisoned
lines as zero and with their errors found, or written. A write of a page that is being migrated waits at its die (R425). The
ranges that the supervisor closes are assumption log 31. R264, R271, R274, R424, R425: the oldest invalidation of a die takes
the translations that it names out of the TLB. A migration aborts when the page has no leaf, or its destination is not
aligned, and the held writes go to the old page; else every line of the page is read once and copied, the leaf is written with
the new address, the translations of the page are dropped, the operations, the lines in progress and the undo logs point to
the copy, the held writes go to it, and RESULT says whether a line was poisoned. Of a page without an error, every byte of the
copy is that of the page. That a destination out of place aborts is assumption log 34, and who reads for a migration
assumption log 43. -/
def Obligations.HostMemoryAndPages : Prop :=
  (∀ (s : State) (h n : Nat) (bytes : List Byte),
     let key (x : Nat) : Nat := if x < 0x4800000000 then x else 2 ^ 39 + (x - 0x4800000000)
     let denied (m : Nat) := s.svc.boot.memUp = false ∨ ∃ r ∈ s.svc.hostClosed, r.1 < h + m ∧ h < r.1 + r.2
     let counted := s.setReg 0 0xA09 (toWord (min (2 ^ 32 - 1) (bits (s.reg 0 0xA09) 0 32 + 1)))
     let out (t : State) (m : HostMsg) : Out := .next (t.updSvc fun v => { v with toHost := v.toHost ++ [m] })
     (h + n ≤ 2 * 0x4800000000 →
       (denied n → exec (.hostMemRead h n) s = out counted (.data (List.replicate n 0#8) true)) ∧
       (¬ denied n → ∃ bs p, exec (.hostMemRead h n) s = out (s.noticeHdm h n) (.data bs p) ∧ bs.length = n ∧
         (∀ i, i < n → bs.getD i 0#8 = if s.hbm.poisoned 6 (key (h + i)) then 0#8 else Mem.byte s.hbm.bytes (key (h + i))) ∧
         (p = true ↔ ∃ i, i < n ∧ s.hbm.poisoned 6 (key (h + i)) = true))) ∧
     (h + bytes.length ≤ 2 * 0x4800000000 →
       (denied bytes.length → exec (.hostMemWrite h bytes) s = .next counted) ∧
       (¬ denied bytes.length →
         ((s.mig 0).run = none → (s.mig 1).run = none → ∃ t, exec (.hostMemWrite h bytes) s = .next t ∧
           ∀ a, Mem.byte t.hbm.bytes a = if ∃ i, i < bytes.length ∧ a = key (h + i) then
             bytes.getD ((if a < 2 ^ 39 then a else a - 2 ^ 39 + 0x4800000000) - h) 0#8 else Mem.byte s.hbm.bytes a) ∧
         (∀ d pa m, (s.mig d).run = some m → m.size ≠ 0 → pa < m.src + 2 ^ m.size → m.src < pa + bytes.length →
           (d = 0 ∧ h = pa ∧ h < 0x4800000000 ∧ h + bytes.length ≤ 0x4800000000) ∨ (d = 1 ∧ h = 0x4800000000 + pa) →
           exec (.hostMemWrite h bytes) s = .next (s.updMig d fun u => { u with held := u.held ++ [(pa, bytes, false, 0)] }))))) ∧
  (∀ (s : State) (d : Nat),
     let m := s.mig d
     (s.svc.tlbinv.find? (fun t => t.die == d) = none → exec (.tlbinvComplete d) s = .next s) ∧
     (∀ t, s.svc.tlbinv.find? (fun t => t.die == d) = some t → ∃ u, exec (.tlbinvComplete d) s = .next u ∧
       u.svc.tlbinv = s.svc.tlbinv.erase t ∧ (∀ e ∈ u.tlb, e ∈ s.tlb ∧ (e.die = d → e.named t.v = false)) ∧
       (∀ e ∈ s.tlb, e.die ≠ d ∨ e.named t.v = false → e ∈ u.tlb)) ∧
     (m.run = none → exec (.migrationComplete d) s = .next s) ∧
     let released (t : State) (result : Nat) (at_ : Nat → Nat) : State :=
       (t.mig d).held.foldl (fun u h => (splitLines h.1 h.2.1).foldl (fun u l => u.writeHbmNow h.2.2.2 d (at_ l.1) l.2 h.2.2.1) u)
         (t.updMig d fun y => { y with run := none, held := [], result := result })
     (∀ (r : Migration) line, s.abortMig d r line = (released s 2 id).post (32 + d)
       (recordBytes [(0, 1, 0x51), (1, 1, r.space % 16), (8, 8, r.off + line), (16, 8, r.dst)])) ∧
     (∀ (r : Migration) pa, r.moved pa = if r.src ≤ pa ∧ pa < r.src + 2 ^ r.size then pa - r.src + r.dst else pa) ∧
     (∀ r, m.run = some r →
       (s.pageLeaf d r.space r.off = none → exec (.migrationComplete d) s = .next (s.abortMig d r 0)) ∧
       (∀ a e n, s.pageLeaf d r.space r.off = some (a, e, n) →
         (n ≠ r.size ∨ r.dst % 2 ^ n ≠ 0 ∨ 0x4800000000 ≤ r.dst → exec (.migrationComplete d) s = .next (s.abortMig d r 0)) ∧
         (n = r.size → r.dst % 2 ^ n = 0 → r.dst < 0x4800000000 → 0x4800000000 < r.dst + 2 ^ n →
           exec (.migrationComplete d) s = .next (s.abortMig d r (0x4800000000 - r.dst))) ∧
         (n = r.size → r.dst % 2 ^ n = 0 → r.dst + 2 ^ n ≤ 0x4800000000 →
           let leaf := toWord (setBits e.toNat 8 31 (r.dst / 256))
           let inv := toWord ((if r.space = 16 then 2 ^ 62 else 0) + r.space % 16 * 2 ^ 50 + r.off)
           let clean := s.hbm.flips = [] ∧ ∀ i < 2 ^ n, s.hbm.poisoned 6 (hbmKey d (r.src + i)) = false
           (∀ t p, s.copyPage d r = (t, p) → ∀ u, u = ((t.writeHbmNow 0 d a (natLe leaf.toNat 8) false).dropTlb d inv).wakeNamed d inv →
             exec (.migrationComplete d) s = .next (released { u with
               ops := u.ops.map fun o => { o with kind := r.kind d o.kind }, cmds := u.cmds.map fun x => { x with spot := x.spot.map (r.line d) },
               elems := u.elems.map fun e => { e with spots := e.spots.map (r.line d) },
               gangs := u.gangs.map fun g => { g with undo := g.undo.map (r.undo d) } } (if p then 1 else 0) r.moved)) ∧
           (clean → m.held = [] → r.src + 2 ^ n ≤ r.dst ∨ r.dst + 2 ^ n ≤ r.src → a + 8 ≤ r.dst ∨ r.dst + 2 ^ n ≤ a →
             ∃ t, exec (.migrationComplete d) s = .next t ∧ (t.mig d).run = none ∧ (t.mig d).result = 0 ∧
               Mem.word t.hbm.bytes (hbmKey d a) = leaf ∧ (∀ x ∈ t.tlb, x ∈ s.tlb ∧ (x.die = d → x.named inv = false)) ∧
               ∀ i < 2 ^ n, Mem.byte t.hbm.bytes (hbmKey d (r.dst + i)) = Mem.byte s.hbm.bytes (hbmKey d (r.src + i)))))))

/-- R114, R149, R280, R339, R340, R343, R353, R364, R366: ACCESS_PERFORMED carries a unit of an operation of this package out once
nothing that R340 orders before it is outstanding, and one without a destination is then complete; a release is performed with
it, which clears its context's open marks (R348). ELASTIC_RESULT_ARRIVAL lands a result of the issuing agent and drops the
operation; in handler mode a result of the interrupted code is kept for ERET. Stated for loads, stores and atomics of AB, SP
and this package's HBM, WAITV, NOTIFY, FENCE, SYN.ADD, SYN.GET, SYN.WAIT, an engine's signal, BAR, and the release and the
record of a context that stops; a wide store performs one of its units that is left, a SYN.ADD completes the armed SYN.WAITs
that it satisfies, and a write of a page that is being migrated waits (R425). When each step happens is the agenda (assumption
log 1). That a release clears its context's marks (R348) as it is performed is the model's reading (assumption log 40). -/
def Obligations.ElasticOperationsAreCarriedOut : Prop :=
  ∀ (s : State) (o : Op), (s.ops.find? fun p => p.id == o.id) = some o →
    let done (t : State) (ls : List Landing) : State :=
      let u := if o.rel ≠ none ∧ o.agent < 2048 then t.releaseMarks o.owner else t
      if o.dest = none then u.dropOp o
      else { u with ops := updWhere (fun (p : Op) => p.id == o.id) (fun p => { p with phase := .performed, result := ls }) u.ops }
    let runs (t : State) : Prop := exec (.accessPerformed o.id) s = .next t
    let arms (t : State) : Prop := runs { t with ops := updWhere (fun (p : Op) => p.id == o.id) (fun p => { p with phase := .armed }) t.ops }
    let scal (v : Word) (p : Bool) : List Landing := match o.dest with
      | some (.s r) => [.scal r v (o.gp || p)]
      | _ => []
    let after (p : Op) : Prop := p.agent = o.agent ∧ p.id ≠ o.id ∧ p.done = false ∧
      ((p.before o = true ∧ p.phase ≠ .sent ∧ overlap (s.rangesOf p) (s.rangesOf o) = true) ∨ (p.id < o.id ∧ ((p.acq = true ∧ o.kind.isAccess = true) ∨
        (∃ c, o.rel = some c ∧ ∃ l ∈ p.kind.touches, s.scopeOfLoc (coreOf o.agent) l ≤ c) ∨
        ((∃ c, o.kind = .fence c) ∧ p.kind.isAccess = true))))
    let behind := ((∃ c, o.kind = .fence c) ∨ ∃ c, o.rel = some c ∧ 6 ≤ c) ∧
      ((∃ e ∈ s.elems, e.agent = o.agent ∧ e.remote = true ∧ e.arrived = false ∧ e.id < o.id) ∨
        ∃ m ∈ s.cmds, m.agent = o.agent ∧ m.unit = .fabric ∧ m.id < o.id)
    let mark := if isLadle o.agent ∨ o.rel ≠ none then 0 else o.agent + 1
    let q := s.reqOfOp o
    let wait (code val : Nat) : Word := toWord (code * 2 ^ 32 + val % 2 ^ 32)
    let wrote (t : State) (old : Nat) (new : Option Nat) (put : Nat → State) : Prop :=
      runs (done (match new with | some n => put n | none => t) (scal (toWord old) false))
    let part := (s.ctx o.owner).y.part
    let cl := clusterOf (coreOf o.agent)
    (o.phase = .issued → (∃ p ∈ s.ops, after p) ∨ behind → runs s) ∧
    (o.phase = .performed ∨ o.phase = .sent → runs s) ∧
    (o.phase = .issued → (∀ p ∈ s.ops, ¬ after p) → ¬ behind →
      (∀ k z d, o.kind = .read [some (.ab k)] z false d → o.units = [] →
        runs (done (s.noticeAS false k z) (scal (toWord (leNat (s.ab.readZ 6 k z))) (s.ab.anyPoison 6 k z)))) ∧
      (∀ k z d, o.kind = .read [some (.sp k)] z false d → o.units = [] →
        runs (done (s.noticeAS true k z) (scal (toWord (leNat ((s.bankAS true).readZ 6 k z))) ((s.bankAS true).anyPoison 6 k z)))) ∧
      (∀ die pa va z d t, o.kind = .read [some (.phys die pa va)] z false d → o.units = [] → t = s.noticePoison q va die pa z →
        runs (done t (scal (toWord (leNat (t.hbm.readZ 6 (die * 2 ^ 39 + pa) z))) (t.hbm.anyPoison 6 (die * 2 ^ 39 + pa) z)))) ∧
      (∀ z d, o.kind = .read [none] z false d → o.units = [] → runs (done s (scal 0#64 true))) ∧
      (∀ k bs, o.kind = .write [(.ab k, bs)] → bs.length ≤ 8 → o.units = [] → runs (done (s.writeAS false k bs false mark) [])) ∧
      (∀ k bs, o.kind = .write [(.sp k, bs)] → bs.length ≤ 8 → o.units = [] → runs (done (s.writeAS true k bs false mark) [])) ∧
      (∀ die pa va bs, o.kind = .write [(.phys die pa va, bs)] → bs.length ≤ 8 → o.units = [] →
        (s.pageMoving die pa 1 = true → runs s) ∧
        (s.pageMoving die pa 1 = false → runs (done (s.writeHbm q.gang die pa bs false) []))) ∧
      (∀ f k z v w, o.kind = .atom f (.sp k) z v w → ∀ t, t = { s with spMark := setMarks s.spMark k z 0 }.noticeAS true k z →
        ((s.bankAS true).anyPoison 6 k z = true → runs (done t (scal 0#64 true))) ∧
        ((s.bankAS true).anyPoison 6 k z = false → ∀ old, old = leNat ((s.bankAS true).readZ 6 k z) →
          wrote t old (atomNew f z old (v.toNat % 2 ^ (8 * z)) (w.toNat % 2 ^ (8 * z)))
            fun n => t.writeAS true k (natLe n z) false 0)) ∧
      (∀ f die pa va z v w, o.kind = .atom f (.phys die pa va) z v w → s.pageMoving die pa 1 = false →
        ∀ t, t = s.noticePoison q va die pa z →
          (t.hbm.anyPoison 6 (die * 2 ^ 39 + pa) z = true → runs (done t (scal 0#64 true))) ∧
          (t.hbm.anyPoison 6 (die * 2 ^ 39 + pa) z = false → ∀ old, old = leNat (t.hbm.readZ 6 (die * 2 ^ 39 + pa) z) →
            wrote t old (atomNew f z old (v.toNat % 2 ^ (8 * z)) (w.toNat % 2 ^ (8 * z)))
              fun n => t.writeHbm q.gang die pa (natLe n z) false)) ∧
      (∀ va z v, o.kind = .waitv va z v → ∀ far, far = (bits va 60 4 = 0 ∧ s.ownPackage va = false) →
        (far → runs (done s (scal (wait 3 0) false))) ∧
        (¬ far → bits va 60 4 = 0 ∧ 4096 ≤ (s.monitors.filter fun m => m.die == bits va 50 1).length → runs (done s (scal (wait 2 0) false))) ∧
        (¬ far → ¬ (bits va 60 4 = 0 ∧ 4096 ≤ (s.monitors.filter fun m => m.die == bits va 50 1).length) →
          (∀ t f, s.resolveFor q va false = (t, .error f) → runs (done (t.globFault q f va false) (scal 0#64 true))) ∧
          (∀ u die pa t, s.resolveFor q va false = (u, .ok (die, pa)) → t = u.noticePoison q va die pa z →
            ∀ now, now = leNat (t.hbm.readZ 6 (die * 2 ^ 39 + pa) z) →
            (t.hbm.anyPoison 6 (die * 2 ^ 39 + pa) z = true → runs (done t (scal (wait 0 0) true))) ∧
            (t.hbm.anyPoison 6 (die * 2 ^ 39 + pa) z = false →
              (now ≠ v.toNat % 2 ^ (8 * z) → runs (done t (scal (wait 0 now) false))) ∧
              (now = v.toNat % 2 ^ (8 * z) → runs { t with
                monitors := t.monitors ++ [⟨die, pa, va, q.sup, q.part, o.id⟩],
                ops := updWhere (fun (p : Op) => p.id == o.id) (fun p => { p with phase := .armed }) t.ops }))))) ∧
      (∀ all va, o.kind = .notify all va → ∀ far, far = (bits va 60 4 = 0 ∧ s.ownPackage va = false) →
        (far → runs (done s (scal (BitVec.twoPow 64 63) false))) ∧
        (¬ far → (∀ t f, s.resolveFor q va false = (t, .error f) → runs (done (t.globFault q f va false) (scal 0#64 true))) ∧
          (∀ t die pa, s.resolveFor q va false = (t, .ok (die, pa)) → ∀ hit, hit = t.monitors.filter (fun m => m.die == die && m.pa / 8 == pa / 8) →
            ∀ ms, ms = (if all then hit else hit.take 1) → runs (done (ms.foldl State.wake t) (scal (toWord ms.length) false))))) ∧
      (∀ obj code p g su, o.kind = .signal obj code p g su → o.ready = true → ∀ k, s.syncObj (clusterOf (coreOf o.owner)) p obj = some k →
        runs (done (s.syncAdd g k 1#32) [])) ∧
      (o.kind = .release → runs (done s [])) ∧
      (∀ ring rec, o.kind = .record ring rec → runs (done (s.postRing ring rec) [])) ∧
      (∀ k bs, o.kind = .write [(.ab k, bs)] → 8 < bs.length → bs.length % 8 = 0 →
        (∃ u, u < bs.length / 8 ∧ ∀ e ∈ o.units, e.1 ≠ u) → ∃ u t, runs t ∧ u < bs.length / 8 ∧ (∀ e ∈ o.units, e.1 ≠ u) ∧
          ∀ a, Mem.byte t.ab.bytes a = if k + 8 * u ≤ a ∧ a < k + 8 * u + 8 then bs.getD (a - k) 0#8 else Mem.byte s.ab.bytes a) ∧
      (∀ c, o.kind = .fence c → isLadle o.agent = false → ∀ y, y = (s.ctx o.owner).y →
        runs (done (s.upd o.owner fun c => { c with y := { c.y with nfail := 0#16, fstat := 0#5 } })
          (scal (toWord (y.fstat.toNat * 2 ^ 27 + y.nfail.toNat)) false))) ∧
      (∀ obj v k, o.kind = .synAdd obj v → o.ready = true → s.syncObj cl part obj = some k → ∀ val, val = SMap.at 0#32 s.sync k → ∃ t,
        runs (done t (scal (val.setWidth 64) false)) ∧ t.sync = SMap.put 0#32 s.sync k (val + v) ∧
        ∀ w ∈ s.ops, w.phase = .armed → ∀ num tgt, w.kind = .synWait num tgt →
          s.syncObj (clusterOf (coreOf w.agent)) (s.ctx w.owner).y.part num = some k → (val + v - tgt).toNat < 2 ^ 31 →
          ∀ x ∈ t.ops, x.id = w.id → x.phase = .performed) ∧
      (∀ obj k, o.kind = .synGet obj → s.syncObj cl part obj = some k → runs (done s (scal ((SMap.at 0#32 s.sync k).setWidth 64) false))) ∧
      (∀ obj tgt k, o.kind = .synWait obj tgt → s.syncObj cl part obj = some k → ∀ val, val = SMap.at 0#32 s.sync k →
        ((val - tgt).toNat < 2 ^ 31 → runs (done s (scal (val.setWidth 64) false))) ∧ (2 ^ 31 ≤ (val - tgt).toNat → arms s)) ∧
      (∀ grp gen, o.kind = .bar grp gen →
        (s.gang (s.ctx o.agent).y.gang = none → o.rel = none → runs (done (s.releaseMarks o.owner) (scal (gen.setWidth 64) false))) ∧
        (∀ gg rank, s.gang (s.ctx o.agent).y.gang = some gg → gg.rankOf o.agent = some rank → o.rel ≠ none → o.agent < 2048 →
          let t := s.updGang gg.id fun y => y.arrive grp rank gen.toNat
          let met := ∀ r ∈ gg.barSet grp rank, r = rank ∨ r ∈ gg.exited ∨
            ∃ b, b = SMap.at (0, 0) gg.bars r ∧ gen.toNat ≤ if grp then b.2 else b.1
          (met → runs (done t (scal (gen.setWidth 64) false))) ∧ (¬ met → arms (t.releaseMarks o.owner))))) ∧
    (o.phase = .performed → o.agent = s.who →
      (s.c.e.hm = false ∨ o.hm = true → exec (.elasticResultArrival o.id) s
        = .next (({ s with c := o.result.foldl Ctx.land s.c }).dropOp o)) ∧
      (s.c.e.hm = true → o.hm = false → exec (.elasticResultArrival o.id) s = .next (({ s with c := { s.c with f := { s.c.f with
        saved := { s.c.f.saved with arrived := s.c.f.saved.arrived ++ o.result.map fun l => (⟨s.c.f.lcc, o.pos, l, none⟩ : Held) } } } }).dropOp o))) ∧
    (∀ (m : Monitor) (va : Word) (z : Nat) (v : Word), m.op = o.id → o.kind = .waitv va z v →
      ∀ t, t = { s with monitors := s.monitors.filter fun e => e.op != m.op }.noticePoison (s.reqOfOp o) m.va m.die m.pa z →
        ∀ bad, bad = t.hbm.anyPoison 6 (m.die * 2 ^ 39 + m.pa) z → s.wake m = done t
          (scal (toWord (2 ^ 32 + (if bad then 0 else leNat (t.hbm.readZ 6 (m.die * 2 ^ 39 + m.pa) z)) % 2 ^ 32)) bad))


/-- R48, R66, R68: PLACEMENT tries the heads of the ready lists from class 3 down; one that fits is placed and its node runs, one
that fails its checks fails its node, one that does not fit yields to the next class unless its AGELIM has passed. Where only
the list of class `c` holds items, its head decides. AGELIM_EXPIRY marks the head of a class; while one waits so, no node of a
lower class is placed on that die. R33, R70, R427 to R433, R437: an exiting context, unless its gang rolls back, is free once
nothing of it is in flight, and its energy, its rank and what it still holds of its core's IMEM and tables count in its gang;
a freed context keeps its registers; a gang whose members have all exited retires its node; NODEKILL of a stopped gang ends
it, and its node fails with 0x21, or with the code that a re-placement found, once what its members issued has completed; a
COPY or ROW node retires once its command has acted. That the node of a gang that a re-placement could not read fails with the
code that the read found is the model's choice (assumption log 41). -/
def Obligations.NodesAreRun : Prop :=
  (∀ (s : State) (d cls : Nat) (x : ReadyItem) (xs : List ReadyItem) (r : Replay) (n : GNode), cls < 4 →
     (s.placer d).ready = (List.range 4).map (fun c => if c = cls then x :: xs else []) →
     x.gang = none → s.replayOf x.queue = some r → r.nodes[x.node]? = some n →
     (∀ l, l = (List.range 4).map (fun c => if c = cls then { x with aged := true } :: xs else []) →
       exec (.agelimExpiry d cls) s = .next (s.updPlacer d fun p => { p with ready := l })) ∧
     (x.aged = true → ∀ c, c < cls → s.dieHeld c d = true) ∧
     (∀ t, s.placeNode r x.node n cls none = (t, .ok) →
       exec (.placement d) s = .next ((t.takeReady d x).setNode x.queue x.node .running)) ∧
     (∀ t c, s.placeNode r x.node n cls none = (t, .fails c) →
       exec (.placement d) s = .next ((t.takeReady d x).failNode x.queue x.node c)) ∧
     (∀ t, s.placeNode r x.node n cls none = (t, .nofit) → x.aged = true ∨ (∃ y ∈ xs, y.aged = true) ∨ t.placer d = s.placer d → exec (.placement d) s = .next t)) ∧
  (∀ (s : State) (x i : Nat) (v : Word) (g : Gang), x < 2048 →
     let c := s.ctx x
     let y := bits v 0 11
     (c.exiting = true → s.exited x = true → ∀ t r, t = (s.sweep x).leaveRunning x 0 → s.gang c.y.gang = some g → g.rollback = none →
       g.rankOf x = some r → exec (.memberExit x) s = .next (t.updGang g.id fun z => { z with
         energy := z.energy + c.y.energy,
         holds := z.holds ++ [⟨coreOf x, c.y.spanBase, c.y.spanSize, c.y.trbase, c.y.trsize⟩],
         members := z.members.map fun m => if m.1 = r then (r, 0xFFFE) else m })) ∧
     (c.exiting = true → s.exited x = true → s.gang c.y.gang = none → exec (.memberExit x) s = .next ((s.sweep x).leaveRunning x 0)) ∧
     (c.exiting = false ∨ s.exited x = false ∨ (s.gang c.y.gang = some g ∧ g.rollback ≠ none) → exec (.memberExit x) s = .next s) ∧
     (s.freeCtx x).ctx x = { Ctx.reset with r := c.r } ∧
     (s.gang i = some g → g.rollback = none → (∀ m ∈ g.members, m.2 = 0xFFFE) →
       ∀ t, t = (s.updGang g.id fun z => { z with undo := [] }).retireNode g.queue g.node → exec (.nodeRetire i) s
         = .next (({ t with gangs := t.gangs.filter fun z => z.id != g.id }).setReg 0 (0x9C0 + g.part)
           (t.reg 0 (0x9C0 + g.part) + g.energy))) ∧
     (s.gang i = some g → ∀ a l n, g.rollback = some (9, a, l, n) →
       ((∀ m ∈ g.resident, s.quiet m = true) → ∀ t, t = g.resident.foldl State.sweep s → exec (.nodeRetire i) s
         = .next (({ t with gangs := t.gangs.filter fun z => z.id != g.id }).failNode g.queue g.node (if n = 0 then 0x21 else n))) ∧
       ((∃ m ∈ g.resident, s.quiet m = false) → (∀ m ∈ g.resident, s.spent m = true) →
         exec (.nodeRetire i) s = .next (g.resident.foldl State.endRuns s)) ∧
       ((∃ m ∈ g.resident, s.spent m = false) → exec (.nodeRetire i) s = .next s)) ∧
     (∀ m r, s.gang i = none → (s.cmds.find? fun (m : Cmd) => m.id == i && m.ofLaunch) = some m →
       (s.svc.replays.find? fun r => r.id == m.bundle) = some r → m.acted = true → m.outs = [] → m.waiting = false →
       exec (.nodeRetire i) s = .next (({ s with cmds := s.cmds.filter fun (x : Cmd) => x.id != m.id }).retireNode r.queue m.step)) ∧
     (c.y.sup = false ∨ bitAt v 63 = false → exec (.nodekill x v) s = .next s) ∧
     (c.y.sup = true → bitAt v 63 = true → (s.ctx y).st ≠ .free → s.gang (s.ctx y).y.gang = some g → g.rollback = none →
       ((∀ m ∈ g.members, m.2 ≠ 0xFFFF) →
         (∀ m ∈ g.resident, ((s.ctx m).st = .preempted ∨ (s.ctx m).st = .suspended) ∧ (s.ctx m).exiting = false) →
         exec (.nodekill x v) s = .next ((g.resident.foldl State.cutOff s).updGang g.id fun z =>
           { z with rollback := some (9, y, 0#64, 0), undo := [] })) ∧
       ((∃ m ∈ g.members, m.2 = 0xFFFF) ∨ (∃ m ∈ g.resident, (s.ctx m).st = .running ∨ (s.ctx m).exiting = true) →
         exec (.nodekill x v) s = .next s)))

/-- R420, R421, R423, R416: a rollback cause of a member (UNCORR, a lockstep mismatch, ROLLREQ) counts on its core and stops every
member; with a whole undo log the gang waits for its rollback and keeps the pending STOPs, without one it is suspended. A
supervisor context alone is suspended with REASON 8. The KIND of a set that keeps its contexts (the code of the cause, 0 for
ROLLREQ) is assumption log 28. R51, R410, R413, R419, R421 to R423: once what its members issued has completed, and unless its
partition is in reset, GANG_ROLLBACK ends the runs of their Ladles, then replays the undo log newest first, charges the energy
and frees the contexts; where the log has lost an entry by then, the gang is suspended instead. ROLLBACK_RESTART places the
gang again, its pending STOPs for the new contexts, fails its node, or puts it at the head of its class. That a log which has
lost an entry by then is no log is the model's reading of R423 (assumption log 41). -/
def Obligations.Rollbacks : Prop :=
  (∀ (s : State) (x y : Nat) (v : Word), x < 2048 → (s.ctx x).st ≠ .free →
     let k := coreOf x
     let begun (t : State) (g : Gang) (cause : Nat) (i : Instr) : Prop := exec i s = .next
       ((g.resident.foldl State.cutOff t).updGang g.id fun z => { z with
         rollback := some (cause, x, (t.ctx x).f.lcc, 0),
         stops := g.members.filterMap fun m => if m.2 < 2048 then (t.ctx m.2).y.stop.map fun q => (m.1, m.2, q) else none })
     let kept (t : State) (g : Gang) (cause kind : Nat) (i : Instr) : Prop := exec i s = .next
       (((g.resident.filter fun m => !(t.ctx m).exiting).foldl (fun u m => (u.postSuspend m 6 kind 15 0#64).stopCtx m .suspended) t).postRollback
         g x cause 1 (t.ctx x).f.lcc 0)
     let logged (t : State) (g : Gang) : Prop := g.nolog = false ∧
       ∀ m ∈ g.members, m.2 < 2048 → bitAt (t.reg (dieOf (coreOf m.2)) (0x980 + g.part)) 63 = true
     ((s.ctx x).y.sup = true → exec (.uncorr x) s
       = .next (((s.countUE (10 + k) 1 0#64).postSuspend x 8 21 15 0#64).stopCtx x .suspended)) ∧
     ((s.ctx x).y.sup = false → ∀ g, s.gang (s.ctx x).y.gang = some g → g.rollback = none →
       (logged s g → begun (s.countUE (10 + k) 1 0#64) g 1 (.uncorr x)) ∧
       (¬ logged s g → kept (s.countUE (10 + k) 1 0#64) g 1 21 (.uncorr x)) ∧
       (s.pairSecond (k + 1) = true →
         (logged s g → begun ((s.countUE (10 + k) 1 0#64).countUE (11 + k) 1 0#64) g 2 (.lockstepMismatch x)) ∧
         (¬ logged s g → kept ((s.countUE (10 + k) 1 0#64).countUE (11 + k) 1 0#64) g 2 20 (.lockstepMismatch x))) ∧
       ((s.ctx y).y.sup = true → bitAt v 63 = true → bits v 0 11 = x →
         (logged s g → begun s g 3 (.rollreq y v)) ∧ (¬ logged s g → kept s g 3 0 (.rollreq y v)))) ∧
     ((s.ctx y).y.sup = false ∨ bitAt v 63 = false → exec (.rollreq y v) s = .next s) ∧
     ((s.ctx x).y.sup = true ∨ s.pairSecond (k + 1) = false → exec (.lockstepMismatch x) s = .next s)) ∧
  (∀ (s : State) (i cause x lines : Nat) (g : Gang) (lcc : Word), s.gang i = some g → g.rollback = some (cause, x, lcc, lines) → cause ≠ 9 →
     let home := (s.placer g.die).ready
     let busy := SMap.at false s.svc.busy g.part = true
     ((¬ busy ∧ g.resident ≠ [] ∧ g.nolog = false ∧ ∀ m ∈ g.resident, s.quiet m = true) → ∀ t, t = g.undo.foldl State.undoItem (s.chargeEnergy g.part (s.gangEnergy g)) →
       exec (.gangRollback i) s = .next ((g.resident.foldl State.sweep t).updGang g.id fun z =>
         { z with
                  rollback := some (cause, x, lcc, (g.undo.filter fun u => match u with | .line .. => true | _ => false).length),
                  members := z.members.map (fun m => (m.1, 0xFFFF)), undo := [], nolog := false, exited := [], bars := [], saved := [],
                  energy := 0#64 })) ∧
     (¬ busy → g.resident ≠ [] → (∀ m ∈ g.resident, s.spent m = true) →
       (g.nolog = false → (∃ m ∈ g.resident, s.quiet m = false) → exec (.gangRollback i) s = .next (g.resident.foldl State.endRuns s)) ∧
       (g.nolog = true → ∀ t, t = (g.resident.filter fun m => !(s.ctx m).exiting).foldl (fun t m =>
           (t.postSuspend m 6 (causeKind cause) 15 0#64).upd m fun c => { c with st := .suspended }) s →
         exec (.gangRollback i) s = .next (((g.stops.foldl (fun u e => u.leaveRunning e.2.1 0) t).postRollback g x cause 1 lcc 0).updGang g.id
           fun z => { z with rollback := none, stops := [] }))) ∧
     (busy ∨ (∃ m ∈ g.resident, s.spent m = false) ∨ g.resident = [] → exec (.gangRollback i) s = .next s) ∧
     (g.resident ≠ [] ∨ (∃ l ∈ home, ∃ e ∈ l, e.gang = some i) → exec (.rollbackRestart i) s = .next s) ∧
     (g.resident = [] → (∀ l ∈ home, ∀ e ∈ l, e.gang ≠ some i) → ∀ r n, s.replayOf g.queue = some r → r.nodes[g.node]? = some n →
       let cls := min (min n.prio 3) (s.queue g.queue).pmax
       (∀ t h, s.placeNode r g.node n cls (some g) = (t, .ok) → (t.gangs.find? fun z => z.queue == g.queue && z.node == g.node) = some h →
         exec (.rollbackRestart i) s = .next ((t.moveStops (g.stops.filterMap fun e =>
           (h.members.find? fun m => m.1 == e.1).map fun m => (e.2.1, m.2))).postRollback h x cause 0 lcc lines)) ∧
       (∀ t c, s.placeNode r g.node n cls (some g) = (t, .fails c) → exec (.rollbackRestart i) s = .next (t.restartFails g c)) ∧
       (∀ t, s.placeNode r g.node n cls (some g) = (t, .nofit) →
         exec (.rollbackRestart i) s = .next (t.updPlacer g.die fun p => { p with
           ready := p.ready.zipIdx.map fun l =>
             if l.2 = cls then ⟨g.queue, g.node, some i, false⟩ :: l.1 else l.1 }))))

/-- R51, R70, R73, R74, R161: a reset of a partition that is not in reset, by PRST or by a host whose HRST bit is set, sets BUSY,
stops its contexts, ends the STOPs that wait for its gangs (R158), and discards its undo logs; it completes once they are
quiet, and BUSY clears. REPLACE reports why it cannot be done, or names the member whose gang moves; REPLACE_COMPLETE moves
the members that are not where they may be, and reports it; a code object that cannot be read any more terminates the gang.
What the rules leave open here (FLTCNT at the end, the results of REPLACE) is assumption logs 29 and 30, and that a code
object which cannot be read any more terminates the gang is the model's choice (assumption log 41). -/
def Obligations.PartitionsReset : Prop :=
  ∀ (s : State) (x n : Nat) (v : Word),
    let busy := SMap.at false s.svc.busy n
    let halted (m : Nat) : State := (s.contextsOf m).foldl (fun t y => (t.leaveRunning y 0).cutOff y)
      (s.updSvc fun w => { w with busy := SMap.put false w.busy m true })
    let ended (m : Nat) : State :=
      (((halted m).gangs.filter fun g => g.part == m).flatMap fun g => g.stops).foldl (fun t e => t.leaveRunning e.2.1 0) (halted m)
    let stopped (m : Nat) : State :=
      { ended m with gangs := updWhere (fun (g : Gang) => g.part == m) (fun g => { g with undo := [], stops := [] }) (ended m).gangs }
    let y := bits v 0 11
    let d := dieOf (coreOf y)
    let written := s.setReg d 0x8D8 (toWord (setBits (s.reg d 0x8D8).toNat 0 11 y))
    (n < 16 → busy = false → bitAt (s.reg 0 0x882) n = true → exec (.pctlRst n) s = .next (stopped n)) ∧
    (busy = true ∨ bitAt (s.reg 0 0x882) n = false → exec (.pctlRst n) s = .next s) ∧
    ((s.ctx x).y.sup = true → bitAt v 63 = true → bits v 16 4 = n → busy = false → exec (.prst x v) s = .next (stopped n)) ∧
    ((s.ctx x).y.sup = false ∨ bitAt v 63 = false → exec (.prst x v) s = .next s) ∧
    (busy = false ∨ (∃ c ∈ s.contextsOf n, s.spent c = false) → exec (.partitionResetComplete n) s = .next s) ∧
    (busy = true → (∀ c ∈ s.contextsOf n, s.spent c = true) → (∃ c ∈ s.contextsOf n, s.quiet c = false) →
      (∀ m ∈ s.cmds, m.part = n → m.ofLaunch = true → m.waiting = false) →
      exec (.partitionResetComplete n) s = .next ((s.contextsOf n).foldl State.endRuns s)) ∧
    (n < 16 → busy = true → (∀ c ∈ s.contextsOf n, s.quiet c = true) → (∀ m ∈ s.cmds, m.part = n → m.ofLaunch = true → m.waiting = false) →
      ∃ t, exec (.partitionResetComplete n) s = .next t ∧ SMap.at false t.svc.busy n = false ∧
        (∀ g ∈ t.gangs, g.part ≠ n) ∧ SMap.at 0#32 t.fltcnt n = 0#32) ∧
    ((s.ctx x).y.sup = false ∨ (s.placer d).replacing ≠ none → exec (.replace x v) s = .next s) ∧
    ((s.ctx x).y.sup = true → (s.placer d).replacing = none →
      (bitAt v 63 = false → exec (.replace x v) s = .next written) ∧
      (bitAt v 63 = true → (s.gang (s.ctx y).y.gang = none ∨ (s.ctx y).st = .free) → exec (.replace x v) s = .next (written.replaceResult d 3)) ∧
      (∀ g, bitAt v 63 = true → s.gang (s.ctx y).y.gang = some g → (s.ctx y).st ≠ .free →
        let ready := g.rollback = none ∧ (∀ m ∈ g.members, m.2 ≠ 0xFFFF) ∧
          ∀ m ∈ g.resident, ((s.ctx m).st = .preempted ∨ (s.ctx m).st = .suspended) ∧ (s.ctx m).exiting = false
        (ready → exec (.replace x v) s = .next (written.updPlacer d fun p => { p with replacing := some y })) ∧
        (¬ ready → exec (.replace x v) s = .next (written.replaceResult d 2)))) ∧
    ((s.placer n).replacing = none → exec (.replaceComplete n) s = .next s) ∧
    (∀ z, (s.placer n).replacing = some z → s.gang (s.ctx z).y.gang = none → exec (.replaceComplete n) s
      = .next ((s.updPlacer n fun p => { p with replacing := none }).replaceResult n 3)) ∧
    (∀ z g, (s.placer n).replacing = some z → s.gang (s.ctx z).y.gang = some g →
      g.rollback ≠ none ∨ s.allStopped g = false ∨ SMap.at false s.svc.busy g.part = true → exec (.replaceComplete n) s
      = .next ((s.updPlacer n fun p => { p with replacing := none }).replaceResult n 2)) ∧
    (∀ z g, (s.placer n).replacing = some z → s.gang (s.ctx z).y.gang = some g → g.rollback = none → s.allStopped g = true →
      SMap.at false s.svc.busy g.part = false →
      let done (t : State) (code : Nat) : Out := .next ((t.updPlacer n fun p => { p with replacing := none }).replaceResult n code)
      let t := g.resident.foldl State.leaveWait s
      ((∃ m ∈ g.resident, t.saveReady m = false) → exec (.replaceComplete n) s = .next t) ∧
      ((∀ m ∈ g.resident, t.saveReady m = true) → ∀ u c, t.readObject (launchReq g.die g.part) g.obj = (u, .error c) →
        exec (.replaceComplete n) s = done ((g.resident.foldl State.cutOff u).updGang g.id fun y =>
          { y with rollback := some (9, z, 0#64, c), undo := [] }) 1) ∧
      ((∀ m ∈ g.resident, t.saveReady m = true) → ∀ u o, t.readObject (launchReq g.die g.part) g.obj = (u, .ok o) →
        let need : Need := ⟨g.part, g.feat, g.obj, g.gen, o.imsize, o.region⟩
        (u.chooseMoves g need = none → exec (.replaceComplete n) s = done u 1) ∧
        (∀ slots moves, u.chooseMoves g need = some slots →
          moves = slots.filterMap (fun e => match g.members.find? fun m => m.1 == e.1 with
            | some m => if m.2 < 2048 ∧ m.2 ≠ e.2 then some (m.2, e.2) else none
            | none => none) →
          exec (.replaceComplete n) s = done (moves.foldl (fun w m => w.moveMember o need m.1 m.2) u) 0)))


/-- R56, R57, R60, R61, R77: a commit is queued as a whole, or rejected with ERR 1, 2 or 3, and ignored while one waits; the
change at the head is published under the next version once the domains whose caps fall have settled. A domain settles at its
new point, a core that rises after its octet; an octet falls only after the cores of its Griddle owners have fallen. A member
that has not acknowledged in time has its gang suspended. The order BADREC, DUP, HWFENCE of the checks and that an NREC above
1,655 is ignored are the model's choice (assumption log 41), and so is BADREC for staged records that cannot be read
(assumption log 28). R264, R417, R418: a lane drift counts one error on its stack; a window's end clears the counts of its
kind; a count that has reached its threshold and was not reported posts an ERRLIM record once, and at sixteen errors the
hardware fences the unit. -/
def Obligations.PantryChangesAndErrors : Prop :=
  (∀ (s : State) (x m : Nat) (v : Word),
     let n := bits v 32 11
     let err (t : State) (e : Nat) : Out := .next (t.updPantry fun p => { p with err := e })
     let commit := exec (.pantryCommit x v) s
     let ver := s.svc.pantry.ver
     ((s.ctx x).y.sup = false ∨ n = 0 ∨ 1655 < n ∨ (∃ c ∈ s.svc.pantry.queue, c.hw = false) → commit = .next s) ∧
     ((s.ctx x).y.sup = true → 1 ≤ n → n ≤ 1655 → (∀ c ∈ s.svc.pantry.queue, c.hw = true) →
       (∀ t, s.readLines pantryReq (s.reg 0 0x810) ((n + 3) / 4) = (t, none) → commit = err t 1) ∧
       (∀ t bs, s.readLines pantryReq (s.reg 0 0x810) ((n + 3) / 4) = (t, some bs) →
         (stagedRecs (cut 16 n bs) = none → commit = err t 1) ∧
         (∀ rs, stagedRecs (cut 16 n bs) = some rs →
           (¬ (rs.map (·.1)).Nodup → commit = err t 3) ∧
           ((rs.map (·.1)).Nodup → (∃ r ∈ rs, SMap.at false t.svc.pantry.hwf r.1 = true) → commit = err t 2) ∧
           ((rs.map (·.1)).Nodup → (∀ r ∈ rs, SMap.at false t.svc.pantry.hwf r.1 = false) →
             commit = .next ((t.updPantry fun p => { p with queue := p.queue ++ [⟨rs, false⟩] }).retargetAll))))) ∧
     (s.svc.pantry.queue = [] ∨ s.capsSettled = false → exec .pantryPublish s = .next s) ∧
     (∀ ch rest, s.svc.pantry.queue = ch :: rest → s.capsSettled = true → exec .pantryPublish s = .next (s.publish ch)) ∧
     (m < 512 → ∀ p, (s.core m).settling = some p →
       let waits := (s.core m).opcur.toNat < p.toNat ∧ (s.octet (octetOf m)).op.toNat < min p.toNat (s.capOf (522 + octetOf m))
       (waits → exec (.opSettleComplete m) s = .next s) ∧
       (¬ waits → exec (.opSettleComplete m) s = .next ((s.updCore m fun c => { c with opcur := p, settling := none }).retarget m))) ∧
     ((s.octetPoint m < (s.octet m).op.toNat ∧ ∃ j < 8, s.hasGrdOwner (8 * m + j) = true ∧ s.octetPoint m < (s.core (8 * m + j)).opcur.toNat) →
       s.retargetOctet m = s) ∧
     (∀ p, (s.octet m).settling = some p → exec (.opSettleComplete (512 + m)) s
       = .next (({ s with octets := SMap.put Octet.reset s.octets m { s.octet m with op := p, settling := none } }).retargetOctet m)) ∧
     (∀ c, c = s.ctx x → c.st = .running → c.exiting = false → c.y.sup = false → s.inTransit x = false →
       (c.y.panv ≠ ver → exec (.graceExpiry x) s = .next (s.suspendGang x 3 0 15 0#64)) ∧
       (c.y.panv = ver → exec (.graceExpiry x) s = .next s))) ∧
  (∀ (s : State) (r k : Nat),
     let e := s.errs r
     let cfg := s.reg 0 (0x990 + (panKind r).1)
     let lim := if bits cfg 16 5 = 0 ∨ 16 < bits cfg 16 5 then 16 else bits cfg 16 5
     let ue := lim ≤ e.ue ∧ e.ueTold = false
     let ce := bits cfg 0 16 ≠ 0 ∧ bits cfg 0 16 ≤ e.ce ∧ e.ceTold = false
     let hw := e.ue = 16 ∧ SMap.at false s.svc.pantry.hwf r = false
     (k < 12 → exec (.hbmLaneDrift k) s = .next (s.updErrs (1610 + k) fun e => { e with ue := min 16 (e.ue + 1), addr := 0#64 })) ∧
     (12 ≤ k → exec (.hbmLaneDrift k) s = .next s) ∧
     exec (.errorWindowExpiry k) s = .next (s.updSvc fun v => { v with errs := v.errs.filter fun e => (panKind e.1).1 != k }) ∧
     (1655 ≤ r ∨ (¬ ue ∧ ¬ ce ∧ ¬ hw) → exec (.errorThreshold r) s = .next s) ∧
     (r < 1655 → ue ∨ ce ∨ hw → ∃ t, t = (s.postErrlim r ((if hw then 4 else 0) + (if ce then 2 else 0) + if ue then 1 else 0)).updErrs r
         (fun e => { e with ueTold := e.ueTold || decide ue, ceTold := e.ceTold || decide ce }) ∧
       (¬ hw → exec (.errorThreshold r) s = .next t) ∧
       (hw → exec (.errorThreshold r) s = .next ((t.updPantry fun p =>
         { p with hwf := SMap.put false p.hwf r true, queue := p.queue ++ [⟨[(r, { t.pan r with state := 2 })], true⟩] }).retargetAll))))

/-- R122 to R124, R126: the issue slot. An owner that is ready keeps it while no supervisor context that goes before it is ready:
any supervisor before a tenant, one of lower index before a supervisor; else the lowest ready supervisor takes it, else the
first ready context after the old owner, and a change of owner counts in SWCNT; with nobody ready the slot is free and
remembers its owner. A quantum frees it only when another context is ready. An owner that loses the slot is charged for it
(R434). The choice among ready contexts of R9 is the agenda of assumption log 1. R116, R122, R123, R400, R466: BUNDLE_ISSUE
acts for a running owner of the slot, which gives it up to a ready supervisor context that goes before it. An event of its
boundary is taken first; a stalled bundle gives up the slot and changes nothing else of the context; one that stops takes its
trap; else it commits, and what comes after its commit follows. The errors of the words that were fetched are found as it
stops or commits. The energy that is charged is a free value as far as time goes (assumption log 4). -/
def Obligations.SlotsAndBundlesIssue : Prop :=
  (∀ (s : State) (k : Nat), k < 512 →
     let u := s.core k
     let old := if 1 ≤ u.owner ∧ u.owner ≤ 4 then u.owner - 1 else if 5 ≤ u.owner then u.owner - 5 else 3
     let ready (j : Nat) : Bool := s.ready (4 * k + j)
     let sup (j : Nat) : Bool := (s.ctx (4 * k + j)).y.sup
     let keeps := 1 ≤ u.owner ∧ u.owner ≤ 4 ∧ ready (u.owner - 1) = true ∧
       (∀ j, j < 4 → j ≠ u.owner - 1 → sup j = true → (sup (u.owner - 1) = true → j < u.owner - 1) → ready j = false)
     let taken (j : Nat) : Out := .next ((s.chargeSlot k).updCore k fun c =>
       { c with owner := 1 + j, swcnt := if j = old then c.swcnt else c.swcnt + 1#32 })
     (keeps → exec (.issueSlotChange k) s = .next s) ∧
     (¬ keeps →
       (∀ j, j < 4 → sup j = true → ready j = true → (∀ i, i < j → ¬ (sup i = true ∧ ready i = true)) →
         exec (.issueSlotChange k) s = taken j) ∧
       ((∀ j, j < 4 → sup j = true → ready j = false) →
         (∀ n, 1 ≤ n → n ≤ 4 → ready ((old + n) % 4) = true → (∀ i, 1 ≤ i → i < n → ready ((old + i) % 4) = false) →
           exec (.issueSlotChange k) s = taken ((old + n) % 4)) ∧
         ((∀ j, j < 4 → ready j = false) →
           exec (.issueSlotChange k) s = .next ((s.chargeSlot k).updCore k fun c => { c with owner := 5 + old })))) ∧
     (1 ≤ u.owner → u.owner ≤ 4 → bits (s.reg k 0x800) 16 16 ≠ 0 → (∃ j, j < 4 ∧ j ≠ u.owner - 1 ∧ ready j = true) →
       exec (.quantumExpiry k) s = .next ((s.chargeSlot k).updCore k fun c => { c with owner := 5 + (u.owner - 1) })) ∧
     (bits (s.reg k 0x800) 16 16 = 0 ∨ u.owner = 0 ∨ 5 ≤ u.owner ∨ (∀ j, j < 4 → j ≠ u.owner - 1 → ready j = false) →
       exec (.quantumExpiry k) s = .next s)) ∧
  (∀ (s : State) (x : Nat), let t := s.focus x
     (s.runnable x = false ∨ s.slotOwner (coreOf x) ≠ some x → exec (.bundleIssue x) s = .next s) ∧
     let yields := ∃ j, j < 4 ∧ 4 * coreOf x + j ≠ x ∧ (s.ctx (4 * coreOf x + j)).y.sup = true ∧
       ((s.ctx x).y.sup = false ∨ 4 * coreOf x + j < x) ∧ s.ready (4 * coreOf x + j) = true
     (s.runnable x = true → s.slotOwner (coreOf x) = some x → yields →
       exec (.bundleIssue x) s = .next ((s.chargeSlot (coreOf x)).updCore (coreOf x) fun c => { c with owner := 5 + x % 4 })) ∧
     (s.runnable x = true → s.slotOwner (coreOf x) = some x → ¬ yields →
       (∀ k info, t.eventNow = some (k, info) → exec (.bundleIssue x) s = .next (t.takeEvent k info).issued) ∧
       (t.eventNow = none → ∀ u, u = { t with c := { t.c with e := t.c.e.dropThrottle } } →
         (∀ p, u.attempt = .stop p → exec (.bundleIssue x) s = .next ((u.noticeFetch.stopping.takeStop p).upd x fun c =>
           { c with y := { c.y with tokWait := false, hung := false } }).issued) ∧
         (u.attempt = .uncorr → ∃ v, exec (.uncorr x) u = .next v ∧ exec (.bundleIssue x) s = .next v.issued) ∧
         (∀ w b, u.attempt = .commit w b →
           exec (.bundleIssue x) s = .next ((w.noticeFetch.commitBundle b).settle.afterCommit w.issue.after).issued) ∧
         (∀ w, u.attempt = .redone w → exec (.bundleIssue x) s
           = .next (w.leaseCommit.sys fun y => { y with tokWait := false, hung := false }).issued) ∧
         (∀ why l, u.attempt = .stall why l → ∃ v, exec (.bundleIssue x) s = .next v ∧ v.c.r = u.c.r ∧ v.c.f = u.c.f ∧ v.c.e = u.c.e ∧
           v.c.y = { u.c.y with tokWait := why.1 == 1, energy := v.c.y.energy } ∧ v.slotOwner (coreOf x) = none ∧ v.ops = s.ops ∧ v.cmds = s.cmds ∧
           SameMemory s v))))

/-- R307 to R309: a lease that no core of the octet holds goes to the first core after the grant pointer that asks for it; its
owner is HELD with 64 commands and 16,384 steps, and a context that waits for it goes on. A holder whose budget has run out is
EXPIRED. R316, R318, R324, R328 to R334: the oldest command of an octet's Griddle has its effects, takes its array steps and
leaves the queue. GRD.ZERO clears rows of ZB, BOUND and CK; GRD.SCL and GRD.SCL.ALL replace the latches, with the poison of
the source lines; GRD.WLOAD decodes a tile into the array and sets WP, WT, WFMT and FRESH; GRD.MUL runs its row steps, or
waits with its progress where a channel lacks elements; GRD.DRAIN writes the rows in order and clears them with CLR; GRD.CHK
gives its word to the waiting operation and counts a mismatching row as one error; GRD.SAVE and GRD.REST move their lines in
order. That a row step of GRD.MUL takes its tile, its latches and its row of ZB at one moment is the model's reading
(assumption log 40). R170, R177 to R182, R315, R318 to R324, R330, R332 to R334: what the Griddle computes. A record of the
weight stream and the place of the next; the products of a k-block with one; the alignment, the flags, the bound and the
residues of one contribution; what a row step of GRD.MUL with A in AB reads, and what it makes of the entries, the checksum
and the poison of its row, and of no other row; the outcome of a checked row; the code that a drained entry gives; and that
GRD.REST of what GRD.SAVE has read gives it back. -/
def Obligations.GriddleRuns : Prop :=
  (∀ (s : State) (o k : Nat),
     let held (i : Nat) : Prop := (s.griddle (8 * o + i)).lease = .held
     let at_ (n : Nat) : Nat := ((s.octet o).ptr + n) % 8
     let g := s.griddle k
     ((∃ i, i < 8 ∧ held i) ∨ (∀ i, i < 8 → s.leaseAsked (8 * o + i) = false) → exec (.leaseGrant o) s = .next s) ∧
     ((∀ i, i < 8 → ¬ held i) → ∀ n, 1 ≤ n → n ≤ 8 → s.leaseAsked (8 * o + at_ n) = true →
       (∀ i, 1 ≤ i → i < n → s.leaseAsked (8 * o + at_ i) = false) → ∃ t, exec (.leaseGrant o) s = .next t ∧
         t.griddle (8 * o + at_ n) = { s.griddle (8 * o + at_ n) with lease := .held, budCmds := 64, budSteps := 16384, requesting := false } ∧
         (t.octet o).ptr = at_ n ∧ (∀ i, i ≠ 8 * o + at_ n → t.griddle i = s.griddle i) ∧
         (∀ p ∈ s.ops, p.kind = .lease → coreOf p.agent = 8 * o + at_ n → p ∉ t.ops ∧
           ∀ b ∈ (t.ctx p.agent).f.blocked, b.redo = true ∨ ∀ id, b.wait ≠ .lease id)) ∧
     (g.lease = .held → g.budCmds = 0 ∨ g.budSteps = 0 →
       exec (.leaseBudgetExpiry k) s = .next (s.updGriddle k fun g => { g with lease := .expired })) ∧
     (g.lease ≠ .held ∨ (g.budCmds ≠ 0 ∧ g.budSteps ≠ 0) → exec (.leaseBudgetExpiry k) s = .next s)) ∧
  (∀ (s : State) (o : Nat) (m : Cmd), (s.cmds.find? fun (c : Cmd) => c.unit == .griddle o) = some m →
     s.cmdReady m = true → s.cmdHeld m = false → m.acted = false →
     let run (t : State) : Prop := exec (.griddleCommandComplete o) s = .next (t.finishCmd m)
     let g := s.griddle m.core
     let k := m.core
     let row := (rowWord m.d).getD (0, 1)
     let wide := drainWidth (bits m.d 34 4)
     let fb := fmtB m.fcr
     (∀ gd d, m.instr = .grdZero gd d → ∀ r n, rowWord m.d = some (r, n) → ∃ h, run (s.updGriddle k fun _ => h) ∧
       h.steps = g.steps + n ∧ h.wb = g.wb ∧ h.lease = g.lease ∧
       (∀ i, SMap.at 0#64 h.zb i = if 128 * r ≤ i ∧ i < 128 * (r + n) then 0#64 else SMap.at 0#64 g.zb i) ∧
       (∀ i, SMap.at 0#32 h.bound i = if 128 * r ≤ i ∧ i < 128 * (r + n) then 0#32 else SMap.at 0#32 g.bound i) ∧
       (∀ i, SMap.at false h.zbPois i = if 16 * r ≤ i ∧ i < 16 * (r + n) then false else SMap.at false g.zbPois i) ∧
       (∀ i, SMap.at 0#64 h.ck i = if r ≤ i ∧ i < r + n then 0#64 else SMap.at 0#64 g.ck i) ∧
       (∀ i, SMap.at false h.ckPois i = if r ≤ i ∧ i < r + n then false else SMap.at false g.ckPois i)) ∧
     (∀ gd a, m.instr = .grdSclAll gd a → ∃ h, run (s.updGriddle k fun _ => h) ∧ h.steps = g.steps + 1 ∧
       (∀ i, i < 128 → SMap.at 0#8 h.ex i = m.b.setWidth 8 ∧ SMap.at false h.exPois i = false) ∧ h.zb = g.zb ∧ h.wb = g.wb ∧
       (g.exOld = [] → ∀ st, exAt h st = if st < g.steps + 6 then (g.ex, g.exPois) else (h.ex, h.exPois))) ∧
     (∀ gd a, m.instr = .grdScl gd a → ∀ t cur, s.readAll m (unitsOf 3 m.a.toNat 128) = (t, cur) → ∃ f : Griddle → Griddle, run (t.updGriddle k f) ∧
       ∀ x, (f x).steps = x.steps + 1 ∧ (f x).zb = x.zb ∧ (f x).wb = x.wb ∧
         (∀ n, n < 128 → SMap.at 0#8 (f x).ex n = (cutUnits cur m.a.toNat 128).1.getD n 0#8 ∧
           SMap.at false (f x).exPois n = (cutUnits cur (m.a.toNat + 64 * (n / 64)) 64).2) ∧
         (x.exOld = [] → ∀ st, exAt (f x) st = if st < x.steps + 6 then (x.ex, x.exPois) else ((f x).ex, (f x).exPois))) ∧
     (∀ gd a ty, m.instr = .grdWload gd a → ElTy.of fb = some ty → ∀ rs wp, decodeRecs g.wb ty (bits m.a 0 21) 1024 = (rs, wp) →
       ∀ t, t = s.noticeWb k (bits m.a 0 21) ((wp + 2 ^ 21 - bits m.a 0 21) % 2 ^ 21) →
       run ({ t with octets := SMap.put Octet.reset t.octets (octetOf k) { t.octet (octetOf k) with tile := some (k, rs) } }.updGriddle k fun x =>
         { x with steps := x.steps + tileSteps fb, wt := BitVec.ofNat 21 (bits m.a 0 21), wp := BitVec.ofNat 21 wp,
                  wfmt := BitVec.ofNat 4 fb, fresh := true })) ∧
     (∀ gd acq rel a b d ta tb, m.instr = .grdMul gd acq rel a b d → ElTy.of (fmtA m.fcr) = some ta → ElTy.of fb = some tb →
       let blocks := bits m.d 16 16 + 1
       let all := ceilDiv blocks 8 * row.2
       let fresh := g.fresh && g.wfmt.toNat == fb
       let lead := if fresh then 0 else tileSteps fb
       ∀ t done fin, s.mulRun m ta tb lead (min (2 ^ 32) (all - m.arrived)) m.arrived = (t, done, fin) →
         (all ≤ done → run (t.updGriddle k fun x =>
           { x with steps := x.steps + (lead + (ceilDiv blocks 8 - 1) * max (rowSteps (fmtA m.fcr) fb row.2) (tileSteps fb)
                      + rowSteps (fmtA m.fcr) fb row.2), fresh := false })) ∧
         (done < all → exec (.griddleCommandComplete o) s = .next { t with cmds := updWhere (fun x => x.id == m.id) (fun x =>
           { x with arrived := done, started := true, cur := if done = m.arrived then x.cur else [] }) t.cmds })) ∧
     (∀ gd acq rel a d, m.instr = .grdDrain gd acq rel a d → run (((List.range row.2).foldl (fun t i =>
       let t := t.noticeZb k (16 * (row.1 + i)) 16
       let z := t.griddle k
       let cs := (List.range 128).map fun n => drainCode (SMap.at 0#64 z.zb (128 * (row.1 + i) + n)) m.fcr m.d
       let bs := cs.flatMap fun c => natLe c.1 wide
       let t := (List.range (2 * wide)).foldl (fun t l => t.cmdWrite m (bits m.d 62 2)
         (toWord (bits m.a 0 26 + i * bits m.a 32 20 + 64 * l)) ((bs.drop (64 * l)).take 64)
         ((List.range (64 / wide)).any fun n => SMap.at false z.zbPois ((128 * (row.1 + i) + 64 * l / wide + n) / 8))) t
       let t := if cs.any (·.2) then t.updGriddle k fun x => { x with dsat := true } else t
       if bitAt m.d 61 then t.updGriddle k fun x => x.zeroRow (row.1 + i) else t) s).updGriddle k fun x =>
         { x with steps := x.steps + ceilDiv (row.2 * wide) 2 })) ∧
     (∀ gd d a, m.instr = .grdChk gd d a → ∀ r n, rowWord m.a = some (r, n) → ∀ t, t = s.noticeZb k (16 * r) (16 * n) →
       let rs := (List.range n).map fun i => (r + i, (t.griddle k).checkRow (r + i))
       let cnt (c : Nat) : Nat := (rs.filter fun x => x.2.1 == c).length
       let first := match rs.find? fun x => x.2.1 != 0 with
         | none => 0
         | some x => x.1 * 2 ^ 57 + 2 ^ 56 + x.2.2 * 2 ^ 52
       let w := toWord (first + cnt 1 * 2 ^ 16 + cnt 2 * 2 ^ 8 + cnt 0)
       run ({ t.updGriddle k fun x => { x with steps := x.steps + n, cmis := x.cmis || decide (0 < cnt 1), cinc := x.cinc || decide (0 < cnt 2) } with
         ops := updWhere (fun p => p.kind == OpKind.grdChk m.id) (fun p => { p with phase := .performed, result := match p.dest with
           | some (.s r) => [.scal r w p.gp]
           | _ => [] }) t.ops }.countUE (522 + o) (cnt 1) 0#64)) ∧
     (∀ gd acq rel a d, m.instr = .grdSave gd acq rel a d → ∀ t,
       t = (if bits m.d 60 2 < 2 then s.noticeZb k (16 * row.1) (16 * row.2) else if bits m.d 60 2 = 2 then s else s.noticeWb k 0 (2 ^ 21)) →
       run ((((t.griddle k).saveLines m.d).zipIdx.foldl (fun t l => t.cmdWrite m (bits m.d 62 2) (m.a + toWord (64 * l.2)) l.1.1 l.1.2) t).updGriddle
         k fun x => { x with steps := x.steps + saveSteps (bits m.d 60 2) row.2 })) ∧
     (∀ gd acq rel a d, m.instr = .grdRest gd acq rel a d → s.restFar m = false → m.prog = 0 → m.spot = none →
       (s.cmds.find? fun c => c.id == m.id) = some m →
       ∀ t, t = ((List.range (saveLineCount m.d)).foldl (fun t i =>
         let r := t.cmdRead m (bits m.d 62 2) (m.a + toWord (64 * i))
         r.1.updGriddle k fun x => x.restLine m.d i r.2.1 r.2.2) s).updGriddle k (fun x => { x with steps := x.steps + saveSteps (bits m.d 60 2) row.2 }) →
       run (if bits m.d 60 2 = 2 ∧ (t.tileOf k).isSome then
           { t with octets := SMap.put Octet.reset t.octets (octetOf k) { t.octet (octetOf k) with tile := none } }
         else t))) ∧
  ((∀ (b : Bank) (ty : ElTy) (off : Nat), let r := decodeRec b ty off
     r.1.pm = wbNum b off 4 ∧ r.1.scale = wbNum b (off + 4) 1 ∧
     let n := 4 * ceilDiv (5 + ceilDiv (((List.range 32).filter r.1.pm.testBit).length * ty.bitWidth) 8) 4
     r.2 = (off + n) % 2 ^ 21 ∧ r.1.run = wbNum b (off + 5) (n - 5) ∧
     (r.1.pois = true ↔ ∃ i < n, b.poisoned 6 ((off + i) % 2 ^ 21) = true) ∧
     ∀ i, r.1.elem ty i = natBits r.1.run (ty.bitWidth * ((List.range i).filter r.1.pm.testBit).length) ty.bitWidth) ∧
   (∀ (ta tb : ElTy) (a sa : Nat) (r : BlockRec),
     let has := (List.range 32).filter r.pm.testBit
     let kind (i : Nat) : Nat := if sa = 255 ∨ r.scale = 255 then 1 else
       match ta.value (ta.pick a i), tb.value (r.elem tb i) with
       | .nan, _ | _, .nan => 1
       | .inf x, .inf y => if x = y then 2 else 3
       | .inf x, .fin y m _ | .fin y m _, .inf x => if m = 0 then 1 else if x = y then 2 else 3
       | .fin .., .fin .. => 0
     blockPartial ta tb a sa r =
       ⟨((has.filter fun i => kind i == 0).map fun i => ta.expand (ta.pick a i) * tb.expand (r.elem tb i)).sum,
         has.any fun i => kind i != 0, has.any fun i => kind i == 1, has.any fun i => kind i == 2, has.any fun i => kind i == 3⟩) ∧
   (∀ (x : Int) (k : Nat), rneScaled x k = x * 2 ^ k ∧ 2 * (2 ^ k * rneScaled x (-k) - x).natAbs ≤ 2 ^ k ∧
     (2 * (2 ^ k * rneScaled x (-k) - x).natAbs = 2 ^ k → rneScaled x (-k) % 2 = 0) ∧
     exactScaled x k = true ∧ (exactScaled x (-k) = true ↔ (2 ^ k : Int) ∣ x)) ∧
   (∀ (z : Acc) (c : BitVec 32) (q : Partial) (e : Int),
     let v := rneScaled q.p e
     let t := (contribute z c q e).1
     let d := (contribute z c q e).2
     let y := z.residues
     t.spx = (z.spx || q.spx) ∧ t.inexact = (z.inexact || !exactScaled q.p e) ∧
     t.nan = (z.nan || q.nan || ((z.pinf || q.pinf) && (z.ninf || q.ninf))) ∧
     t.pinf = ((z.pinf || q.pinf) && !t.nan) ∧ t.ninf = ((z.ninf || q.ninf) && !t.nan) ∧
     (v = 0 → d = c ∧ t.sat = z.sat ∧ t.r1 = z.r1 ∧ t.r2 = z.r2 ∧ t.r3 = z.r3) ∧
     (v ≠ 0 → t.sat = (z.sat || decide (2 ^ 31 < d.toNat)) ∧ (t.r1 : Int) = (y.1 + v) % (2 ^ 19 - 1) ∧ (t.r2 : Int) = (y.2.1 + v) % 2 ^ 19 ∧
       (t.r3 : Int) = (y.2.2 + v) % (2 ^ 19 + 1) ∧
       ∀ n, v.natAbs ≤ 2 ^ n → (∀ j, j < n → 2 ^ j < v.natAbs) → d.toNat = min (c.toNat + 2 ^ (n - 24)) (2 ^ 32 - 1))) ∧
   (∀ (s : State) (m : Cmd) (ta tb : ElTy) (lead fuel done r n : Nat), rowWord m.d = some (r, n) → bitAt m.d 63 = false →
     let ae := bits m.a 0 26 + done % n * bits m.a 32 20 + 8 * (done / n) * (4 * ta.bitWidth)
     let as_ := bits m.b 0 26 + done % n * bits m.b 32 20 + 8 * (done / n)
     let nb := min 8 (bits m.d 16 16 + 1 - 8 * (done / n))
     ∀ t cur, s.readAll m ((unitsOf 3 ae (nb * (4 * ta.bitWidth)) ++ unitsOf 3 as_ nb).eraseDups) = (t, cur) →
       let runs := (cutUnits cur ae (nb * (4 * ta.bitWidth))).1
       let u := if done % n = 0 then t.nextTile m.core tb (fmtB m.fcr) (done / n) else t
       ∀ w, w = u.noticeZb m.core (16 * (r + done % n)) 16 → ∃ step, s.mulRun m ta tb lead (fuel + 1) done
         = (w.updGriddle m.core fun g => (g.pass ⟨ta, tb, signedOf 10 (bits m.d 38 10), r + done % n,
             (List.range nb).map (fun b => (leNat ((runs.drop (b * (4 * ta.bitWidth))).take (4 * ta.bitWidth)), ((cutUnits cur as_ nb).1.getD b 0#8).toNat)),
             (cutUnits cur ae (nb * (4 * ta.bitWidth))).2 || (cutUnits cur as_ nb).2, step⟩ ((w.tileOf m.core).getD [])).rewritten
               (r + done % n)).mulRun { m with cur := [] } ta tb lead fuel (done + 1)) ∧
   (∀ (g : Griddle) (p : RowPass) (tile : List BlockRec), tile.length = 1024 → p.blocks.length ≤ 8 →
     let h := g.pass p tile
     let l := exAt g p.step
     let part (b : (Nat × Nat) × Nat) (n : Nat) : Partial × Int :=
       (blockPartial p.ta p.tb b.1.1 b.1.2 (tile.getD (128 * b.2 + n) ⟨0, 0, 0, false⟩),
         p.ta.unit + p.tb.unit + b.1.2 + (tile.getD (128 * b.2 + n) ⟨0, 0, 0, false⟩).scale - 254 + (SMap.at 0#8 l.1 n).toInt - p.anchor)
     let bad (n : Nat) : Prop := p.pois = true ∨ SMap.at false l.2 n = true ∨ ∃ j < 8, (tile.getD (128 * j + n) ⟨0, 0, 0, false⟩).pois = true
     (∀ n < 128, (SMap.at 0#64 h.zb (128 * p.row + n), SMap.at 0#32 h.bound (128 * p.row + n))
       = p.blocks.zipIdx.foldl (fun x b => let z := contribute (Acc.of x.1) x.2 (part b n).1 (part b n).2; (z.1.enc, z.2))
           (SMap.at 0#64 g.zb (128 * p.row + n), SMap.at 0#32 g.bound (128 * p.row + n))) ∧
     (∀ i, i / 128 ≠ p.row → SMap.at 0#64 h.zb i = SMap.at 0#64 g.zb i ∧ SMap.at 0#32 h.bound i = SMap.at 0#32 g.bound i) ∧
     (∀ b, p.blocks = [b] →
       ((∃ n < 128, (part (b, 0) n).1.spx = true) → SMap.at 0#64 h.ck p.row = { Acc.of (SMap.at 0#64 g.ck p.row) with spx := true }.enc) ∧
       ((∀ n < 128, (part (b, 0) n).1.spx = false) → ∃ k : Nat, (∀ n < 128, (part (b, 0) n).1.p ≠ 0 → -(k : Int) ≤ (part (b, 0) n).2) ∧
         ∀ q : Int, q = ((List.range 128).map fun n => (part (b, 0) n).1.p * 2 ^ ((part (b, 0) n).2 + k).toNat).sum →
           SMap.at 0#64 h.ck p.row = (let c := Acc.of (SMap.at 0#64 g.ck p.row)
             { c.add (rneScaled q (-k)) with inexact := c.inexact || !exactScaled q (-k) }.enc))) ∧
     (∀ i, i ≠ p.row → SMap.at 0#64 h.ck i = SMap.at 0#64 g.ck i ∧ SMap.at false h.ckPois i = SMap.at false g.ckPois i) ∧
     (∀ n < 128, bad n → SMap.at false h.zbPois (16 * p.row + n / 8) = true ∧ SMap.at false h.ckPois p.row = true) ∧
     (∀ i, (∀ n < 128, bad n → i ≠ 16 * p.row + n / 8) → SMap.at false h.zbPois i = SMap.at false g.zbPois i) ∧
     h = { g with zb := h.zb, bound := h.bound, zbPois := h.zbPois, ck := h.ck, ckPois := h.ckPois }) ∧
   (∀ (g : Griddle) (r : Nat),
     let z (n : Nat) : Acc := Acc.of (SMap.at 0#64 g.zb (128 * r + n))
     let c := Acc.of (SMap.at 0#64 g.ck r)
     let pois := SMap.at false g.ckPois r = true ∨ ∃ l < 16, SMap.at false g.zbPois (16 * r + l) = true
     let inx := c.inexact = true ∨ ∃ n < 128, (z n).inexact = true
     let spx := c.spx = true ∨ ∃ n < 128, (z n).spx = true
     let same (f : Acc → Nat) (m : Nat) : Prop := ((List.range 128).map fun n => f (z n)).sum % m = f c % m
     let all := same (fun a => a.r1 % (2 ^ 19 - 1)) (2 ^ 19 - 1) ∧ same (·.r2) (2 ^ 19) ∧ same (fun a => a.r3 % (2 ^ 19 + 1)) (2 ^ 19 + 1)
     (pois → g.checkRow r = (2, 4)) ∧ (¬ pois → inx → spx → g.checkRow r = (2, 3)) ∧ (¬ pois → inx → ¬ spx → g.checkRow r = (2, 1)) ∧
     (¬ pois → ¬ inx → spx → g.checkRow r = (2, 2)) ∧ (¬ pois → ¬ inx → ¬ spx → all → g.checkRow r = (0, 0)) ∧
     (¬ pois → ¬ inx → ¬ spx → ¬ all → g.checkRow r = (1, 0))) ∧
   (∀ (w fcr ctl : Word),
     let z := Acc.of w
     let d := bitAt ctl 31
     let mode := RMode.of (if d then bits fcr 0 2 else bits ctl 32 2)
     let ieee := if d then bitAt fcr 3 else bitAt ctl 30
     let v : FVal := if z.nan ∨ z.sat then .nan else if z.pinf then .inf false else if z.ninf then .inf true
       else .fin (decide (z.value < 0)) z.value.natAbs (signedOf 10 (bits ctl 38 10))
     let flt (f : FFmt) : Nat := f.encode mode ieee (bitAt fcr 2) v
     (drainCode w fcr ctl).2 = z.sat ∧
     (bits ctl 34 4 = 2 → (drainCode w fcr ctl).1 = (BitVec.ofInt 32 (v.toIntClamped mode (-2 ^ 31) (2 ^ 31 - 1))).toNat) ∧
     (bits ctl 34 4 = 8 → (drainCode w fcr ctl).1 = flt .f32) ∧ (bits ctl 34 4 = 9 → (drainCode w fcr ctl).1 = flt .bf16) ∧
     (bits ctl 34 4 = 10 → (drainCode w fcr ctl).1 = flt .f16) ∧ (bits ctl 34 4 = 11 → (drainCode w fcr ctl).1 = flt .e4m3) ∧
     (bits ctl 34 4 = 12 → (drainCode w fcr ctl).1 = flt .e5m2)) ∧
   (∀ (g h : Griddle) (d : Word) (l r n : Nat) (bs : List Byte) (p : Bool), rowWord d = some (r, n) → (g.saveLines d)[l]? = some (bs, p) →
     let t := h.restLine d l bs p
     bs.length = 64 ∧
     (bits d 60 2 = 0 → l < 16 * n ∧ SMap.at false t.zbPois (16 * r + l) = SMap.at false g.zbPois (16 * r + l) ∧ ∀ i < 8,
       let x := 128 * r + 8 * l + i
       let a := Acc.of (SMap.at 0#64 g.zb x)
       SMap.at 0#64 t.zb x = SMap.at 0#64 g.zb x ∧
       SMap.at 0#32 t.bound x = if a.sat then BitVec.allOnes 32 else BitVec.ofNat 32 (ceilDiv a.value.natAbs (2 ^ 24))) ∧
     (bits d 60 2 = 1 → l < 8 * n ∧ (p = true ↔ SMap.at false g.zbPois (16 * r + 2 * l) = true ∨ SMap.at false g.zbPois (16 * r + 2 * l + 1) = true) ∧
       (p = true → SMap.at false t.zbPois (16 * r + 2 * l) = true ∧ SMap.at false t.zbPois (16 * r + 2 * l + 1) = true) ∧
       ∀ i < 16, SMap.at 0#32 t.bound (128 * r + 16 * l + i) = SMap.at 0#32 g.bound (128 * r + 16 * l + i)) ∧
     (bits d 60 2 = 2 →
       (l < 16 → (p = true ↔ ∃ i < 8, SMap.at false g.ckPois (8 * l + i) = true) ∧
         ∀ i < 8, SMap.at 0#64 t.ck (8 * l + i) = SMap.at 0#64 g.ck (8 * l + i) ∧ SMap.at false t.ckPois (8 * l + i) = p) ∧
       (16 ≤ l → l < 18 → (p = true ↔ ∃ i < 64, SMap.at false g.exPois (64 * (l - 16) + i) = true) ∧ ∀ i < 64,
         SMap.at 0#8 t.ex (64 * (l - 16) + i) = SMap.at 0#8 g.ex (64 * (l - 16) + i) ∧ SMap.at false t.exPois (64 * (l - 16) + i) = p) ∧
       (l = 18 → t.wp = g.wp ∧ t.wt = g.wt ∧ t.wfmt = g.wfmt ∧ t.fresh = g.fresh)) ∧
     (bits d 60 2 = 3 → (∀ i < 64, Mem.byte t.wb.bytes (64 * l + i) = Mem.byte g.wb.bytes (64 * l + i)) ∧
       t.wb.poisoned 6 (64 * l) = g.wb.poisoned 6 (64 * l))))

/-- R292, R295 to R297, R301, R303, R339, R425, R468: a command acts once its issuer's earlier accesses and its earlier commands
with common ranges are performed and no migration holds what it writes. COPY_COMPLETE moves the lines of a COPY or COPYW of
this package in ascending order, row by row, each with the tag that it carries; ROW_OPERATION_COMPLETE moves the lines of the
rows, or writes the pattern; the command leaves its queue with its signal. A copy that still has a line of another package
waits. ACCESS_PERFORMED writes one 8-byte unit of the line that a copy has ready. When each step happens is the agenda
(assumption log 1). R259, R289, R297, R339: CHANNEL_ELEMENT_ARRIVAL: an element that a command of this package reads arrives
in its slot once its lines of other packages have come, with the poison of what was read and its stamp: whole, or what is left
of it where units of it have been written; the elements whose turn has come then become visible. An element that has arrived,
was pushed by an instruction, or is filled from the fabric is left alone. -/
def Obligations.CommandsAct : Prop :=
  (∀ (s : State) (m : Cmd), (s.cmds.find? fun c => c.id == m.id) = some m →
     let pat := (List.replicate 8 (natLe m.b.toNat 8)).flatten
     let fresh := m.prog = 0 ∧ m.spot = none ∧ m.outs = []
     (s.cmdReady m = false ∨ s.cmdHeld m = true → exec (.copyComplete m.id) s = .next s ∧ exec (.rowOperationComplete m.id) s = .next s) ∧
     (s.cmdReady m = true → s.cmdHeld m = false →
       (∀ g acq rel a b d wide geo, (m.instr = .copy g acq rel a b d ∧ wide = false ∨ m.instr = .copyw g acq rel a b d ∧ wide = true) →
         geo = copyGeo m.d m.e wide → m.feed = none → m.acted = false →
         (s.linesFar m = true → exec (.copyComplete m.id) s = .next s) ∧
         (s.linesFar m = false → fresh → geo.dsp ≠ 3 → exec (.copyComplete m.id) s
           = .next (((List.range (geo.rows * (geo.len / 64))).foldl (fun t n =>
             let row : Int := (n / (geo.len / 64) : Nat)
             let line := toWord (64 * (n % (geo.len / 64)))
             let r := t.cmdRead m geo.ssp (alignTo 64 m.b + intWord (geo.sstr * row) + line)
             (r.1.cmdWrite m geo.dsp (alignTo 64 m.a + intWord (geo.dstr * row) + line) r.2.1 r.2.2).carryStamp m n) s).finishCmd m))) ∧
       (∀ g acq rel a b d, m.instr = .rowcpy g acq rel a b d → fresh → exec (.rowOperationComplete m.id) s
         = .next (((List.range (16 * bits m.d 0 7)).foldl (fun t n =>
           let r := t.cmdRead m 0 (m.b + toWord (64 * n))
           r.1.cmdWrite m 0 (m.a + toWord (64 * n)) r.2.1 r.2.2) s).retireCmd m)) ∧
       (∀ g acq rel a b d, m.instr = .rowinit g acq rel a b d → fresh → exec (.rowOperationComplete m.id) s
         = .next (((List.range (16 * bits m.d 0 7)).foldl (fun t n => t.cmdWrite m 0 (m.a + toWord (64 * n)) pat false) s).retireCmd m)) ∧
       (∀ k o rest sp key p q, (s.ops.find? fun x => x.id == m.id) = none → m.unit = .copy k → m.feed = none → m.waiting = false →
         m.outs = o :: rest → o.space ≠ 0 → m.spot = some (.mem sp key) → p < q → q < 8 → p ∉ m.put → q ∉ m.put →
         ∃ u, u < 8 ∧ u ∉ m.put ∧ exec (.accessPerformed m.id) s
           = .next ((s.ticked.writeAS sp (key + 8 * u) ((o.bytes.drop (8 * u)).take 8) o.pois 0).updCmd m.id fun x =>
             { x with spot := some (.mem sp key), put := u :: m.put })))) ∧
  (∀ (s : State) (e : Elem) (m : Cmd), (s.elems.find? fun x => x.id == e.id) = some e →
     let run := exec (.channelElementArrival e.id) s
     let come := ∀ a ∈ m.elemLines e.k, s.remoteLine a = false ∨ ∃ g ∈ m.got, g.1 = a
     let stored (t : State) (us : SMap (List Byte × Bool)) : State := (t.fillSlot e us).updCmd m.id fun x =>
       { x with got := x.got.filter fun g => !(m.elemLines e.k).contains g.1 }
     (∀ (t : State) us, e.put = [] → t.fillSlot e us = t.storeElem e.sp e.key (vecOfBytes (us.flatMap (·.2.1)))
       (groupMask fun g => us.any fun x => x.1 / 8 == g && x.2.2) e.stamp) ∧
     (e.arrived = true ∨ e.cmd = 0 ∨ e.remote = true → run = .next s) ∧
     (e.arrived = false → e.cmd ≠ 0 → e.remote = false → (s.cmds.find? fun c => c.id == e.cmd) = some m →
       (¬ come → run = .next s) ∧
       (come → ∀ t us, s.readElem m e = (t, us) → run = .next (State.settle { stored t us with
         elems := updWhere (fun (x : Elem) => x.id == e.id) (fun x => { x with arrived := true }) (stored t us).elems }))))

/-- R144, R158, R340, R343, R408, R409: a deadline makes a pending STOP forced, unless a PPT has taken it; the pre-emption is
complete at a PPT once the context's Griddle commands are done, with a void ring, or at once when it is forced, with the ring
kept, but not before the accesses that its release at DIE scope follows, and what releases earlier; the context is then
PREEMPTED. R367, R368, R435, R436: the hang records of a running tenant whose next bundle is stalled or blocked are posted
once for each stall, all or none: where the ring lacks room DROP counts them all. A die that samples posts one record for each
of its cores. -/
def Obligations.PreemptionsAndRecords : Prop :=
  (∀ (s : State) (x : Nat),
     let c := s.ctx x
     let grd := ∃ m ∈ s.cmds, m.owner = x ∧ ∃ o, m.unit = .griddle o
     (c.y.stop = none → exec (.preemptDeadline x) s = .next s ∧ exec (.preemptionComplete x) s = .next s) ∧
     (∀ q, c.y.stop = some q →
       (q.atPpt = true → exec (.preemptDeadline x) s = .next s) ∧
       (q.atPpt = false → exec (.preemptDeadline x) s = .next (s.setCtx x { c with y := { c.y with stop := some ⟨true, false⟩ } })) ∧
       let later := ∃ o ∈ s.ops, o.agent = x ∧ o.phase ≠ .performed ∧ (∀ va z v, o.kind ≠ .waitv va z v) ∧
         (o.kind = .release ∨ (∃ r b, o.kind = .record r b) ∨ ∃ l ∈ o.kind.touches, s.scopeOfLoc (coreOf x) l ≤ 4)
       (c.st ≠ .running ∨ c.exiting = true ∨ later → exec (.preemptionComplete x) s = .next s) ∧
       (c.st = .running → c.exiting = false → ¬ later →
         (q.atPpt = true → grd → exec (.preemptionComplete x) s = .next s) ∧
         (q.atPpt = true → ¬ grd → exec (.preemptionComplete x) s
           = .next ((s.setCtx x { c with f := { c.f with ring := [] } }).stopCtx x .preempted)) ∧
         (q.atPpt = false → q.forced = true → exec (.preemptionComplete x) s = .next (s.stopCtx x .preempted)) ∧
         (q.atPpt = false → q.forced = false → exec (.preemptionComplete x) s = .next s)))) ∧
  (∀ (s : State) (x d : Nat), x < 2048 →
     let c := s.ctx x
     let chans := (List.range 8).filter fun n => (c.chan n).en
     let r := s.ring c.y.part
     let full : Ring := { r with drop := BitVec.ofNat 16 (min 65535 (r.drop.toNat + (5 + chans.length))) }
     (c.st ≠ .running ∨ c.exiting = true ∨ c.y.sup = true ∨ c.y.hung = true → exec (.hangTimeout x) s = .next s) ∧
     (c.st = .running → c.exiting = false → c.y.sup = false → c.y.hung = false →
       (∀ w l, (s.focus x).attempt = .stall w l →
         (r.logn = 0 ∨ 2 ^ r.logn < (r.tail - r.head).toNat + (5 + chans.length) → exec (.hangTimeout x) s
           = .next (({ s with rings := SMap.put Ring.none s.rings c.y.part full }.ticked).setCtx x
             { c with y := { c.y with hung := true } })) ∧
         (r.logn ≠ 0 → (r.tail - r.head).toNat + (5 + chans.length) ≤ 2 ^ r.logn → ∃ recs : List (List Byte), recs.length = 5 + chans.length ∧
           ((recs.getD 0 []).take 8 = natLe 0x20 1 ++ natLe c.y.part 1 ++ natLe x 2 ++ natLe w.1 1 ++ natLe w.2.1 1
             ++ natLe (4 + chans.length) 2) ∧ (recs.getD 0 []).drop 24 = natLe w.2.2.toNat 8 ∧
           exec (.hangTimeout x) s = .next (((recs.foldl (fun t m => t.postCounted c.y.part m) s).ticked).upd x fun c =>
             { c with y := { c.y with hung := true } }))) ∧
       ((∀ w l, (s.focus x).attempt ≠ .stall w l) → exec (.hangTimeout x) s = .next s)) ∧
     (2 ≤ d ∨ bitAt (s.reg d 0x9B0) 63 = false → exec (.pcSample d) s = .next s) ∧
     (d < 2 → bitAt (s.reg d 0x9B0) 63 = true → exec (.pcSample d) s
       = .next ((List.range 256).foldl (fun t i => t.post (64 + d) (s.sample (256 * d + i))) s).ticked))

/-- R377 to R379, R381, R382, R469: what a packet that arrives does. A port out of service loses it; a request of an incarnation
that is not live is dropped and counted, one for another incarnation is refused with PEERRST, one whose key the port does not
hold with REFUSED. A READ, a WRITE without a flag into a core's AB, and an ATOMIC that names it, are performed by the rights
of the partition that the key names and answered; a fault answers RFAULT. A reply closes the entry of its tag, or is counted.
The forms of the payloads are assumption log 14. -/
def Obligations.PacketsArrive : Prop :=
  ∀ (s : State) (p : Nat) (k : Packet),
    let src := natBits k.route.toNat 6 9
    let live := (s.peer src).state = 1 ∧ (s.peer src).inc = k.sinc
    let requests : List Instr := [.fabricWrite p k, .fabricRead p k, .fabricAtomic p k, .fabricReduce p k]
    let replies : List (Instr × FabEnd) := [(.ack p k, .ack), (.nack p k, .failed (FabFail.ofReason (natBits k.route.toNat 0 6))),
      (.data p k, .data k.payload k.poison), (.result p k, .result k.aux k.payload)]
    let hit := s.fab.entries.find? fun q => q.tag == bits k.addr 0 16 && (q.peer.isNone || q.peer == some src)
    (s.portInService p = false → (∀ i ∈ requests, exec i s = .next s) ∧ ∀ e ∈ replies, exec e.1 s = .next s) ∧
    (s.portInService p = true →
      (¬ live → ∀ i ∈ requests, exec i s = .next (s.fabCount 32)) ∧
      (live → k.tinc ≠ s.ownInc → ∀ i ∈ requests, exec i s = .next ((s.fabCount 32).nack k 2)) ∧
      (live → k.tinc = s.ownInc → s.keyPart p k.key = none → ∀ i ∈ requests, exec i s = .next ((s.fabCount 48).nack k 1)) ∧
      (live → k.tinc = s.ownInc → ∀ part, s.keyPart p k.key = some part →
        (∀ t bs ps, s.targetRead (fabRecv p part) k.addr (min 256 k.aux.toNat) = (t, some (bs, ps)) →
          exec (.fabricRead p k) s = .next (t.reply k 18#8 0 bs ps)) ∧
        (∀ t, s.targetRead (fabRecv p part) k.addr (min 256 k.aux.toNat) = (t, none) →
          exec (.fabricRead p k) s = .next (t.nack k 3)) ∧
        (bits k.addr 60 4 = 1 → k.aux = noFlag → k.payload.length = 64 → ∀ core, core = bits k.addr 20 9 →
          (∀ key, s.placeAS false part core false 64 (toWord (bits k.addr 0 20)) = .ok key → exec (.fabricWrite p k) s
            = .next ((s.writeAS false key k.payload (k.poison.getLsbD 0) 0).reply k 16#8 0 [] 0#4)) ∧
          (∀ c, s.placeAS false part core false 64 (toWord (bits k.addr 0 20)) = .error c → exec (.fabricWrite p k) s
            = .next ((s.postAccess (fabRecv p part) c 4 (onDieAddr false 64 (toWord (bits k.addr 0 20)))).nack k 3))) ∧
        (s.targetHeld (fabRecv p part) [k.addr] = false → ∀ f z, AtomOp.ofCode (k.payload.getD 0 0#8).toNat = some f →
          z = (k.payload.getD 1 0#8).toNat → ∀ t l, s.targetLoc (fabRecv p part) k.addr z true = (t, some l) →
          ∀ u v, t.atomAt (fabRecv p part) f l z k.aux (toWord (leNat ((k.payload.drop 8).take 8))) = (u, some v) →
          exec (.fabricAtomic p k) s = .next (u.reply k 18#8 0 (natLe (v % 2 ^ 64) 8) 0#4)) ∧
        (∀ t, s.targetReduce (fabRecv p part) k.addr (bits k.aux 44 3) k.payload = (t, true) → bitAt k.aux 43 = false →
          exec (.fabricReduce p k) s = .next (t.reply k 16#8 0 [] 0#4)) ∧
        (∀ t, s.targetReduce (fabRecv p part) k.addr (bits k.aux 44 3) k.payload = (t, false) →
          exec (.fabricReduce p k) s = .next (t.nack k 3))) ∧
      (∀ e ∈ replies, live → hit = none → exec e.1 s = .next (s.fabCount 16)) ∧
      (∀ e ∈ replies, ∀ q, hit = some q → live ∨ q.peer = none → exec e.1 s = .next (s.closeEntry q e.2)) ∧
      (∀ e ∈ replies, (∀ q, hit = some q → q.peer ≠ none) → ¬ live → exec e.1 s = .next (s.fabCount 32)))


/-- R370, R374 to R376, R393: a packet departs from a port in service at a phase that the port carries and whose entry it may use,
replies first, each in order of arrival, with the phase in its route. At a frame's start loaded tables come into force and the
link-state updates go out, on each plane that has a serving port but the one that carried the update here (R395). FL and INC
change only while no port is up; a table load starts unless one is in progress, and a join is held for its group. R394 to
R396, R463, R469: links. A link-state update is applied once and sent on; a port that gives up, or that LINKDOWN names while
it is up, is declared dead, which begins a drain of its path; in every round the packets that wait for the path are discarded,
and a drain ends with its third round, with a record whose SLOT is that of its first. A retry is counted. LINKCTL moves a port
that is OFF, FAILED or DEAD to TRAIN, and its training ends as the outcome says. -/
def Obligations.PortsAndLinks : Prop :=
  (∀ (s : State) (p ph x : Nat) (v : Word),
     let lanes := min (s.link (13 + p)).width (s.pan (1622 + p)).cap
     let carries := 0 < ph ∧ ph < 2 ^ bits (s.reg 0 0x940) 32 4 ∧ lanes ≠ 0 ∧ ph % (4 / min 4 lanes) = 0
     let q := (s.port p).queue
     let may (w : Waiting) : Bool := s.mayDepart p ph w
     let fabid := s.reg 0 0x940
     let sup := (s.ctx x).y.sup = true
     let j : Join := ⟨bits v 58 5, bits v 48 10, bits v 40 8, bits v 0 16, false⟩
     let sent (w : Waiting) : Out := .next ((s.updPort p fun y => { y with queue := q.erase w }).updFab fun u => { u with
       sent := u.sent ++ [.packet p ph { w.pkt with route := BitVec.ofNat 32 (setBits w.pkt.route.toNat 15 12 ph) }] })
     (s.portInService p = false ∨ ¬ carries ∨ (∀ w ∈ q, may w = false) → exec (.packetDepart p ph) s = .next s) ∧
     (s.portInService p = true → carries →
       (∀ pre w post, q = pre ++ w :: post → may w = true → w.reply = true → (∀ y ∈ pre, may y = true → y.reply = false) →
         exec (.packetDepart p ph) s = sent w) ∧
       (∀ pre w post, q = pre ++ w :: post → may w = true → (∀ y ∈ q, may y = true → y.reply = false) → (∀ y ∈ pre, may y = false) →
         exec (.packetDepart p ph) s = sent w)) ∧
     (∃ t, exec .frameBoundary s = .next t ∧ t.fab.lsuOut = [] ∧
       (t.fab.sent = s.fab.sent ++ s.fab.lsuOut.flatMap fun u =>
         (((List.range 32).filter fun n => (s.servingPort n).isSome).filter fun n => u.1.via != some n).map fun n =>
           FabOut.lsu n u.2 { u.1 with via := some n }) ∧
       ∀ n, n < 32 → ∀ tab, (s.port n).next = some tab → (t.port n).table = tab ∧ (t.port n).next = none) ∧
     (¬ sup → ∀ i ∈ [Instr.fabidWrite x v, .tabload x v, .fabgrpJoin x v], exec i s = .next s) ∧
     (sup →
       ((∃ n, n < 32 ∧ s.portUp n = true) → exec (.fabidWrite x v) s = .next s) ∧
       ((∀ n, n < 32 → s.portUp n = false) → ∃ w, exec (.fabidWrite x v) s = .next (s.setReg 0 0x940 w) ∧ bits w 48 8 = bits v 48 8 ∧
         bits w 0 32 = bits fabid 0 32 ∧ bits w 36 12 = bits fabid 36 12 ∧
         bits w 32 4 = if 6 ≤ bits v 32 4 ∧ bits v 32 4 ≤ 12 then bits v 32 4 else bits fabid 32 4) ∧
       (s.fab.loading ≠ none → exec (.tabload x v) s = .next s) ∧
       (s.fab.loading = none → exec (.tabload x v) s = .next (s.updFab fun f => { f with loading := some (bits v 0 5) })) ∧
       (bitAt v 63 = false → exec (.fabgrpJoin x v) s = .next s) ∧
       (bitAt v 63 = true → exec (.fabgrpJoin x v) s = .next ((s.updFab fun u => { u with
         joins := (u.joins.filter fun y => !(y.plane == j.plane && y.group == j.group)) ++ [j] }).sendJoins none))) ∧
     (s.fab.loading = none → exec .tabloadComplete s = .next s) ∧
     (∀ n t r, s.fab.loading = some n →
       r = s.readImage { part := 0, sup := true, ctx := 0xFFFF, agent := 5, die := n / 16, lcc := 0#64, pc := 0#64, gang := 0 }
         (s.reg 0 0x941) (s.phases / 32) → r.1 = t →
       (r.2 = none → exec .tabloadComplete s = .next (t.updFab fun f => { f with loading := none, loadErr := true })) ∧
       (∀ bs, r.2 = some bs → badTable (imageEntries bs s.phases) = true →
         exec .tabloadComplete s = .next (t.updFab fun f => { f with loading := none, loadErr := true })) ∧
       (∀ bs, r.2 = some bs → badTable (imageEntries bs s.phases) = false → ∃ u, exec .tabloadComplete s = .next u ∧
         u.fab.loading = none ∧ u.fab.loadErr = false ∧ ∃ tab, (u.port n).next = some tab ∧
           ∀ i, i < s.phases → SMap.at 0#16 tab i = BitVec.ofNat 16 ((imageEntries bs s.phases).getD i 0)))) ∧
  (∀ (s : State) (p x i st w sp dl : Nat) (v : Word) (u : LinkUpdate), p < 32 →
     let up := s.portUp p = true
     let l := s.link (13 + p)
     let sup := (s.ctx x).y.sup = true
     let taken := s.updFab fun f => { f with lsuSeen := f.lsuSeen ++ [u.seq], lsuOut := f.lsuOut ++ [(u, 0)] }
     (u.seq ∈ s.fab.lsuSeen → exec (.lsu u) s = .next s) ∧
     (u.seq ∉ s.fab.lsuSeen → u.pkg ≠ s.ownPkg → exec (.lsu u) s = .next (taken.applyPeer u)) ∧
     (u.seq ∉ s.fab.lsuSeen → u.pkg = s.ownPkg → u.event ≠ .linkDown → exec (.lsu u) s = .next taken) ∧
     (up → exec (.linkDead p) s = .next (s.declareDead p) ∧ exec (.linkRetry p) s = .next (s.fabCount 0)) ∧
     (¬ up → exec (.linkDead p) s = .next s ∧ exec (.linkRetry p) s = .next s) ∧
     (∃ d, (s.declareDead p).fab.drains = s.fab.drains ++ [d] ∧ d.port = some p ∧ d.round = 1 ∧ d.slot = Config.slot s.tick ∧ ((s.declareDead p).link (13 + p)).state = 5) ∧
     (¬ sup → exec (.linkTrain x v) s = .next s ∧ exec (.linkDown x v) s = .next s) ∧
     (sup → bits v 0 6 = 13 + p →
       (bitAt v 63 = true → exec (.linkTrain x v) s
         = .next (if l.state = 0 ∨ l.state = 4 ∨ l.state = 5 then s.updLink (13 + p) fun l => { l with state := 1 } else s)) ∧
       (bitAt v 62 = true → up → exec (.linkDown x v) s = .next (s.declareDead p)) ∧
       (bitAt v 62 = true → ¬ up → exec (.linkDown x v) s = .next s)) ∧
     (l.state ≠ 1 ∨ st < 2 ∨ 4 < st → exec (.linkTrainingComplete p st w sp dl) s = .next s) ∧
     (l.state = 1 → st = 4 → exec (.linkTrainingComplete p st w sp dl) s
       = .next (s.updLink (13 + p) fun l => ⟨4, w, min 65535 (l.retrain + 1)⟩)) ∧
     (l.state = 1 → st = 2 ∨ st = 3 → ∃ t, exec (.linkTrainingComplete p st w sp dl) s = .next t ∧
       t.link (13 + p) = ⟨st, w, min 65535 (l.retrain + 1)⟩ ∧ (t.port p).plane = bits (s.reg 0 (0x950 + p)) 0 5 ∧
       (t.port p).dead = false ∧ (t.port p).sport = sp ∧ (t.port p).dly = dl) ∧
     (s.fab.drains.length ≤ i → exec (.drainRoundExpiry i) s = .next s) ∧
     (∀ d, s.fab.drains[i]? = some d → d.round < 3 → exec (.drainRoundExpiry i) s = .next ((s.updFab fun f => { f with
       drains := f.drains.set i { d with round := d.round + 1 }, lsuOut := f.lsuOut ++ [(d.lsu, d.round + 1)] }).discardQueued d)) ∧
     (∀ d, s.fab.drains[i]? = some d → 3 ≤ d.round → d.port = none → ∀ pl, d.plane = some pl → exec (.drainRoundExpiry i) s
       = .next ((((s.updFab fun f => { f with drains := f.drains.eraseIdx i }).discardQueued d).failEntries
         (if d.reset then .peerrst else .deadlink) fun q => d.covers q.plane q.port q.peer).fabRecordAt d.slot 0 6 pl d.lsu.pkg d.lsu.inc)))

/-- R450 to R459, R463, R464: reset and boot. A package reset puts every register at its reset value, empties the memories but for
their stuck bits, starts the time again and keeps the flash; stage ROM ends with the host link's training, FETCH with NOFLASH,
FORMAT or VERIFY, which checks KEYHASH, SIG and CONFIG in this order; repairs are taken in stage MARCH, TESTCFG too, and take
effect with DONE; MARCH ends with its last core or at its time limit, and the stacks and the bridge train; each ends UP,
DEGRADED or FAILED, which ends stage MEM; version 1 of the Pantry is published and the supervisor starts, or the boot stops
with NOSUP. The messages that are signed, and on how many lanes a link trains, are assumption log 34, and the empty memories
log 2; sha512, ecdsaVerify and the hash in the ROM, and what stage ROM waits for, are the model's own (assumption log 7); that
spare rows read as zero is log 11. -/
def Obligations.TheDeviceBoots : Prop :=
  ∀ (s : State) (x bridge : Nat) (v : Word) (fails : List (Nat × Byte)) (weak : List (Nat × Nat)) (reduced : Bool),
    let b := s.svc.boot
    let f := b.flash
    let len := Mem.read f 8 4
    let k := coreOf x
    let sup := x < 2048 ∧ (s.ctx x).y.sup = true
    let stage (t : State) (n : Nat) : State := t.updBoot fun b => { b with stage := n }
    let ends (n : Nat) : Out := .next (s.updBoot fun b => { b with stage := 15, err := n })
    let verify := exec .bootVerify s
    let spare : Bool × Nat := (bitAt v 16, bits v 0 14)
    let cleared (m m' : Bank) : Prop := m'.bytes = [] ∧ m'.pois = [] ∧ m'.stuck = m.stuck ∧ m'.spare = []
    let chans (u : Nat) : Nat := ((weak.find? fun e => e.1 == u).map fun e => min 32 e.2).getD 32
    let ended (u : Nat) : Link := ⟨if chans u = 0 then 4 else if chans u < 32 then 3 else 2, chans u, min 65535 ((s.link u).retrain + 1)⟩
    (∃ t, exec .packageReset s = .next t ∧ t.svc.boot.stage = 0 ∧ t.svc.boot.flash = f ∧ t.regs = [] ∧ t.ops = [] ∧ t.clock = 0#64 ∧
      cleared s.hbm t.hbm ∧ cleared s.ab t.ab ∧ cleared s.sp t.sp ∧ cleared s.tmem t.tmem ∧ cleared s.imem t.imem ∧
      ∀ a, t.ctx a = Ctx.reset) ∧
    (3 ≤ b.stage → verify = .next s) ∧
    (b.stage = 0 → ∀ lanes, lanes = (Config.hostLanes s.tick).toNat + 1 → verify = .next (stage (s.updLink 45 fun l =>
      ⟨if lanes < 16 then 3 else 2, lanes, min 65535 (l.retrain + 1)⟩) 1).ticked) ∧
    (b.stage = 1 → (f = [] → verify = ends 1) ∧ (f ≠ [] → badBundle f = true → verify = ends 2) ∧
      (f ≠ [] → badBundle f = false → verify = .next (stage s 2))) ∧
    (b.stage = 2 → (sha512 (rootKey f) ≠ Config.romKeyHash → verify = ends 3) ∧
      (sha512 (rootKey f) = Config.romKeyHash →
        let signed := ecdsaVerify (rootKey f) (Mem.bytes f len 132) (sha512 (Mem.bytes f 0 len))
        (signed = false → verify = ends 4) ∧
        (signed = true → badConfig (configBytes f) (supEntry f).size = true → verify = ends 5) ∧
        (signed = true → badConfig (configBytes f) (supEntry f).size = false → verify = .next (stage s 3)))) ∧
    (b.stage ≠ 3 → exec (.bist fails) s = .next s) ∧
    (b.stage = 3 → ∃ t, exec (.bist fails) s = .next t ∧ t.svc.boot.stage = 4) ∧
    (¬ sup → ∀ i ∈ [Instr.repadd x v, .bootsumWrite x v, .testcfgWrite x v, .attestationStart x v], exec i s = .next s) ∧
    (sup →
      (b.stage ≠ 4 ∨ spare ∈ (s.coreTest k).repairs → exec (.repadd x v) s = .next s) ∧
      (b.stage = 4 → spare ∉ (s.coreTest k).repairs →
        (addRepair (s.coreTest k).repairs spare = none → exec (.repadd x v) s = .next (s.updTest k fun u => { u with overflow := true })) ∧
        (∀ l, addRepair (s.coreTest k).repairs spare = some l → exec (.repadd x v) s
          = .next (s.updTest k fun u => { u with repairs := l, nmarch := u.nmarch + 1 }))) ∧
      (bitAt v 63 = false → (b.stage ≠ 4 ∨ ∃ m, m < 512 ∧ m ≠ k ∧ (s.coreTest m).runs = true ∧ (s.coreTest m).done = false) →
        exec (.bootsumWrite x v) s = .next (s.updTest k fun u => { u with done := false, fails := bits v 32 16 })) ∧
      (bitAt v 63 = true → (b.stage ≠ 4 ∨ ∃ m, m < 512 ∧ m ≠ k ∧ (s.coreTest m).runs = true ∧ (s.coreTest m).done = false) →
        exec (.bootsumWrite x v) s = .next ((s.updTest k fun u => { u with done := true, fails := bits v 32 16 }).useRepairs k)) ∧
      exec (.testcfgWrite x v) s = .next (if b.stage = 4 then s.setReg k 0xA02 (v &&& 1#64) else s) ∧
      (bitAt v 0 = false ∨ b.attBusy = true → exec (.attestationStart x v) s = .next s) ∧
      (bitAt v 0 = true → b.attBusy = false → exec (.attestationStart x v) s = .next ((s.updBoot fun b => { b with
        attBusy := true, attVer := s.svc.pantry.ver, attTime := s.clock + Config.elapsed s.tick }).ticked))) ∧
    (b.stage < 4 ∨ b.stage = 15 → exec .marchTimeout s = .next s) ∧
    (b.stage = 4 → ∃ t, exec .marchTimeout s = .next t ∧ t.svc.boot.stage = 5 ∧ (∀ m, m < 13 → (t.link m).state = 1) ∧
      ∀ m, m < 512 → (t.coreTest m).timeout = ((s.coreTest m).timeout || !(s.coreTest m).done)) ∧
    (b.stage ≠ 5 → exec (.memTrainingComplete weak (bridge, reduced)) s = .next s) ∧
    (b.stage = 5 → ∃ t, exec (.memTrainingComplete weak (bridge, reduced)) s = .next t ∧ t.svc.boot.stage = 6 ∧ t.svc.boot.memUp = true ∧
      t.svc.boot.bridge = (bridge != 0) ∧
      t.link 12 = ⟨if bridge = 0 then 4 else if reduced then 3 else 2, bridge, min 65535 ((s.link 12).retrain + 1)⟩ ∧
      ∀ m : Nat, m < 12 → (m ∈ t.svc.boot.badStacks ↔ chans m = 0) ∧
        t.link m = ended m) ∧
    (b.stage ≠ 6 → exec .bootPantry s = .next s) ∧
    (b.stage = 6 → (∀ m, m < 256 → (s.coreTest m).pass = false) →
      exec .bootPantry s = .next (s.updBoot fun b => { b with stage := 15, err := 6 })) ∧
    (b.stage = 6 → (∃ m, m < 256 ∧ (s.coreTest m).pass = true) → ∃ t, exec .bootPantry s = .next t ∧ t.svc.boot.stage = 7 ∧
      t.svc.pantry.ver = 1#32)


/-- R79, R87, R102, R116: a step runs the decoded instructions. Where the agenda's head is the owner of a core's issue slot, no
supervisor context goes before it, no event and no wait stands at its boundary, and its next bundle decodes, meets no
condition of R115 before its slots run, and runs each of them without a stop or a stall, the step is the commit of what `exec`
answers slot by slot, in canonical order, with the errors that the fetch corrects counted (R80). A bundle of one slot word
decodes to the instruction of that word. The agenda is assumption log 1. -/
def Obligations.StepRunsDecodedInstruction : Prop :=
  ∀ (s : State) (x : Nat) (rest : List Instr), s.agenda = .bundleIssue x :: rest → s.runnable x = true →
    s.slotOwner (coreOf x) = some x →
    let s0 : State := { s with agenda := rest }
    let t := s0.focus x
    let w : State := { t with c := { t.c with e := t.c.e.dropThrottle } }
    let pc := w.c.f.pc
    let fetched (n : Nat) : Word32 := w.imemWord (coreOf x) (pc.toNat + 4 * n)
    let h := Header.of (fetched 0)
    s0.mustYield x = false → t.eventNow = none → t.c.f.blocked = [] → w.fetchBad = false →
    (∀ p i, w.c.y.inSpan w.offset 2 = true → h.ver.toNat < 2 → (∀ n, n < 8 → maskHas h.pmask n = decide (n = p)) → p < 8 →
      h.dmask = 0#8 → h.rsv = 0#4 → (h.opv = true ∨ h.opp = 0#3) → stopOf (fetched 1) = true → w.checkSlot p (fetched 1) = .ok i →
      decodeSlot (fetched 1) = .ok i ∧
      ∃ b, w.decodeBundle = .ok b ∧ b.h = h ∧ b.slots = [⟨p, fetched 1, 0#64, i⟩] ∧ b.next = pc + 8#64) ∧
    (∀ b, w.decodeBundle = .ok b → (∀ e ∈ b.slots, (encode e.instr).isSome = true) → w.tokenStall b.slots = none →
      w.acquireStall b.slots = none → w.c.y.chk = false →
      ∀ ss : List State, ss.length = b.slots.length + 1 → ss.head? = some (w.beginBundle b) →
      (∀ n e u v, b.slots[n]? = some e → ss[n]? = some u → ss[n + 1]? = some v →
        exec e.instr (u.iss fun i => { i with pos := e.pos, word := e.word, doff := e.doff, stop := none }) = .next v ∧
          v.issue.stop = none) →
      ∀ u, ss.getLast? = some u → u.issue.stall = none → u.skidStall = none →
        bitAt (w.reg (coreOf x) 0x8D0) 0 = true ∨ u.bankTrap = none → u.heldTrap = none →
        step s = .next ((u.noticeFetch.commitBundle b).settle.afterCommit u.issue.after).issued)


/-- R102: the checks of a bundle that is next to issue, in their order: the header in the span, VER, the slot words in the span
and their stop bits, the conditions of R90, the reserved fields of the header, then the executing slots in canonical order; of
one slot its position, its encoding, its feature group and its privilege. The first that fails decides the kind and the
position. -/
def Obligations.BundlesAreChecked : Prop :=
  ∀ s : State, s.who < 2048 →
    let pc := s.c.f.pc.toNat
    let w (n : Nat) : Word32 := s.imemWord (coreOf s.who) (pc + 4 * n)
    let h := Header.of (w 0)
    let n := maskCount h.pmask
    let fits (m : Nat) : Prop := s.c.y.inSpan s.offset m = true
    let stops := ∀ i, i < n → stopOf (w (i + 1)) = decide (i + 1 = n)
    let mine (i : Nat) : Prop := i < 8 ∧ (maskHas h.pmask i = true ∨ maskHas h.dmask i = true)
    let r90 := (h.pmask &&& h.dmask ≠ 0#8) ∨ ∃ i, i < 8 ∧ maskHas h.dmask i = true ∧ ((s.c.f.position i).valid = false ∨
      (i = 0 ∧ (opcOf (s.c.f.position 0).held).extractLsb' 5 3 = 2#3))
    let rsv := h.rsv ≠ 0#4 ∨ (h.opv = false ∧ h.opp ≠ 0#3)
    let held (i : Nat) : Word32 := if maskHas h.pmask i then w (1 + ((List.range i).filter (maskHas h.pmask)).length) else (s.c.f.position i).held
    let is (k : TrapKind) (pos : Nat) : Prop := s.decodeBundle = .error (.trap k pos 0#64)
    (¬ fits 1 → is .bundle 8) ∧
    (fits 1 → 2 ≤ h.ver.toNat → is .bundle 8) ∧
    (fits 1 → h.ver.toNat < 2 → ¬ fits (1 + n) ∨ ¬ stops → is .bundle 8) ∧
    (fits (1 + n) → h.ver.toNat < 2 → stops →
      (r90 → is .bundle 8) ∧
      (¬ r90 → rsv → is .illegal 8) ∧
      (¬ r90 → ¬ rsv →
        (∀ i k, mine i → (∀ j, j < i → mine j → ∃ m, s.checkSlot j (held j) = .ok m) → s.checkSlot i (held i) = .error k → is k i) ∧
        ((∀ i, mine i → ∃ m, s.checkSlot i (held i) = .ok m) → ∃ b, s.decodeBundle = .ok b ∧ b.h = h ∧
          b.next = s.c.f.pc + toWord (4 * (1 + n)) ∧
          ∀ e ∈ b.slots, mine e.pos ∧ e.word = held e.pos ∧ s.checkSlot e.pos e.word = .ok e.instr))) ∧
    (∀ (pos : Nat) (v : Word32), let o := opcOf v
      (positionOk o pos = false → s.checkSlot pos v = .error .bundle) ∧
      (positionOk o pos = true →
        (∀ e, decodeSlot v = .error e → s.checkSlot pos v = .error .illegal) ∧
        (∀ i, decodeSlot v = .ok i →
          (∀ g, featureOf o = some g → s.hasFeat g = false → s.checkSlot pos v = .error .feature) ∧
          ((∀ g, featureOf o = some g → s.hasFeat g = true) →
            (0x53 ≤ o.toNat → o.toNat ≤ 0x56 → s.c.y.sup = false → s.checkSlot pos v = .error .priv) ∧
            ((o.toNat < 0x53 ∨ 0x56 < o.toNat ∨ s.c.y.sup = true) → s.checkSlot pos v = .ok i)))))


/-- R86, R94, R99, R100: words of the spec's worked examples and what they stand for. -/
def Obligations.WordsOfTheExamples : Prop :=
  decodeSlot 0x000C8500#32 = .ok (.add ⟨0#3, false⟩ 3#5 4#5 5#5) ∧
  decodeSlot 0x38083940#32 = .ok (.fadd 0#3 0#3 2#5 3#6 37#6) ∧
  decodeSlot 0xE11CC002#32 = .ok (.vld ⟨0#3, false⟩ false 7#5 6#5 2#6) ∧
  decodeSlot 0xE010C182#32 = .ok (.ld ⟨0#3, false⟩ 2#2 true 4#5 6#5 2#6) ∧
  decodeSlot 0xA1804000#32 = .ok (.loop ⟨0#3, false⟩ 0#2 2#5) ∧
  decodeSlot 0x90042001#32 = .ok (.addi 1#5 1#5 1#13) ∧
  decodeSlot 0xA3800000#32 = .ok .exit ∧ decodeSlot 0xE4900200#32 = .ok (.chpop ⟨0#3, false⟩ 4#5 2#3)


/-- R86, R94, R99, R100: no bit of an encoding is dropped: the word of a well-formed instruction decodes to it, with the stop bit
clear or set, and every instruction of the bundle's slots has a word. -/
def Obligations.DecodingInvertsEncoding : Prop :=
  (∀ (i : Instr) (w : Word32), i.wf = true → encode i = some w →
    decodeSlot w = .ok i ∧ decodeSlot (w ||| 0x80000000#32) = .ok i ∧ i.opc = some (opcOf w) ∧ stopOf w = false) ∧
  ∀ i : Instr, (encode i).isSome = i.opc.isSome


/-- R94, R100, R102: no reserved bit of a slot word is ignored: a word that decodes to an instruction is the word of that
instruction, but for its stop bit, and the instruction is well formed. -/
def Obligations.EncodingInvertsDecoding : Prop :=
  ∀ (w : Word32) (i : Instr), decodeSlot w = .ok i → i.wf = true ∧ encode i = some (w &&& 0x7FFFFFFF#32)


/-- R450, R12, R48, R57, R62, R71, R88, R125, R157, R161, R247, R376, R417, R435, R464: what a package reset leaves: nothing
outstanding; every register outside the contexts at its reset value: QUANTUM 16, AGELIM 1,000, PANCTL.VER 1, GRACE 1,000,
HANGTO 10,000, the LIMITs of the AB and SP windows 16, FL 8, PLANE n of port n, error windows of 1,000 with threshold 16,
SAMPCFG.PERIOD 15,625, TMAX 100, PKGTIME and FABID.INC 0; no record placed. That every context is FREE, with its registers and
counts zero, without handler, loop, held slot or supervisor right, that what the rules give no reset value for is zero, and
that lists are empty, is the model's choice (assumption log 3). The memories read as zero everywhere: the model's choice
(assumption log 2), where R450 leaves their contents undefined. -/
def Obligations.ResetLeaves : Prop :=
  let s := State.reset
  (∀ x, (s.ctx x).st = .free ∧ (s.ctx x).r = Regs.zero ∧ (s.ctx x).f = Flow.zero ∧ (s.ctx x).e = Exc.zero ∧ (s.ctx x).y = Sys.zero) ∧
  (∀ n, (s.ctx 0).f.position n = ⟨0#32, false, 0#64⟩ ∧ (s.ctx 0).r.readS n = 0#64 ∧ (s.ctx 0).lcntOf n = 0#64) ∧
  s.ops = [] ∧ s.cmds = [] ∧ s.elems = [] ∧ s.monitors = [] ∧ s.tlb = [] ∧ s.gangs = [] ∧ s.regs = [] ∧
  (∀ k n, n < 4096 → s.reg k n =
    if n = 0x800 then 0x100000 else if n = 0x802 then 1000 else if n = 0x812 then 1 else if 0x820 ≤ n ∧ n < 0x830 then 1000
    else if 0x870 ≤ n ∧ n < 0x880 then 10000 else if 0x8A0 ≤ n ∧ n < 0x8C0 then 0x1000 else if n = 0x940 then 0x800000000
    else if 0x950 ≤ n ∧ n < 0x970 then BitVec.ofNat 64 (n - 0x950) else if 0x991 ≤ n ∧ n ≤ 0x998 then 0x3E800100000
    else if n = 0x9B0 then 15625 else if n = 0xA0A then 0x640000 else 0#64) ∧ bits (s.reg 0 0x940) 48 8 = 0 ∧ s.svc.pantry.ver = 1#32 ∧ s.svc.boot.stage = 0 ∧
  MemoryCanonical s ∧ (∀ k, (s.griddle k).wb.bytes = []) ∧ s.clock = 0#64 ∧ (∀ a, Mem.byte s.ab.bytes a = 0#8 ∧ Mem.byte s.hbm.bytes a = 0#8)


/-- The whole machine: AB, SP, TMEM, IMEM and HBM, the weight buffers WB of the Griddles and the boot flash keep their canonical
form over every step, from every state in which they have it, so that equal memories are equal data (the model's own form,
assumption log 2). -/
def Obligations.StepKeepsMemoryCanonical : Prop :=
  ∀ s t : State, step s = .next t →
    (MemoryCanonical s → MemoryCanonical t) ∧
    ((∀ k, Mem.wf (s.griddle k).wb.bytes = true) → ∀ k, Mem.wf (t.griddle k).wb.bytes = true) ∧
    (Mem.wf s.svc.boot.flash = true → Mem.wf t.svc.boot.flash = true)


/-- R149 to R152, R160, R162, R399: a precise trap enters the handler: EPC, ECAUSE and EINFO are written, the interrupted code's
ring, held results, positions and wait are saved, the handler starts at its offset with HCC 0, a void ring and no valid
position, and nothing else changes. In handler mode, without a handler, and for FEATURE the gang is suspended. TRAP is
delivered after its bundle with the offset of the next one; ERET restores what was saved, lands what arrived for it in the
order of arrival, and goes on at EPC with the frozen LCC; the tables that a binding of the interrupted code has replaced are
free. HALT and SVC stop the context, EXIT drops its held results; HALT frees the slot, with its energy charged. ECAUSE.POS 0
of TRAP is assumption log 18; that operations of the handler which are outstanding at ERET go on as operations of the
interrupted code is the model's reading (assumption log 21). -/
def Obligations.TrapsAndReturns : Prop :=
  ∀ (s : State) (k : TrapKind) (pos : Nat) (info : Word) (imm : BitVec 18), s.who < 2048 →
    let c := s.c
    let off : Word := c.f.pc - toWord c.y.spanBase
    let enters (t : State) (kind p : Nat) (v : Word) : Prop :=
      t = { s with c := t.c } ∧ t.c.r = c.r ∧ t.c.y = c.y ∧ t.c.st = c.st ∧
      t.c.e = { c.e with hm := true, epc := off.setWidth 32, ecPos := p, ecKind := kind, einfo := v } ∧
      t.c.f.saved = ⟨c.f.ring, c.f.pos, c.f.pend, [], c.f.blocked⟩ ∧ t.c.f.pend = [] ∧ t.c.f.blocked = [] ∧
      (∀ q, t.c.f.readQ q = PVec.zero) ∧ (∀ n, (t.c.f.position n).valid = false) ∧ t.c.f.hcc = 0#64 ∧ t.c.f.lcc = c.f.lcc ∧
      t.c.f.lcnt = c.f.lcnt ∧ t.c.f.pc = toWord c.y.spanBase + c.e.tvecOff.setWidth 64
    (k ≠ .feature → c.e.hm = false → c.e.tvecEn = true → enters (s.takeStop (.trap k pos info)) k.code pos info) ∧
    (k = .feature → s.takeStop (.trap k pos info) = s.suspendGang s.who 2 3 pos info) ∧
    (k ≠ .feature → c.e.hm = true ∨ c.e.tvecEn = false → s.takeStop (.trap k pos info) = s.suspendGang s.who 1 k.code pos info) ∧
    ((s.suspendGang s.who 1 k.code pos info).ctx s.who).st = .suspended ∧
    ([TrapKind.illegal, .bundle, .feature, .undersize, .tstamp, .bank, .race, .poison, .trange, .tbusy, .rowx, .sfgap, .sfdom, .priv,
      .svc, .trap, .preempt, .pantry, .throttle, .lockstep, .uncorr].map TrapKind.code = (List.range 21).map (· + 1)) ∧
    (c.e.hm = false → c.e.tvecEn = true → enters (s.afterCommit (.trap imm)) 16 0 (imm.setWidth 64)) ∧
    (c.f.pend = [] → ∀ b : Ctx, b = { c with
        e := { c.e with hm := false }, y := c.y.settleTabs true,
        f := { c.f with ring := c.f.saved.ring, pos := c.f.saved.pos, pend := c.f.saved.pend, blocked := c.f.saved.blocked,
                        saved := Saved.none, pc := s.base + c.e.epc.setWidth 64 } } →
      s.afterCommit .eret = { s with
        c := c.f.saved.arrived.foldl (fun x h => x.land h.land) b,
        ops := updWhere (fun o => o.agent == s.who) (fun o => { o with hm := false }) s.ops }) ∧
    s.afterCommit .nothing = s ∧
    (∃ e, ((s.afterCommit .halt).ctx s.who) = { c with st := .halted, y := { c.y with energy := e } }) ∧
    (((s.afterCommit (.svc imm)).ctx s.who).st = .suspended) ∧
    (((s.afterCommit .exit).ctx s.who).exiting = true ∧ ((s.afterCommit .exit).ctx s.who).f.pend = [] ∧
      ((s.afterCommit .exit).ctx s.who).r = c.r)


/-- R109, R111, R133: a commit advances logical time by 1 + ADV', one more for a taken branch, in LCC or, in a handler, HCC. A
held register result lands in the advance that reaches its cycle, and not before; what no result lands on keeps its value. (A
register that an elastic operation of the bundle writes is left out: R114.) -/
def Obligations.LogicalTimeAdvances : Prop :=
  ∀ (s : State) (b : Bundle),
    (∀ h ∈ s.c.f.pend, (∃ r v p, h.land = .scal r v p) ∨ (∃ r v p, h.land = .pred r v p) ∨ (∃ r v p, h.land = .vec r v p)) →
    (∀ o ∈ s.ops, o.agent = s.who → o.bun = s.issue.serial0 → o.dest = none) →
    let a := 1 + (if b.h.ver = 1#2 then 16 * b.h.adv.toNat else b.h.adv.toNat) + (if s.issue.target.isSome then 1 else 0)
    let t := s.commitBundle b
    let due (h : Held) : Prop := ∃ k : Nat, 1 ≤ k ∧ k ≤ a ∧ h.cyc = s.c.now + toWord k
    let alone (h : Held) : Prop := ∀ g ∈ s.c.f.pend, g ≠ h → g.land.res ≠ h.land.res
    (s.c.e.hm = false → t.c.f.lcc = s.c.f.lcc + toWord a ∧ t.c.f.hcc = s.c.f.hcc) ∧
    (s.c.e.hm = true → t.c.f.hcc = s.c.f.hcc + toWord a ∧ t.c.f.lcc = s.c.f.lcc) ∧
    (∀ h, h ∈ t.c.f.pend ↔ h ∈ s.c.f.pend ∧ ¬ due h) ∧
    (∀ h ∈ s.c.f.pend, due h → alone h →
      (∀ r v p, h.land = .scal r v p → r ≠ 0 → t.c.r.readS r = v ∧ t.c.r.poisS r = p) ∧
      (∀ r v p, h.land = .pred r v p → r ≠ 0 → t.c.r.readP r = v ∧ t.c.r.poisP r = p) ∧
      (∀ r v p, h.land = .vec r v p → t.c.r.readV r = ⟨v, p⟩)) ∧
    (∀ r, (∀ h ∈ s.c.f.pend, due h → ∀ v p, h.land ≠ .scal r v p) → t.c.r.readS r = s.c.r.readS r ∧ t.c.r.poisS r = s.c.r.poisS r) ∧
    (∀ r, (∀ h ∈ s.c.f.pend, due h → ∀ v p, h.land ≠ .pred r v p) → t.c.r.readP r = s.c.r.readP r ∧ t.c.r.poisP r = s.c.r.poisP r) ∧
    (∀ r, (∀ h ∈ s.c.f.pend, due h → ∀ v p, h.land ≠ .vec r v p) → t.c.r.readV r = s.c.r.readV r) ∧
    SameMemory s t


/-- R10, R111, R113, R153, R156, R254, R273, R342, R343, R348, R466: what a landing changes, and that it changes nothing else: a
register result its one register with its poison, FCR the bits of its mask, POIS the marks of one register; a store of AB or
SP exactly its bytes, the first at the lowest address, the poison marks of the lines that it covers whole, the errors of the
words that it covers in part, and the open marks; a release with it clears the marks of its context alone (R348). A release of
a command or a Ladle run that a bundle hands over takes effect after the bundle's own cycles: at once, or, where elastic
operations of the bundle that its scope holds are outstanding, as an operation that follows them. When a release clears the
marks is the model's reading of R348 (assumption log 40). -/
def Obligations.LandingsChange : Prop :=
  (∀ (c : Ctx) (r : Nat) (v : Word) (q : Pred) (x : Vec) (p : Bool) (g : BitVec 4) (m : Word),
    (∀ l ∈ [Landing.scal r v p, .pred r q p, .vec r x g, .pois 0 r p, .pois 1 r p, .pois 2 r p], c.land l = { c with r := (c.land l).r }) ∧
    (∀ n, (c.land (.scal r v p)).r.readS n = (if n = r ∧ r ≠ 0 then v else c.r.readS n) ∧
      (c.land (.scal r v p)).r.poisS n = (if n = r ∧ r ≠ 0 then p else c.r.poisS n) ∧
      (c.land (.pred r q p)).r.readP n = (if n = r ∧ r ≠ 0 then q else c.r.readP n) ∧
      (c.land (.pred r q p)).r.poisP n = (if n = r ∧ r ≠ 0 then p else c.r.poisP n) ∧
      (c.land (.vec r x g)).r.readV n = (if n = r then ⟨x, g⟩ else c.r.readV n) ∧
      (c.land (.pois 0 r p)).r.poisS n = (if n = r ∧ r ≠ 0 then p else c.r.poisS n) ∧
      (c.land (.pois 2 r p)).r.poisP n = (if n = r ∧ r ≠ 0 then p else c.r.poisP n) ∧
      (c.land (.pois 1 r p)).r.readV n = ⟨(c.r.readV n).v, if n = r then (if p then 15#4 else 0#4) else (c.r.readV n).p⟩) ∧
    (∀ n, (c.land (.scal r v p)).r.readV n = c.r.readV n ∧ (c.land (.scal r v p)).r.readP n = c.r.readP n ∧
      (c.land (.pred r q p)).r.readS n = c.r.readS n ∧ (c.land (.vec r x g)).r.readS n = c.r.readS n ∧
      (c.land (.pois 0 r p)).r.readS n = c.r.readS n) ∧
    c.land (.fcr m v) = { c with y := { c.y with fcr := (c.y.fcr &&& ~~~ m) ||| (v &&& m) } }) ∧
  (∀ (s : State) (cyc : Word) (pos a : Nat) (bs : List Byte) (rel : Bool),
    let t := s.landHeld ⟨cyc, pos, .store false a bs rel, none⟩
    let u := s.landHeld ⟨cyc, pos, .store true a bs rel, none⟩
    (∀ n, Mem.byte t.ab.bytes n = (if a ≤ n ∧ n < a + bs.length then bs.getD (n - a) 0#8 else Mem.byte s.ab.bytes n) ∧
      Mem.byte u.sp.bytes n = (if a ≤ n ∧ n < a + bs.length then bs.getD (n - a) 0#8 else Mem.byte s.sp.bytes n)) ∧
    t = { s with ab := t.ab, abStamp := t.abStamp, abMark := t.abMark, spMark := t.spMark, svc := { s.svc with errs := t.svc.errs } } ∧
    u = { s with sp := u.sp, spStamp := u.spStamp, spMark := u.spMark, abMark := u.abMark, parFlips := u.parFlips, spSeen := u.spSeen,
                 svc := { s.svc with errs := u.svc.errs } } ∧
    (s.ab.flips = [] → t.svc = s.svc) ∧ (s.sp.flips = [] → s.parFlips = [] → u.svc = s.svc) ∧
    (rel = false → t.spMark = s.spMark ∧ u.abMark = s.abMark) ∧ (∀ e ∈ s.spMark, e.2 ≠ s.who + 1 → e ∈ t.spMark) ∧ (∀ e ∈ t.spMark, e ∈ s.spMark) ∧
    (∀ l, let whole := a ≤ 64 * l ∧ 64 * l + 64 ≤ a + bs.length
      (SMap.at false t.ab.pois l = true → ¬ whole ∧ (SMap.at false s.ab.pois l = true ∨ s.ab.worn 6 l 2 = true)) ∧
      (SMap.at false u.sp.pois l = true → ¬ whole ∧ (SMap.at false s.sp.pois l = true ∨ s.sp.worn 6 l 2 = true)) ∧
      (¬ whole → SMap.at false s.ab.pois l = true → SMap.at false t.ab.pois l = true) ∧
      (¬ whole → SMap.at false s.sp.pois l = true → SMap.at false u.sp.pois l = true)) ∧
    (MemoryCanonical s → MemoryCanonical t ∧ MemoryCanonical u)) ∧
  (∀ (s : State) (i : Issue) (cyc : Word) (c : Nat) (b : Bundle), s.who < 2048 →
    let waits := (∃ o ∈ s.ops, o.agent = s.who ∧ o.bun = i.serial0 ∧ o.phase ≠ .performed ∧ ∃ l ∈ o.kind.touches, s.scopeOfLoc (coreOf s.who) l ≤ c) ∨
      (6 ≤ c ∧ ∃ m ∈ s.cmds, m.agent = s.who ∧ m.unit = .fabric ∧ m.bun = i.serial0)
    let w := s.releaseMarks s.who
    (∀ e, (e ∈ w.abMark ↔ e ∈ s.abMark ∧ e.2 ≠ s.who + 1) ∧ (e ∈ w.spMark ↔ e ∈ s.spMark ∧ e.2 ≠ s.who + 1)) ∧
    w = { s with abMark := w.abMark, spMark := w.spMark } ∧
    (i.rels = [] → s.commitReleases i cyc = s) ∧ (i.rels = [c] → ¬ waits → s.commitReleases i cyc = w) ∧
    (i.rels = [c] → waits → ∃ o : Op, s.commitReleases i cyc = { s with ops := s.ops ++ [o], serial := s.serial + 1 } ∧
      o.kind = .release ∧ o.agent = s.who ∧ o.rel = some c ∧ o.phase = .issued ∧ o.ready = true) ∧
    (s.c.f.pend = [] → ∃ u : State, s.commitBundle b = u.commitReleases s.issue s.c.f.lcc ∧ u.who = s.who ∧ u.issue = s.issue))


/-- R111, R134, R148: the frame of every instruction of classes 000 to 101 that does not stop its bundle, but SFT.LOAD, whose
source lines may post records: at its issue no register, mode, system register, memory byte, command or other agent changes.
It holds its results, may issue an elastic operation or waits, and records what its bundle's commit does; the errors that its
reads find are noticed (R466). -/
def Obligations.SlotsLeaveStateAlone : Prop :=
  ∀ (s t : State) (i : Instr) (o : BitVec 8), i.opc = some o → o.toNat < 0xC0 →
    (∀ g d a b, i ≠ .sftLoad g d a b) → s.issue.stop = none → exec i s = .next t →
    t.issue.stop = none →
    ∃ hs os waits r, Noticed s r ∧ t = { r with
      c := { s.c with f := { s.c.f with pend := s.c.f.pend ++ hs, blocked := waits } },
      issue := t.issue, tick := t.tick, clock := t.clock, serial := t.serial, ops := s.ops ++ os }


/-- R142, R292 to R297, R301, R302, R36: where LOOP, LOOPI, COPY, COPYW, PREF, ROWCPY, ROWINIT and the host's accesses to device
memory run to their end. A loop is armed at its bundle's commit; an engine command between global memory, AB and SP, without a
release, joins its queue; the row operations do where every row translates and, for ROWCPY, source and destination rows share
their subarray; a host reads or writes the bytes, a write at once where no page is being migrated. -/
def Obligations.OtherFormsComplete : Prop :=
  ∀ (s : State) (g : Guard) (acq : Bool) (a b d : SReg) (n : BitVec 2) (count : BitVec 13),
    let e := s.c.loopEntry n.toNat
    let fits := bits e 62 2 = 1 ∧ s.issue.next = s.base + toWord (4 * bits e 0 16)
    let ctl := s.rs d
    let geo := s.rs (d + 1#5)
    let unit : EngUnit := if isLadle s.who then .ladle (s.who - 2048) else .copy (coreOf s.who)
    let queued (t : State) (i : Instr) (x y z : Word) : Prop :=
      ∃ m : Cmd, exec i s = .next { t with cmds := s.cmds ++ [m], serial := t.serial + 1 } ∧ m.unit = unit ∧ m.instr = i ∧
        m.agent = s.who ∧ m.a = x ∧ m.b = y ∧ m.d = z ∧ m.prog = 0 ∧ m.acted = false
    let moves := bits ctl 61 3 ≤ 2 ∧ bits ctl 59 2 ≤ 2 ∧ bitAt ctl 55 = false ∧ bits ctl 32 15 = 0 ∧ 64 ≤ bits ctl 0 32 ∧
      bits ctl 0 32 % 64 = 0 ∧ (bits ctl 61 3 = 0 ∨ bits ctl 59 2 = 0 → s.needFeat 7 = none)
    (fits → Ready s g [a] → exec (.loop g n a) s = .next { s with issue := { s.issue with arm := some (n.toNat, s.rs a) } }) ∧
    (fits → exec (.loopi n count) s = .next { s with issue := { s.issue with arm := some (n.toNat, count.zeroExtend 64) } }) ∧
    (s.queueFull unit = false →
      (Ready s g [a, b, d] → moves → queued s (.copy g acq false a b d) (s.rs a) (s.rs b) ctl) ∧
      (Ready s g [a, b, d, d + 1#5] → moves → bits geo 0 16 ≠ 0 → bits geo 40 24 % 64 = 0 → bits geo 16 24 % 64 = 0 →
        queued s (.copyw g acq false a b d) (s.rs a) (s.rs b) ctl) ∧
      (Ready s g [a, b] → ∀ w, w = s.rs b → bits w 32 4 = 0 → 1 ≤ bits w 36 13 → bits w 36 13 ≤ 4096 → bits w 0 6 = 0 → bitAt w 60 = false →
        bits ((s.ctx (s.ownerOf s.who)).chan (bits w 61 3)).cfg 60 3 = (if isLadle s.who then 1 + (s.who - 2048) % 2 else 4) →
        queued s (.pref g acq a b) (s.rs a) w 0#64) ∧
      (Ready s g [a, b, d] → bits ctl 7 45 = 0 → 1 ≤ bits ctl 0 7 → bits ctl 0 7 ≤ 64 → bitAt ctl 63 = false → bits (s.rs a) 0 10 = 0 →
        ∀ t ps, s.rowPas (s.reqOf s.who) (s.rs a) true 0 (bits ctl 0 7) = (t, .ok ps) → none ∉ ps →
        queued t (.rowinit g acq false a b d) (s.rs a) (s.rs b) ctl ∧
        (bits (s.rs b) 0 10 = 0 → ∀ u qs, t.rowPas (s.reqOf s.who) (s.rs b) false 0 (bits ctl 0 7) = (u, .ok qs) → none ∉ qs →
          (∀ (k : Nat) (v w : Nat × Nat), ps[k]? = some (some v) → qs[k]? = some (some w) → v.1 = w.1 ∧ hbmSub v.2 = hbmSub w.2) →
          queued u (.rowcpy g acq false a b d) (s.rs a) (s.rs b) ctl))) ∧
    (s.svc.boot.memUp = true → ∀ h m bytes, (∀ r ∈ s.svc.hostClosed, h + m ≤ r.1 ∨ r.1 + r.2 ≤ h) → h + m ≤ 2 * 0x4800000000 →
      (∃ bs p, bs.length = m ∧ exec (.hostMemRead h m) s
        = .next ((s.noticeHdm h m).updSvc fun v => { v with toHost := v.toHost ++ [.data bs p] })) ∧
      (bytes.length = m → (∀ n, (s.mig n).run = none) → ∃ t, exec (.hostMemWrite h bytes) s = .next t ∧
        ∀ i, i < m → Mem.byte t.hbm.bytes (if h + i < 0x4800000000 then h + i else 2 ^ 39 + (h + i - 0x4800000000)) = bytes.getD i 0#8))


/-- R46, R51, R56, R60, R62, R74, R77, R127, R144, R258, R264, R271, R275, R363, R367, R374, R375, R377, R393 to R396, R417, R420
to R425, R435, R451 to R463: where the package's own events run to their end, each with what it is for: a reset or a move
begins and ends, a register of a supervisor or of a running context takes its value, a change of the Pantry is queued and
published, an error is counted and its window ends, a gang stops for its rollback, goes back and starts again, a translation
is dropped, a page moves, a STOP becomes forced and completes, packets depart, arrive and are answered, links train and die,
and the boot goes from stage to stage. When each event happens is the agenda (assumption log 1), that register writes are
steps of their own is assumption log 27, and the functions that BOOT_VERIFY checks with are the model's own (assumption log
7). -/
def Obligations.EventsComplete : Prop :=
  ∀ (s : State) (x y n k : Nat) (v : Word) (g : Gang) (p : Packet),
    let sup := x < 2048 ∧ (s.ctx x).y.sup = true
    let c := s.ctx x
    let runs := x < 2048 ∧ c.st = .running
    let does (i : Instr) (q : State → Prop) : Prop := ∃ t, exec i s = .next t ∧ q t
    (n < 16 → s.partBusy n = false →
      (bitAt (s.reg 0 0x882) n = true → does (.pctlRst n) fun t => ∀ z ∈ t.gangs, z.part = n → z.undo = []) ∧
      (sup → bitAt v 63 = true → bits v 16 4 = n → does (.prst x v) fun t => ∀ z ∈ t.gangs, z.part = n → z.undo = [])) ∧
    (s.partBusy n = true → (∀ z ∈ s.contextsOf n, s.quiet z = true) → (∀ m ∈ s.cmds, m.part = n → m.ofLaunch = true → m.waiting = false) →
      does (.partitionResetComplete n) fun t => t.partBusy n = false) ∧
    (sup → bitAt v 63 = true → (s.placer (dieOf (coreOf (bits v 0 11)))).replacing = none → s.gang (s.ctx (bits v 0 11)).y.gang = some g →
      (s.ctx (bits v 0 11)).st ≠ .free → g.rollback = none → (∀ m ∈ g.members, m.2 ≠ 0xFFFF) → s.allStopped g = true →
      does (.replace x v) fun t => (t.placer (dieOf (coreOf (bits v 0 11)))).replacing = some (bits v 0 11)) ∧
    ((s.placer n).replacing = some x → s.gang c.y.gang = some g → g.rollback = none → s.allStopped g = true → s.partBusy g.part = false →
      (∀ m ∈ g.resident, (g.resident.foldl State.leaveWait s).saveReady m = true) →
      does (.replaceComplete n) fun t => (t.placer n).replacing = none) ∧
    (sup → (s.queue (bits (s.reg 0 0x880) 0 16)).en = false → does (.qsetWrite x v) fun t =>
      (t.queue (bits (s.reg 0 0x880) 0 16)).part = bits v 40 4 ∧ (t.queue (bits (s.reg 0 0x880) 0 16)).pmax = bits v 32 2) ∧
    (sup → n < 16 → does (.lregWrite x n v) fun t => t.reg (dieOf (coreOf x)) (0x9D0 + n) = v &&& 0x8000007FFFFFFFFF#64) ∧
    (sup → n < 16 → s.contextsOf n = [] → (∀ z ∈ s.gangs, z.part ≠ n) → 1 ≤ bits v 0 20 → does (.pcfgWrite x n v) fun t =>
      t.reg 0 (0x820 + n) = v &&& 0x80FF0000000FFFFF#64) ∧
    (sup → n < 8 → does (.cresWrite x n v) fun t => t.reg 0 (0x8C0 + n) = v) ∧
    (sup → does (.isscfgWrite x v) fun t => t.reg (coreOf x) 0x800 = v &&& 0xFFFF0003#64) ∧
    (sup → does (.spcfgWrite x v) fun t => t.reg (coreOf x) 0x8D0 = v &&& 1#64) ∧
    (k < 512 → bits (s.reg (dieOf k) 0xA0A) 16 8 < bits (s.reg (dieOf k) 0xA0B) 0 8 → (s.core k).thr.toNat < 3 →
      does (.splitLevelStep k true) fun t => (t.core k).thr.toNat = (s.core k).thr.toNat + 1) ∧
    (does (.tempstatUpdate n) fun t => t.tick = s.tick + 1 ∧ t.reg n 0xA0B = Config.temperature s.tick &&& 0xFF#64) ∧
    (does (.powerEstimateUpdate k) fun t => (t.core k).power = Config.powerEstimate s.tick) ∧
    (sup → does (.synobjWrite x v) fun t =>
      SMap.at 0#32 t.sync (bits c.y.synsel 28 3 * 256 + bits c.y.synsel 20 8) = v.setWidth 32) ∧
    (sup → 7 ≤ bits v 0 5 → bits v 0 5 ≤ 16 → does (.ringRegisterWrite x 0x890 v) fun t =>
      (SMap.at Ring.none t.rings (32 + dieOf (coreOf x))).reg = v &&& 0x0FFFFFFFFFFFF01F#64) ∧
    (sup → (SMap.at Ring.none s.rings (32 + dieOf (coreOf x))).pending = false → does (.ringHeadWrite x 0x891 v) fun t => (SMap.at Ring.none t.rings (32 + dieOf (coreOf x))).head = v.extractLsb' 0 17) ∧
    (sup → does (.tlbinv x v) fun t => t.svc.tlbinv = s.svc.tlbinv ++ [⟨dieOf (coreOf x), v⟩]) ∧
    (∀ z, s.svc.tlbinv.find? (fun z => z.die == n) = some z → does (.tlbinvComplete n) fun t => ∀ e ∈ t.tlb, e.die = n → e.named z.v = false) ∧
    (sup → (s.mig (dieOf (coreOf x))).run = none → bitAt v 60 = true →
      does (.migrationStart x v) fun t => (t.mig (dieOf (coreOf x))).run ≠ none) ∧
    (∀ r, (s.mig n).run = some r → does (.migrationComplete n) fun t => (t.mig n).run = none) ∧
    (sup → 1 ≤ bits v 32 11 → bits v 32 11 ≤ 1655 → s.svc.pantry.queue = [] → ∀ t bs rs,
      s.readLines pantryReq (s.reg 0 0x810) ((bits v 32 11 + 3) / 4) = (t, some bs) → stagedRecs (cut 16 (bits v 32 11) bs) = some rs →
      (rs.map (·.1)).Nodup → (∀ r ∈ rs, SMap.at false t.svc.pantry.hwf r.1 = false) →
      exec (.pantryCommit x v) s = .next ((t.updPantry fun q => { q with queue := q.queue ++ [⟨rs, false⟩] }).retargetAll)) ∧
    (∀ ch rest, s.svc.pantry.queue = ch :: rest → s.capsSettled = true → exec .pantryPublish s = .next (s.publish ch)) ∧
    (∀ q, (s.octet n).settling = some q → does (.opSettleComplete (512 + n)) fun t => (t.octet n).op = q) ∧
    (c.st = .running → c.exiting = false → c.y.sup = false → s.inTransit x = false → c.y.panv ≠ s.svc.pantry.ver →
      exec (.graceExpiry x) s = .next (s.suspendGang x 3 0 15 0#64)) ∧
    (n < 1655 → (s.errs n).ue = 15 → (s.errs n).ueTold = false → bits (s.reg 0 (0x990 + (panKind n).1)) 16 5 = 15 →
      does (.errorThreshold n) fun t => (t.errs n).ueTold = true) ∧
    (does (.errorWindowExpiry n) fun t => ∀ e ∈ t.svc.errs, (panKind e.1).1 ≠ n) ∧
    (n < 12 → does (.hbmLaneDrift n) fun t => (t.errs (1610 + n)).ue = min 16 ((s.errs (1610 + n)).ue + 1)) ∧
    (x < 2048 → c.st ≠ .free → s.gang c.y.gang = some g → g.rollback = none → g.id = c.y.gang → g.nolog = false →
      (∀ m ∈ g.members, m.2 < 2048 → bitAt (s.reg (dieOf (coreOf m.2)) (0x980 + g.part)) 63 = true) →
      (c.y.sup = false →
        ((s.ctx y).y.sup = true → bitAt v 63 = true → bits v 0 11 = x →
          does (.rollreq y v) fun t => ∃ z, t.gang g.id = some z ∧ z.rollback = some (3, x, c.f.lcc, 0)) ∧
        (does (.uncorr x) fun t => ∃ z, t.gang g.id = some z ∧ z.rollback = some (1, x, c.f.lcc, 0)) ∧
        (s.pairSecond (coreOf x + 1) = true →
          does (.lockstepMismatch x) fun t => ∃ z, t.gang g.id = some z ∧ z.rollback = some (2, x, c.f.lcc, 0)))) ∧
    (∀ cause l i, s.gang n = some g → g.rollback = some (cause, y, l, i) → cause ≠ 9 → s.partBusy g.part = false → g.resident ≠ [] → g.nolog = false →
      (∀ m ∈ g.resident, s.quiet m = true) → does (.gangRollback n) fun t => ∃ z, t.gang g.id = some z ∧ z.undo = [] ∧ z.resident = []) ∧
    (s.gang n = some g → g.rollback ≠ none → g.resident = [] → (∀ l ∈ (s.placer g.die).ready, ∀ e ∈ l, e.gang ≠ some n) →
      ∀ r m t, s.replayOf g.queue = some r → r.nodes[g.node]? = some m → s.placeNode r g.node m (s.nodeClass g.queue m) (some g) = (t, .ok) →
      exec (.rollbackRestart n) s = .next (t.restarted g)) ∧
    (runs → c.exiting = false → c.y.sup = false → c.y.hung = false → ∀ q l, (s.focus x).attempt = .stall q l →
      does (.hangTimeout x) fun t => (t.ctx x).y.hung = true) ∧
    (c.y.stop = some ⟨false, false⟩ → does (.preemptDeadline x) fun t => (t.ctx x).y.stop = some ⟨true, false⟩) ∧
    (c.y.stop = some ⟨true, false⟩ → c.st = .running → c.exiting = false → s.unreleased x = false →
      does (.preemptionComplete x) fun t => (t.ctx x).st = .preempted) ∧
    (n < 2 → bitAt (s.reg n 0x9B0) 63 = true → exec (.pcSample n) s
      = .next ((List.range 256).foldl (fun t i => t.post (64 + n) (s.sample (256 * n + i))) s).ticked) ∧
    (runs → (s.ctx x).chan k = Chan.zero → k < 8 → bits v 60 3 ≤ 4 → 1 ≤ bits v 0 13 → bits v 32 20 + 256 * bits v 0 13 ≤ 2 ^ 20 →
      c.y.sup = true → does (.chcfgWrite x k v) fun t => ((t.ctx x).chan k).cfg = v &&& 0xFC0FFFFF00001FFF#64) ∧
    (runs → n < 4 → bits (c.loopEntry n) 62 2 = 1 → does (.lcntWrite x n v) fun t => (t.ctx x).lcntOf n = v) ∧
    (runs → c.e.hm = true → bits v 0 2 = 0 → does (.epcWrite x v) fun t => (t.ctx x).e.epc = v.setWidth 32) ∧
    (runs → does (.fcrWrite x v) fun t => (t.ctx x).f.pend = c.f.pend ++ [⟨c.now + 4#64, 0, .fcr 0xFF0F#64 v, none⟩]) ∧
    (runs → does (.registerWrite (.sys x 0x007) v) fun t => (t.ctx x).y.tsoff = v.setWidth 32) ∧
    (sup → (∀ q, q < 32 → s.portUp q = false) → does (.fabidWrite x v) fun t => bits (t.reg 0 0x940) 48 8 = bits v 48 8) ∧
    (sup → s.fab.loading = none → does (.tabload x v) fun t => t.fab.loading = some (bits v 0 5)) ∧
    (s.fab.loading ≠ none → does .tabloadComplete fun t => t.fab.loading = none) ∧
    (sup → bitAt v 63 = true → does (.fabgrpJoin x v) fun t => ∃ j ∈ t.fab.joins, j.plane = bits v 58 5 ∧ j.group = bits v 48 10) ∧
    (s.portInService n = true → s.carries n k = true → (∃ q ∈ (s.port n).queue, s.mayDepart n k q = true) →
      does (.packetDepart n k) fun t => t.fab.sent.length = s.fab.sent.length + 1) ∧
    (does .frameBoundary fun t => t.fab.lsuOut = []) ∧
    (∀ u : LinkUpdate, u.seq ∉ s.fab.lsuSeen → does (.lsu u) fun t => u.seq ∈ t.fab.lsuSeen) ∧
    (n < 32 → s.portUp n = true → (does (.linkDead n) fun t => (t.link (13 + n)).state = 5) ∧
      (does (.linkRetry n) fun t => t = s.fabCount 0) ∧
      (sup → bitAt v 62 = true → bits v 0 6 = 13 + n → does (.linkDown x v) fun t => (t.link (13 + n)).state = 5)) ∧
    (∀ r, s.fab.drains[n]? = some r → 3 ≤ r.round → does (.drainRoundExpiry n) fun t => t.fab.drains = s.fab.drains.eraseIdx n) ∧
    (sup → bitAt v 63 = true → n < 32 → bits v 0 6 = 13 + n → (s.link (13 + n)).state = 0 →
      does (.linkTrain x v) fun t => (t.link (13 + n)).state = 1) ∧
    (n < 32 → (s.link (13 + n)).state = 1 → does (.linkTrainingComplete n 2 k x y) fun t => (t.link (13 + n)).state = 2) ∧
    (∀ src, src = natBits p.route.toNat 6 9 → s.portInService n = true → (s.peer src).state = 1 → (s.peer src).inc = p.sinc →
      (∀ q, (s.fab.entries.find? fun q => q.tag == bits p.addr 0 16 && (q.peer.isNone || q.peer == some src)) = some q →
        exec (.ack n p) s = .next (s.closeEntry q .ack) ∧ exec (.data n p) s = .next (s.closeEntry q (.data p.payload p.poison)) ∧
        exec (.nack n p) s = .next (s.closeEntry q (.failed (FabFail.ofReason (natBits p.route.toNat 0 6)))) ∧
        exec (.result n p) s = .next (s.closeEntry q (.result p.aux p.payload))) ∧
      (p.tinc = s.ownInc → ∀ part, s.keyPart n p.key = some part →
        (∀ t bs ps, s.targetRead (fabRecv n part) p.addr (min 256 p.aux.toNat) = (t, some (bs, ps)) →
          exec (.fabricRead n p) s = .next (t.reply p 18#8 0 bs ps)) ∧
        (∀ key, bits p.addr 60 4 = 1 → p.aux = noFlag → p.payload.length = 64 →
          s.placeAS false part (bits p.addr 20 9) false 64 (toWord (bits p.addr 0 20)) = .ok key →
          exec (.fabricWrite n p) s = .next ((s.writeAS false key p.payload (p.poison.getLsbD 0) 0).reply p 16#8 0 [] 0#4)) ∧
        (∀ t, s.targetReduce (fabRecv n part) p.addr (bits p.aux 44 3) p.payload = (t, true) → bitAt p.aux 43 = false →
          exec (.fabricReduce n p) s = .next (t.reply p 16#8 0 [] 0#4)) ∧
        (∀ key f z t r, bits p.addr 60 4 = 1 → AtomOp.ofCode (p.payload.getD 0 0#8).toNat = some f → z = (p.payload.getD 1 0#8).toNat →
          s.placeAS false part (bits p.addr 20 9) false z (toWord (bits p.addr 0 20)) = .ok key →
          s.atomAt (fabRecv n part) f (.ab key) z p.aux (toWord (leNat ((p.payload.drop 8).take 8))) = (t, some r) →
          exec (.fabricAtomic n p) s = .next (t.reply p 18#8 0 (natLe (r % 2 ^ 64) 8) 0#4)))) ∧
    (does .packageReset fun t => t.svc.boot.stage = 0 ∧ t.svc.boot.flash = s.svc.boot.flash) ∧
    (s.svc.boot.stage = 0 → does .bootVerify fun t => t.svc.boot.stage = 1) ∧
    (s.svc.boot.stage = 1 → does .bootVerify fun t => t.svc.boot.stage =
      if s.svc.boot.flash ≠ [] ∧ badBundle s.svc.boot.flash = false then 2 else 15) ∧
    (s.svc.boot.stage = 2 → ∀ f, f = s.svc.boot.flash → does .bootVerify fun t => t.svc.boot.stage =
      if sha512 (rootKey f) = Config.romKeyHash ∧
          ecdsaVerify (rootKey f) (Mem.bytes f (Mem.read f 8 4) 132) (sha512 (Mem.bytes f 0 (Mem.read f 8 4))) = true ∧
          badConfig (configBytes f) (supEntry f).size = false then 3 else 15) ∧
    (s.svc.boot.stage = 3 → does (.bist []) fun t => t.svc.boot.stage = 4) ∧
    (s.svc.boot.stage = 4 → does .marchTimeout fun t => t.svc.boot.stage = 5) ∧
    (s.svc.boot.stage = 5 → ∀ br, does (.memTrainingComplete [] br) fun t => t.svc.boot.stage = 6 ∧ t.svc.boot.memUp = true) ∧
    (s.svc.boot.stage = 6 → k < 256 → (s.coreTest k).pass = true → does .bootPantry fun t => t.svc.boot.stage = 7) ∧
    (sup → s.svc.boot.stage = 4 →
      (∀ l, (bitAt v 16, bits v 0 14) ∉ (s.coreTest (coreOf x)).repairs → addRepair (s.coreTest (coreOf x)).repairs (bitAt v 16, bits v 0 14) = some l →
        does (.repadd x v) fun t => (t.coreTest (coreOf x)).repairs = l) ∧
      (does (.testcfgWrite x v) fun t => t.reg (coreOf x) 0xA02 = v &&& 1#64)) ∧
    (sup → s.svc.boot.stage = 7 → bitAt v 63 = false → does (.bootsumWrite x v) fun t => (t.coreTest (coreOf x)).fails = bits v 32 16) ∧
    (sup → bitAt v 0 = true → s.svc.boot.attBusy = false → does (.attestationStart x v) fun t => t.svc.boot.attBusy = true) ∧
    (s.svc.boot.attBusy = true → does .attestationComplete fun t => t.svc.boot.attBusy = false)
end

