-- ==== Sys2Proof/Laws/Encoding.lean ====
section
/-! SUPPORT. Bit fields of slot words: each form's fields read back what its encoder wrote (R86, R94). -/

namespace Sys2Proof.Laws

/-- A guard's inversion bit reads back. -/
@[simp] theorem ofBool_beq_one (b : Bool) : (BitVec.ofBool b == 1#1) = b := by cases b <;> rfl

/-- A field below the cut of an append is read from its right part. -/
theorem extract_low {m n : Nat} (x : BitVec m) (y : BitVec n) (k len : Nat) (h : k + len ≤ n) :
    (x ++ y).extractLsb' k len = y.extractLsb' k len := BitVec.extractLsb'_append_eq_of_add_le h

/-- A field above the cut of an append is read from its left part. -/
theorem extract_high {m n : Nat} (x : BitVec m) (y : BitVec n) (k len : Nat) (h : n ≤ k) :
    (x ++ y).extractLsb' k len = x.extractLsb' (k - n) len := BitVec.extractLsb'_append_eq_of_le h

@[simp] theorem opcOf_slotWord (c : BitVec 8) (o : BitVec 23) : opcOf (slotWord c o) = c := by
  unfold opcOf slotWord
  rw [extract_high _ _ _ _ (by decide), extract_low _ _ _ _ (by decide)]
  exact BitVec.extractLsb'_eq_self

@[simp] theorem operandsOf_slotWord (c : BitVec 8) (o : BitVec 23) : operandsOf (slotWord c o) = o := by
  unfold operandsOf slotWord
  rw [extract_low _ _ _ _ (by decide)]
  exact BitVec.extractLsb'_eq_self

@[simp] theorem stopOf_slotWord (c : BitVec 8) (o : BitVec 23) : stopOf (slotWord c o) = false := by
  unfold stopOf slotWord
  rw [BitVec.getLsbD_append, if_neg (by decide), BitVec.getLsbD_append, if_neg (by decide)]
  rfl

@[simp] theorem of_encS3 (f : FormS3) : FormS3.of f.enc = f := by
  cases f
  simp only [FormS3.of, FormS3.enc, FormS3.mk.injEq]
  refine ⟨?_, ?_, ?_, ?_, ?_, ?_⟩ <;>
    (try simp (disch := decide) only [BitVec.extractLsb'_append_eq_of_le, BitVec.extractLsb'_append_eq_of_add_le,
      Nat.sub_self]) <;> exact BitVec.extractLsb'_eq_self

@[simp] theorem of_encSI (f : FormSI) : FormSI.of f.enc = f := by
  cases f
  simp only [FormSI.of, FormSI.enc, FormSI.mk.injEq]
  refine ⟨?_, ?_, ?_⟩ <;>
    (try simp (disch := decide) only [BitVec.extractLsb'_append_eq_of_le, BitVec.extractLsb'_append_eq_of_add_le,
      Nat.sub_self]) <;> exact BitVec.extractLsb'_eq_self

@[simp] theorem of_encSL (f : FormSL) : FormSL.of f.enc = f := by
  cases f
  simp only [FormSL.of, FormSL.enc, FormSL.mk.injEq]
  refine ⟨?_, ?_⟩ <;>
    (try simp (disch := decide) only [BitVec.extractLsb'_append_eq_of_le, BitVec.extractLsb'_append_eq_of_add_le,
      Nat.sub_self]) <;> exact BitVec.extractLsb'_eq_self

@[simp] theorem of_encV3 (f : FormV3) : FormV3.of f.enc = f := by
  cases f
  simp only [FormV3.of, FormV3.enc, FormV3.mk.injEq]
  refine ⟨?_, ?_, ?_, ?_, ?_⟩ <;>
    (try simp (disch := decide) only [BitVec.extractLsb'_append_eq_of_le, BitVec.extractLsb'_append_eq_of_add_le,
      Nat.sub_self]) <;> exact BitVec.extractLsb'_eq_self

@[simp] theorem of_encVI (f : FormVI) : FormVI.of f.enc = f := by
  cases f
  simp only [FormVI.of, FormVI.enc, FormVI.mk.injEq]
  refine ⟨?_, ?_, ?_⟩ <;>
    (try simp (disch := decide) only [BitVec.extractLsb'_append_eq_of_le, BitVec.extractLsb'_append_eq_of_add_le,
      Nat.sub_self]) <;> exact BitVec.extractLsb'_eq_self

@[simp] theorem of_encVC (f : FormVC) : FormVC.of f.enc = f := by
  cases f
  simp only [FormVC.of, FormVC.enc, FormVC.mk.injEq]
  refine ⟨?_, ?_, ?_⟩ <;>
    (try simp (disch := decide) only [BitVec.extractLsb'_append_eq_of_le, BitVec.extractLsb'_append_eq_of_add_le,
      Nat.sub_self]) <;> exact BitVec.extractLsb'_eq_self

@[simp] theorem of_encB (f : FormB) : FormB.of f.enc = f := by
  cases f
  simp only [FormB.of, FormB.enc, FormB.mk.injEq]
  refine ⟨?_, ?_, ?_⟩ <;>
    (try simp (disch := decide) only [BitVec.extractLsb'_append_eq_of_le, BitVec.extractLsb'_append_eq_of_add_le,
      Nat.sub_self]) <;> exact BitVec.extractLsb'_eq_self

@[simp] theorem of_encMI (f : FormMI) : FormMI.of f.enc = f := by
  cases f
  simp only [FormMI.of, FormMI.enc, FormMI.mk.injEq]
  refine ⟨?_, ?_, ?_, ?_, ?_, ?_, ?_⟩ <;>
    (try simp (disch := decide) only [BitVec.extractLsb'_append_eq_of_le, BitVec.extractLsb'_append_eq_of_add_le,
      Nat.sub_self]) <;> exact BitVec.extractLsb'_eq_self

@[simp] theorem of_encMR (f : FormMR) : FormMR.of f.enc = f := by
  cases f
  simp only [FormMR.of, FormMR.enc, FormMR.mk.injEq]
  refine ⟨?_, ?_, ?_, ?_, ?_, ?_⟩ <;>
    (try simp (disch := decide) only [BitVec.extractLsb'_append_eq_of_le, BitVec.extractLsb'_append_eq_of_add_le,
      Nat.sub_self]) <;> exact BitVec.extractLsb'_eq_self

@[simp] theorem of_encE (f : FormE) : FormE.of f.enc = f := by
  cases f
  simp only [FormE.of, FormE.enc, FormE.mk.injEq]
  refine ⟨?_, ?_, ?_, ?_, ?_, ?_, ?_, ?_⟩ <;>
    (try simp (disch := decide) only [BitVec.extractLsb'_append_eq_of_le, BitVec.extractLsb'_append_eq_of_add_le,
      Nat.sub_self]) <;> exact BitVec.extractLsb'_eq_self

end Sys2Proof.Laws
end

