-- ==== Sys2Proof/Laws/Memory.lean ====
section
/-! SUPPORT. Sparse maps and memories: a read after a write, the canonical form that every operation keeps, and that maps
in canonical form which read alike are equal. -/

namespace Sys2Proof.Laws

open Sys2Proof.Machine Sys2Proof.Safety

/-! ## Sparse maps -/

section
variable {α : Type} {d : Nat → α}

theorem get_erase (m : SMap α) (k j : Nat) : SMap.get d (m.erase k) j = if j = k then d j else SMap.get d m j := by
  induction m with
  | nil => simp [SMap.erase, SMap.get]
  | cons e m ih =>
    obtain ⟨a, v⟩ := e
    by_cases h : a = k <;> by_cases g : a = j <;> simp only [SMap.erase, SMap.get, h, g, ih, if_true, if_false] <;> split <;>
      simp_all [SMap.get]

theorem erase_key {m : SMap α} {k : Nat} : ∀ e ∈ m.erase k, e ∈ m ∧ e.1 ≠ k := by
  induction m with
  | nil => simp [SMap.erase]
  | cons e m ih =>
    obtain ⟨a, v⟩ := e
    simp only [SMap.erase]
    split
    · exact fun e he => ⟨.tail _ (ih e he).1, (ih e he).2⟩
    · rename_i h
      intro e he
      rcases List.mem_cons.mp he with rfl | he
      · exact ⟨.head _, h⟩
      · exact ⟨.tail _ (ih e he).1, (ih e he).2⟩

theorem get_insert {m : SMap α} {k : Nat} (h : ∀ e ∈ m, e.1 ≠ k) (j : Nat) (v : α) :
    SMap.get d (SMap.insert m k v) j = if j = k then v else SMap.get d m j := by
  induction m with
  | nil => by_cases g : k = j <;> simp [SMap.insert, SMap.get, g, eq_comm]
  | cons e m ih =>
    obtain ⟨a, u⟩ := e
    have ha : a ≠ k := h (a, u) (.head _)
    have := ih fun e he => h e (.tail _ he)
    simp only [SMap.insert]
    split
    · simp only [SMap.get]; by_cases g : k = j <;> simp [g, eq_comm]
    · simp only [SMap.get, this]; by_cases g : a = j <;> by_cases q : j = k <;> simp_all

theorem insert_mem {m : SMap α} {k : Nat} {v : α} : ∀ e, e ∈ SMap.insert m k v ↔ e = (k, v) ∨ e ∈ m := by
  induction m with
  | nil => simp [SMap.insert]
  | cons e m ih =>
    obtain ⟨a, u⟩ := e
    intro e
    simp only [SMap.insert]
    split <;> simp [ih]
    tauto

theorem erase_sublist (m : SMap α) (k : Nat) : (m.erase k).Sublist m := by
  induction m with
  | nil => exact .slnil
  | cons e m ih =>
    obtain ⟨a, v⟩ := e
    simp only [SMap.erase]
    split
    · exact ih.cons _
    · exact ih.cons_cons _

theorem insert_pairwise {m : SMap α} {k : Nat} {v : α} (h : ∀ e ∈ m, e.1 ≠ k) (hm : m.Pairwise fun e f => e.1 < f.1) :
    (SMap.insert m k v).Pairwise fun e f => e.1 < f.1 := by
  induction m with
  | nil => simp [SMap.insert]
  | cons e m ih =>
    obtain ⟨a, u⟩ := e
    have ha : a ≠ k := h (a, u) (.head _)
    obtain ⟨h1, h2⟩ := List.pairwise_cons.mp hm
    simp only [SMap.insert]
    split
    · rename_i hk
      refine List.pairwise_cons.mpr ⟨fun e he => ?_, hm⟩
      rcases List.mem_cons.mp he with rfl | he
      · exact hk
      · exact lt_trans hk (h1 e he)
    · rename_i hk
      refine List.pairwise_cons.mpr ⟨fun e he => ?_, ih (fun e he => h e (.tail _ he)) h2⟩
      rcases (insert_mem e).mp he with rfl | he
      · change a < k; omega
      · exact h1 e he

theorem get_of_mem {m : SMap α} (hm : m.Pairwise fun e f => e.1 < f.1) {e : Nat × α} (he : e ∈ m) : SMap.get d m e.1 = e.2 := by
  induction m with
  | nil => cases he
  | cons f m ih =>
    obtain ⟨a, u⟩ := f
    obtain ⟨h1, h2⟩ := List.pairwise_cons.mp hm
    rcases List.mem_cons.mp he with rfl | he
    · simp [SMap.get]
    · have : a ≠ e.1 := by have := h1 e he; simp at this; omega
      simp [SMap.get, this, ih h2 he]

theorem get_of_not_mem {m : SMap α} {k : Nat} (h : ∀ e ∈ m, e.1 ≠ k) : SMap.get d m k = d k := by
  induction m with
  | nil => rfl
  | cons f m ih =>
    obtain ⟨a, u⟩ := f
    have ha : a ≠ k := h (a, u) (.head _)
    simp [SMap.get, ha, ih fun e he => h e (.tail _ he)]

variable [DecidableEq α]

/-- A read after a write: the key written gives the value, every other key what it gave. -/
theorem get_set (m : SMap α) (k j : Nat) (v : α) : SMap.get d (SMap.set d m k v) j = if j = k then v else SMap.get d m j := by
  unfold SMap.set
  split
  · rename_i h; rw [get_erase]; split <;> simp_all
  · rw [get_insert fun e he => (erase_key e he).2, get_erase]; split <;> simp_all

@[simp] theorem get_set_same (m : SMap α) (k : Nat) (v : α) : SMap.get d (SMap.set d m k v) k = v := by simp [get_set]

theorem get_set_other (m : SMap α) {k j : Nat} (v : α) (h : j ≠ k) : SMap.get d (SMap.set d m k v) j = SMap.get d m j := by
  simp [get_set, h]

/-- The canonical form, said with quantifiers. -/
theorem wf_iff (m : SMap α) : SMap.wf d m = true ↔ m.Pairwise (fun e f => e.1 < f.1) ∧ ∀ e ∈ m, e.2 ≠ d e.1 := by
  induction m with
  | nil => simp [SMap.wf]
  | cons e m ih =>
    obtain ⟨a, v⟩ := e
    cases m with
    | nil => simp [SMap.wf]
    | cons f m =>
      obtain ⟨b, u⟩ := f
      simp only [SMap.wf, Bool.and_eq_true, decide_eq_true_eq, ih, List.pairwise_cons, List.mem_cons, forall_eq_or_imp]
      constructor
      · rintro ⟨⟨h1, h2⟩, ⟨h3, h4⟩, h5, h6⟩
        exact ⟨⟨⟨h2, fun e he => lt_trans h2 (h3 e he)⟩, h3, h4⟩, h1, h5, h6⟩
      · rintro ⟨⟨⟨h2, -⟩, h3, h4⟩, h1, h5, h6⟩
        exact ⟨⟨h1, h2⟩, ⟨h3, h4⟩, h5, h6⟩

/-- Part of a map in canonical form is in canonical form. -/
theorem wf_sublist {m n : SMap α} (h : n.Sublist m) (hm : SMap.wf d m = true) : SMap.wf d n = true := by
  rw [wf_iff] at *
  exact ⟨hm.1.sublist h, fun e he => hm.2 e (h.subset he)⟩

theorem wf_erase {m : SMap α} (k : Nat) (h : SMap.wf d m = true) : SMap.wf d (m.erase k) = true :=
  wf_sublist (erase_sublist m k) h

theorem wf_window {m : SMap α} (lo hi : Nat) (h : SMap.wf d m = true) : SMap.wf d (m.window lo hi) = true :=
  wf_sublist List.filter_sublist h

theorem wf_clear {m : SMap α} (lo hi : Nat) (h : SMap.wf d m = true) : SMap.wf d (m.clear lo hi) = true :=
  wf_sublist List.filter_sublist h

/-- A write keeps the canonical form. -/
theorem wf_set {m : SMap α} (k : Nat) (v : α) (h : SMap.wf d m = true) : SMap.wf d (SMap.set d m k v) = true := by
  have he := wf_erase k h
  unfold SMap.set
  split
  · exact he
  · rename_i hv
    rw [wf_iff] at *
    refine ⟨insert_pairwise (fun e he => (erase_key e he).2) he.1, fun e hm => ?_⟩
    rcases (insert_mem e).mp hm with rfl | hm
    · exact hv
    · exact he.2 e hm

/-- A copy of a part of a map keeps the canonical form. -/
theorem wf_copyUp {α : Type} [DecidableEq α] {d : α} {m : SMap α} (lo n : Nat) (h : SMap.wf (fun _ => d) m = true) :
    SMap.wf (fun _ => d) (SMap.copyUp d m lo n) = true := by
  have all : ∀ (l : SMap α) (t : SMap α), SMap.wf (fun _ => d) t = true →
      SMap.wf (fun _ => d) (l.foldl (fun t e => SMap.set (fun _ => d) t (e.1 + n) e.2) t) = true := by
    intro l
    induction l with
    | nil => exact fun _ ht => ht
    | cons e l ih => exact fun t ht => ih _ (wf_set _ _ ht)
  exact all _ _ (wf_clear _ _ h)

/-- Maps in canonical form that read alike are equal data. -/
theorem eq_of_get {m n : SMap α} (hm : SMap.wf d m = true) (hn : SMap.wf d n = true)
    (h : ∀ k, SMap.get d m k = SMap.get d n k) : m = n := by
  rw [wf_iff] at hm hn
  have half : ∀ {m n : SMap α}, m.Pairwise (fun e f => e.1 < f.1) → n.Pairwise (fun e f => e.1 < f.1) →
      (∀ e ∈ m, e.2 ≠ d e.1) → (∀ k, SMap.get d m k = SMap.get d n k) → ∀ e ∈ m, e ∈ n := by
    intro m n hm hn hd h e he
    by_contra hc
    have h1 := get_of_mem (d := d) hm he
    by_cases hk : ∃ f ∈ n, f.1 = e.1
    · obtain ⟨f, hf, hfe⟩ := hk
      have h2 := get_of_mem (d := d) hn hf
      rw [hfe, ← h, h1] at h2
      exact hc (by rw [show e = f from Prod.ext hfe.symm h2]; exact hf)
    · have h2 := get_of_not_mem (d := d) (m := n) (k := e.1) (fun f hf hfe => hk ⟨f, hf, hfe⟩)
      rw [← h, h1] at h2
      exact hd e he h2
  have irr : ∀ {l : SMap α}, l.Pairwise (fun e f => e.1 < f.1) → l.Nodup := fun hl =>
    hl.imp fun hlt he => absurd (congrArg Prod.fst he) (Nat.ne_of_lt hlt)
  refine List.Perm.eq_of_pairwise (le := fun e f => e.1 < f.1) (fun a b _ _ h1 h2 => absurd (lt_trans h1 h2) (lt_irrefl _)) hm.1 hn.1 ?_
  exact (List.perm_ext_iff_of_nodup (irr hm.1) (irr hn.1)).mpr fun e =>
    ⟨half hm.1 hn.1 hm.2 h e, half hn.1 hm.1 hn.2 (fun k => (h k).symm) e⟩

end

/-! ## Byte memories -/

@[simp] theorem byte_setByte (m : Mem) (a b : Nat) (v : Byte) : Mem.byte (Mem.setByte m a v) b = if b = a then v else Mem.byte m b :=
  get_set ..

theorem wf_setByte {m : Mem} (a : Nat) (v : Byte) (h : Mem.wf m = true) : Mem.wf (Mem.setByte m a v) = true := wf_set a v h

/-- A write of bytes keeps the canonical form. -/
theorem wf_setBytes {m : Mem} (bs : List Byte) (a : Nat) (h : Mem.wf m = true) : Mem.wf (Mem.setBytes m a bs) = true := by
  induction bs generalizing m a with
  | nil => exact h
  | cons b bs ih => exact ih (a + 1) (wf_setByte a b h)

/-- What a byte reads as after a write of bytes (R10): the first lies at the lowest address. -/
theorem byte_setBytes (bs : List Byte) (m : Mem) (a b : Nat) :
    Mem.byte (Mem.setBytes m a bs) b = if a ≤ b ∧ b < a + bs.length then bs.getD (b - a) 0#8 else Mem.byte m b := by
  induction bs generalizing m a with
  | nil => simp [Mem.setBytes]
  | cons c bs ih =>
    rw [Mem.setBytes, ih, byte_setByte]
    by_cases h : b = a
    · subst h; simp
    · by_cases g : a + 1 ≤ b ∧ b < a + 1 + bs.length
      · have e : b - a = b - (a + 1) + 1 := by omega
        rw [if_pos g, if_pos (by simp; omega), e, List.getD_cons_succ]
      · rw [if_neg g, if_neg h, if_neg (by simp; omega)]

theorem wf_write {m : Mem} (a n v : Nat) (h : Mem.wf m = true) : Mem.wf (Mem.write m a n v) = true := wf_setBytes _ a h

@[simp] theorem natLe_length (v n : Nat) : (natLe v n).length = n := by
  induction n generalizing v <;> simp_all [natLe]

theorem leNat_natLe (v n : Nat) : leNat (natLe v n) = v % 256 ^ n := by
  induction n generalizing v with
  | zero => simp [natLe, leNat, Nat.mod_one]
  | succ n ih =>
    have h : (BitVec.ofNat 8 v).toNat = v % 256 := by simp
    rw [natLe, leNat, ih, h, pow_succ', Nat.mod_mul]

theorem bytes_setBytes_same (bs : List Byte) (m : Mem) (a : Nat) : Mem.bytes (Mem.setBytes m a bs) a bs.length = bs := by
  have gen : ∀ (n : Nat) (m : Mem) (a : Nat) (f : Nat → Byte), (∀ i, i < n → Mem.byte m (a + i) = f i) →
      Mem.bytes m a n = (List.range n).map f := by
    intro n
    induction n with
    | zero => simp [Mem.bytes]
    | succ n ih =>
      intro m a f h
      rw [Mem.bytes, ih m (a + 1) (fun i => f (i + 1)) fun i hi => by rw [← h (i + 1) (by omega)]; congr 1; omega]
      rw [List.range_succ_eq_map]
      simp [← h 0 (by omega), Function.comp_def]
  rw [gen bs.length _ a (fun i => bs.getD i 0#8) fun i hi => by rw [byte_setBytes, if_pos (by omega)]; congr 1; omega]
  apply List.ext_getElem
  · simp
  · intro i h1 h2
    simp [List.getElem?_eq_getElem h2]

/-- A read after a write of the same place gives the value, modulo the width. -/
theorem read_write_same (m : Mem) (a n v : Nat) : Mem.read (Mem.write m a n v) a n = v % 256 ^ n := by
  have h := bytes_setBytes_same (natLe v n) m a
  rw [natLe_length] at h
  rw [Mem.read, Mem.write, h, leNat_natLe]

/-! ## Memories with poison -/

/-- A write with its poison keeps the bytes in canonical form. -/
theorem wf_writeP {b : Bank} (shift a : Nat) (bs : List Byte) (p : Bool) (h : Mem.wf b.bytes = true) :
    Mem.wf (b.writeP shift a bs p).bytes = true := wf_setBytes bs a h

@[simp] theorem mark_bytes (b : Bank) (shift a : Nat) (p : Bool) : (b.mark shift a p).bytes = b.bytes := rfl

@[simp] theorem markAll_bytes (b : Bank) (shift a n : Nat) (p : Bool) : (b.markAll shift a n p).bytes = b.bytes := rfl

@[simp] theorem writeP_bytes (b : Bank) (shift a : Nat) (bs : List Byte) (p : Bool) :
    (b.writeP shift a bs p).bytes = Mem.setBytes b.bytes a bs := rfl

/-- Marking one unit changes no other unit's mark; an uncorrectable word stays one. -/
theorem poisoned_mark (b : Bank) (shift a c : Nat) (p : Bool) : (b.mark shift a p).poisoned shift c
    = if c / 2 ^ shift = a / 2 ^ shift then p || b.worn shift (c / 2 ^ shift) 2 else b.poisoned shift c := by
  unfold Bank.poisoned Bank.lost Bank.mark
  rw [show SMap.at false (SMap.put false b.pois (a / 2 ^ shift) p) (c / 2 ^ shift)
    = if c / 2 ^ shift = a / 2 ^ shift then p else SMap.at false b.pois (c / 2 ^ shift) from get_set ..]
  split <;> rfl

/-! ## The machine's memory operations keep the canonical form -/

theorem canonical_foldl {α : Type} {f : State → α → State} (hf : ∀ s x, MemoryCanonical s → MemoryCanonical (f s x)) (l : List α) :
    ∀ s, MemoryCanonical s → MemoryCanonical (l.foldl f s) := by
  induction l with
  | nil => exact fun _ h => h
  | cons x l ih => exact fun s h => ih _ (hf s x h)

/-- Marks of a memory change no byte. -/
theorem canonical_setBank {s : State} (h : MemoryCanonical s) (m : MemKind) {b : Bank} (hb : b.bytes = (s.bank m).bytes) :
    MemoryCanonical (s.setBank m b) := by
  cases m <;> simpa [State.setBank, MemoryCanonical, hb, State.bank] using h

theorem canonical_countSeen {s : State} (h : MemoryCanonical s) (i k : Nat) : MemoryCanonical (s.countSeen i k) := by
  unfold State.countSeen; split <;> exact h

/-- The errors that one unit shows change no byte. -/
theorem canonical_noticeUnit {s : State} (h : MemoryCanonical s) (m : MemKind) (k n u : Nat) : MemoryCanonical (s.noticeUnit m k n u) := by
  unfold State.noticeUnit State.noticeRebuilt
  dsimp only
  split
  · exact h
  · split
    · split
      · split
        · exact canonical_countSeen h _ _
        · exact canonical_countSeen h _ _
      · split
        · have e : ∀ i k, ((s.countSeen i k).bank m).bytes = (s.bank m).bytes := by
            intro i k; unfold State.countSeen; split <;> cases m <;> rfl
          exact canonical_setBank (canonical_countSeen h _ _) m (e _ _).symm
        · exact canonical_setBank (s := s.countUE _ 1 _) h m (by cases m <;> rfl)
    · split <;> exact h

/-- Finding errors changes no byte. -/
theorem canonical_notice {s : State} (h : MemoryCanonical s) (m : MemKind) (k n : Nat) : MemoryCanonical (s.notice m k n) := by
  unfold State.notice
  split
  · exact h
  · exact canonical_foldl (fun t u ht => canonical_noticeUnit ht m k n u) _ s h

theorem canonical_noticeEdges {s : State} (h : MemoryCanonical s) (m : MemKind) (k n : Nat) : MemoryCanonical (s.noticeEdges m k n) := by
  have one : ∀ {t : State} (p : Prop) [Decidable p] (a w : Nat), MemoryCanonical t → MemoryCanonical (if p then t else t.notice m a w) := by
    intro t p _ a w ht
    split
    · exact ht
    · exact canonical_notice ht m a w
  unfold State.noticeEdges
  dsimp only
  split
  · exact h
  · split
    · exact one _ _ _ h
    · exact one _ _ _ (one _ _ _ h)

theorem canonical_noticeParity {s : State} (h : MemoryCanonical s) (k n : Nat) : MemoryCanonical (s.noticeParity k n) := by
  unfold State.noticeParity
  split
  · exact h
  · refine canonical_foldl (f := fun t (e : Nat × List Nat) =>
      if e.2.length = 1 then t.countCE (MemKind.sp.record (64 * (8 * (e.1 / 8)))) (MemKind.sp.addr (64 * (8 * (e.1 / 8))))
      else t.countSeen (2 ^ 40 + e.1) (64 * (8 * (e.1 / 8)))) (fun t e ht => ?_) _ s h
    split
    · exact ht
    · exact canonical_countSeen ht _ _

theorem canonical_writeAS {s : State} (h : MemoryCanonical s) (sp : Bool) (a : Nat) (bs : List Byte) (p : Bool) (w : Nat) :
    MemoryCanonical (s.writeAS sp a bs p w) := by
  unfold State.writeAS
  split
  · have h1 := canonical_noticeParity (canonical_noticeEdges h .sp a bs.length) a bs.length
    exact ⟨h1.1, wf_writeP 6 a bs p h1.2.1, h1.2.2⟩
  · have h1 := canonical_noticeEdges h .ab a bs.length
    exact ⟨wf_writeP 6 a bs p h1.1, h1.2⟩

/-- A copy of part of a memory keeps its bytes in canonical form. -/
theorem wf_bank_copyUp {b : Bank} (shift lo n : Nat) (h : Mem.wf b.bytes = true) : Mem.wf (b.copyUp shift lo n).bytes = true :=
  wf_copyUp lo n h

/-- A logged line changes no memory. -/
theorem logLine_memories (s : State) (g die pa : Nat) : (s.logLine g die pa).ab = s.ab ∧ (s.logLine g die pa).sp = s.sp ∧
    (s.logLine g die pa).tmem = s.tmem ∧ (s.logLine g die pa).imem = s.imem ∧ (s.logLine g die pa).hbm = s.hbm := by
  unfold State.logLine
  split
  · exact ⟨rfl, rfl, rfl, rfl, rfl⟩
  · dsimp only
    split
    · exact ⟨rfl, rfl, rfl, rfl, rfl⟩
    · split
      · exact ⟨rfl, rfl, rfl, rfl, rfl⟩
      · split <;> exact ⟨rfl, rfl, rfl, rfl, rfl⟩

theorem canonical_writeHbmNow {s : State} (h : MemoryCanonical s) (g die pa : Nat) (bs : List Byte) (p : Bool) :
    MemoryCanonical (s.writeHbmNow g die pa bs p) := by
  have h1 : MemoryCanonical ((unitsOf 6 pa bs.length).foldl (fun t u => t.logLine g die (u * 64))
      (s.noticeEdges .hbm (hbmKey die pa) bs.length)) := by
    refine canonical_foldl (fun t u ht => ?_) _ _ (canonical_noticeEdges h _ _ _)
    obtain ⟨e1, e2, e3, e4, e5⟩ := logLine_memories t g die (u * 64)
    simpa only [MemoryCanonical, e1, e2, e3, e4, e5] using ht
  exact ⟨h1.1, h1.2.1, h1.2.2.1, h1.2.2.2.1, wf_writeP 6 _ bs p h1.2.2.2.2⟩

/-- A write is made at once or held at the die (R425). -/
theorem canonical_writeHbm {s : State} (h : MemoryCanonical s) (g die pa : Nat) (bs : List Byte) (p : Bool) :
    MemoryCanonical (s.writeHbm g die pa bs p) := by
  unfold State.writeHbm
  split
  · exact h
  · exact canonical_writeHbmNow h g die pa bs p

theorem canonical_storeElem {s : State} (h : MemoryCanonical s) (sp : Bool) (key : Nat) (v : Vec) (p : BitVec 4) (stamp : BitVec 32) :
    MemoryCanonical (s.storeElem sp key v p stamp) := by
  have h1 := canonical_foldl (fun t (g : Nat) ht =>
    canonical_writeAS (s := t) ht sp (key + 64 * g) (((vecBytes v).drop (64 * g)).take 64) (p.getLsbD g) 0) (List.range 4) s h
  unfold State.storeElem
  dsimp only
  split <;> exact h1

/-- The copy that the second core of a pair is left with is in canonical form. -/
theorem canonical_mirrorPair {s : State} (h : MemoryCanonical s) (k : Nat) : MemoryCanonical (s.mirrorPair k) :=
  ⟨wf_bank_copyUp _ _ _ h.1, wf_bank_copyUp _ _ _ h.2.1, wf_bank_copyUp _ _ _ h.2.2.1, wf_bank_copyUp _ _ _ h.2.2.2.1, h.2.2.2.2⟩

theorem canonical_setCtx {s : State} (h : MemoryCanonical s) (a : Nat) (c : Ctx) : MemoryCanonical (s.setCtx a c) := by
  unfold State.setCtx; split <;> exact h

theorem canonical_focus {s : State} (h : MemoryCanonical s) (a : Nat) : MemoryCanonical (s.focus a) := by
  unfold State.focus; split <;> exact h

/-- The memories right after reset are in canonical form. -/
theorem reset_memories_wf : MemoryCanonical State.reset := by decide

end Sys2Proof.Laws
end

