-- ==== Sys2Proof/Laws/Errors.lean ====
section
/-! SUPPORT. What an access that finds the errors of its lines does (R466): it leaves marks and counts, and every read
gives what it gave before. -/

namespace Sys2Proof.Safety

open Sys2Proof.Machine Sys2Proof.Laws

theorem Noticed.refl (s : State) : Noticed s s := ⟨rfl, fun _ _ => rfl, fun _ => rfl⟩

theorem Noticed.trans {s t u : State} (h : Noticed s t) (g : Noticed t u) : Noticed s u := by
  refine ⟨?_, fun sp x => (g.lost sp x).trans (h.lost sp x), fun x => (g.tmem x).trans (h.tmem x)⟩
  have h1 := h.frame
  have g1 := g.frame
  rw [h1] at g1
  exact g1

/-- The mark that an uncorrectable error leaves changes no reading of its unit. -/
theorem lost_put {b : Bank} {shift u : Nat} (h : b.worn shift u 2 = true) (x : Nat) :
    ({ b with pois := SMap.put false b.pois u true } : Bank).lost shift x = b.lost shift x := by
  unfold Bank.lost
  rw [show SMap.at false (SMap.put false b.pois u true) x = if x = u then true else SMap.at false b.pois x from get_set ..]
  by_cases hx : x = u
  · subst hx
    have : ({ b with pois := SMap.put false b.pois x true } : Bank).worn shift x 2 = true := h
    simp [this, h]
  · rw [if_neg hx]; rfl

theorem spView_worn {s : State} {u : Nat} (h : s.sp.worn 6 u 2 = true) (hr : s.rebuilds u = false) : s.spView.worn 6 u 2 = true := by
  simp only [Bank.worn, State.spView, List.any_eq_true, List.mem_filter, decide_eq_true_eq, Bool.not_eq_true', Bool.and_eq_false_iff] at *
  obtain ⟨e, he, hu⟩ := h
  refine ⟨e, ⟨he, .inr ?_⟩, decide_eq_true hu⟩
  have : s.sp.lineOf e.1 = u := by simpa [Bank.lineOf] using hu.2
  rw [this]; exact hr

/-- An SP error that is counted changes no reading. -/
theorem noticed_countSeen (s : State) (i k : Nat) : Noticed s (s.countSeen i k) := by
  unfold State.countSeen
  split
  · exact .refl s
  · exact ⟨rfl, fun _ _ => rfl, fun _ => rfl⟩

theorem noticed_countUE (s : State) (r n : Nat) (a : Word) : Noticed s (s.countUE r n a) := by
  unfold State.countUE
  split
  · exact .refl s
  · exact ⟨rfl, fun _ _ => rfl, fun _ => rfl⟩

theorem noticed_countCE (s : State) (r : Nat) (a : Word) : Noticed s (s.countCE r a) := ⟨rfl, fun _ _ => rfl, fun _ => rfl⟩

theorem noticed_noticeRebuilt (s : State) (u : Nat) : Noticed s (s.noticeRebuilt u) := by
  unfold State.noticeRebuilt
  dsimp only
  split
  · exact (noticed_countSeen s u _).trans (noticed_countCE _ _ _)
  · exact noticed_countSeen s u _

/-- An access finds the errors of one unit of AB, SP or TMEM. -/
theorem noticed_unit (s : State) {m : MemKind} (hm : m = .ab ∨ m = .sp ∨ m = .tmem) (k n u : Nat) :
    Noticed s (s.noticeUnit m k n u) := by
  unfold State.noticeUnit
  dsimp only
  split
  · exact .refl s
  · split
    · rename_i hw
      split
      · exact noticed_noticeRebuilt s u
      · rename_i hr
        rcases hm with rfl | rfl | rfl
        · rw [if_neg (by decide)]
          refine (noticed_countUE s _ 1 _).trans ⟨rfl, fun sp x => ?_, fun _ => rfl⟩
          cases sp
          · exact lost_put hw x
          · rfl
        · have hv := spView_worn hw (by simpa using hr)
          rw [if_pos rfl]
          unfold State.countSeen
          split
          · refine ⟨rfl, fun sp x => ?_, fun _ => rfl⟩
            cases sp
            · rfl
            · exact lost_put hv x
          · refine ⟨rfl, fun sp x => ?_, fun _ => rfl⟩
            cases sp
            · rfl
            · exact lost_put hv x
        · rw [if_neg (by decide)]
          exact (noticed_countUE s _ 1 _).trans ⟨rfl, fun _ _ => rfl, fun x => lost_put hw x⟩
    · split
      · exact noticed_countCE s _ _
      · exact .refl s

theorem noticed_notice (s : State) {m : MemKind} (hm : m = .ab ∨ m = .sp ∨ m = .tmem) (k n : Nat) : Noticed s (s.notice m k n) := by
  have all : ∀ (l : List Nat) (s : State), Noticed s (l.foldl (fun t u => t.noticeUnit m k n u) s) := by
    intro l
    induction l with
    | nil => exact .refl
    | cons u l ih => exact fun s => (noticed_unit s hm k n u).trans (ih _)
  unfold State.notice
  split
  · exact .refl s
  · exact all _ s

theorem noticed_noticeAS (s : State) (sp : Bool) (k n : Nat) : Noticed s (s.noticeAS sp k n) :=
  noticed_notice s (by cases sp <;> simp) k n

section
variable {s t : State} (h : Noticed s t)
include h

theorem Noticed.who : t.who = s.who := by rw [h.frame]
theorem Noticed.c : t.c = s.c := by rw [h.frame]
theorem Noticed.issue : t.issue = s.issue := by rw [h.frame]
theorem Noticed.ops : t.ops = s.ops := by rw [h.frame]
theorem Noticed.regs : t.regs = s.regs := by rw [h.frame]

/-- What a slot records for its bundle stands beside the errors that it found. -/
theorem Noticed.iss (f : Issue → Issue) : Noticed (s.iss f) (t.iss f) := by
  refine ⟨?_, h.lost, h.tmem⟩
  have h1 := h.frame
  unfold State.iss
  rw [h1]

theorem Noticed.bytes (sp : Bool) : (t.bankAS sp).bytes = (s.bankAS sp).bytes := by rw [h.frame]; cases sp <;> rfl

theorem Noticed.poisoned (sp : Bool) (a : Nat) : (t.bankAS sp).poisoned 6 a = (s.bankAS sp).poisoned 6 a := h.lost sp _

theorem Noticed.readZ (sp : Bool) (k n : Nat) : (t.bankAS sp).readZ 6 k n = (s.bankAS sp).readZ 6 k n := by
  simp only [Bank.readZ, h.poisoned, h.bytes]

theorem Noticed.anyPoison (sp : Bool) (k n : Nat) : (t.bankAS sp).anyPoison 6 k n = (s.bankAS sp).anyPoison 6 k n := by
  simp only [Bank.anyPoison, h.lost]

theorem Noticed.elemAt (sp : Bool) (k : Nat) : t.elemAt sp k = s.elemAt sp k := by
  simp only [State.elemAt, Bank.groups, h.readZ, h.anyPoison]

theorem Noticed.headOf (n : Nat) : t.headOf n = s.headOf n := by
  simp only [State.headOf, h.c, h.who, h.elemAt]

theorem Noticed.vop (a : VOp) : t.vop a = s.vop a := by simp only [State.vop, h.c, h.headOf]

/-- Finding errors races with nothing (R349). -/
theorem Noticed.raceLine (sp store openTest : Bool) (a : Nat) : t.raceLine sp store openTest a = s.raceLine sp store openTest a := by
  rw [h.frame]; rfl

theorem Noticed.canonical (hm : MemoryCanonical s) : MemoryCanonical t := by rw [h.frame]; exact hm

end

end Sys2Proof.Safety
end

