-- ==== Sys2Proof/Laws/PerInstr.lean ====
section
/-! SUPPORT. The round trip of every instruction: a well-formed instruction's word decodes to it (R86, R94, R99, R100). -/

namespace Sys2Proof.Laws

set_option Elab.async false
set_option linter.unusedSimpArgs false

/-- The word of a well-formed instruction decodes to it, its stop bit is clear and its OPC is the instruction's (R86, R99, R100). -/
def RoundTrip.Statement (i : Instr) : Prop :=
  i.wf = true → ∀ w, encode i = some w → decodeSlot w = .ok i ∧ Instr.opc i = some (opcOf w) ∧ stopOf w = false

/-- A slot word's round trip from its decoding up to the operand checks. -/
theorem roundTrip_intro {i : Instr} {c : BitVec 8} {o : BitVec 23} (he : encode i = some (slotWord c o))
    (hc : Instr.opc i = some c) (h : decodeSlot (slotWord c o) = checked i) : RoundTrip.Statement i := by
  intro hw w hs
  obtain rfl : slotWord c o = w := by rw [he] at hs; exact Option.some.inj hs
  exact ⟨by rw [h, checked, if_pos hw], by rw [hc, opcOf_slotWord], stopOf_slotWord c o⟩

/-- A step without an encoding has no word. -/
theorem roundTrip_none {i : Instr} (he : encode i = none) : RoundTrip.Statement i := by
  intro _ w hs
  rw [he] at hs
  cases hs

theorem decodeSlot_class0 (c : BitVec 8) (o : BitVec 23) (h : (c.extractLsb' 5 3).toNat = 0) :
    decodeSlot (slotWord c o) = decodeClass0 (c.extractLsb' 0 5).toNat o := by
  simp only [decodeSlot, opcOf_slotWord, operandsOf_slotWord, h]

theorem decodeSlot_class1 (c : BitVec 8) (o : BitVec 23) (h : (c.extractLsb' 5 3).toNat = 1) :
    decodeSlot (slotWord c o) = decodeClass1 (c.extractLsb' 0 5).toNat o := by
  simp only [decodeSlot, opcOf_slotWord, operandsOf_slotWord, h]

theorem decodeSlot_class2 (c : BitVec 8) (o : BitVec 23) (h : (c.extractLsb' 5 3).toNat = 2) :
    decodeSlot (slotWord c o) = decodeClass2 (c.extractLsb' 0 5).toNat o := by
  simp only [decodeSlot, opcOf_slotWord, operandsOf_slotWord, h]

theorem decodeSlot_class3 (c : BitVec 8) (o : BitVec 23) (h : (c.extractLsb' 5 3).toNat = 3) :
    decodeSlot (slotWord c o) = decodeClass3 (c.extractLsb' 0 5).toNat o := by
  simp only [decodeSlot, opcOf_slotWord, operandsOf_slotWord, h]

theorem decodeSlot_class4 (c : BitVec 8) (o : BitVec 23) (h : (c.extractLsb' 5 3).toNat = 4) :
    decodeSlot (slotWord c o) = decodeClass4 (c.extractLsb' 0 5).toNat o := by
  simp only [decodeSlot, opcOf_slotWord, operandsOf_slotWord, h]

theorem decodeSlot_class5 (c : BitVec 8) (o : BitVec 23) (h : (c.extractLsb' 5 3).toNat = 5) :
    decodeSlot (slotWord c o) = decodeClass5 (c.extractLsb' 0 5).toNat o := by
  simp only [decodeSlot, opcOf_slotWord, operandsOf_slotWord, h]

theorem decodeSlot_class6 (c : BitVec 8) (o : BitVec 23) (h : (c.extractLsb' 5 3).toNat = 6) :
    decodeSlot (slotWord c o) = decodeClass6 (c.extractLsb' 0 5).toNat o := by
  simp only [decodeSlot, opcOf_slotWord, operandsOf_slotWord, h]

theorem decodeSlot_class7 (c : BitVec 8) (o : BitVec 23) (h : (c.extractLsb' 5 3).toNat = 7) :
    decodeSlot (slotWord c o) = decodeClass7 (c.extractLsb' 0 5).toNat o := by
  simp only [decodeSlot, opcOf_slotWord, operandsOf_slotWord, h]

theorem RoundTrip.add (g d a b) : RoundTrip.Statement (.add g d a b) := by
  refine roundTrip_intro rfl rfl ((decodeSlot_class0 _ _ rfl).trans ?_)
  change decodeClass0 0 _ = _
  simp (disch := decide) only [decodeClass0, of_encS3, FormS3.guard, ofBool_beq_one, BitVec.extractLsb'_append_eq_of_le, BitVec.extractLsb'_append_eq_of_add_le, BitVec.extractLsb'_eq_self, Nat.sub_self, Nat.reduceSub]
  rfl

theorem RoundTrip.sub (g d a b) : RoundTrip.Statement (.sub g d a b) := by
  refine roundTrip_intro rfl rfl ((decodeSlot_class0 _ _ rfl).trans ?_)
  change decodeClass0 1 _ = _
  simp (disch := decide) only [decodeClass0, of_encS3, FormS3.guard, ofBool_beq_one, BitVec.extractLsb'_append_eq_of_le, BitVec.extractLsb'_append_eq_of_add_le, BitVec.extractLsb'_eq_self, Nat.sub_self, Nat.reduceSub]
  rfl

theorem RoundTrip.and (g d a b) : RoundTrip.Statement (.and g d a b) := by
  refine roundTrip_intro rfl rfl ((decodeSlot_class0 _ _ rfl).trans ?_)
  change decodeClass0 2 _ = _
  simp (disch := decide) only [decodeClass0, of_encS3, FormS3.guard, ofBool_beq_one, BitVec.extractLsb'_append_eq_of_le, BitVec.extractLsb'_append_eq_of_add_le, BitVec.extractLsb'_eq_self, Nat.sub_self, Nat.reduceSub]
  rfl

theorem RoundTrip.or (g d a b) : RoundTrip.Statement (.or g d a b) := by
  refine roundTrip_intro rfl rfl ((decodeSlot_class0 _ _ rfl).trans ?_)
  change decodeClass0 3 _ = _
  simp (disch := decide) only [decodeClass0, of_encS3, FormS3.guard, ofBool_beq_one, BitVec.extractLsb'_append_eq_of_le, BitVec.extractLsb'_append_eq_of_add_le, BitVec.extractLsb'_eq_self, Nat.sub_self, Nat.reduceSub]
  rfl

theorem RoundTrip.xor (g d a b) : RoundTrip.Statement (.xor g d a b) := by
  refine roundTrip_intro rfl rfl ((decodeSlot_class0 _ _ rfl).trans ?_)
  change decodeClass0 4 _ = _
  simp (disch := decide) only [decodeClass0, of_encS3, FormS3.guard, ofBool_beq_one, BitVec.extractLsb'_append_eq_of_le, BitVec.extractLsb'_append_eq_of_add_le, BitVec.extractLsb'_eq_self, Nat.sub_self, Nat.reduceSub]
  rfl

theorem RoundTrip.shl (g d a b) : RoundTrip.Statement (.shl g d a b) := by
  refine roundTrip_intro rfl rfl ((decodeSlot_class0 _ _ rfl).trans ?_)
  change decodeClass0 5 _ = _
  simp (disch := decide) only [decodeClass0, of_encS3, FormS3.guard, ofBool_beq_one, BitVec.extractLsb'_append_eq_of_le, BitVec.extractLsb'_append_eq_of_add_le, BitVec.extractLsb'_eq_self, Nat.sub_self, Nat.reduceSub]
  rfl

theorem RoundTrip.shr (g d a b) : RoundTrip.Statement (.shr g d a b) := by
  refine roundTrip_intro rfl rfl ((decodeSlot_class0 _ _ rfl).trans ?_)
  change decodeClass0 6 _ = _
  simp (disch := decide) only [decodeClass0, of_encS3, FormS3.guard, ofBool_beq_one, BitVec.extractLsb'_append_eq_of_le, BitVec.extractLsb'_append_eq_of_add_le, BitVec.extractLsb'_eq_self, Nat.sub_self, Nat.reduceSub]
  rfl

theorem RoundTrip.sar (g d a b) : RoundTrip.Statement (.sar g d a b) := by
  refine roundTrip_intro rfl rfl ((decodeSlot_class0 _ _ rfl).trans ?_)
  change decodeClass0 7 _ = _
  simp (disch := decide) only [decodeClass0, of_encS3, FormS3.guard, ofBool_beq_one, BitVec.extractLsb'_append_eq_of_le, BitVec.extractLsb'_append_eq_of_add_le, BitVec.extractLsb'_eq_self, Nat.sub_self, Nat.reduceSub]
  rfl

theorem RoundTrip.mul (g d a b) : RoundTrip.Statement (.mul g d a b) := by
  refine roundTrip_intro rfl rfl ((decodeSlot_class0 _ _ rfl).trans ?_)
  change decodeClass0 8 _ = _
  simp (disch := decide) only [decodeClass0, of_encS3, FormS3.guard, ofBool_beq_one, BitVec.extractLsb'_append_eq_of_le, BitVec.extractLsb'_append_eq_of_add_le, BitVec.extractLsb'_eq_self, Nat.sub_self, Nat.reduceSub]
  rfl

theorem RoundTrip.mulh (g d a b) : RoundTrip.Statement (.mulh g d a b) := by
  refine roundTrip_intro rfl rfl ((decodeSlot_class0 _ _ rfl).trans ?_)
  change decodeClass0 9 _ = _
  simp (disch := decide) only [decodeClass0, of_encS3, FormS3.guard, ofBool_beq_one, BitVec.extractLsb'_append_eq_of_le, BitVec.extractLsb'_append_eq_of_add_le, BitVec.extractLsb'_eq_self, Nat.sub_self, Nat.reduceSub]
  rfl

theorem RoundTrip.mulhn (g d a b) : RoundTrip.Statement (.mulhn g d a b) := by
  refine roundTrip_intro rfl rfl ((decodeSlot_class0 _ _ rfl).trans ?_)
  change decodeClass0 10 _ = _
  simp (disch := decide) only [decodeClass0, of_encS3, FormS3.guard, ofBool_beq_one, BitVec.extractLsb'_append_eq_of_le, BitVec.extractLsb'_append_eq_of_add_le, BitVec.extractLsb'_eq_self, Nat.sub_self, Nat.reduceSub]
  rfl

theorem RoundTrip.div (g d a b) : RoundTrip.Statement (.div g d a b) := by
  refine roundTrip_intro rfl rfl ((decodeSlot_class0 _ _ rfl).trans ?_)
  change decodeClass0 11 _ = _
  simp (disch := decide) only [decodeClass0, of_encS3, FormS3.guard, ofBool_beq_one, BitVec.extractLsb'_append_eq_of_le, BitVec.extractLsb'_append_eq_of_add_le, BitVec.extractLsb'_eq_self, Nat.sub_self, Nat.reduceSub]
  rfl

theorem RoundTrip.divn (g d a b) : RoundTrip.Statement (.divn g d a b) := by
  refine roundTrip_intro rfl rfl ((decodeSlot_class0 _ _ rfl).trans ?_)
  change decodeClass0 12 _ = _
  simp (disch := decide) only [decodeClass0, of_encS3, FormS3.guard, ofBool_beq_one, BitVec.extractLsb'_append_eq_of_le, BitVec.extractLsb'_append_eq_of_add_le, BitVec.extractLsb'_eq_self, Nat.sub_self, Nat.reduceSub]
  rfl

theorem RoundTrip.rem (g d a b) : RoundTrip.Statement (.rem g d a b) := by
  refine roundTrip_intro rfl rfl ((decodeSlot_class0 _ _ rfl).trans ?_)
  change decodeClass0 13 _ = _
  simp (disch := decide) only [decodeClass0, of_encS3, FormS3.guard, ofBool_beq_one, BitVec.extractLsb'_append_eq_of_le, BitVec.extractLsb'_append_eq_of_add_le, BitVec.extractLsb'_eq_self, Nat.sub_self, Nat.reduceSub]
  rfl

theorem RoundTrip.remn (g d a b) : RoundTrip.Statement (.remn g d a b) := by
  refine roundTrip_intro rfl rfl ((decodeSlot_class0 _ _ rfl).trans ?_)
  change decodeClass0 14 _ = _
  simp (disch := decide) only [decodeClass0, of_encS3, FormS3.guard, ofBool_beq_one, BitVec.extractLsb'_append_eq_of_le, BitVec.extractLsb'_append_eq_of_add_le, BitVec.extractLsb'_eq_self, Nat.sub_self, Nat.reduceSub]
  rfl

theorem RoundTrip.min (g d a b) : RoundTrip.Statement (.min g d a b) := by
  refine roundTrip_intro rfl rfl ((decodeSlot_class0 _ _ rfl).trans ?_)
  change decodeClass0 15 _ = _
  simp (disch := decide) only [decodeClass0, of_encS3, FormS3.guard, ofBool_beq_one, BitVec.extractLsb'_append_eq_of_le, BitVec.extractLsb'_append_eq_of_add_le, BitVec.extractLsb'_eq_self, Nat.sub_self, Nat.reduceSub]
  rfl

theorem RoundTrip.max (g d a b) : RoundTrip.Statement (.max g d a b) := by
  refine roundTrip_intro rfl rfl ((decodeSlot_class0 _ _ rfl).trans ?_)
  change decodeClass0 16 _ = _
  simp (disch := decide) only [decodeClass0, of_encS3, FormS3.guard, ofBool_beq_one, BitVec.extractLsb'_append_eq_of_le, BitVec.extractLsb'_append_eq_of_add_le, BitVec.extractLsb'_eq_self, Nat.sub_self, Nat.reduceSub]
  rfl

theorem RoundTrip.minn (g d a b) : RoundTrip.Statement (.minn g d a b) := by
  refine roundTrip_intro rfl rfl ((decodeSlot_class0 _ _ rfl).trans ?_)
  change decodeClass0 17 _ = _
  simp (disch := decide) only [decodeClass0, of_encS3, FormS3.guard, ofBool_beq_one, BitVec.extractLsb'_append_eq_of_le, BitVec.extractLsb'_append_eq_of_add_le, BitVec.extractLsb'_eq_self, Nat.sub_self, Nat.reduceSub]
  rfl

theorem RoundTrip.maxn (g d a b) : RoundTrip.Statement (.maxn g d a b) := by
  refine roundTrip_intro rfl rfl ((decodeSlot_class0 _ _ rfl).trans ?_)
  change decodeClass0 18 _ = _
  simp (disch := decide) only [decodeClass0, of_encS3, FormS3.guard, ofBool_beq_one, BitVec.extractLsb'_append_eq_of_le, BitVec.extractLsb'_append_eq_of_add_le, BitVec.extractLsb'_eq_self, Nat.sub_self, Nat.reduceSub]
  rfl

theorem RoundTrip.sel (g d a b k) : RoundTrip.Statement (.sel g d a b k) := by
  refine roundTrip_intro rfl rfl ((decodeSlot_class0 _ _ rfl).trans ?_)
  change decodeClass0 19 _ = _
  simp (disch := decide) only [decodeClass0, of_encS3, FormS3.guard, ofBool_beq_one, BitVec.extractLsb'_append_eq_of_le, BitVec.extractLsb'_append_eq_of_add_le, BitVec.extractLsb'_eq_self, Nat.sub_self, Nat.reduceSub]
  rfl

theorem RoundTrip.clz (g d a) : RoundTrip.Statement (.clz g d a) := by
  refine roundTrip_intro rfl rfl ((decodeSlot_class0 _ _ rfl).trans ?_)
  change decodeClass0 20 _ = _
  simp (disch := decide) only [decodeClass0, of_encS3, FormS3.guard, ofBool_beq_one, BitVec.extractLsb'_append_eq_of_le, BitVec.extractLsb'_append_eq_of_add_le, BitVec.extractLsb'_eq_self, Nat.sub_self, Nat.reduceSub]
  rfl

theorem RoundTrip.ctz (g d a) : RoundTrip.Statement (.ctz g d a) := by
  refine roundTrip_intro rfl rfl ((decodeSlot_class0 _ _ rfl).trans ?_)
  change decodeClass0 21 _ = _
  simp (disch := decide) only [decodeClass0, of_encS3, FormS3.guard, ofBool_beq_one, BitVec.extractLsb'_append_eq_of_le, BitVec.extractLsb'_append_eq_of_add_le, BitVec.extractLsb'_eq_self, Nat.sub_self, Nat.reduceSub]
  rfl

theorem RoundTrip.popc (g d a) : RoundTrip.Statement (.popc g d a) := by
  refine roundTrip_intro rfl rfl ((decodeSlot_class0 _ _ rfl).trans ?_)
  change decodeClass0 22 _ = _
  simp (disch := decide) only [decodeClass0, of_encS3, FormS3.guard, ofBool_beq_one, BitVec.extractLsb'_append_eq_of_le, BitVec.extractLsb'_append_eq_of_add_le, BitVec.extractLsb'_eq_self, Nat.sub_self, Nat.reduceSub]
  rfl

theorem RoundTrip.cmpCc (g cc pd a b) : RoundTrip.Statement (.cmpCc g cc pd a b) := by
  refine roundTrip_intro rfl rfl ((decodeSlot_class0 _ _ rfl).trans ?_)
  change decodeClass0 23 _ = _
  simp (disch := decide) only [decodeClass0, of_encS3, FormS3.guard, ofBool_beq_one, BitVec.extractLsb'_append_eq_of_le, BitVec.extractLsb'_append_eq_of_add_le, BitVec.extractLsb'_eq_self, Nat.sub_self, Nat.reduceSub]
  rfl

theorem RoundTrip.pand (g pd pa pb) : RoundTrip.Statement (.pand g pd pa pb) := by
  refine roundTrip_intro rfl rfl ((decodeSlot_class0 _ _ rfl).trans ?_)
  change decodeClass0 24 _ = _
  simp (disch := decide) only [decodeClass0, of_encS3, FormS3.guard, ofBool_beq_one, BitVec.extractLsb'_append_eq_of_le, BitVec.extractLsb'_append_eq_of_add_le, BitVec.extractLsb'_eq_self, Nat.sub_self, Nat.reduceSub]
  rfl

theorem RoundTrip.por (g pd pa pb) : RoundTrip.Statement (.por g pd pa pb) := by
  refine roundTrip_intro rfl rfl ((decodeSlot_class0 _ _ rfl).trans ?_)
  change decodeClass0 25 _ = _
  simp (disch := decide) only [decodeClass0, of_encS3, FormS3.guard, ofBool_beq_one, BitVec.extractLsb'_append_eq_of_le, BitVec.extractLsb'_append_eq_of_add_le, BitVec.extractLsb'_eq_self, Nat.sub_self, Nat.reduceSub]
  rfl

theorem RoundTrip.pxor (g pd pa pb) : RoundTrip.Statement (.pxor g pd pa pb) := by
  refine roundTrip_intro rfl rfl ((decodeSlot_class0 _ _ rfl).trans ?_)
  change decodeClass0 26 _ = _
  simp (disch := decide) only [decodeClass0, of_encS3, FormS3.guard, ofBool_beq_one, BitVec.extractLsb'_append_eq_of_le, BitVec.extractLsb'_append_eq_of_add_le, BitVec.extractLsb'_eq_self, Nat.sub_self, Nat.reduceSub]
  rfl

theorem RoundTrip.pnot (g pd pa) : RoundTrip.Statement (.pnot g pd pa) := by
  refine roundTrip_intro rfl rfl ((decodeSlot_class0 _ _ rfl).trans ?_)
  change decodeClass0 27 _ = _
  simp (disch := decide) only [decodeClass0, of_encS3, FormS3.guard, ofBool_beq_one, BitVec.extractLsb'_append_eq_of_le, BitVec.extractLsb'_append_eq_of_add_le, BitVec.extractLsb'_eq_self, Nat.sub_self, Nat.reduceSub]
  rfl

theorem RoundTrip.movpPs (g d pa q) : RoundTrip.Statement (.movpPs g d pa q) := by
  refine roundTrip_intro rfl rfl ((decodeSlot_class0 _ _ rfl).trans ?_)
  change decodeClass0 28 _ = _
  simp (disch := decide) only [decodeClass0, of_encS3, FormS3.guard, ofBool_beq_one, BitVec.extractLsb'_append_eq_of_le, BitVec.extractLsb'_append_eq_of_add_le, BitVec.extractLsb'_eq_self, Nat.sub_self, Nat.reduceSub]
  rfl

theorem RoundTrip.movpSp (g pd a q) : RoundTrip.Statement (.movpSp g pd a q) := by
  refine roundTrip_intro rfl rfl ((decodeSlot_class0 _ _ rfl).trans ?_)
  change decodeClass0 28 _ = _
  simp (disch := decide) only [decodeClass0, of_encS3, FormS3.guard, ofBool_beq_one, BitVec.extractLsb'_append_eq_of_le, BitVec.extractLsb'_append_eq_of_add_le, BitVec.extractLsb'_eq_self, Nat.sub_self, Nat.reduceSub]
  simp

theorem RoundTrip.movpBc (g pd a) : RoundTrip.Statement (.movpBc g pd a) := by
  refine roundTrip_intro rfl rfl ((decodeSlot_class0 _ _ rfl).trans ?_)
  change decodeClass0 28 _ = _
  simp (disch := decide) only [decodeClass0, of_encS3, FormS3.guard, ofBool_beq_one, BitVec.extractLsb'_append_eq_of_le, BitVec.extractLsb'_append_eq_of_add_le, BitVec.extractLsb'_eq_self, Nat.sub_self, Nat.reduceSub]
  simp

theorem RoundTrip.addi (d a imm) : RoundTrip.Statement (.addi d a imm) := by
  refine roundTrip_intro rfl rfl ((decodeSlot_class1 _ _ rfl).trans ?_)
  change decodeClass1 0 _ = _
  simp (disch := decide) only [decodeClass1, of_encSI, ofBool_beq_one, BitVec.extractLsb'_append_eq_of_le, BitVec.extractLsb'_append_eq_of_add_le, BitVec.extractLsb'_eq_self, Nat.sub_self, Nat.reduceSub]

theorem RoundTrip.andi (d a imm) : RoundTrip.Statement (.andi d a imm) := by
  refine roundTrip_intro rfl rfl ((decodeSlot_class1 _ _ rfl).trans ?_)
  change decodeClass1 1 _ = _
  simp (disch := decide) only [decodeClass1, of_encSI, ofBool_beq_one, BitVec.extractLsb'_append_eq_of_le, BitVec.extractLsb'_append_eq_of_add_le, BitVec.extractLsb'_eq_self, Nat.sub_self, Nat.reduceSub]

theorem RoundTrip.ori (d a imm) : RoundTrip.Statement (.ori d a imm) := by
  refine roundTrip_intro rfl rfl ((decodeSlot_class1 _ _ rfl).trans ?_)
  change decodeClass1 2 _ = _
  simp (disch := decide) only [decodeClass1, of_encSI, ofBool_beq_one, BitVec.extractLsb'_append_eq_of_le, BitVec.extractLsb'_append_eq_of_add_le, BitVec.extractLsb'_eq_self, Nat.sub_self, Nat.reduceSub]

theorem RoundTrip.xori (d a imm) : RoundTrip.Statement (.xori d a imm) := by
  refine roundTrip_intro rfl rfl ((decodeSlot_class1 _ _ rfl).trans ?_)
  change decodeClass1 3 _ = _
  simp (disch := decide) only [decodeClass1, of_encSI, ofBool_beq_one, BitVec.extractLsb'_append_eq_of_le, BitVec.extractLsb'_append_eq_of_add_le, BitVec.extractLsb'_eq_self, Nat.sub_self, Nat.reduceSub]

theorem RoundTrip.shli (d a n) : RoundTrip.Statement (.shli d a n) := by
  refine roundTrip_intro rfl rfl ((decodeSlot_class1 _ _ rfl).trans ?_)
  change decodeClass1 4 _ = _
  simp (disch := decide) only [decodeClass1, of_encSI, ofBool_beq_one, BitVec.extractLsb'_append_eq_of_le, BitVec.extractLsb'_append_eq_of_add_le, BitVec.extractLsb'_eq_self, Nat.sub_self, Nat.reduceSub]
  rfl

theorem RoundTrip.shri (d a n) : RoundTrip.Statement (.shri d a n) := by
  refine roundTrip_intro rfl rfl ((decodeSlot_class1 _ _ rfl).trans ?_)
  change decodeClass1 5 _ = _
  simp (disch := decide) only [decodeClass1, of_encSI, ofBool_beq_one, BitVec.extractLsb'_append_eq_of_le, BitVec.extractLsb'_append_eq_of_add_le, BitVec.extractLsb'_eq_self, Nat.sub_self, Nat.reduceSub]
  rfl

theorem RoundTrip.sari (d a n) : RoundTrip.Statement (.sari d a n) := by
  refine roundTrip_intro rfl rfl ((decodeSlot_class1 _ _ rfl).trans ?_)
  change decodeClass1 6 _ = _
  simp (disch := decide) only [decodeClass1, of_encSI, ofBool_beq_one, BitVec.extractLsb'_append_eq_of_le, BitVec.extractLsb'_append_eq_of_add_le, BitVec.extractLsb'_eq_self, Nat.sub_self, Nat.reduceSub]
  rfl

theorem RoundTrip.movi (d imm) : RoundTrip.Statement (.movi d imm) := by
  refine roundTrip_intro rfl rfl ((decodeSlot_class1 _ _ rfl).trans ?_)
  change decodeClass1 7 _ = _
  simp (disch := decide) only [decodeClass1, of_encSL, ofBool_beq_one, BitVec.extractLsb'_append_eq_of_le, BitVec.extractLsb'_append_eq_of_add_le, BitVec.extractLsb'_eq_self, Nat.sub_self, Nat.reduceSub]

theorem RoundTrip.shi (d imm) : RoundTrip.Statement (.shi d imm) := by
  refine roundTrip_intro rfl rfl ((decodeSlot_class1 _ _ rfl).trans ?_)
  change decodeClass1 8 _ = _
  simp (disch := decide) only [decodeClass1, of_encSL, ofBool_beq_one, BitVec.extractLsb'_append_eq_of_le, BitVec.extractLsb'_append_eq_of_add_le, BitVec.extractLsb'_eq_self, Nat.sub_self, Nat.reduceSub]

theorem RoundTrip.br (g off) : RoundTrip.Statement (.br g off) := by
  refine roundTrip_intro rfl rfl ((decodeSlot_class2 _ _ rfl).trans ?_)
  change decodeClass2 0 _ = _
  simp (disch := decide) only [decodeClass2, of_encB, FormB.guard, ofBool_beq_one, BitVec.extractLsb'_append_eq_of_le, BitVec.extractLsb'_append_eq_of_add_le, BitVec.extractLsb'_eq_self, Nat.sub_self, Nat.reduceSub]

theorem RoundTrip.brl (g off) : RoundTrip.Statement (.brl g off) := by
  refine roundTrip_intro rfl rfl ((decodeSlot_class2 _ _ rfl).trans ?_)
  change decodeClass2 1 _ = _
  simp (disch := decide) only [decodeClass2, of_encB, FormB.guard, ofBool_beq_one, BitVec.extractLsb'_append_eq_of_le, BitVec.extractLsb'_append_eq_of_add_le, BitVec.extractLsb'_eq_self, Nat.sub_self, Nat.reduceSub]

theorem RoundTrip.brs (g d a) : RoundTrip.Statement (.brs g d a) := by
  refine roundTrip_intro rfl rfl ((decodeSlot_class2 _ _ rfl).trans ?_)
  change decodeClass2 2 _ = _
  simp (disch := decide) only [decodeClass2, of_encS3, FormS3.guard, ofBool_beq_one, BitVec.extractLsb'_append_eq_of_le, BitVec.extractLsb'_append_eq_of_add_le, BitVec.extractLsb'_eq_self, Nat.sub_self, Nat.reduceSub]
  rfl

theorem RoundTrip.loop (g n a) : RoundTrip.Statement (.loop g n a) := by
  refine roundTrip_intro rfl rfl ((decodeSlot_class2 _ _ rfl).trans ?_)
  change decodeClass2 3 _ = _
  simp (disch := decide) only [decodeClass2, of_encS3, FormS3.guard, ofBool_beq_one, BitVec.extractLsb'_append_eq_of_le, BitVec.extractLsb'_append_eq_of_add_le, BitVec.extractLsb'_eq_self, Nat.sub_self, Nat.reduceSub]
  rfl

theorem RoundTrip.loopi (n count) : RoundTrip.Statement (.loopi n count) := by
  refine roundTrip_intro rfl rfl ((decodeSlot_class2 _ _ rfl).trans ?_)
  change decodeClass2 4 _ = _
  simp (disch := decide) only [decodeClass2, of_encSI, ofBool_beq_one, BitVec.extractLsb'_append_eq_of_le, BitVec.extractLsb'_append_eq_of_add_le, BitVec.extractLsb'_eq_self, Nat.sub_self, Nat.reduceSub]
  rfl

theorem RoundTrip.ppt : RoundTrip.Statement .ppt := by
  refine roundTrip_intro rfl rfl ((decodeSlot_class2 _ _ rfl).trans ?_)
  change decodeClass2 5 _ = _
  simp (disch := decide) only [decodeClass2]
  rfl

theorem RoundTrip.yield : RoundTrip.Statement .yield := by
  refine roundTrip_intro rfl rfl ((decodeSlot_class2 _ _ rfl).trans ?_)
  change decodeClass2 6 _ = _
  simp (disch := decide) only [decodeClass2]
  rfl

theorem RoundTrip.exit : RoundTrip.Statement .exit := by
  refine roundTrip_intro rfl rfl ((decodeSlot_class2 _ _ rfl).trans ?_)
  change decodeClass2 7 _ = _
  simp (disch := decide) only [decodeClass2]
  rfl

theorem RoundTrip.tstamp (g d) : RoundTrip.Statement (.tstamp g d) := by
  refine roundTrip_intro rfl rfl ((decodeSlot_class2 _ _ rfl).trans ?_)
  change decodeClass2 8 _ = _
  simp (disch := decide) only [decodeClass2, of_encS3, FormS3.guard, ofBool_beq_one, BitVec.extractLsb'_append_eq_of_le, BitVec.extractLsb'_append_eq_of_add_le, BitVec.extractLsb'_eq_self, Nat.sub_self, Nat.reduceSub]
  rfl

theorem RoundTrip.tstampSet (g d a) : RoundTrip.Statement (.tstampSet g d a) := by
  refine roundTrip_intro rfl rfl ((decodeSlot_class2 _ _ rfl).trans ?_)
  change decodeClass2 8 _ = _
  simp (disch := decide) only [decodeClass2, of_encS3, FormS3.guard, ofBool_beq_one, BitVec.extractLsb'_append_eq_of_le, BitVec.extractLsb'_append_eq_of_add_le, BitVec.extractLsb'_eq_self, Nat.sub_self, Nat.reduceSub]
  simp

theorem RoundTrip.sread (d num) : RoundTrip.Statement (.sread d num) := by
  refine roundTrip_intro rfl rfl ((decodeSlot_class2 _ _ rfl).trans ?_)
  change decodeClass2 9 _ = _
  simp (disch := decide) only [decodeClass2, of_encSI, ofBool_beq_one, BitVec.extractLsb'_append_eq_of_le, BitVec.extractLsb'_append_eq_of_add_le, BitVec.extractLsb'_eq_self, Nat.sub_self, Nat.reduceSub]
  rfl

theorem RoundTrip.swrite (num a) : RoundTrip.Statement (.swrite num a) := by
  refine roundTrip_intro rfl rfl ((decodeSlot_class2 _ _ rfl).trans ?_)
  change decodeClass2 10 _ = _
  simp (disch := decide) only [decodeClass2, of_encSI, ofBool_beq_one, BitVec.extractLsb'_append_eq_of_le, BitVec.extractLsb'_append_eq_of_add_le, BitVec.extractLsb'_eq_self, Nat.sub_self, Nat.reduceSub]
  rfl

theorem RoundTrip.trap (imm) : RoundTrip.Statement (.trap imm) := by
  refine roundTrip_intro rfl rfl ((decodeSlot_class2 _ _ rfl).trans ?_)
  change decodeClass2 11 _ = _
  simp (disch := decide) only [decodeClass2, of_encSL, ofBool_beq_one, BitVec.extractLsb'_append_eq_of_le, BitVec.extractLsb'_append_eq_of_add_le, BitVec.extractLsb'_eq_self, Nat.sub_self, Nat.reduceSub]
  rfl

theorem RoundTrip.svc (imm) : RoundTrip.Statement (.svc imm) := by
  refine roundTrip_intro rfl rfl ((decodeSlot_class2 _ _ rfl).trans ?_)
  change decodeClass2 12 _ = _
  simp (disch := decide) only [decodeClass2, of_encSL, ofBool_beq_one, BitVec.extractLsb'_append_eq_of_le, BitVec.extractLsb'_append_eq_of_add_le, BitVec.extractLsb'_eq_self, Nat.sub_self, Nat.reduceSub]
  rfl

theorem RoundTrip.eret : RoundTrip.Statement .eret := by
  refine roundTrip_intro rfl rfl ((decodeSlot_class2 _ _ rfl).trans ?_)
  change decodeClass2 13 _ = _
  simp (disch := decide) only [decodeClass2]
  rfl

theorem RoundTrip.fcrSet (g a fields) : RoundTrip.Statement (.fcrSet g a fields) := by
  refine roundTrip_intro rfl rfl ((decodeSlot_class2 _ _ rfl).trans ?_)
  change decodeClass2 14 _ = _
  simp (disch := decide) only [decodeClass2, of_encS3, FormS3.guard, ofBool_beq_one, BitVec.extractLsb'_append_eq_of_le, BitVec.extractLsb'_append_eq_of_add_le, BitVec.extractLsb'_eq_self, Nat.sub_self, Nat.reduceSub]
  rfl

theorem RoundTrip.fcrGet (g d) : RoundTrip.Statement (.fcrGet g d) := by
  refine roundTrip_intro rfl rfl ((decodeSlot_class2 _ _ rfl).trans ?_)
  change decodeClass2 15 _ = _
  simp (disch := decide) only [decodeClass2, of_encS3, FormS3.guard, ofBool_beq_one, BitVec.extractLsb'_append_eq_of_le, BitVec.extractLsb'_append_eq_of_add_le, BitVec.extractLsb'_eq_self, Nat.sub_self, Nat.reduceSub]
  rfl

theorem RoundTrip.panAck (g d) : RoundTrip.Statement (.panAck g d) := by
  refine roundTrip_intro rfl rfl ((decodeSlot_class2 _ _ rfl).trans ?_)
  change decodeClass2 16 _ = _
  simp (disch := decide) only [decodeClass2, of_encS3, FormS3.guard, ofBool_beq_one, BitVec.extractLsb'_append_eq_of_le, BitVec.extractLsb'_append_eq_of_add_le, BitVec.extractLsb'_eq_self, Nat.sub_self, Nat.reduceSub]
  rfl

theorem RoundTrip.panRead (g d a ps) : RoundTrip.Statement (.panRead g d a ps) := by
  refine roundTrip_intro rfl rfl ((decodeSlot_class2 _ _ rfl).trans ?_)
  change decodeClass2 17 _ = _
  simp (disch := decide) only [decodeClass2, of_encS3, FormS3.guard, ofBool_beq_one, BitVec.extractLsb'_append_eq_of_le, BitVec.extractLsb'_append_eq_of_add_le, BitVec.extractLsb'_eq_self, Nat.sub_self, Nat.reduceSub]
  rfl

theorem RoundTrip.poisTest (g kind d x) : RoundTrip.Statement (.poisTest g kind d x) := by
  refine roundTrip_intro rfl rfl ((decodeSlot_class2 _ _ rfl).trans ?_)
  change decodeClass2 18 _ = _
  simp (disch := decide) only [decodeClass2, of_encS3, FormS3.guard, ofBool_beq_one, BitVec.extractLsb'_append_eq_of_le, BitVec.extractLsb'_append_eq_of_add_le, BitVec.extractLsb'_eq_self, Nat.sub_self, Nat.reduceSub]
  rfl

theorem RoundTrip.poisClr (g kind x) : RoundTrip.Statement (.poisClr g kind x) := by
  refine roundTrip_intro rfl rfl ((decodeSlot_class2 _ _ rfl).trans ?_)
  change decodeClass2 18 _ = _
  simp (disch := decide) only [decodeClass2, of_encS3, FormS3.guard, ofBool_beq_one, BitVec.extractLsb'_append_eq_of_le, BitVec.extractLsb'_append_eq_of_add_le, BitVec.extractLsb'_eq_self, Nat.sub_self, Nat.reduceSub]
  rfl

theorem RoundTrip.poisSet (g kind x) : RoundTrip.Statement (.poisSet g kind x) := by
  refine roundTrip_intro rfl rfl ((decodeSlot_class2 _ _ rfl).trans ?_)
  change decodeClass2 18 _ = _
  simp (disch := decide) only [decodeClass2, of_encS3, FormS3.guard, ofBool_beq_one, BitVec.extractLsb'_append_eq_of_le, BitVec.extractLsb'_append_eq_of_add_le, BitVec.extractLsb'_eq_self, Nat.sub_self, Nat.reduceSub]
  rfl

theorem RoundTrip.preemptStop (g d a b) : RoundTrip.Statement (.preemptStop g d a b) := by
  refine roundTrip_intro rfl rfl ((decodeSlot_class2 _ _ rfl).trans ?_)
  change decodeClass2 19 _ = _
  simp (disch := decide) only [decodeClass2, of_encS3, FormS3.guard, ofBool_beq_one, BitVec.extractLsb'_append_eq_of_le, BitVec.extractLsb'_append_eq_of_add_le, BitVec.extractLsb'_eq_self, Nat.sub_self, Nat.reduceSub]
  rfl

theorem RoundTrip.preemptResume (g d a b) : RoundTrip.Statement (.preemptResume g d a b) := by
  refine roundTrip_intro rfl rfl ((decodeSlot_class2 _ _ rfl).trans ?_)
  change decodeClass2 19 _ = _
  simp (disch := decide) only [decodeClass2, of_encS3, FormS3.guard, ofBool_beq_one, BitVec.extractLsb'_append_eq_of_le, BitVec.extractLsb'_append_eq_of_add_le, BitVec.extractLsb'_eq_self, Nat.sub_self, Nat.reduceSub]
  rfl

theorem RoundTrip.preemptState (g d a b) : RoundTrip.Statement (.preemptState g d a b) := by
  refine roundTrip_intro rfl rfl ((decodeSlot_class2 _ _ rfl).trans ?_)
  change decodeClass2 19 _ = _
  simp (disch := decide) only [decodeClass2, of_encS3, FormS3.guard, ofBool_beq_one, BitVec.extractLsb'_append_eq_of_le, BitVec.extractLsb'_append_eq_of_add_le, BitVec.extractLsb'_eq_self, Nat.sub_self, Nat.reduceSub]
  rfl

theorem RoundTrip.ctxSave (g d a b) : RoundTrip.Statement (.ctxSave g d a b) := by
  refine roundTrip_intro rfl rfl ((decodeSlot_class2 _ _ rfl).trans ?_)
  change decodeClass2 20 _ = _
  simp (disch := decide) only [decodeClass2, of_encS3, FormS3.guard, ofBool_beq_one, BitVec.extractLsb'_append_eq_of_le, BitVec.extractLsb'_append_eq_of_add_le, BitVec.extractLsb'_eq_self, Nat.sub_self, Nat.reduceSub]
  rfl

theorem RoundTrip.ctxLoad (g d a b) : RoundTrip.Statement (.ctxLoad g d a b) := by
  refine roundTrip_intro rfl rfl ((decodeSlot_class2 _ _ rfl).trans ?_)
  change decodeClass2 21 _ = _
  simp (disch := decide) only [decodeClass2, of_encS3, FormS3.guard, ofBool_beq_one, BitVec.extractLsb'_append_eq_of_le, BitVec.extractLsb'_append_eq_of_add_le, BitVec.extractLsb'_eq_self, Nat.sub_self, Nat.reduceSub]
  rfl

theorem RoundTrip.halt : RoundTrip.Statement .halt := by
  refine roundTrip_intro rfl rfl ((decodeSlot_class2 _ _ rfl).trans ?_)
  change decodeClass2 22 _ = _
  simp (disch := decide) only [decodeClass2]
  rfl

theorem RoundTrip.vadd (pg t d a b) : RoundTrip.Statement (.vadd pg t d a b) := by
  refine roundTrip_intro rfl rfl ((decodeSlot_class3 _ _ rfl).trans ?_)
  change decodeClass3 0 _ = _
  simp (disch := decide) only [decodeClass3, of_encV3, ofBool_beq_one, BitVec.extractLsb'_append_eq_of_le, BitVec.extractLsb'_append_eq_of_add_le, BitVec.extractLsb'_eq_self, Nat.sub_self, Nat.reduceSub]

theorem RoundTrip.vsub (pg t d a b) : RoundTrip.Statement (.vsub pg t d a b) := by
  refine roundTrip_intro rfl rfl ((decodeSlot_class3 _ _ rfl).trans ?_)
  change decodeClass3 1 _ = _
  simp (disch := decide) only [decodeClass3, of_encV3, ofBool_beq_one, BitVec.extractLsb'_append_eq_of_le, BitVec.extractLsb'_append_eq_of_add_le, BitVec.extractLsb'_eq_self, Nat.sub_self, Nat.reduceSub]

theorem RoundTrip.vmul (pg t d a b) : RoundTrip.Statement (.vmul pg t d a b) := by
  refine roundTrip_intro rfl rfl ((decodeSlot_class3 _ _ rfl).trans ?_)
  change decodeClass3 2 _ = _
  simp (disch := decide) only [decodeClass3, of_encV3, ofBool_beq_one, BitVec.extractLsb'_append_eq_of_le, BitVec.extractLsb'_append_eq_of_add_le, BitVec.extractLsb'_eq_self, Nat.sub_self, Nat.reduceSub]

theorem RoundTrip.vmulh (pg t d a b) : RoundTrip.Statement (.vmulh pg t d a b) := by
  refine roundTrip_intro rfl rfl ((decodeSlot_class3 _ _ rfl).trans ?_)
  change decodeClass3 3 _ = _
  simp (disch := decide) only [decodeClass3, of_encV3, ofBool_beq_one, BitVec.extractLsb'_append_eq_of_le, BitVec.extractLsb'_append_eq_of_add_le, BitVec.extractLsb'_eq_self, Nat.sub_self, Nat.reduceSub]

theorem RoundTrip.vmin (pg t d a b) : RoundTrip.Statement (.vmin pg t d a b) := by
  refine roundTrip_intro rfl rfl ((decodeSlot_class3 _ _ rfl).trans ?_)
  change decodeClass3 4 _ = _
  simp (disch := decide) only [decodeClass3, of_encV3, ofBool_beq_one, BitVec.extractLsb'_append_eq_of_le, BitVec.extractLsb'_append_eq_of_add_le, BitVec.extractLsb'_eq_self, Nat.sub_self, Nat.reduceSub]

theorem RoundTrip.vmax (pg t d a b) : RoundTrip.Statement (.vmax pg t d a b) := by
  refine roundTrip_intro rfl rfl ((decodeSlot_class3 _ _ rfl).trans ?_)
  change decodeClass3 5 _ = _
  simp (disch := decide) only [decodeClass3, of_encV3, ofBool_beq_one, BitVec.extractLsb'_append_eq_of_le, BitVec.extractLsb'_append_eq_of_add_le, BitVec.extractLsb'_eq_self, Nat.sub_self, Nat.reduceSub]

theorem RoundTrip.vand (pg t d a b) : RoundTrip.Statement (.vand pg t d a b) := by
  refine roundTrip_intro rfl rfl ((decodeSlot_class3 _ _ rfl).trans ?_)
  change decodeClass3 6 _ = _
  simp (disch := decide) only [decodeClass3, of_encV3, ofBool_beq_one, BitVec.extractLsb'_append_eq_of_le, BitVec.extractLsb'_append_eq_of_add_le, BitVec.extractLsb'_eq_self, Nat.sub_self, Nat.reduceSub]

theorem RoundTrip.vor (pg t d a b) : RoundTrip.Statement (.vor pg t d a b) := by
  refine roundTrip_intro rfl rfl ((decodeSlot_class3 _ _ rfl).trans ?_)
  change decodeClass3 7 _ = _
  simp (disch := decide) only [decodeClass3, of_encV3, ofBool_beq_one, BitVec.extractLsb'_append_eq_of_le, BitVec.extractLsb'_append_eq_of_add_le, BitVec.extractLsb'_eq_self, Nat.sub_self, Nat.reduceSub]

theorem RoundTrip.vxor (pg t d a b) : RoundTrip.Statement (.vxor pg t d a b) := by
  refine roundTrip_intro rfl rfl ((decodeSlot_class3 _ _ rfl).trans ?_)
  change decodeClass3 8 _ = _
  simp (disch := decide) only [decodeClass3, of_encV3, ofBool_beq_one, BitVec.extractLsb'_append_eq_of_le, BitVec.extractLsb'_append_eq_of_add_le, BitVec.extractLsb'_eq_self, Nat.sub_self, Nat.reduceSub]

theorem RoundTrip.vnot (pg t d a) : RoundTrip.Statement (.vnot pg t d a) := by
  refine roundTrip_intro rfl rfl ((decodeSlot_class3 _ _ rfl).trans ?_)
  change decodeClass3 9 _ = _
  simp (disch := decide) only [decodeClass3, of_encV3, ofBool_beq_one, BitVec.extractLsb'_append_eq_of_le, BitVec.extractLsb'_append_eq_of_add_le, BitVec.extractLsb'_eq_self, Nat.sub_self, Nat.reduceSub]
  rfl

theorem RoundTrip.vshl (pg t d a b) : RoundTrip.Statement (.vshl pg t d a b) := by
  refine roundTrip_intro rfl rfl ((decodeSlot_class3 _ _ rfl).trans ?_)
  change decodeClass3 10 _ = _
  simp (disch := decide) only [decodeClass3, of_encV3, ofBool_beq_one, BitVec.extractLsb'_append_eq_of_le, BitVec.extractLsb'_append_eq_of_add_le, BitVec.extractLsb'_eq_self, Nat.sub_self, Nat.reduceSub]

theorem RoundTrip.vshr (pg t d a b) : RoundTrip.Statement (.vshr pg t d a b) := by
  refine roundTrip_intro rfl rfl ((decodeSlot_class3 _ _ rfl).trans ?_)
  change decodeClass3 11 _ = _
  simp (disch := decide) only [decodeClass3, of_encV3, ofBool_beq_one, BitVec.extractLsb'_append_eq_of_le, BitVec.extractLsb'_append_eq_of_add_le, BitVec.extractLsb'_eq_self, Nat.sub_self, Nat.reduceSub]

theorem RoundTrip.vsar (pg t d a b) : RoundTrip.Statement (.vsar pg t d a b) := by
  refine roundTrip_intro rfl rfl ((decodeSlot_class3 _ _ rfl).trans ?_)
  change decodeClass3 12 _ = _
  simp (disch := decide) only [decodeClass3, of_encV3, ofBool_beq_one, BitVec.extractLsb'_append_eq_of_le, BitVec.extractLsb'_append_eq_of_add_le, BitVec.extractLsb'_eq_self, Nat.sub_self, Nat.reduceSub]

theorem RoundTrip.vcmpCc (cc pg t pd a b) : RoundTrip.Statement (.vcmpCc cc pg t pd a b) := by
  refine roundTrip_intro rfl rfl ((decodeSlot_class3 _ _ rfl).trans ?_)
  change decodeClass3 13 _ = _
  simp (disch := decide) only [decodeClass3, of_encV3, ofBool_beq_one, BitVec.extractLsb'_append_eq_of_le, BitVec.extractLsb'_append_eq_of_add_le, BitVec.extractLsb'_eq_self, Nat.sub_self, Nat.reduceSub]

theorem RoundTrip.vadds (pg t d a b) : RoundTrip.Statement (.vadds pg t d a b) := by
  refine roundTrip_intro rfl rfl ((decodeSlot_class3 _ _ rfl).trans ?_)
  change decodeClass3 14 _ = _
  simp (disch := decide) only [decodeClass3, of_encV3, ofBool_beq_one, BitVec.extractLsb'_append_eq_of_le, BitVec.extractLsb'_append_eq_of_add_le, BitVec.extractLsb'_eq_self, Nat.sub_self, Nat.reduceSub]

theorem RoundTrip.vsubs (pg t d a b) : RoundTrip.Statement (.vsubs pg t d a b) := by
  refine roundTrip_intro rfl rfl ((decodeSlot_class3 _ _ rfl).trans ?_)
  change decodeClass3 15 _ = _
  simp (disch := decide) only [decodeClass3, of_encV3, ofBool_beq_one, BitVec.extractLsb'_append_eq_of_le, BitVec.extractLsb'_append_eq_of_add_le, BitVec.extractLsb'_eq_self, Nat.sub_self, Nat.reduceSub]

theorem RoundTrip.fadd (pg t d a b) : RoundTrip.Statement (.fadd pg t d a b) := by
  refine roundTrip_intro rfl rfl ((decodeSlot_class3 _ _ rfl).trans ?_)
  change decodeClass3 16 _ = _
  simp (disch := decide) only [decodeClass3, of_encV3, ofBool_beq_one, BitVec.extractLsb'_append_eq_of_le, BitVec.extractLsb'_append_eq_of_add_le, BitVec.extractLsb'_eq_self, Nat.sub_self, Nat.reduceSub]

theorem RoundTrip.fsub (pg t d a b) : RoundTrip.Statement (.fsub pg t d a b) := by
  refine roundTrip_intro rfl rfl ((decodeSlot_class3 _ _ rfl).trans ?_)
  change decodeClass3 17 _ = _
  simp (disch := decide) only [decodeClass3, of_encV3, ofBool_beq_one, BitVec.extractLsb'_append_eq_of_le, BitVec.extractLsb'_append_eq_of_add_le, BitVec.extractLsb'_eq_self, Nat.sub_self, Nat.reduceSub]

theorem RoundTrip.fmul (pg t d a b) : RoundTrip.Statement (.fmul pg t d a b) := by
  refine roundTrip_intro rfl rfl ((decodeSlot_class3 _ _ rfl).trans ?_)
  change decodeClass3 18 _ = _
  simp (disch := decide) only [decodeClass3, of_encV3, ofBool_beq_one, BitVec.extractLsb'_append_eq_of_le, BitVec.extractLsb'_append_eq_of_add_le, BitVec.extractLsb'_eq_self, Nat.sub_self, Nat.reduceSub]

theorem RoundTrip.fma (pg t d a b) : RoundTrip.Statement (.fma pg t d a b) := by
  refine roundTrip_intro rfl rfl ((decodeSlot_class3 _ _ rfl).trans ?_)
  change decodeClass3 19 _ = _
  simp (disch := decide) only [decodeClass3, of_encV3, ofBool_beq_one, BitVec.extractLsb'_append_eq_of_le, BitVec.extractLsb'_append_eq_of_add_le, BitVec.extractLsb'_eq_self, Nat.sub_self, Nat.reduceSub]

theorem RoundTrip.fms (pg t d a b) : RoundTrip.Statement (.fms pg t d a b) := by
  refine roundTrip_intro rfl rfl ((decodeSlot_class3 _ _ rfl).trans ?_)
  change decodeClass3 20 _ = _
  simp (disch := decide) only [decodeClass3, of_encV3, ofBool_beq_one, BitVec.extractLsb'_append_eq_of_le, BitVec.extractLsb'_append_eq_of_add_le, BitVec.extractLsb'_eq_self, Nat.sub_self, Nat.reduceSub]

theorem RoundTrip.fnma (pg t d a b) : RoundTrip.Statement (.fnma pg t d a b) := by
  refine roundTrip_intro rfl rfl ((decodeSlot_class3 _ _ rfl).trans ?_)
  change decodeClass3 21 _ = _
  simp (disch := decide) only [decodeClass3, of_encV3, ofBool_beq_one, BitVec.extractLsb'_append_eq_of_le, BitVec.extractLsb'_append_eq_of_add_le, BitVec.extractLsb'_eq_self, Nat.sub_self, Nat.reduceSub]

theorem RoundTrip.fnms (pg t d a b) : RoundTrip.Statement (.fnms pg t d a b) := by
  refine roundTrip_intro rfl rfl ((decodeSlot_class3 _ _ rfl).trans ?_)
  change decodeClass3 22 _ = _
  simp (disch := decide) only [decodeClass3, of_encV3, ofBool_beq_one, BitVec.extractLsb'_append_eq_of_le, BitVec.extractLsb'_append_eq_of_add_le, BitVec.extractLsb'_eq_self, Nat.sub_self, Nat.reduceSub]

theorem RoundTrip.fmin (pg t d a b) : RoundTrip.Statement (.fmin pg t d a b) := by
  refine roundTrip_intro rfl rfl ((decodeSlot_class3 _ _ rfl).trans ?_)
  change decodeClass3 23 _ = _
  simp (disch := decide) only [decodeClass3, of_encV3, ofBool_beq_one, BitVec.extractLsb'_append_eq_of_le, BitVec.extractLsb'_append_eq_of_add_le, BitVec.extractLsb'_eq_self, Nat.sub_self, Nat.reduceSub]

theorem RoundTrip.fmax (pg t d a b) : RoundTrip.Statement (.fmax pg t d a b) := by
  refine roundTrip_intro rfl rfl ((decodeSlot_class3 _ _ rfl).trans ?_)
  change decodeClass3 24 _ = _
  simp (disch := decide) only [decodeClass3, of_encV3, ofBool_beq_one, BitVec.extractLsb'_append_eq_of_le, BitVec.extractLsb'_append_eq_of_add_le, BitVec.extractLsb'_eq_self, Nat.sub_self, Nat.reduceSub]

theorem RoundTrip.fabs (pg t d a) : RoundTrip.Statement (.fabs pg t d a) := by
  refine roundTrip_intro rfl rfl ((decodeSlot_class3 _ _ rfl).trans ?_)
  change decodeClass3 25 _ = _
  simp (disch := decide) only [decodeClass3, of_encV3, ofBool_beq_one, BitVec.extractLsb'_append_eq_of_le, BitVec.extractLsb'_append_eq_of_add_le, BitVec.extractLsb'_eq_self, Nat.sub_self, Nat.reduceSub]
  rfl

theorem RoundTrip.fneg (pg t d a) : RoundTrip.Statement (.fneg pg t d a) := by
  refine roundTrip_intro rfl rfl ((decodeSlot_class3 _ _ rfl).trans ?_)
  change decodeClass3 26 _ = _
  simp (disch := decide) only [decodeClass3, of_encV3, ofBool_beq_one, BitVec.extractLsb'_append_eq_of_le, BitVec.extractLsb'_append_eq_of_add_le, BitVec.extractLsb'_eq_self, Nat.sub_self, Nat.reduceSub]
  rfl

theorem RoundTrip.fcmpCc (cc pg t pd a b) : RoundTrip.Statement (.fcmpCc cc pg t pd a b) := by
  refine roundTrip_intro rfl rfl ((decodeSlot_class3 _ _ rfl).trans ?_)
  change decodeClass3 27 _ = _
  simp (disch := decide) only [decodeClass3, of_encV3, ofBool_beq_one, BitVec.extractLsb'_append_eq_of_le, BitVec.extractLsb'_append_eq_of_add_le, BitVec.extractLsb'_eq_self, Nat.sub_self, Nat.reduceSub]

theorem RoundTrip.fclass (pg t d a) : RoundTrip.Statement (.fclass pg t d a) := by
  refine roundTrip_intro rfl rfl ((decodeSlot_class3 _ _ rfl).trans ?_)
  change decodeClass3 28 _ = _
  simp (disch := decide) only [decodeClass3, of_encV3, ofBool_beq_one, BitVec.extractLsb'_append_eq_of_le, BitVec.extractLsb'_append_eq_of_add_le, BitVec.extractLsb'_eq_self, Nat.sub_self, Nat.reduceSub]
  rfl

theorem RoundTrip.frnd (pg t d a) : RoundTrip.Statement (.frnd pg t d a) := by
  refine roundTrip_intro rfl rfl ((decodeSlot_class3 _ _ rfl).trans ?_)
  change decodeClass3 29 _ = _
  simp (disch := decide) only [decodeClass3, of_encV3, ofBool_beq_one, BitVec.extractLsb'_append_eq_of_le, BitVec.extractLsb'_append_eq_of_add_le, BitVec.extractLsb'_eq_self, Nat.sub_self, Nat.reduceSub]
  rfl

theorem RoundTrip.fscale (pg t d a b) : RoundTrip.Statement (.fscale pg t d a b) := by
  refine roundTrip_intro rfl rfl ((decodeSlot_class3 _ _ rfl).trans ?_)
  change decodeClass3 30 _ = _
  simp (disch := decide) only [decodeClass3, of_encV3, ofBool_beq_one, BitVec.extractLsb'_append_eq_of_le, BitVec.extractLsb'_append_eq_of_add_le, BitVec.extractLsb'_eq_self, Nat.sub_self, Nat.reduceSub]

theorem RoundTrip.vsel (t d a b k) : RoundTrip.Statement (.vsel t d a b k) := by
  refine roundTrip_intro rfl rfl ((decodeSlot_class4 _ _ rfl).trans ?_)
  change decodeClass4 0 _ = _
  simp (disch := decide) only [decodeClass4, of_encV3, ofBool_beq_one, BitVec.extractLsb'_append_eq_of_le, BitVec.extractLsb'_append_eq_of_add_le, BitVec.extractLsb'_eq_self, Nat.sub_self, Nat.reduceSub]

theorem RoundTrip.vmov (pg t d a) : RoundTrip.Statement (.vmov pg t d a) := by
  refine roundTrip_intro rfl rfl ((decodeSlot_class4 _ _ rfl).trans ?_)
  change decodeClass4 1 _ = _
  simp (disch := decide) only [decodeClass4, of_encV3, ofBool_beq_one, BitVec.extractLsb'_append_eq_of_le, BitVec.extractLsb'_append_eq_of_add_le, BitVec.extractLsb'_eq_self, Nat.sub_self, Nat.reduceSub]
  rfl

theorem RoundTrip.vbcast (pg t d n) : RoundTrip.Statement (.vbcast pg t d n) := by
  refine roundTrip_intro rfl rfl ((decodeSlot_class4 _ _ rfl).trans ?_)
  change decodeClass4 2 _ = _
  simp (disch := decide) only [decodeClass4, of_encV3, ofBool_beq_one, BitVec.extractLsb'_append_eq_of_le, BitVec.extractLsb'_append_eq_of_add_le, BitVec.extractLsb'_eq_self, Nat.sub_self, Nat.reduceSub]
  rfl

theorem RoundTrip.vimm (t d imm) : RoundTrip.Statement (.vimm t d imm) := by
  refine roundTrip_intro rfl rfl ((decodeSlot_class4 _ _ rfl).trans ?_)
  change decodeClass4 3 _ = _
  simp (disch := decide) only [decodeClass4, of_encVI, ofBool_beq_one, BitVec.extractLsb'_append_eq_of_le, BitVec.extractLsb'_append_eq_of_add_le, BitVec.extractLsb'_eq_self, Nat.sub_self, Nat.reduceSub]
  rfl

theorem RoundTrip.vext (t d a b) : RoundTrip.Statement (.vext t d a b) := by
  refine roundTrip_intro rfl rfl ((decodeSlot_class4 _ _ rfl).trans ?_)
  change decodeClass4 4 _ = _
  simp (disch := decide) only [decodeClass4, of_encV3, ofBool_beq_one, BitVec.extractLsb'_append_eq_of_le, BitVec.extractLsb'_append_eq_of_add_le, BitVec.extractLsb'_eq_self, Nat.sub_self, Nat.reduceSub]
  rfl

theorem RoundTrip.vins (t d a b) : RoundTrip.Statement (.vins t d a b) := by
  refine roundTrip_intro rfl rfl ((decodeSlot_class4 _ _ rfl).trans ?_)
  change decodeClass4 5 _ = _
  simp (disch := decide) only [decodeClass4, of_encV3, ofBool_beq_one, BitVec.extractLsb'_append_eq_of_le, BitVec.extractLsb'_append_eq_of_add_le, BitVec.extractLsb'_eq_self, Nat.sub_self, Nat.reduceSub]
  rfl

theorem RoundTrip.vperm (pg t d a b) : RoundTrip.Statement (.vperm pg t d a b) := by
  refine roundTrip_intro rfl rfl ((decodeSlot_class4 _ _ rfl).trans ?_)
  change decodeClass4 6 _ = _
  simp (disch := decide) only [decodeClass4, of_encV3, ofBool_beq_one, BitVec.extractLsb'_append_eq_of_le, BitVec.extractLsb'_append_eq_of_add_le, BitVec.extractLsb'_eq_self, Nat.sub_self, Nat.reduceSub]

theorem RoundTrip.vslideUp (pg t d a b) : RoundTrip.Statement (.vslideUp pg t d a b) := by
  refine roundTrip_intro rfl rfl ((decodeSlot_class4 _ _ rfl).trans ?_)
  change decodeClass4 7 _ = _
  simp (disch := decide) only [decodeClass4, of_encV3, ofBool_beq_one, BitVec.extractLsb'_append_eq_of_le, BitVec.extractLsb'_append_eq_of_add_le, BitVec.extractLsb'_eq_self, Nat.sub_self, Nat.reduceSub]
  rfl

theorem RoundTrip.vslideDn (pg t d a b) : RoundTrip.Statement (.vslideDn pg t d a b) := by
  refine roundTrip_intro rfl rfl ((decodeSlot_class4 _ _ rfl).trans ?_)
  change decodeClass4 8 _ = _
  simp (disch := decide) only [decodeClass4, of_encV3, ofBool_beq_one, BitVec.extractLsb'_append_eq_of_le, BitVec.extractLsb'_append_eq_of_add_le, BitVec.extractLsb'_eq_self, Nat.sub_self, Nat.reduceSub]
  rfl

theorem RoundTrip.vrot (pg t d a b) : RoundTrip.Statement (.vrot pg t d a b) := by
  refine roundTrip_intro rfl rfl ((decodeSlot_class4 _ _ rfl).trans ?_)
  change decodeClass4 9 _ = _
  simp (disch := decide) only [decodeClass4, of_encV3, ofBool_beq_one, BitVec.extractLsb'_append_eq_of_le, BitVec.extractLsb'_append_eq_of_add_le, BitVec.extractLsb'_eq_self, Nat.sub_self, Nat.reduceSub]
  rfl

theorem RoundTrip.vzip (pg t d a b) : RoundTrip.Statement (.vzip pg t d a b) := by
  refine roundTrip_intro rfl rfl ((decodeSlot_class4 _ _ rfl).trans ?_)
  change decodeClass4 10 _ = _
  simp (disch := decide) only [decodeClass4, of_encV3, ofBool_beq_one, BitVec.extractLsb'_append_eq_of_le, BitVec.extractLsb'_append_eq_of_add_le, BitVec.extractLsb'_eq_self, Nat.sub_self, Nat.reduceSub]

theorem RoundTrip.vunzip (pg t d a b) : RoundTrip.Statement (.vunzip pg t d a b) := by
  refine roundTrip_intro rfl rfl ((decodeSlot_class4 _ _ rfl).trans ?_)
  change decodeClass4 11 _ = _
  simp (disch := decide) only [decodeClass4, of_encV3, ofBool_beq_one, BitVec.extractLsb'_append_eq_of_le, BitVec.extractLsb'_append_eq_of_add_le, BitVec.extractLsb'_eq_self, Nat.sub_self, Nat.reduceSub]

theorem RoundTrip.vtrn (pg t d a b) : RoundTrip.Statement (.vtrn pg t d a b) := by
  refine roundTrip_intro rfl rfl ((decodeSlot_class4 _ _ rfl).trans ?_)
  change decodeClass4 12 _ = _
  simp (disch := decide) only [decodeClass4, of_encV3, ofBool_beq_one, BitVec.extractLsb'_append_eq_of_le, BitVec.extractLsb'_append_eq_of_add_le, BitVec.extractLsb'_eq_self, Nat.sub_self, Nat.reduceSub]

theorem RoundTrip.vradd (pg t d a) : RoundTrip.Statement (.vradd pg t d a) := by
  refine roundTrip_intro rfl rfl ((decodeSlot_class4 _ _ rfl).trans ?_)
  change decodeClass4 13 _ = _
  simp (disch := decide) only [decodeClass4, of_encV3, ofBool_beq_one, BitVec.extractLsb'_append_eq_of_le, BitVec.extractLsb'_append_eq_of_add_le, BitVec.extractLsb'_eq_self, Nat.sub_self, Nat.reduceSub]
  rfl

theorem RoundTrip.vrmin (pg t d a) : RoundTrip.Statement (.vrmin pg t d a) := by
  refine roundTrip_intro rfl rfl ((decodeSlot_class4 _ _ rfl).trans ?_)
  change decodeClass4 14 _ = _
  simp (disch := decide) only [decodeClass4, of_encV3, ofBool_beq_one, BitVec.extractLsb'_append_eq_of_le, BitVec.extractLsb'_append_eq_of_add_le, BitVec.extractLsb'_eq_self, Nat.sub_self, Nat.reduceSub]
  rfl

theorem RoundTrip.vrmax (pg t d a) : RoundTrip.Statement (.vrmax pg t d a) := by
  refine roundTrip_intro rfl rfl ((decodeSlot_class4 _ _ rfl).trans ?_)
  change decodeClass4 15 _ = _
  simp (disch := decide) only [decodeClass4, of_encV3, ofBool_beq_one, BitVec.extractLsb'_append_eq_of_le, BitVec.extractLsb'_append_eq_of_add_le, BitVec.extractLsb'_eq_self, Nat.sub_self, Nat.reduceSub]
  rfl

theorem RoundTrip.vscanAdd (pg t d a) : RoundTrip.Statement (.vscanAdd pg t d a) := by
  refine roundTrip_intro rfl rfl ((decodeSlot_class4 _ _ rfl).trans ?_)
  change decodeClass4 16 _ = _
  simp (disch := decide) only [decodeClass4, of_encV3, ofBool_beq_one, BitVec.extractLsb'_append_eq_of_le, BitVec.extractLsb'_append_eq_of_add_le, BitVec.extractLsb'_eq_self, Nat.sub_self, Nat.reduceSub]
  rfl

theorem RoundTrip.vdot4 (pg t d a b) : RoundTrip.Statement (.vdot4 pg t d a b) := by
  refine roundTrip_intro rfl rfl ((decodeSlot_class4 _ _ rfl).trans ?_)
  change decodeClass4 17 _ = _
  simp (disch := decide) only [decodeClass4, of_encV3, ofBool_beq_one, BitVec.extractLsb'_append_eq_of_le, BitVec.extractLsb'_append_eq_of_add_le, BitVec.extractLsb'_eq_self, Nat.sub_self, Nat.reduceSub]

theorem RoundTrip.vhash (pg t d a b) : RoundTrip.Statement (.vhash pg t d a b) := by
  refine roundTrip_intro rfl rfl ((decodeSlot_class4 _ _ rfl).trans ?_)
  change decodeClass4 18 _ = _
  simp (disch := decide) only [decodeClass4, of_encV3, ofBool_beq_one, BitVec.extractLsb'_append_eq_of_le, BitVec.extractLsb'_append_eq_of_add_le, BitVec.extractLsb'_eq_self, Nat.sub_self, Nat.reduceSub]

theorem RoundTrip.pcnt (pg t d pa) : RoundTrip.Statement (.pcnt pg t d pa) := by
  refine roundTrip_intro rfl rfl ((decodeSlot_class4 _ _ rfl).trans ?_)
  change decodeClass4 19 _ = _
  simp (disch := decide) only [decodeClass4, of_encV3, ofBool_beq_one, BitVec.extractLsb'_append_eq_of_le, BitVec.extractLsb'_append_eq_of_add_le, BitVec.extractLsb'_eq_self, Nat.sub_self, Nat.reduceSub]
  rfl

theorem RoundTrip.pfirst (pg t d pa) : RoundTrip.Statement (.pfirst pg t d pa) := by
  refine roundTrip_intro rfl rfl ((decodeSlot_class4 _ _ rfl).trans ?_)
  change decodeClass4 20 _ = _
  simp (disch := decide) only [decodeClass4, of_encV3, ofBool_beq_one, BitVec.extractLsb'_append_eq_of_le, BitVec.extractLsb'_append_eq_of_add_le, BitVec.extractLsb'_eq_self, Nat.sub_self, Nat.reduceSub]
  rfl

theorem RoundTrip.vshli (t d a c) : RoundTrip.Statement (.vshli t d a c) := by
  refine roundTrip_intro rfl rfl ((decodeSlot_class4 _ _ rfl).trans ?_)
  change decodeClass4 21 _ = _
  simp (disch := decide) only [decodeClass4, of_encVI, ofBool_beq_one, BitVec.extractLsb'_append_eq_of_le, BitVec.extractLsb'_append_eq_of_add_le, BitVec.extractLsb'_eq_self, Nat.sub_self, Nat.reduceSub]
  rfl

theorem RoundTrip.vshri (t d a c) : RoundTrip.Statement (.vshri t d a c) := by
  refine roundTrip_intro rfl rfl ((decodeSlot_class4 _ _ rfl).trans ?_)
  change decodeClass4 22 _ = _
  simp (disch := decide) only [decodeClass4, of_encVI, ofBool_beq_one, BitVec.extractLsb'_append_eq_of_le, BitVec.extractLsb'_append_eq_of_add_le, BitVec.extractLsb'_eq_self, Nat.sub_self, Nat.reduceSub]
  rfl

theorem RoundTrip.vsari (t d a c) : RoundTrip.Statement (.vsari t d a c) := by
  refine roundTrip_intro rfl rfl ((decodeSlot_class4 _ _ rfl).trans ?_)
  change decodeClass4 23 _ = _
  simp (disch := decide) only [decodeClass4, of_encVI, ofBool_beq_one, BitVec.extractLsb'_append_eq_of_le, BitVec.extractLsb'_append_eq_of_add_le, BitVec.extractLsb'_eq_self, Nat.sub_self, Nat.reduceSub]
  rfl

theorem RoundTrip.cvt (d a dty sty rm defer ov) : RoundTrip.Statement (.cvt d a dty sty rm defer ov) := by
  refine roundTrip_intro rfl rfl ((decodeSlot_class4 _ _ rfl).trans ?_)
  change decodeClass4 24 _ = _
  simp (disch := decide) only [decodeClass4, of_encVC, ofBool_beq_one, BitVec.extractLsb'_append_eq_of_le, BitVec.extractLsb'_append_eq_of_add_le, BitVec.extractLsb'_eq_self, Nat.sub_self, Nat.reduceSub]

theorem RoundTrip.mxpack (d a et bf rm defer ov) : RoundTrip.Statement (.mxpack d a et bf rm defer ov) := by
  refine roundTrip_intro rfl rfl ((decodeSlot_class4 _ _ rfl).trans ?_)
  change decodeClass4 25 _ = _
  simp (disch := decide) only [decodeClass4, of_encVC, ofBool_beq_one, BitVec.extractLsb'_append_eq_of_le, BitVec.extractLsb'_append_eq_of_add_le, BitVec.extractLsb'_eq_self, Nat.sub_self, Nat.reduceSub]
  rfl

theorem RoundTrip.mxunpack (d a et bf rm defer) : RoundTrip.Statement (.mxunpack d a et bf rm defer) := by
  refine roundTrip_intro rfl rfl ((decodeSlot_class4 _ _ rfl).trans ?_)
  change decodeClass4 26 _ = _
  simp (disch := decide) only [decodeClass4, of_encVC, ofBool_beq_one, BitVec.extractLsb'_append_eq_of_le, BitVec.extractLsb'_append_eq_of_add_le, BitVec.extractLsb'_eq_self, Nat.sub_self, Nat.reduceSub]
  rfl

theorem RoundTrip.b16pack (d a rm defer) : RoundTrip.Statement (.b16pack d a rm defer) := by
  refine roundTrip_intro rfl rfl ((decodeSlot_class4 _ _ rfl).trans ?_)
  change decodeClass4 27 _ = _
  simp (disch := decide) only [decodeClass4, of_encVC, ofBool_beq_one, BitVec.extractLsb'_append_eq_of_le, BitVec.extractLsb'_append_eq_of_add_le, BitVec.extractLsb'_eq_self, Nat.sub_self, Nat.reduceSub]
  rfl

theorem RoundTrip.fradd (pg t d a) : RoundTrip.Statement (.fradd pg t d a) := by
  refine roundTrip_intro rfl rfl ((decodeSlot_class4 _ _ rfl).trans ?_)
  change decodeClass4 28 _ = _
  simp (disch := decide) only [decodeClass4, of_encV3, ofBool_beq_one, BitVec.extractLsb'_append_eq_of_le, BitVec.extractLsb'_append_eq_of_add_le, BitVec.extractLsb'_eq_self, Nat.sub_self, Nat.reduceSub]
  rfl

theorem RoundTrip.frmin (pg t d a) : RoundTrip.Statement (.frmin pg t d a) := by
  refine roundTrip_intro rfl rfl ((decodeSlot_class4 _ _ rfl).trans ?_)
  change decodeClass4 29 _ = _
  simp (disch := decide) only [decodeClass4, of_encV3, ofBool_beq_one, BitVec.extractLsb'_append_eq_of_le, BitVec.extractLsb'_append_eq_of_add_le, BitVec.extractLsb'_eq_self, Nat.sub_self, Nat.reduceSub]
  rfl

theorem RoundTrip.frmax (pg t d a) : RoundTrip.Statement (.frmax pg t d a) := by
  refine roundTrip_intro rfl rfl ((decodeSlot_class4 _ _ rfl).trans ?_)
  change decodeClass4 30 _ = _
  simp (disch := decide) only [decodeClass4, of_encV3, ofBool_beq_one, BitVec.extractLsb'_append_eq_of_le, BitVec.extractLsb'_append_eq_of_add_le, BitVec.extractLsb'_eq_self, Nat.sub_self, Nat.reduceSub]
  rfl

theorem RoundTrip.sfEval (pg t d a k) : RoundTrip.Statement (.sfEval pg t d a k) := by
  refine roundTrip_intro rfl rfl ((decodeSlot_class5 _ _ rfl).trans ?_)
  change decodeClass5 0 _ = _
  simp (disch := decide) only [decodeClass5, of_encV3, ofBool_beq_one, BitVec.extractLsb'_append_eq_of_le, BitVec.extractLsb'_append_eq_of_add_le, BitVec.extractLsb'_eq_self, Nat.sub_self, Nat.reduceSub]
  rfl

theorem RoundTrip.sfEvalx (pg t d a pr k) : RoundTrip.Statement (.sfEvalx pg t d a pr k) := by
  refine roundTrip_intro rfl rfl ((decodeSlot_class5 _ _ rfl).trans ?_)
  change decodeClass5 1 _ = _
  simp (disch := decide) only [decodeClass5, of_encV3, ofBool_beq_one, BitVec.extractLsb'_append_eq_of_le, BitVec.extractLsb'_append_eq_of_add_le, BitVec.extractLsb'_eq_self, Nat.sub_self, Nat.reduceSub]

theorem RoundTrip.sftLoad (g d a b) : RoundTrip.Statement (.sftLoad g d a b) := by
  refine roundTrip_intro rfl rfl ((decodeSlot_class5 _ _ rfl).trans ?_)
  change decodeClass5 2 _ = _
  simp (disch := decide) only [decodeClass5, of_encS3, FormS3.guard, ofBool_beq_one, BitVec.extractLsb'_append_eq_of_le, BitVec.extractLsb'_append_eq_of_add_le, BitVec.extractLsb'_eq_self, Nat.sub_self, Nat.reduceSub]
  rfl

theorem RoundTrip.sftBind (g d a k) : RoundTrip.Statement (.sftBind g d a k) := by
  refine roundTrip_intro rfl rfl ((decodeSlot_class5 _ _ rfl).trans ?_)
  change decodeClass5 3 _ = _
  simp (disch := decide) only [decodeClass5, of_encS3, FormS3.guard, ofBool_beq_one, BitVec.extractLsb'_append_eq_of_le, BitVec.extractLsb'_append_eq_of_add_le, BitVec.extractLsb'_eq_self, Nat.sub_self, Nat.reduceSub]
  rfl

theorem RoundTrip.sftBindOff (g d k) : RoundTrip.Statement (.sftBindOff g d k) := by
  refine roundTrip_intro rfl rfl ((decodeSlot_class5 _ _ rfl).trans ?_)
  change decodeClass5 3 _ = _
  simp (disch := decide) only [decodeClass5, of_encS3, FormS3.guard, ofBool_beq_one, BitVec.extractLsb'_append_eq_of_le, BitVec.extractLsb'_append_eq_of_add_le, BitVec.extractLsb'_eq_self, Nat.sub_self, Nat.reduceSub]
  rfl

theorem RoundTrip.sftInfo (g d k w) : RoundTrip.Statement (.sftInfo g d k w) := by
  refine roundTrip_intro rfl rfl ((decodeSlot_class5 _ _ rfl).trans ?_)
  change decodeClass5 4 _ = _
  simp (disch := decide) only [decodeClass5, of_encS3, FormS3.guard, ofBool_beq_one, BitVec.extractLsb'_append_eq_of_le, BitVec.extractLsb'_append_eq_of_add_le, BitVec.extractLsb'_eq_self, Nat.sub_self, Nat.reduceSub]
  rfl

theorem RoundTrip.sftChk (g d a) : RoundTrip.Statement (.sftChk g d a) := by
  refine roundTrip_intro rfl rfl ((decodeSlot_class5 _ _ rfl).trans ?_)
  change decodeClass5 5 _ = _
  simp (disch := decide) only [decodeClass5, of_encS3, FormS3.guard, ofBool_beq_one, BitVec.extractLsb'_append_eq_of_le, BitVec.extractLsb'_append_eq_of_add_le, BitVec.extractLsb'_eq_self, Nat.sub_self, Nat.reduceSub]
  rfl

theorem RoundTrip.ld (g w sp d b off) : RoundTrip.Statement (.ld g w sp d b off) := by
  refine roundTrip_intro rfl rfl ((decodeSlot_class6 _ _ rfl).trans ?_)
  change decodeClass6 0 _ = _
  simp (disch := decide) only [decodeClass6, of_encMI, FormMI.guard, ofBool_beq_one, BitVec.extractLsb'_append_eq_of_le, BitVec.extractLsb'_append_eq_of_add_le, BitVec.extractLsb'_eq_self, Nat.sub_self, Nat.reduceSub]

theorem RoundTrip.st (g w sp d b off) : RoundTrip.Statement (.st g w sp d b off) := by
  refine roundTrip_intro rfl rfl ((decodeSlot_class6 _ _ rfl).trans ?_)
  change decodeClass6 1 _ = _
  simp (disch := decide) only [decodeClass6, of_encMI, FormMI.guard, ofBool_beq_one, BitVec.extractLsb'_append_eq_of_le, BitVec.extractLsb'_append_eq_of_add_le, BitVec.extractLsb'_eq_self, Nat.sub_self, Nat.reduceSub]

theorem RoundTrip.vld (g sp d b off) : RoundTrip.Statement (.vld g sp d b off) := by
  refine roundTrip_intro rfl rfl ((decodeSlot_class6 _ _ rfl).trans ?_)
  change decodeClass6 2 _ = _
  simp (disch := decide) only [decodeClass6, of_encMI, FormMI.guard, ofBool_beq_one, BitVec.extractLsb'_append_eq_of_le, BitVec.extractLsb'_append_eq_of_add_le, BitVec.extractLsb'_eq_self, Nat.sub_self, Nat.reduceSub]
  rfl

theorem RoundTrip.vst (g sp d b off) : RoundTrip.Statement (.vst g sp d b off) := by
  refine roundTrip_intro rfl rfl ((decodeSlot_class6 _ _ rfl).trans ?_)
  change decodeClass6 3 _ = _
  simp (disch := decide) only [decodeClass6, of_encMI, FormMI.guard, ofBool_beq_one, BitVec.extractLsb'_append_eq_of_le, BitVec.extractLsb'_append_eq_of_add_le, BitVec.extractLsb'_eq_self, Nat.sub_self, Nat.reduceSub]
  rfl

theorem RoundTrip.vlds (g w sp d b c) : RoundTrip.Statement (.vlds g w sp d b c) := by
  refine roundTrip_intro rfl rfl ((decodeSlot_class6 _ _ rfl).trans ?_)
  change decodeClass6 4 _ = _
  simp (disch := decide) only [decodeClass6, of_encMR, FormMR.guard, ofBool_beq_one, BitVec.extractLsb'_append_eq_of_le, BitVec.extractLsb'_append_eq_of_add_le, BitVec.extractLsb'_eq_self, Nat.sub_self, Nat.reduceSub]
  rfl

theorem RoundTrip.vgather (g w sp d b c) : RoundTrip.Statement (.vgather g w sp d b c) := by
  refine roundTrip_intro rfl rfl ((decodeSlot_class6 _ _ rfl).trans ?_)
  change decodeClass6 5 _ = _
  simp (disch := decide) only [decodeClass6, of_encMR, FormMR.guard, ofBool_beq_one, BitVec.extractLsb'_append_eq_of_le, BitVec.extractLsb'_append_eq_of_add_le, BitVec.extractLsb'_eq_self, Nat.sub_self, Nat.reduceSub]
  rfl

theorem RoundTrip.vscatter (g w sp d b c) : RoundTrip.Statement (.vscatter g w sp d b c) := by
  refine roundTrip_intro rfl rfl ((decodeSlot_class6 _ _ rfl).trans ?_)
  change decodeClass6 6 _ = _
  simp (disch := decide) only [decodeClass6, of_encMR, FormMR.guard, ofBool_beq_one, BitVec.extractLsb'_append_eq_of_le, BitVec.extractLsb'_append_eq_of_add_le, BitVec.extractLsb'_eq_self, Nat.sub_self, Nat.reduceSub]
  rfl

theorem RoundTrip.gld (g w d b off) : RoundTrip.Statement (.gld g w d b off) := by
  refine roundTrip_intro rfl rfl ((decodeSlot_class6 _ _ rfl).trans ?_)
  change decodeClass6 7 _ = _
  simp (disch := decide) only [decodeClass6, of_encMI, FormMI.guard, ofBool_beq_one, BitVec.extractLsb'_append_eq_of_le, BitVec.extractLsb'_append_eq_of_add_le, BitVec.extractLsb'_eq_self, Nat.sub_self, Nat.reduceSub]
  rfl

theorem RoundTrip.gst (g w d b off) : RoundTrip.Statement (.gst g w d b off) := by
  refine roundTrip_intro rfl rfl ((decodeSlot_class6 _ _ rfl).trans ?_)
  change decodeClass6 8 _ = _
  simp (disch := decide) only [decodeClass6, of_encMI, FormMI.guard, ofBool_beq_one, BitVec.extractLsb'_append_eq_of_le, BitVec.extractLsb'_append_eq_of_add_le, BitVec.extractLsb'_eq_self, Nat.sub_self, Nat.reduceSub]
  rfl

theorem RoundTrip.chpop (g d n) : RoundTrip.Statement (.chpop g d n) := by
  refine roundTrip_intro rfl rfl ((decodeSlot_class6 _ _ rfl).trans ?_)
  change decodeClass6 9 _ = _
  simp (disch := decide) only [decodeClass6, of_encMR, FormMR.guard, ofBool_beq_one, BitVec.extractLsb'_append_eq_of_le, BitVec.extractLsb'_append_eq_of_add_le, BitVec.extractLsb'_eq_self, Nat.sub_self, Nat.reduceSub]
  rfl

theorem RoundTrip.chpopDrop (g n) : RoundTrip.Statement (.chpopDrop g n) := by
  refine roundTrip_intro rfl rfl ((decodeSlot_class6 _ _ rfl).trans ?_)
  change decodeClass6 9 _ = _
  simp (disch := decide) only [decodeClass6, of_encMR, FormMR.guard, ofBool_beq_one, BitVec.extractLsb'_append_eq_of_le, BitVec.extractLsb'_append_eq_of_add_le, BitVec.extractLsb'_eq_self, Nat.sub_self, Nat.reduceSub]
  rfl

theorem RoundTrip.chpush (g n d) : RoundTrip.Statement (.chpush g n d) := by
  refine roundTrip_intro rfl rfl ((decodeSlot_class6 _ _ rfl).trans ?_)
  change decodeClass6 10 _ = _
  simp (disch := decide) only [decodeClass6, of_encMR, FormMR.guard, ofBool_beq_one, BitVec.extractLsb'_append_eq_of_le, BitVec.extractLsb'_append_eq_of_add_le, BitVec.extractLsb'_eq_self, Nat.sub_self, Nat.reduceSub]
  rfl

theorem RoundTrip.chpushAb (g n b) : RoundTrip.Statement (.chpushAb g n b) := by
  refine roundTrip_intro rfl rfl ((decodeSlot_class6 _ _ rfl).trans ?_)
  change decodeClass6 10 _ = _
  simp (disch := decide) only [decodeClass6, of_encMR, FormMR.guard, ofBool_beq_one, BitVec.extractLsb'_append_eq_of_le, BitVec.extractLsb'_append_eq_of_add_le, BitVec.extractLsb'_eq_self, Nat.sub_self, Nat.reduceSub]
  simp

theorem RoundTrip.chpushSp (g n b) : RoundTrip.Statement (.chpushSp g n b) := by
  refine roundTrip_intro rfl rfl ((decodeSlot_class6 _ _ rfl).trans ?_)
  change decodeClass6 10 _ = _
  simp (disch := decide) only [decodeClass6, of_encMR, FormMR.guard, ofBool_beq_one, BitVec.extractLsb'_append_eq_of_le, BitVec.extractLsb'_append_eq_of_add_le, BitVec.extractLsb'_eq_self, Nat.sub_self, Nat.reduceSub]
  simp

theorem RoundTrip.chpeek (g d n b) : RoundTrip.Statement (.chpeek g d n b) := by
  refine roundTrip_intro rfl rfl ((decodeSlot_class6 _ _ rfl).trans ?_)
  change decodeClass6 11 _ = _
  simp (disch := decide) only [decodeClass6, of_encMR, FormMR.guard, ofBool_beq_one, BitVec.extractLsb'_append_eq_of_le, BitVec.extractLsb'_append_eq_of_add_le, BitVec.extractLsb'_eq_self, Nat.sub_self, Nat.reduceSub]
  rfl

theorem RoundTrip.chstat (g d n) : RoundTrip.Statement (.chstat g d n) := by
  refine roundTrip_intro rfl rfl ((decodeSlot_class6 _ _ rfl).trans ?_)
  change decodeClass6 12 _ = _
  simp (disch := decide) only [decodeClass6, of_encMR, FormMR.guard, ofBool_beq_one, BitVec.extractLsb'_append_eq_of_le, BitVec.extractLsb'_append_eq_of_add_le, BitVec.extractLsb'_eq_self, Nat.sub_self, Nat.reduceSub]
  rfl

theorem RoundTrip.ldAcq (g w sp gl d b off) : RoundTrip.Statement (.ldAcq g w sp gl d b off) := by
  refine roundTrip_intro rfl rfl ((decodeSlot_class6 _ _ rfl).trans ?_)
  change decodeClass6 13 _ = _
  simp (disch := decide) only [decodeClass6, of_encMI, FormMI.guard, ofBool_beq_one, BitVec.extractLsb'_append_eq_of_le, BitVec.extractLsb'_append_eq_of_add_le, BitVec.extractLsb'_eq_self, Nat.sub_self, Nat.reduceSub]
  rfl

theorem RoundTrip.stRel (g w sp gl scope d b off) : RoundTrip.Statement (.stRel g w sp gl scope d b off) := by
  refine roundTrip_intro rfl rfl ((decodeSlot_class6 _ _ rfl).trans ?_)
  change decodeClass6 14 _ = _
  simp (disch := decide) only [decodeClass6, of_encMI, FormMI.guard, ofBool_beq_one, BitVec.extractLsb'_append_eq_of_le, BitVec.extractLsb'_append_eq_of_add_le, BitVec.extractLsb'_eq_self, Nat.sub_self, Nat.reduceSub]

theorem RoundTrip.aadd (g ord sp dw d b c) : RoundTrip.Statement (.aadd g ord sp dw d b c) := by
  refine roundTrip_intro rfl rfl ((decodeSlot_class6 _ _ rfl).trans ?_)
  change decodeClass6 15 _ = _
  simp (disch := decide) only [decodeClass6, of_encMR, FormMR.guard, ofBool_beq_one, BitVec.extractLsb'_append_eq_of_le, BitVec.extractLsb'_append_eq_of_add_le, BitVec.extractLsb'_eq_self, Nat.sub_self, Nat.reduceSub]

theorem RoundTrip.aand (g ord sp dw d b c) : RoundTrip.Statement (.aand g ord sp dw d b c) := by
  refine roundTrip_intro rfl rfl ((decodeSlot_class6 _ _ rfl).trans ?_)
  change decodeClass6 16 _ = _
  simp (disch := decide) only [decodeClass6, of_encMR, FormMR.guard, ofBool_beq_one, BitVec.extractLsb'_append_eq_of_le, BitVec.extractLsb'_append_eq_of_add_le, BitVec.extractLsb'_eq_self, Nat.sub_self, Nat.reduceSub]

theorem RoundTrip.aor (g ord sp dw d b c) : RoundTrip.Statement (.aor g ord sp dw d b c) := by
  refine roundTrip_intro rfl rfl ((decodeSlot_class6 _ _ rfl).trans ?_)
  change decodeClass6 17 _ = _
  simp (disch := decide) only [decodeClass6, of_encMR, FormMR.guard, ofBool_beq_one, BitVec.extractLsb'_append_eq_of_le, BitVec.extractLsb'_append_eq_of_add_le, BitVec.extractLsb'_eq_self, Nat.sub_self, Nat.reduceSub]

theorem RoundTrip.axor (g ord sp dw d b c) : RoundTrip.Statement (.axor g ord sp dw d b c) := by
  refine roundTrip_intro rfl rfl ((decodeSlot_class6 _ _ rfl).trans ?_)
  change decodeClass6 18 _ = _
  simp (disch := decide) only [decodeClass6, of_encMR, FormMR.guard, ofBool_beq_one, BitVec.extractLsb'_append_eq_of_le, BitVec.extractLsb'_append_eq_of_add_le, BitVec.extractLsb'_eq_self, Nat.sub_self, Nat.reduceSub]

theorem RoundTrip.amin (g ord sp dw d b c) : RoundTrip.Statement (.amin g ord sp dw d b c) := by
  refine roundTrip_intro rfl rfl ((decodeSlot_class6 _ _ rfl).trans ?_)
  change decodeClass6 19 _ = _
  simp (disch := decide) only [decodeClass6, of_encMR, FormMR.guard, ofBool_beq_one, BitVec.extractLsb'_append_eq_of_le, BitVec.extractLsb'_append_eq_of_add_le, BitVec.extractLsb'_eq_self, Nat.sub_self, Nat.reduceSub]

theorem RoundTrip.amax (g ord sp dw d b c) : RoundTrip.Statement (.amax g ord sp dw d b c) := by
  refine roundTrip_intro rfl rfl ((decodeSlot_class6 _ _ rfl).trans ?_)
  change decodeClass6 20 _ = _
  simp (disch := decide) only [decodeClass6, of_encMR, FormMR.guard, ofBool_beq_one, BitVec.extractLsb'_append_eq_of_le, BitVec.extractLsb'_append_eq_of_add_le, BitVec.extractLsb'_eq_self, Nat.sub_self, Nat.reduceSub]

theorem RoundTrip.axch (g ord sp dw d b c) : RoundTrip.Statement (.axch g ord sp dw d b c) := by
  refine roundTrip_intro rfl rfl ((decodeSlot_class6 _ _ rfl).trans ?_)
  change decodeClass6 21 _ = _
  simp (disch := decide) only [decodeClass6, of_encMR, FormMR.guard, ofBool_beq_one, BitVec.extractLsb'_append_eq_of_le, BitVec.extractLsb'_append_eq_of_add_le, BitVec.extractLsb'_eq_self, Nat.sub_self, Nat.reduceSub]

theorem RoundTrip.acas (g ord sp dw d b c) : RoundTrip.Statement (.acas g ord sp dw d b c) := by
  refine roundTrip_intro rfl rfl ((decodeSlot_class6 _ _ rfl).trans ?_)
  change decodeClass6 22 _ = _
  simp (disch := decide) only [decodeClass6, of_encMR, FormMR.guard, ofBool_beq_one, BitVec.extractLsb'_append_eq_of_le, BitVec.extractLsb'_append_eq_of_add_le, BitVec.extractLsb'_eq_self, Nat.sub_self, Nat.reduceSub]

theorem RoundTrip.adecp (g ord sp dw d b) : RoundTrip.Statement (.adecp g ord sp dw d b) := by
  refine roundTrip_intro rfl rfl ((decodeSlot_class6 _ _ rfl).trans ?_)
  change decodeClass6 23 _ = _
  simp (disch := decide) only [decodeClass6, of_encMR, FormMR.guard, ofBool_beq_one, BitVec.extractLsb'_append_eq_of_le, BitVec.extractLsb'_append_eq_of_add_le, BitVec.extractLsb'_eq_self, Nat.sub_self, Nat.reduceSub]
  rfl

theorem RoundTrip.amxacc (g ord et d b c) : RoundTrip.Statement (.amxacc g ord et d b c) := by
  refine roundTrip_intro rfl rfl ((decodeSlot_class6 _ _ rfl).trans ?_)
  change decodeClass6 24 _ = _
  simp (disch := decide) only [decodeClass6, of_encMR, FormMR.guard, ofBool_beq_one, BitVec.extractLsb'_append_eq_of_le, BitVec.extractLsb'_append_eq_of_add_le, BitVec.extractLsb'_eq_self, Nat.sub_self, Nat.reduceSub]

theorem RoundTrip.fence (g scope d) : RoundTrip.Statement (.fence g scope d) := by
  refine roundTrip_intro rfl rfl ((decodeSlot_class6 _ _ rfl).trans ?_)
  change decodeClass6 25 _ = _
  simp (disch := decide) only [decodeClass6, of_encMR, FormMR.guard, ofBool_beq_one, BitVec.extractLsb'_append_eq_of_le, BitVec.extractLsb'_append_eq_of_add_le, BitVec.extractLsb'_eq_self, Nat.sub_self, Nat.reduceSub]
  rfl

theorem RoundTrip.waitv (g dw d b c) : RoundTrip.Statement (.waitv g dw d b c) := by
  refine roundTrip_intro rfl rfl ((decodeSlot_class6 _ _ rfl).trans ?_)
  change decodeClass6 26 _ = _
  simp (disch := decide) only [decodeClass6, of_encMR, FormMR.guard, ofBool_beq_one, BitVec.extractLsb'_append_eq_of_le, BitVec.extractLsb'_append_eq_of_add_le, BitVec.extractLsb'_eq_self, Nat.sub_self, Nat.reduceSub]
  rfl

theorem RoundTrip.notify (g all d b) : RoundTrip.Statement (.notify g all d b) := by
  refine roundTrip_intro rfl rfl ((decodeSlot_class6 _ _ rfl).trans ?_)
  change decodeClass6 27 _ = _
  simp (disch := decide) only [decodeClass6, of_encMR, FormMR.guard, ofBool_beq_one, BitVec.extractLsb'_append_eq_of_le, BitVec.extractLsb'_append_eq_of_add_le, BitVec.extractLsb'_eq_self, Nat.sub_self, Nat.reduceSub]
  rfl

theorem RoundTrip.synAdd (g d b c) : RoundTrip.Statement (.synAdd g d b c) := by
  refine roundTrip_intro rfl rfl ((decodeSlot_class6 _ _ rfl).trans ?_)
  change decodeClass6 28 _ = _
  simp (disch := decide) only [decodeClass6, of_encMR, FormMR.guard, ofBool_beq_one, BitVec.extractLsb'_append_eq_of_le, BitVec.extractLsb'_append_eq_of_add_le, BitVec.extractLsb'_eq_self, Nat.sub_self, Nat.reduceSub]
  simp

theorem RoundTrip.synWait (g d b c) : RoundTrip.Statement (.synWait g d b c) := by
  refine roundTrip_intro rfl rfl ((decodeSlot_class6 _ _ rfl).trans ?_)
  change decodeClass6 29 _ = _
  simp (disch := decide) only [decodeClass6, of_encMR, FormMR.guard, ofBool_beq_one, BitVec.extractLsb'_append_eq_of_le, BitVec.extractLsb'_append_eq_of_add_le, BitVec.extractLsb'_eq_self, Nat.sub_self, Nat.reduceSub]
  simp

theorem RoundTrip.synGet (g d b) : RoundTrip.Statement (.synGet g d b) := by
  refine roundTrip_intro rfl rfl ((decodeSlot_class6 _ _ rfl).trans ?_)
  change decodeClass6 30 _ = _
  simp (disch := decide) only [decodeClass6, of_encMR, FormMR.guard, ofBool_beq_one, BitVec.extractLsb'_append_eq_of_le, BitVec.extractLsb'_append_eq_of_add_le, BitVec.extractLsb'_eq_self, Nat.sub_self, Nat.reduceSub]
  simp

theorem RoundTrip.bar (g grp d) : RoundTrip.Statement (.bar g grp d) := by
  refine roundTrip_intro rfl rfl ((decodeSlot_class6 _ _ rfl).trans ?_)
  change decodeClass6 31 _ = _
  simp (disch := decide) only [decodeClass6, of_encMR, FormMR.guard, ofBool_beq_one, BitVec.extractLsb'_append_eq_of_le, BitVec.extractLsb'_append_eq_of_add_le, BitVec.extractLsb'_eq_self, Nat.sub_self, Nat.reduceSub]
  simp

theorem RoundTrip.copy (g acq rel a b d) : RoundTrip.Statement (.copy g acq rel a b d) := by
  refine roundTrip_intro rfl rfl ((decodeSlot_class7 _ _ rfl).trans ?_)
  change decodeClass7 0 _ = _
  simp (disch := decide) only [decodeClass7, of_encE, FormE.guard, ofBool_beq_one, BitVec.extractLsb'_append_eq_of_le, BitVec.extractLsb'_append_eq_of_add_le, BitVec.extractLsb'_eq_self, Nat.sub_self, Nat.reduceSub]
  simp

theorem RoundTrip.copyw (g acq rel a b d) : RoundTrip.Statement (.copyw g acq rel a b d) := by
  refine roundTrip_intro rfl rfl ((decodeSlot_class7 _ _ rfl).trans ?_)
  change decodeClass7 1 _ = _
  simp (disch := decide) only [decodeClass7, of_encE, FormE.guard, ofBool_beq_one, BitVec.extractLsb'_append_eq_of_le, BitVec.extractLsb'_append_eq_of_add_le, BitVec.extractLsb'_eq_self, Nat.sub_self, Nat.reduceSub]
  simp

theorem RoundTrip.ladRun (g j a b d) : RoundTrip.Statement (.ladRun g j a b d) := by
  refine roundTrip_intro rfl rfl ((decodeSlot_class7 _ _ rfl).trans ?_)
  change decodeClass7 2 _ = _
  simp (disch := decide) only [decodeClass7, of_encE, FormE.guard, ofBool_beq_one, BitVec.extractLsb'_append_eq_of_le, BitVec.extractLsb'_append_eq_of_add_le, BitVec.extractLsb'_eq_self, Nat.sub_self, Nat.reduceSub]
  simp

theorem RoundTrip.ladStop (g j) : RoundTrip.Statement (.ladStop g j) := by
  refine roundTrip_intro rfl rfl ((decodeSlot_class7 _ _ rfl).trans ?_)
  change decodeClass7 3 _ = _
  simp (disch := decide) only [decodeClass7, of_encE, FormE.guard, ofBool_beq_one, BitVec.extractLsb'_append_eq_of_le, BitVec.extractLsb'_append_eq_of_add_le, BitVec.extractLsb'_eq_self, Nat.sub_self, Nat.reduceSub]
  simp

theorem RoundTrip.ladStat (g d j) : RoundTrip.Statement (.ladStat g d j) := by
  refine roundTrip_intro rfl rfl ((decodeSlot_class7 _ _ rfl).trans ?_)
  change decodeClass7 4 _ = _
  simp (disch := decide) only [decodeClass7, of_encE, FormE.guard, ofBool_beq_one, BitVec.extractLsb'_append_eq_of_le, BitVec.extractLsb'_append_eq_of_add_le, BitVec.extractLsb'_eq_self, Nat.sub_self, Nat.reduceSub]
  simp

theorem RoundTrip.pref (g acq a b) : RoundTrip.Statement (.pref g acq a b) := by
  refine roundTrip_intro rfl rfl ((decodeSlot_class7 _ _ rfl).trans ?_)
  change decodeClass7 5 _ = _
  simp (disch := decide) only [decodeClass7, of_encE, FormE.guard, ofBool_beq_one, BitVec.extractLsb'_append_eq_of_le, BitVec.extractLsb'_append_eq_of_add_le, BitVec.extractLsb'_eq_self, Nat.sub_self, Nat.reduceSub]
  simp

theorem RoundTrip.rowcpy (g acq rel a b d) : RoundTrip.Statement (.rowcpy g acq rel a b d) := by
  refine roundTrip_intro rfl rfl ((decodeSlot_class7 _ _ rfl).trans ?_)
  change decodeClass7 6 _ = _
  simp (disch := decide) only [decodeClass7, of_encE, FormE.guard, ofBool_beq_one, BitVec.extractLsb'_append_eq_of_le, BitVec.extractLsb'_append_eq_of_add_le, BitVec.extractLsb'_eq_self, Nat.sub_self, Nat.reduceSub]
  simp

theorem RoundTrip.rowinit (g acq rel a b d) : RoundTrip.Statement (.rowinit g acq rel a b d) := by
  refine roundTrip_intro rfl rfl ((decodeSlot_class7 _ _ rfl).trans ?_)
  change decodeClass7 7 _ = _
  simp (disch := decide) only [decodeClass7, of_encE, FormE.guard, ofBool_beq_one, BitVec.extractLsb'_append_eq_of_le, BitVec.extractLsb'_append_eq_of_add_le, BitVec.extractLsb'_eq_self, Nat.sub_self, Nat.reduceSub]
  simp

theorem RoundTrip.grdLease (g) : RoundTrip.Statement (.grdLease g) := by
  refine roundTrip_intro rfl rfl ((decodeSlot_class7 _ _ rfl).trans ?_)
  change decodeClass7 8 _ = _
  simp (disch := decide) only [decodeClass7, of_encE, FormE.guard, ofBool_beq_one, BitVec.extractLsb'_append_eq_of_le, BitVec.extractLsb'_append_eq_of_add_le, BitVec.extractLsb'_eq_self, Nat.sub_self, Nat.reduceSub]
  simp

theorem RoundTrip.grdFree (g) : RoundTrip.Statement (.grdFree g) := by
  refine roundTrip_intro rfl rfl ((decodeSlot_class7 _ _ rfl).trans ?_)
  change decodeClass7 9 _ = _
  simp (disch := decide) only [decodeClass7, of_encE, FormE.guard, ofBool_beq_one, BitVec.extractLsb'_append_eq_of_le, BitVec.extractLsb'_append_eq_of_add_le, BitVec.extractLsb'_eq_self, Nat.sub_self, Nat.reduceSub]
  simp

theorem RoundTrip.grdWload (g a) : RoundTrip.Statement (.grdWload g a) := by
  refine roundTrip_intro rfl rfl ((decodeSlot_class7 _ _ rfl).trans ?_)
  change decodeClass7 10 _ = _
  simp (disch := decide) only [decodeClass7, of_encE, FormE.guard, ofBool_beq_one, BitVec.extractLsb'_append_eq_of_le, BitVec.extractLsb'_append_eq_of_add_le, BitVec.extractLsb'_eq_self, Nat.sub_self, Nat.reduceSub]
  simp

theorem RoundTrip.grdScl (g a) : RoundTrip.Statement (.grdScl g a) := by
  refine roundTrip_intro rfl rfl ((decodeSlot_class7 _ _ rfl).trans ?_)
  change decodeClass7 11 _ = _
  simp (disch := decide) only [decodeClass7, of_encE, FormE.guard, ofBool_beq_one, BitVec.extractLsb'_append_eq_of_le, BitVec.extractLsb'_append_eq_of_add_le, BitVec.extractLsb'_eq_self, Nat.sub_self, Nat.reduceSub]
  simp

theorem RoundTrip.grdSclAll (g b) : RoundTrip.Statement (.grdSclAll g b) := by
  refine roundTrip_intro rfl rfl ((decodeSlot_class7 _ _ rfl).trans ?_)
  change decodeClass7 11 _ = _
  simp (disch := decide) only [decodeClass7, of_encE, FormE.guard, ofBool_beq_one, BitVec.extractLsb'_append_eq_of_le, BitVec.extractLsb'_append_eq_of_add_le, BitVec.extractLsb'_eq_self, Nat.sub_self, Nat.reduceSub]
  simp

theorem RoundTrip.grdMul (g acq rel a b d) : RoundTrip.Statement (.grdMul g acq rel a b d) := by
  refine roundTrip_intro rfl rfl ((decodeSlot_class7 _ _ rfl).trans ?_)
  change decodeClass7 12 _ = _
  simp (disch := decide) only [decodeClass7, of_encE, FormE.guard, ofBool_beq_one, BitVec.extractLsb'_append_eq_of_le, BitVec.extractLsb'_append_eq_of_add_le, BitVec.extractLsb'_eq_self, Nat.sub_self, Nat.reduceSub]
  simp

theorem RoundTrip.grdZero (g d) : RoundTrip.Statement (.grdZero g d) := by
  refine roundTrip_intro rfl rfl ((decodeSlot_class7 _ _ rfl).trans ?_)
  change decodeClass7 13 _ = _
  simp (disch := decide) only [decodeClass7, of_encE, FormE.guard, ofBool_beq_one, BitVec.extractLsb'_append_eq_of_le, BitVec.extractLsb'_append_eq_of_add_le, BitVec.extractLsb'_eq_self, Nat.sub_self, Nat.reduceSub]
  simp

theorem RoundTrip.grdDrain (g acq rel a d) : RoundTrip.Statement (.grdDrain g acq rel a d) := by
  refine roundTrip_intro rfl rfl ((decodeSlot_class7 _ _ rfl).trans ?_)
  change decodeClass7 14 _ = _
  simp (disch := decide) only [decodeClass7, of_encE, FormE.guard, ofBool_beq_one, BitVec.extractLsb'_append_eq_of_le, BitVec.extractLsb'_append_eq_of_add_le, BitVec.extractLsb'_eq_self, Nat.sub_self, Nat.reduceSub]
  simp

theorem RoundTrip.grdChk (g d a) : RoundTrip.Statement (.grdChk g d a) := by
  refine roundTrip_intro rfl rfl ((decodeSlot_class7 _ _ rfl).trans ?_)
  change decodeClass7 15 _ = _
  simp (disch := decide) only [decodeClass7, of_encE, FormE.guard, ofBool_beq_one, BitVec.extractLsb'_append_eq_of_le, BitVec.extractLsb'_append_eq_of_add_le, BitVec.extractLsb'_eq_self, Nat.sub_self, Nat.reduceSub]
  simp

theorem RoundTrip.grdSave (g acq rel a d) : RoundTrip.Statement (.grdSave g acq rel a d) := by
  refine roundTrip_intro rfl rfl ((decodeSlot_class7 _ _ rfl).trans ?_)
  change decodeClass7 16 _ = _
  simp (disch := decide) only [decodeClass7, of_encE, FormE.guard, ofBool_beq_one, BitVec.extractLsb'_append_eq_of_le, BitVec.extractLsb'_append_eq_of_add_le, BitVec.extractLsb'_eq_self, Nat.sub_self, Nat.reduceSub]
  simp

theorem RoundTrip.grdRest (g acq rel a d) : RoundTrip.Statement (.grdRest g acq rel a d) := by
  refine roundTrip_intro rfl rfl ((decodeSlot_class7 _ _ rfl).trans ?_)
  change decodeClass7 17 _ = _
  simp (disch := decide) only [decodeClass7, of_encE, FormE.guard, ofBool_beq_one, BitVec.extractLsb'_append_eq_of_le, BitVec.extractLsb'_append_eq_of_add_le, BitVec.extractLsb'_eq_self, Nat.sub_self, Nat.reduceSub]
  simp

theorem RoundTrip.grdStat (g clr d a) : RoundTrip.Statement (.grdStat g clr d a) := by
  refine roundTrip_intro rfl rfl ((decodeSlot_class7 _ _ rfl).trans ?_)
  change decodeClass7 18 _ = _
  simp (disch := decide) only [decodeClass7, of_encE, FormE.guard, ofBool_beq_one, BitVec.extractLsb'_append_eq_of_le, BitVec.extractLsb'_append_eq_of_add_le, BitVec.extractLsb'_eq_self, Nat.sub_self, Nat.reduceSub]
  simp

theorem RoundTrip.send (g w rel a b d) : RoundTrip.Statement (.send g w rel a b d) := by
  refine roundTrip_intro rfl rfl ((decodeSlot_class7 _ _ rfl).trans ?_)
  change decodeClass7 19 _ = _
  simp (disch := decide) only [decodeClass7, of_encE, FormE.guard, ofBool_beq_one, BitVec.extractLsb'_append_eq_of_le, BitVec.extractLsb'_append_eq_of_add_le, BitVec.extractLsb'_eq_self, Nat.sub_self, Nat.reduceSub]
  simp

theorem RoundTrip.sendv (g rel a b d) : RoundTrip.Statement (.sendv g rel a b d) := by
  refine roundTrip_intro rfl rfl ((decodeSlot_class7 _ _ rfl).trans ?_)
  change decodeClass7 20 _ = _
  simp (disch := decide) only [decodeClass7, of_encE, FormE.guard, ofBool_beq_one, BitVec.extractLsb'_append_eq_of_le, BitVec.extractLsb'_append_eq_of_add_le, BitVec.extractLsb'_eq_self, Nat.sub_self, Nat.reduceSub]
  simp

theorem RoundTrip.rld (g a d) : RoundTrip.Statement (.rld g a d) := by
  refine roundTrip_intro rfl rfl ((decodeSlot_class7 _ _ rfl).trans ?_)
  change decodeClass7 21 _ = _
  simp (disch := decide) only [decodeClass7, of_encE, FormE.guard, ofBool_beq_one, BitVec.extractLsb'_append_eq_of_le, BitVec.extractLsb'_append_eq_of_add_le, BitVec.extractLsb'_eq_self, Nat.sub_self, Nat.reduceSub]
  simp

theorem RoundTrip.rred (g rel a b d) : RoundTrip.Statement (.rred g rel a b d) := by
  refine roundTrip_intro rfl rfl ((decodeSlot_class7 _ _ rfl).trans ?_)
  change decodeClass7 22 _ = _
  simp (disch := decide) only [decodeClass7, of_encE, FormE.guard, ofBool_beq_one, BitVec.extractLsb'_append_eq_of_le, BitVec.extractLsb'_append_eq_of_add_le, BitVec.extractLsb'_eq_self, Nat.sub_self, Nat.reduceSub]
  simp

theorem RoundTrip.recv (g d n a) : RoundTrip.Statement (.recv g d n a) := by
  refine roundTrip_intro rfl rfl ((decodeSlot_class7 _ _ rfl).trans ?_)
  change decodeClass7 23 _ = _
  simp (disch := decide) only [decodeClass7, of_encE, FormE.guard, ofBool_beq_one, BitVec.extractLsb'_append_eq_of_le, BitVec.extractLsb'_append_eq_of_add_le, BitVec.extractLsb'_eq_self, Nat.sub_self, Nat.reduceSub]
  simp

theorem RoundTrip.mldr (g d a b) : RoundTrip.Statement (.mldr g d a b) := by
  refine roundTrip_intro rfl rfl ((decodeSlot_class7 _ _ rfl).trans ?_)
  change decodeClass7 24 _ = _
  simp (disch := decide) only [decodeClass7, of_encE, FormE.guard, ofBool_beq_one, BitVec.extractLsb'_append_eq_of_le, BitVec.extractLsb'_append_eq_of_add_le, BitVec.extractLsb'_eq_self, Nat.sub_self, Nat.reduceSub]
  simp

theorem RoundTrip.fabStat (g d a) : RoundTrip.Statement (.fabStat g d a) := by
  refine roundTrip_intro rfl rfl ((decodeSlot_class7 _ _ rfl).trans ?_)
  change decodeClass7 25 _ = _
  simp (disch := decide) only [decodeClass7, of_encE, FormE.guard, ofBool_beq_one, BitVec.extractLsb'_append_eq_of_le, BitVec.extractLsb'_append_eq_of_add_le, BitVec.extractLsb'_eq_self, Nat.sub_self, Nat.reduceSub]
  simp

theorem RoundTrip.bundleIssue (x) : RoundTrip.Statement (.bundleIssue x) := roundTrip_none rfl

theorem RoundTrip.issueSlotChange (k) : RoundTrip.Statement (.issueSlotChange k) := roundTrip_none rfl

theorem RoundTrip.quantumExpiry (k) : RoundTrip.Statement (.quantumExpiry k) := roundTrip_none rfl

theorem RoundTrip.elasticResultArrival (id) : RoundTrip.Statement (.elasticResultArrival id) := roundTrip_none rfl

theorem RoundTrip.accessPerformed (id) : RoundTrip.Statement (.accessPerformed id) := roundTrip_none rfl

theorem RoundTrip.ladleRunStart (l) : RoundTrip.Statement (.ladleRunStart l) := roundTrip_none rfl

theorem RoundTrip.ladleBundleIssue (l) : RoundTrip.Statement (.ladleBundleIssue l) := roundTrip_none rfl

theorem RoundTrip.channelElementArrival (id) : RoundTrip.Statement (.channelElementArrival id) := roundTrip_none rfl

theorem RoundTrip.copyComplete (id) : RoundTrip.Statement (.copyComplete id) := roundTrip_none rfl

theorem RoundTrip.rowOperationComplete (id) : RoundTrip.Statement (.rowOperationComplete id) := roundTrip_none rfl

theorem RoundTrip.griddleCommandComplete (o) : RoundTrip.Statement (.griddleCommandComplete o) := roundTrip_none rfl

theorem RoundTrip.leaseGrant (o) : RoundTrip.Statement (.leaseGrant o) := roundTrip_none rfl

theorem RoundTrip.leaseBudgetExpiry (k) : RoundTrip.Statement (.leaseBudgetExpiry k) := roundTrip_none rfl

theorem RoundTrip.kick (q v) : RoundTrip.Statement (.kick q v) := roundTrip_none rfl

theorem RoundTrip.kickStart (q) : RoundTrip.Statement (.kickStart q) := roundTrip_none rfl

theorem RoundTrip.placement (d) : RoundTrip.Statement (.placement d) := roundTrip_none rfl

theorem RoundTrip.agelimExpiry (d cls) : RoundTrip.Statement (.agelimExpiry d cls) := roundTrip_none rfl

theorem RoundTrip.memberExit (x) : RoundTrip.Statement (.memberExit x) := roundTrip_none rfl

theorem RoundTrip.nodeRetire (g) : RoundTrip.Statement (.nodeRetire g) := roundTrip_none rfl

theorem RoundTrip.replayComplete (q) : RoundTrip.Statement (.replayComplete q) := roundTrip_none rfl

theorem RoundTrip.qgraphWrite (q v) : RoundTrip.Statement (.qgraphWrite q v) := roundTrip_none rfl

theorem RoundTrip.qcbaseWrite (q v) : RoundTrip.Statement (.qcbaseWrite q v) := roundTrip_none rfl

theorem RoundTrip.qcsizeWrite (q v) : RoundTrip.Statement (.qcsizeWrite q v) := roundTrip_none rfl

theorem RoundTrip.hostMemRead (h n) : RoundTrip.Statement (.hostMemRead h n) := roundTrip_none rfl

theorem RoundTrip.hostMemWrite (h bytes) : RoundTrip.Statement (.hostMemWrite h bytes) := roundTrip_none rfl

theorem RoundTrip.pctlRst (n) : RoundTrip.Statement (.pctlRst n) := roundTrip_none rfl

theorem RoundTrip.prst (x v) : RoundTrip.Statement (.prst x v) := roundTrip_none rfl

theorem RoundTrip.partitionResetComplete (n) : RoundTrip.Statement (.partitionResetComplete n) := roundTrip_none rfl

theorem RoundTrip.qsetWrite (x v) : RoundTrip.Statement (.qsetWrite x v) := roundTrip_none rfl

theorem RoundTrip.lregWrite (x n v) : RoundTrip.Statement (.lregWrite x n v) := roundTrip_none rfl

theorem RoundTrip.pantryCommit (x v) : RoundTrip.Statement (.pantryCommit x v) := roundTrip_none rfl

theorem RoundTrip.pantryPublish : RoundTrip.Statement .pantryPublish := roundTrip_none rfl

theorem RoundTrip.opSettleComplete (m) : RoundTrip.Statement (.opSettleComplete m) := roundTrip_none rfl

theorem RoundTrip.graceExpiry (x) : RoundTrip.Statement (.graceExpiry x) := roundTrip_none rfl

theorem RoundTrip.pcfgWrite (x n v) : RoundTrip.Statement (.pcfgWrite x n v) := roundTrip_none rfl

theorem RoundTrip.cresWrite (x n v) : RoundTrip.Statement (.cresWrite x n v) := roundTrip_none rfl

theorem RoundTrip.replace (x v) : RoundTrip.Statement (.replace x v) := roundTrip_none rfl

theorem RoundTrip.replaceComplete (d) : RoundTrip.Statement (.replaceComplete d) := roundTrip_none rfl

theorem RoundTrip.isscfgWrite (x v) : RoundTrip.Statement (.isscfgWrite x v) := roundTrip_none rfl

theorem RoundTrip.splitLevelStep (k up) : RoundTrip.Statement (.splitLevelStep k up) := roundTrip_none rfl

theorem RoundTrip.tempstatUpdate (d) : RoundTrip.Statement (.tempstatUpdate d) := roundTrip_none rfl

theorem RoundTrip.chcfgWrite (x n v) : RoundTrip.Statement (.chcfgWrite x n v) := roundTrip_none rfl

theorem RoundTrip.spcfgWrite (x v) : RoundTrip.Statement (.spcfgWrite x v) := roundTrip_none rfl

theorem RoundTrip.tlbinv (x v) : RoundTrip.Statement (.tlbinv x v) := roundTrip_none rfl

theorem RoundTrip.tlbinvComplete (d) : RoundTrip.Statement (.tlbinvComplete d) := roundTrip_none rfl

theorem RoundTrip.ringRegisterWrite (x num v) : RoundTrip.Statement (.ringRegisterWrite x num v) := roundTrip_none rfl

theorem RoundTrip.ringHeadWrite (x num v) : RoundTrip.Statement (.ringHeadWrite x num v) := roundTrip_none rfl

theorem RoundTrip.synobjWrite (x v) : RoundTrip.Statement (.synobjWrite x v) := roundTrip_none rfl

theorem RoundTrip.hangTimeout (x) : RoundTrip.Statement (.hangTimeout x) := roundTrip_none rfl

theorem RoundTrip.preemptDeadline (x) : RoundTrip.Statement (.preemptDeadline x) := roundTrip_none rfl

theorem RoundTrip.preemptionComplete (x) : RoundTrip.Statement (.preemptionComplete x) := roundTrip_none rfl

theorem RoundTrip.uncorr (x) : RoundTrip.Statement (.uncorr x) := roundTrip_none rfl

theorem RoundTrip.lockstepMismatch (x) : RoundTrip.Statement (.lockstepMismatch x) := roundTrip_none rfl

theorem RoundTrip.rollreq (x v) : RoundTrip.Statement (.rollreq x v) := roundTrip_none rfl

theorem RoundTrip.gangRollback (g) : RoundTrip.Statement (.gangRollback g) := roundTrip_none rfl

theorem RoundTrip.rollbackRestart (g) : RoundTrip.Statement (.rollbackRestart g) := roundTrip_none rfl

theorem RoundTrip.nodekill (x v) : RoundTrip.Statement (.nodekill x v) := roundTrip_none rfl

theorem RoundTrip.errorThreshold (r) : RoundTrip.Statement (.errorThreshold r) := roundTrip_none rfl

theorem RoundTrip.errorWindowExpiry (k) : RoundTrip.Statement (.errorWindowExpiry k) := roundTrip_none rfl

theorem RoundTrip.hbmLaneDrift (sk) : RoundTrip.Statement (.hbmLaneDrift sk) := roundTrip_none rfl

theorem RoundTrip.migrationStart (x v) : RoundTrip.Statement (.migrationStart x v) := roundTrip_none rfl

theorem RoundTrip.migrationComplete (d) : RoundTrip.Statement (.migrationComplete d) := roundTrip_none rfl

theorem RoundTrip.powerEstimateUpdate (k) : RoundTrip.Statement (.powerEstimateUpdate k) := roundTrip_none rfl

theorem RoundTrip.pcSample (d) : RoundTrip.Statement (.pcSample d) := roundTrip_none rfl

theorem RoundTrip.fabidWrite (x v) : RoundTrip.Statement (.fabidWrite x v) := roundTrip_none rfl

theorem RoundTrip.tabload (x v) : RoundTrip.Statement (.tabload x v) := roundTrip_none rfl

theorem RoundTrip.tabloadComplete : RoundTrip.Statement .tabloadComplete := roundTrip_none rfl

theorem RoundTrip.fabgrpJoin (x v) : RoundTrip.Statement (.fabgrpJoin x v) := roundTrip_none rfl

theorem RoundTrip.packetDepart (p ph) : RoundTrip.Statement (.packetDepart p ph) := roundTrip_none rfl

theorem RoundTrip.fabricWrite (p pkt) : RoundTrip.Statement (.fabricWrite p pkt) := roundTrip_none rfl

theorem RoundTrip.fabricRead (p pkt) : RoundTrip.Statement (.fabricRead p pkt) := roundTrip_none rfl

theorem RoundTrip.fabricAtomic (p pkt) : RoundTrip.Statement (.fabricAtomic p pkt) := roundTrip_none rfl

theorem RoundTrip.fabricReduce (p pkt) : RoundTrip.Statement (.fabricReduce p pkt) := roundTrip_none rfl

theorem RoundTrip.ack (p pkt) : RoundTrip.Statement (.ack p pkt) := roundTrip_none rfl

theorem RoundTrip.nack (p pkt) : RoundTrip.Statement (.nack p pkt) := roundTrip_none rfl

theorem RoundTrip.data (p pkt) : RoundTrip.Statement (.data p pkt) := roundTrip_none rfl

theorem RoundTrip.result (p pkt) : RoundTrip.Statement (.result p pkt) := roundTrip_none rfl

theorem RoundTrip.lsu (u) : RoundTrip.Statement (.lsu u) := roundTrip_none rfl

theorem RoundTrip.linkDead (p) : RoundTrip.Statement (.linkDead p) := roundTrip_none rfl

theorem RoundTrip.linkRetry (p) : RoundTrip.Statement (.linkRetry p) := roundTrip_none rfl

theorem RoundTrip.drainRoundExpiry (i) : RoundTrip.Statement (.drainRoundExpiry i) := roundTrip_none rfl

theorem RoundTrip.linkTrain (x v) : RoundTrip.Statement (.linkTrain x v) := roundTrip_none rfl

theorem RoundTrip.linkDown (x v) : RoundTrip.Statement (.linkDown x v) := roundTrip_none rfl

theorem RoundTrip.linkTrainingComplete (p state width sport dly) : RoundTrip.Statement (.linkTrainingComplete p state width sport dly) := roundTrip_none rfl

theorem RoundTrip.packageReset : RoundTrip.Statement .packageReset := roundTrip_none rfl

theorem RoundTrip.bootVerify : RoundTrip.Statement .bootVerify := roundTrip_none rfl

theorem RoundTrip.bist (fails) : RoundTrip.Statement (.bist fails) := roundTrip_none rfl

theorem RoundTrip.marchTimeout : RoundTrip.Statement .marchTimeout := roundTrip_none rfl

theorem RoundTrip.bootPantry : RoundTrip.Statement .bootPantry := roundTrip_none rfl

theorem RoundTrip.repadd (x v) : RoundTrip.Statement (.repadd x v) := roundTrip_none rfl

theorem RoundTrip.bootsumWrite (x v) : RoundTrip.Statement (.bootsumWrite x v) := roundTrip_none rfl

theorem RoundTrip.testcfgWrite (x v) : RoundTrip.Statement (.testcfgWrite x v) := roundTrip_none rfl

theorem RoundTrip.attestationStart (x v) : RoundTrip.Statement (.attestationStart x v) := roundTrip_none rfl

theorem RoundTrip.attestationComplete : RoundTrip.Statement .attestationComplete := roundTrip_none rfl

theorem RoundTrip.epcWrite (x v) : RoundTrip.Statement (.epcWrite x v) := roundTrip_none rfl

theorem RoundTrip.lcntWrite (x n v) : RoundTrip.Statement (.lcntWrite x n v) := roundTrip_none rfl

theorem RoundTrip.fcrWrite (x v) : RoundTrip.Statement (.fcrWrite x v) := roundTrip_none rfl

theorem RoundTrip.registerWrite (r v) : RoundTrip.Statement (.registerWrite r v) := roundTrip_none rfl

theorem RoundTrip.frameBoundary : RoundTrip.Statement .frameBoundary := roundTrip_none rfl

theorem RoundTrip.memTrainingComplete (weak bridge) : RoundTrip.Statement (.memTrainingComplete weak bridge) := roundTrip_none rfl

end Sys2Proof.Laws
end

