-- ==== Sys2Proof/Laws/Shapes.lean ====
section
/-! SUPPORT. What the shared operations do, said once each: guards and consumed sources, scalar shapes, results held and
landed, elastic operations, races and releases, agents and the registers outside the contexts. -/

namespace Sys2Proof.Laws

open Sys2Proof.Machine Sys2Proof.Safety

/-! ## Guards and consumed sources (R95, R134, R278) -/

/-- A slot that executes runs with its guard's poison. -/
theorem guarded_executes {s : State} {g : Guard} (h : Executes s g) (f : Bool → State) :
    s.guarded g f = .next (f (s.guardPois g)) := by
  unfold State.guarded
  rcases h with h | h
  · simp [h]
  · cases hp : s.guardPois g <;> simp [h]

/-- A nullified slot does nothing. -/
theorem guarded_nullified {s : State} {g : Guard} (h : Nullified s g) (f : Bool → State) : s.guarded g f = .next s := by
  simp [State.guarded, h.1, h.2]

/-- A slot that consumes its sources runs when it is ready. -/
theorem consuming_ready {s : State} {g : Guard} {l : List SReg} (h : Ready s g l) (f : State) :
    s.consuming g l none f = .next f := by
  have : l.any s.ps = false := by simpa using h.2.2
  simp [State.consuming, h.1, h.2.1, this]

/-- A nullified slot that consumes its sources does nothing. -/
theorem consuming_nullified {s : State} {g : Guard} (h : Nullified s g) (l : List SReg) (pre : Option TrapKind) (f : State) :
    s.consuming g l pre f = .next s := by simp [State.consuming, h.1, h.2]

/-- A poisoned guard or source of a slot that consumes them raises POISON. -/
theorem consuming_poisoned {s : State} {g : Guard} {l : List SReg} (h : Executes s g)
    (hp : s.guardPois g = true ∨ ∃ a ∈ l, s.ps a = true) (f : State) : s.consuming g l none f = .next (s.raise .poison 0#64) := by
  have hx : (!s.guardPois g && !s.guardTest g) = false := by rcases h with h | h <;> simp [h]
  have hq : (s.guardPois g || l.any s.ps) = true := by
    rcases hp with hp | ⟨a, ha, hp⟩
    · simp [hp]
    · simp only [Bool.or_eq_true, List.any_eq_true]; exact .inr ⟨a, ha, hp⟩
  simp [State.consuming, hx, hq]

/-- A group that is absent raises its trap before anything else. -/
theorem consuming_absent {s : State} {g : Guard} (h : Executes s g) (l : List SReg) (k : TrapKind) (f : State) :
    s.consuming g l (some k) f = .next (s.raise k 0#64) := by
  have hx : (!s.guardPois g && !s.guardTest g) = false := by rcases h with h | h <;> simp [h]
  simp [State.consuming, hx]

theorem executes_of_ready {s : State} {g : Guard} {l : List SReg} (h : Ready s g l) : Executes s g := .inr h.2.1

/-- p0 always executes, and inverted never does. -/
theorem executes_p0 (s : State) : Executes s ⟨0#3, false⟩ := by
  simp [Executes, State.guardTest, State.rp, Regs.readP, Pred.ones]

theorem nullified_p0 (s : State) : Nullified s ⟨0#3, true⟩ := by
  simp [Nullified, State.guardTest, State.guardPois, State.pp, State.rp, Regs.readP, Regs.poisP, Pred.ones]

/-! ## Scalar shapes (R134, R135) -/

theorem alu2_executes {s : State} {g : Guard} (h : Executes s g) (n : Nat) (d a b : SReg) (f : Word → Word → Word) :
    s.alu2 g n d a b f = .next (s.hold n (.scal d.toNat (f (s.rs a) (s.rs b)) (s.guardPois g || s.ps a || s.ps b)) none) :=
  guarded_executes h _

theorem alu1_executes {s : State} {g : Guard} (h : Executes s g) (d a : SReg) (f : Word → Word) :
    s.alu1 g d a f = .next (s.hold 1 (.scal d.toNat (f (s.rs a)) (s.guardPois g || s.ps a)) none) :=
  guarded_executes h _

theorem pred2_executes {s : State} {g : Guard} (h : Executes s g) (d a b : PReg) (f : Pred → Pred → Pred) :
    s.pred2 g d a b f = .next (s.hold 1 (.pred d.toNat (f (s.rp a) (s.rp b)) (s.guardPois g || s.pp a || s.pp b)) none) :=
  guarded_executes h _

theorem leadingZeros_spec (v n : Nat) : leadingZeros v n ≤ n ∧ (∀ i, i < leadingZeros v n → v.testBit (n - 1 - i) = false) ∧
    (leadingZeros v n < n → v.testBit (n - 1 - leadingZeros v n) = true) := by
  induction n with
  | zero => simp [leadingZeros]
  | succ n ih =>
    simp only [leadingZeros]
    split
    · rename_i h; simp [h]
    · rename_i h
      obtain ⟨h1, h2, h3⟩ := ih
      refine ⟨by omega, fun i hi => ?_, fun hl => ?_⟩
      · cases i with
        | zero => simpa using h
        | succ i => have := h2 i (by omega); rw [show n + 1 - 1 - (i + 1) = n - 1 - i by omega]; exact this
      · rw [show n + 1 - 1 - (1 + leadingZeros v n) = n - 1 - leadingZeros v n by omega]; exact h3 (by omega)

theorem trailingZeros_spec (v n k : Nat) : trailingZeros v k n ≤ n ∧
    (∀ i, i < trailingZeros v k n → v.testBit (k + i) = false) ∧
    (trailingZeros v k n < n → v.testBit (k + trailingZeros v k n) = true) := by
  induction n generalizing k with
  | zero => simp [trailingZeros]
  | succ n ih =>
    simp only [trailingZeros]
    split
    · rename_i h; simp [h]
    · rename_i h
      obtain ⟨h1, h2, h3⟩ := ih (k + 1)
      refine ⟨by omega, fun i hi => ?_, fun hl => ?_⟩
      · cases i with
        | zero => simpa using h
        | succ i => have := h2 i (by omega); rw [show k + (i + 1) = k + 1 + i by omega]; exact this
      · rw [show k + (1 + trailingZeros v (k + 1) n) = k + 1 + trailingZeros v (k + 1) n by omega]; exact h3 (by omega)

theorem oneBits_spec (v n : Nat) : oneBits v n = (List.range n).countP fun i => v.testBit i := by
  induction n with
  | zero => rfl
  | succ n ih =>
    rw [oneBits, List.range_succ, List.countP_append, ← ih]
    simp [boolNat, List.countP_cons]
    cases v.testBit n <;> simp; omega

/-! ## Registers of an agent, and what lands on them (R111, R133) -/

theorem readS_writeS (r : Regs) (n m : Nat) (v : Word) (p : Bool) :
    (r.writeS n v p).readS m = if m = n ∧ n ≠ 0 then v else r.readS m := by
  unfold Regs.writeS Regs.readS
  by_cases hn : n = 0 <;> by_cases hm : m = 0 <;> simp [hn, hm, get_set]
  · subst hm; intro h; exact absurd h.symm hn

theorem poisS_writeS (r : Regs) (n m : Nat) (v : Word) (p : Bool) :
    (r.writeS n v p).poisS m = if m = n ∧ n ≠ 0 then p else r.poisS m := by
  unfold Regs.writeS Regs.poisS
  by_cases hn : n = 0 <;> by_cases hm : m = 0 <;> simp [hn, hm, get_set]
  · subst hm; intro h; exact absurd h.symm hn

theorem readP_writeP (r : Regs) (n m : Nat) (v : Pred) (p : Bool) :
    (r.writeP n v p).readP m = if m = n ∧ n ≠ 0 then v else r.readP m := by
  unfold Regs.writeP Regs.readP
  by_cases hn : n = 0 <;> by_cases hm : m = 0 <;> simp [hn, hm, get_set]
  · subst hm; intro h; exact absurd h.symm hn

theorem poisP_writeP (r : Regs) (n m : Nat) (v : Pred) (p : Bool) :
    (r.writeP n v p).poisP m = if m = n ∧ n ≠ 0 then p else r.poisP m := by
  unfold Regs.writeP Regs.poisP
  by_cases hn : n = 0 <;> by_cases hm : m = 0 <;> simp [hn, hm, get_set]
  · subst hm; intro h; exact absurd h.symm hn

theorem readV_writeV (r : Regs) (n m : Nat) (v : Vec) (p : BitVec 4) :
    (r.writeV n v p).readV m = if m = n then ⟨v, p⟩ else r.readV m := by
  unfold Regs.writeV Regs.readV
  by_cases hm : m = n <;> simp [hm, get_set]

@[simp] theorem readV_writeS (r : Regs) (n m : Nat) (v : Word) (p : Bool) : (r.writeS n v p).readV m = r.readV m := by
  unfold Regs.writeS; split <;> rfl

@[simp] theorem readP_writeS (r : Regs) (n m : Nat) (v : Word) (p : Bool) : (r.writeS n v p).readP m = r.readP m := by
  unfold Regs.writeS; split <;> rfl

@[simp] theorem readS_writeP (r : Regs) (n m : Nat) (v : Pred) (p : Bool) : (r.writeP n v p).readS m = r.readS m := by
  unfold Regs.writeP; split <;> rfl

@[simp] theorem readV_writeP (r : Regs) (n m : Nat) (v : Pred) (p : Bool) : (r.writeP n v p).readV m = r.readV m := by
  unfold Regs.writeP; split <;> rfl

@[simp] theorem readS_writeV (r : Regs) (n m : Nat) (v : Vec) (p : BitVec 4) : (r.writeV n v p).readS m = r.readS m := rfl

@[simp] theorem readP_writeV (r : Regs) (n m : Nat) (v : Vec) (p : BitVec 4) : (r.writeV n v p).readP m = r.readP m := rfl

/-- What a landing leaves of a context: its state, flow and handler registers. -/
theorem land_frame (c : Ctx) (l : Landing) : (c.land l).st = c.st ∧ (c.land l).exiting = c.exiting ∧ (c.land l).f = c.f ∧
    (c.land l).e = c.e := by cases l <;> exact ⟨rfl, rfl, rfl, rfl⟩

/-! ## Agents, and registers outside the contexts -/

theorem ctx_setCtx (s : State) (a b : Nat) (c : Ctx) : (s.setCtx a c).ctx b = if b = a then c else s.ctx b := by
  unfold State.setCtx State.ctx
  by_cases h : s.who = a <;> by_cases g : s.who = b <;> by_cases q : b = a <;> simp_all [get_set]

@[simp] theorem ctx_setCtx_same (s : State) (a : Nat) (c : Ctx) : (s.setCtx a c).ctx a = c := by simp [ctx_setCtx]

theorem ctx_upd (s : State) (a b : Nat) (f : Ctx → Ctx) : (s.upd a f).ctx b = if b = a then f (s.ctx a) else s.ctx b :=
  ctx_setCtx ..

@[simp] theorem who_setCtx (s : State) (a : Nat) (c : Ctx) : (s.setCtx a c).who = s.who := by unfold State.setCtx; split <;> rfl

/-- Which agent issues does not change any agent's state. -/
theorem ctx_focus (s : State) (a b : Nat) : (s.focus a).ctx b = s.ctx b := by
  unfold State.focus
  split
  · rfl
  · rename_i h
    unfold State.ctx
    by_cases g : a = b <;> by_cases q : s.who = b <;> simp_all [get_erase, get_set, eq_comm]

@[simp] theorem who_focus (s : State) (a : Nat) : (s.focus a).who = a := by
  unfold State.focus; split
  · assumption
  · rfl

theorem reg_setReg (s : State) (i n j m : Nat) (v : Word) :
    (s.setReg i n v).reg j m = if j * 4096 + m = i * 4096 + n then v else s.reg j m := get_set ..

theorem core_updCore (s : State) (k j : Nat) (f : CoreSt → CoreSt) :
    (s.updCore k f).core j = if j = k then f (s.core k) else s.core j := get_set ..

theorem ladle_updLadle (s : State) (l j : Nat) (f : Ladle → Ladle) :
    (s.updLadle l f).ladle j = if j = l then f (s.ladle l) else s.ladle j := get_set ..

theorem griddle_updGriddle (s : State) (k j : Nat) (f : Griddle → Griddle) :
    (s.updGriddle k f).griddle j = if j = k then f (s.griddle k) else s.griddle j := get_set ..

/-! ## Races, releases and elastic operations (R342, R349, R379) -/

theorem raceCheck_free {s : State} {sp store openTest : Bool} {k n : Nat} (h : RaceFree s sp store openTest k n) :
    s.raceCheck sp store openTest k n = s := by
  unfold State.raceCheck
  rcases h with h | h
  · simp [h]
  · split
    · rfl
    · rw [List.findSome?_eq_none_iff.mpr (by simpa using h)]

theorem raiseRaces_none {s : State} (h : NoRace s) : s.raiseRaces = s := by unfold State.raiseRaces; rw [h]

theorem ownStall_unqueued {s : State} {sp : Bool} {k n : Nat} (h : Unqueued s sp k n) : s.ownStall (locAS sp k) n = s := by
  unfold State.ownStall State.ownPending
  rw [if_neg]
  simp only [List.any_eq_true, Bool.and_eq_true, not_exists]
  rintro o ⟨ho, ⟨⟨h1, h2⟩, h3⟩, h4⟩
  simp only [beq_iff_eq, decide_eq_true_eq, bne_iff_ne] at h1 h2 h3
  have h5 := h o ho h1 h2 h3
  rw [h4] at h5
  exact Bool.noConfusion h5

theorem ownAccess_unqueued {s : State} {sp store : Bool} {k n : Nat} (h : Unqueued s sp k n) :
    s.ownAccess sp store k n = if store || s.rawLoads k then s else s.noticeAS sp k n := by
  unfold State.ownAccess; rw [ownStall_unqueued h]

theorem RaceFree.noticed {s t : State} {sp store openTest : Bool} {k n : Nat} (h : RaceFree s sp store openTest k n) (g : Noticed s t) :
    RaceFree t sp store openTest k n := by
  rw [RaceFree, g.who]
  exact h.imp_right fun f u hu => by rw [g.raceLine]; exact f u hu

theorem noticed_noted (s : State) (sp : Bool) (k n : Nat) : Noticed s (noted s sp k n) := by
  unfold noted; split
  · exact .refl s
  · exact noticed_noticeAS ..

/-- An element of the own memories that may be loaded: the errors of its lines are found, and its banks noted. -/
theorem spotCheck_load {s : State} {sp whole : Bool} {z k : Nat} (hq : Unqueued s sp k z) (h : RaceFree s sp false true k z) :
    s.spotCheck sp false whole z (.own k) = banked (noted s sp k z) sp false whole k z := by
  have := raceCheck_free (RaceFree.noticed h (noticed_noted s sp k z))
  simp only [State.spotCheck, ownAccess_unqueued hq, Bool.false_or]
  rw [show (if s.rawLoads k = true then s else s.noticeAS sp k z) = noted s sp k z from rfl, this]
  rfl

/-- An element of the own memories that may be stored. -/
theorem spotCheck_store {s : State} {sp whole : Bool} {z k : Nat} (hq : Unqueued s sp k z) (h : RaceFree s sp true true k z) :
    s.spotCheck sp true whole z (.own k) = banked s sp true whole k z := by
  simp only [State.spotCheck, ownAccess_unqueued hq, Bool.true_or, if_true, raceCheck_free h]; rfl

theorem spotCheck_other {s : State} {sp store whole : Bool} {z k : Nat} (h : RaceFree s sp store true k z) :
    s.spotCheck sp store whole z (.other k) = s := by simp only [State.spotCheck, raceCheck_free h]

theorem noRace_banked {s : State} {sp store whole : Bool} {k n : Nat} (h : NoRace s) : NoRace (banked s sp store whole k n) := by
  unfold banked State.occupy
  split
  · split <;> exact h
  · exact h

theorem NoRace.noticed {s t : State} (h : NoRace s) (g : Noticed s t) : NoRace t := by rw [NoRace, g.issue]; exact h

theorem releaseStall_unheld {s : State} {c : Nat} (h : Unheld s c) : s.releaseStall c = s := by
  unfold State.releaseStall
  rw [if_neg]
  simp only [Bool.or_eq_true, List.any_eq_true, Bool.and_eq_true, not_or, not_exists]
  refine ⟨?_, by simp [h.2]⟩
  rintro o ⟨ho, ⟨⟨h1, h2⟩, h3⟩, h4⟩
  simp only [State.inScope, List.any_eq_true] at h4
  simp only [beq_iff_eq, decide_eq_true_eq, Bool.not_eq_true'] at h1 h2 h3
  obtain ⟨l, hl, h4⟩ := h4
  have := h.1 o ho h1 h2 h3 l hl
  simp only [decide_eq_true_eq] at h4
  omega

/-- Everything that issuing an elastic operation does to a state that nothing holds back. -/
theorem issueOp_spec {s : State} {kind : OpKind} {dest : Option Res} {gp acq : Bool} {rel : Option Nat}
    (hf : s.farStall kind = s) (hr : ∀ c, rel = some c → Unheld s c) :
    ∃ o : Op, o.id = s.serial ∧ o.agent = s.who ∧ o.kind = kind ∧ o.phase = .issued ∧
      s.issueOp kind dest gp acq rel
        = { s with ops := s.ops ++ [o], serial := s.serial + 1, issue := { s.issue with elastic := s.issue.elastic + 1 } } := by
  unfold State.issueOp
  cases rel with
  | none => simp only [hf]; exact ⟨_, rfl, rfl, rfl, rfl, rfl⟩
  | some c => simp only [releaseStall_unheld (hr c rfl), hf]; exact ⟨_, rfl, rfl, rfl, rfl, rfl⟩

/-- A command's release of the issuer's accesses. -/
theorem cmdRelease_unheld {s : State} {b : Bool} {c : Nat} (h : b = true → Unheld s c) :
    s.cmdRelease b c = if b then s.iss fun i => { i with rels := i.rels ++ [c] } else s := by
  unfold State.cmdRelease State.commitRelease
  cases b
  · rfl
  · rw [releaseStall_unheld (h rfl)]

/-- The row word of a Griddle instruction. -/
theorem rowWord_spec {w : Word} {r m : Nat} (h1 : bits w 0 7 = r) (h2 : bits w 8 7 + 1 = m) (h3 : r + m ≤ 128)
    (h4 : bitAt w 15 = false) (h5 : bitAt w 7 = false) : rowWord w = some (r, m) := by
  unfold rowWord
  simp only [h4, h5, h1, h2]
  rw [if_neg]
  simp
  omega

/-- A Griddle command that is accepted takes one command and its steps from the budget. -/
theorem grdAccept_spec {s : State} {k st : Nat} {i p q r} {tags} (hl : (s.griddle k).lease = .held)
    (hq : s.queueFull (.griddle (octetOf k)) = false) (hf : s.fenced (522 + octetOf k) = false) :
    s.grdAccept k false st i p q r tags = (s.accept (.griddle (octetOf k)) k i p q r 0#64 0 tags).updGriddle k fun g =>
      { g with budCmds := g.budCmds - 1, budSteps := g.budSteps - st } := by
  unfold State.grdAccept
  simp [hl, hq, hf]

/-! ## Stops -/

/-- A slot that raises a trap in a bundle that has not stopped records it, and the trap is taken. -/
theorem raise_spec {s : State} (h : s.issue.stop = none) (k : TrapKind) (v : Word) :
    s.raise k v = (s.takeTrap k s.issue.pos v).iss fun i => { i with stop := some (.trap k s.issue.pos v) } := by
  simp [State.raise, State.stopWith, h, State.takeStop]

/-- The first stop of a bundle stands. -/
theorem raise_later {s : State} (h : s.issue.stop.isSome = true) (k : TrapKind) (v : Word) : s.raise k v = s := by
  simp [State.raise, State.stopWith, h]

/-- Outside handler mode, with a handler, a context's trap enters it (R149). -/
theorem deliver_enters {s : State} (h : s.c.e.hm = false) (hv : s.c.e.tvecEn = true) (k : TrapKind) (pos : Nat) (v e : Word) :
    s.deliver k pos v e = { s with c := s.c.enterHandler k pos v e } := by simp [State.deliver, h, hv]

/-- In handler mode, or without a handler, the gang is suspended (R149). -/
theorem deliver_suspends {s : State} (h : s.c.e.hm = true ∨ s.c.e.tvecEn = false) (k : TrapKind) (pos : Nat) (v e : Word) :
    s.deliver k pos v e = s.suspendGang s.who 1 k.code pos v := by rcases h with h | h <;> simp [State.deliver, h]

/-! ## Slots of a bundle and the table's rows -/

set_option maxRecDepth 10000 in
/-- A bundle runs its slots by the meanings of the table's rows. -/
theorem slotExec_eq (i : Instr) (s : State) (h : i.opc.isSome = true) : slotExec i s = exec i s := by
  cases i <;> first | exact absurd h Bool.false_ne_true | rfl

theorem opcOf_stop (w : Word32) : opcOf (w ||| 0x80000000#32) = opcOf w := by
  unfold opcOf; apply BitVec.eq_of_getLsbD_eq; intro i hi; interval_cases i <;> simp

theorem operandsOf_stop (w : Word32) : operandsOf (w ||| 0x80000000#32) = operandsOf w := by
  unfold operandsOf; apply BitVec.eq_of_getLsbD_eq; intro i hi; interval_cases i <;> simp

/-- The stop bit is no part of an instruction (R87). -/
theorem decodeSlot_stop (w : Word32) : decodeSlot (w ||| 0x80000000#32) = decodeSlot w := by
  unfold decodeSlot; rw [opcOf_stop, operandsOf_stop]

end Sys2Proof.Laws
end

