-- ==== Sys2Proof/Laws/State.lean ====
section
/-! SUPPORT. What each small update of the state leaves of every field: one lemma for a field and an update, so that no
proof unfolds a record update. -/

namespace Sys2Proof.Laws

open Sys2Proof.Machine

variable (s : State)

/-! ## Holding a result (R111) -/

@[simp] theorem hold_who (n : Nat) (l : Landing) (r : Option PVec) : (s.hold n l r).who = s.who := rfl
@[simp] theorem hold_c (n : Nat) (l : Landing) (r : Option PVec) : (s.hold n l r).c = { s.c with f := { s.c.f with pend := s.c.f.pend ++ [⟨s.c.now + toWord n, s.issue.pos, l, r⟩] } } := rfl
@[simp] theorem hold_parked (n : Nat) (l : Landing) (r : Option PVec) : (s.hold n l r).parked = s.parked := rfl
@[simp] theorem hold_agenda (n : Nat) (l : Landing) (r : Option PVec) : (s.hold n l r).agenda = s.agenda := rfl
@[simp] theorem hold_turn (n : Nat) (l : Landing) (r : Option PVec) : (s.hold n l r).turn = s.turn := rfl
@[simp] theorem hold_issue (n : Nat) (l : Landing) (r : Option PVec) : (s.hold n l r).issue = s.issue := rfl
@[simp] theorem hold_tick (n : Nat) (l : Landing) (r : Option PVec) : (s.hold n l r).tick = s.tick := rfl
@[simp] theorem hold_clock (n : Nat) (l : Landing) (r : Option PVec) : (s.hold n l r).clock = s.clock := rfl
@[simp] theorem hold_serial (n : Nat) (l : Landing) (r : Option PVec) : (s.hold n l r).serial = s.serial := rfl
@[simp] theorem hold_regs (n : Nat) (l : Landing) (r : Option PVec) : (s.hold n l r).regs = s.regs := rfl
@[simp] theorem hold_ab (n : Nat) (l : Landing) (r : Option PVec) : (s.hold n l r).ab = s.ab := rfl
@[simp] theorem hold_sp (n : Nat) (l : Landing) (r : Option PVec) : (s.hold n l r).sp = s.sp := rfl
@[simp] theorem hold_tmem (n : Nat) (l : Landing) (r : Option PVec) : (s.hold n l r).tmem = s.tmem := rfl
@[simp] theorem hold_imem (n : Nat) (l : Landing) (r : Option PVec) : (s.hold n l r).imem = s.imem := rfl
@[simp] theorem hold_hbm (n : Nat) (l : Landing) (r : Option PVec) : (s.hold n l r).hbm = s.hbm := rfl
@[simp] theorem hold_hbmSeen (n : Nat) (l : Landing) (r : Option PVec) : (s.hold n l r).hbmSeen = s.hbmSeen := rfl
@[simp] theorem hold_spSeen (n : Nat) (l : Landing) (r : Option PVec) : (s.hold n l r).spSeen = s.spSeen := rfl
@[simp] theorem hold_parFlips (n : Nat) (l : Landing) (r : Option PVec) : (s.hold n l r).parFlips = s.parFlips := rfl
@[simp] theorem hold_abStamp (n : Nat) (l : Landing) (r : Option PVec) : (s.hold n l r).abStamp = s.abStamp := rfl
@[simp] theorem hold_spStamp (n : Nat) (l : Landing) (r : Option PVec) : (s.hold n l r).spStamp = s.spStamp := rfl
@[simp] theorem hold_abMark (n : Nat) (l : Landing) (r : Option PVec) : (s.hold n l r).abMark = s.abMark := rfl
@[simp] theorem hold_spMark (n : Nat) (l : Landing) (r : Option PVec) : (s.hold n l r).spMark = s.spMark := rfl
@[simp] theorem hold_ops (n : Nat) (l : Landing) (r : Option PVec) : (s.hold n l r).ops = s.ops := rfl
@[simp] theorem hold_cmds (n : Nat) (l : Landing) (r : Option PVec) : (s.hold n l r).cmds = s.cmds := rfl
@[simp] theorem hold_elems (n : Nat) (l : Landing) (r : Option PVec) : (s.hold n l r).elems = s.elems := rfl
@[simp] theorem hold_ladles (n : Nat) (l : Landing) (r : Option PVec) : (s.hold n l r).ladles = s.ladles := rfl
@[simp] theorem hold_griddles (n : Nat) (l : Landing) (r : Option PVec) : (s.hold n l r).griddles = s.griddles := rfl
@[simp] theorem hold_octets (n : Nat) (l : Landing) (r : Option PVec) : (s.hold n l r).octets = s.octets := rfl
@[simp] theorem hold_cores (n : Nat) (l : Landing) (r : Option PVec) : (s.hold n l r).cores = s.cores := rfl
@[simp] theorem hold_monitors (n : Nat) (l : Landing) (r : Option PVec) : (s.hold n l r).monitors = s.monitors := rfl
@[simp] theorem hold_tlb (n : Nat) (l : Landing) (r : Option PVec) : (s.hold n l r).tlb = s.tlb := rfl
@[simp] theorem hold_sync (n : Nat) (l : Landing) (r : Option PVec) : (s.hold n l r).sync = s.sync := rfl
@[simp] theorem hold_synmap (n : Nat) (l : Landing) (r : Option PVec) : (s.hold n l r).synmap = s.synmap := rfl
@[simp] theorem hold_rings (n : Nat) (l : Landing) (r : Option PVec) : (s.hold n l r).rings = s.rings := rfl
@[simp] theorem hold_fltcnt (n : Nat) (l : Landing) (r : Option PVec) : (s.hold n l r).fltcnt = s.fltcnt := rfl
@[simp] theorem hold_gangs (n : Nat) (l : Landing) (r : Option PVec) : (s.hold n l r).gangs = s.gangs := rfl
@[simp] theorem hold_fab (n : Nat) (l : Landing) (r : Option PVec) : (s.hold n l r).fab = s.fab := rfl
@[simp] theorem hold_links (n : Nat) (l : Landing) (r : Option PVec) : (s.hold n l r).links = s.links := rfl
@[simp] theorem hold_svc (n : Nat) (l : Landing) (r : Option PVec) : (s.hold n l r).svc = s.svc := rfl

/-! ## The bundle's record -/

@[simp] theorem iss_who (f : Issue → Issue) : (s.iss f).who = s.who := rfl
@[simp] theorem iss_c (f : Issue → Issue) : (s.iss f).c = s.c := rfl
@[simp] theorem iss_parked (f : Issue → Issue) : (s.iss f).parked = s.parked := rfl
@[simp] theorem iss_agenda (f : Issue → Issue) : (s.iss f).agenda = s.agenda := rfl
@[simp] theorem iss_turn (f : Issue → Issue) : (s.iss f).turn = s.turn := rfl
@[simp] theorem iss_issue (f : Issue → Issue) : (s.iss f).issue = f s.issue := rfl
@[simp] theorem iss_tick (f : Issue → Issue) : (s.iss f).tick = s.tick := rfl
@[simp] theorem iss_clock (f : Issue → Issue) : (s.iss f).clock = s.clock := rfl
@[simp] theorem iss_serial (f : Issue → Issue) : (s.iss f).serial = s.serial := rfl
@[simp] theorem iss_regs (f : Issue → Issue) : (s.iss f).regs = s.regs := rfl
@[simp] theorem iss_ab (f : Issue → Issue) : (s.iss f).ab = s.ab := rfl
@[simp] theorem iss_sp (f : Issue → Issue) : (s.iss f).sp = s.sp := rfl
@[simp] theorem iss_tmem (f : Issue → Issue) : (s.iss f).tmem = s.tmem := rfl
@[simp] theorem iss_imem (f : Issue → Issue) : (s.iss f).imem = s.imem := rfl
@[simp] theorem iss_hbm (f : Issue → Issue) : (s.iss f).hbm = s.hbm := rfl
@[simp] theorem iss_hbmSeen (f : Issue → Issue) : (s.iss f).hbmSeen = s.hbmSeen := rfl
@[simp] theorem iss_spSeen (f : Issue → Issue) : (s.iss f).spSeen = s.spSeen := rfl
@[simp] theorem iss_parFlips (f : Issue → Issue) : (s.iss f).parFlips = s.parFlips := rfl
@[simp] theorem iss_abStamp (f : Issue → Issue) : (s.iss f).abStamp = s.abStamp := rfl
@[simp] theorem iss_spStamp (f : Issue → Issue) : (s.iss f).spStamp = s.spStamp := rfl
@[simp] theorem iss_abMark (f : Issue → Issue) : (s.iss f).abMark = s.abMark := rfl
@[simp] theorem iss_spMark (f : Issue → Issue) : (s.iss f).spMark = s.spMark := rfl
@[simp] theorem iss_ops (f : Issue → Issue) : (s.iss f).ops = s.ops := rfl
@[simp] theorem iss_cmds (f : Issue → Issue) : (s.iss f).cmds = s.cmds := rfl
@[simp] theorem iss_elems (f : Issue → Issue) : (s.iss f).elems = s.elems := rfl
@[simp] theorem iss_ladles (f : Issue → Issue) : (s.iss f).ladles = s.ladles := rfl
@[simp] theorem iss_griddles (f : Issue → Issue) : (s.iss f).griddles = s.griddles := rfl
@[simp] theorem iss_octets (f : Issue → Issue) : (s.iss f).octets = s.octets := rfl
@[simp] theorem iss_cores (f : Issue → Issue) : (s.iss f).cores = s.cores := rfl
@[simp] theorem iss_monitors (f : Issue → Issue) : (s.iss f).monitors = s.monitors := rfl
@[simp] theorem iss_tlb (f : Issue → Issue) : (s.iss f).tlb = s.tlb := rfl
@[simp] theorem iss_sync (f : Issue → Issue) : (s.iss f).sync = s.sync := rfl
@[simp] theorem iss_synmap (f : Issue → Issue) : (s.iss f).synmap = s.synmap := rfl
@[simp] theorem iss_rings (f : Issue → Issue) : (s.iss f).rings = s.rings := rfl
@[simp] theorem iss_fltcnt (f : Issue → Issue) : (s.iss f).fltcnt = s.fltcnt := rfl
@[simp] theorem iss_gangs (f : Issue → Issue) : (s.iss f).gangs = s.gangs := rfl
@[simp] theorem iss_fab (f : Issue → Issue) : (s.iss f).fab = s.fab := rfl
@[simp] theorem iss_links (f : Issue → Issue) : (s.iss f).links = s.links := rfl
@[simp] theorem iss_svc (f : Issue → Issue) : (s.iss f).svc = s.svc := rfl

/-! ## A fresh serial number -/

@[simp] theorem withSerial_who : (s.withSerial).who = s.who := rfl
@[simp] theorem withSerial_c : (s.withSerial).c = s.c := rfl
@[simp] theorem withSerial_parked : (s.withSerial).parked = s.parked := rfl
@[simp] theorem withSerial_agenda : (s.withSerial).agenda = s.agenda := rfl
@[simp] theorem withSerial_turn : (s.withSerial).turn = s.turn := rfl
@[simp] theorem withSerial_issue : (s.withSerial).issue = s.issue := rfl
@[simp] theorem withSerial_tick : (s.withSerial).tick = s.tick := rfl
@[simp] theorem withSerial_clock : (s.withSerial).clock = s.clock := rfl
@[simp] theorem withSerial_serial : (s.withSerial).serial = s.serial + 1 := rfl
@[simp] theorem withSerial_regs : (s.withSerial).regs = s.regs := rfl
@[simp] theorem withSerial_ab : (s.withSerial).ab = s.ab := rfl
@[simp] theorem withSerial_sp : (s.withSerial).sp = s.sp := rfl
@[simp] theorem withSerial_tmem : (s.withSerial).tmem = s.tmem := rfl
@[simp] theorem withSerial_imem : (s.withSerial).imem = s.imem := rfl
@[simp] theorem withSerial_hbm : (s.withSerial).hbm = s.hbm := rfl
@[simp] theorem withSerial_hbmSeen : (s.withSerial).hbmSeen = s.hbmSeen := rfl
@[simp] theorem withSerial_spSeen : (s.withSerial).spSeen = s.spSeen := rfl
@[simp] theorem withSerial_parFlips : (s.withSerial).parFlips = s.parFlips := rfl
@[simp] theorem withSerial_abStamp : (s.withSerial).abStamp = s.abStamp := rfl
@[simp] theorem withSerial_spStamp : (s.withSerial).spStamp = s.spStamp := rfl
@[simp] theorem withSerial_abMark : (s.withSerial).abMark = s.abMark := rfl
@[simp] theorem withSerial_spMark : (s.withSerial).spMark = s.spMark := rfl
@[simp] theorem withSerial_ops : (s.withSerial).ops = s.ops := rfl
@[simp] theorem withSerial_cmds : (s.withSerial).cmds = s.cmds := rfl
@[simp] theorem withSerial_elems : (s.withSerial).elems = s.elems := rfl
@[simp] theorem withSerial_ladles : (s.withSerial).ladles = s.ladles := rfl
@[simp] theorem withSerial_griddles : (s.withSerial).griddles = s.griddles := rfl
@[simp] theorem withSerial_octets : (s.withSerial).octets = s.octets := rfl
@[simp] theorem withSerial_cores : (s.withSerial).cores = s.cores := rfl
@[simp] theorem withSerial_monitors : (s.withSerial).monitors = s.monitors := rfl
@[simp] theorem withSerial_tlb : (s.withSerial).tlb = s.tlb := rfl
@[simp] theorem withSerial_sync : (s.withSerial).sync = s.sync := rfl
@[simp] theorem withSerial_synmap : (s.withSerial).synmap = s.synmap := rfl
@[simp] theorem withSerial_rings : (s.withSerial).rings = s.rings := rfl
@[simp] theorem withSerial_fltcnt : (s.withSerial).fltcnt = s.fltcnt := rfl
@[simp] theorem withSerial_gangs : (s.withSerial).gangs = s.gangs := rfl
@[simp] theorem withSerial_fab : (s.withSerial).fab = s.fab := rfl
@[simp] theorem withSerial_links : (s.withSerial).links = s.links := rfl
@[simp] theorem withSerial_svc : (s.withSerial).svc = s.svc := rfl

/-! ## The counter of the free values -/

@[simp] theorem ticked_who : (s.ticked).who = s.who := rfl
@[simp] theorem ticked_c : (s.ticked).c = s.c := rfl
@[simp] theorem ticked_parked : (s.ticked).parked = s.parked := rfl
@[simp] theorem ticked_agenda : (s.ticked).agenda = s.agenda := rfl
@[simp] theorem ticked_turn : (s.ticked).turn = s.turn := rfl
@[simp] theorem ticked_issue : (s.ticked).issue = s.issue := rfl
@[simp] theorem ticked_tick : (s.ticked).tick = s.tick + 1 := rfl
@[simp] theorem ticked_clock : (s.ticked).clock = s.pkgTime := rfl
@[simp] theorem ticked_serial : (s.ticked).serial = s.serial := rfl
@[simp] theorem ticked_regs : (s.ticked).regs = s.regs := rfl
@[simp] theorem ticked_ab : (s.ticked).ab = s.ab := rfl
@[simp] theorem ticked_sp : (s.ticked).sp = s.sp := rfl
@[simp] theorem ticked_tmem : (s.ticked).tmem = s.tmem := rfl
@[simp] theorem ticked_imem : (s.ticked).imem = s.imem := rfl
@[simp] theorem ticked_hbm : (s.ticked).hbm = s.hbm := rfl
@[simp] theorem ticked_hbmSeen : (s.ticked).hbmSeen = s.hbmSeen := rfl
@[simp] theorem ticked_spSeen : (s.ticked).spSeen = s.spSeen := rfl
@[simp] theorem ticked_parFlips : (s.ticked).parFlips = s.parFlips := rfl
@[simp] theorem ticked_abStamp : (s.ticked).abStamp = s.abStamp := rfl
@[simp] theorem ticked_spStamp : (s.ticked).spStamp = s.spStamp := rfl
@[simp] theorem ticked_abMark : (s.ticked).abMark = s.abMark := rfl
@[simp] theorem ticked_spMark : (s.ticked).spMark = s.spMark := rfl
@[simp] theorem ticked_ops : (s.ticked).ops = s.ops := rfl
@[simp] theorem ticked_cmds : (s.ticked).cmds = s.cmds := rfl
@[simp] theorem ticked_elems : (s.ticked).elems = s.elems := rfl
@[simp] theorem ticked_ladles : (s.ticked).ladles = s.ladles := rfl
@[simp] theorem ticked_griddles : (s.ticked).griddles = s.griddles := rfl
@[simp] theorem ticked_octets : (s.ticked).octets = s.octets := rfl
@[simp] theorem ticked_cores : (s.ticked).cores = s.cores := rfl
@[simp] theorem ticked_monitors : (s.ticked).monitors = s.monitors := rfl
@[simp] theorem ticked_tlb : (s.ticked).tlb = s.tlb := rfl
@[simp] theorem ticked_sync : (s.ticked).sync = s.sync := rfl
@[simp] theorem ticked_synmap : (s.ticked).synmap = s.synmap := rfl
@[simp] theorem ticked_rings : (s.ticked).rings = s.rings := rfl
@[simp] theorem ticked_fltcnt : (s.ticked).fltcnt = s.fltcnt := rfl
@[simp] theorem ticked_gangs : (s.ticked).gangs = s.gangs := rfl
@[simp] theorem ticked_fab : (s.ticked).fab = s.fab := rfl
@[simp] theorem ticked_links : (s.ticked).links = s.links := rfl
@[simp] theorem ticked_svc : (s.ticked).svc = s.svc := rfl

/-! ## The issuing agent's registers -/

@[simp] theorem regsUpd_who (f : Regs → Regs) : (s.regsUpd f).who = s.who := rfl
@[simp] theorem regsUpd_c (f : Regs → Regs) : (s.regsUpd f).c = { s.c with r := f s.c.r } := rfl
@[simp] theorem regsUpd_parked (f : Regs → Regs) : (s.regsUpd f).parked = s.parked := rfl
@[simp] theorem regsUpd_agenda (f : Regs → Regs) : (s.regsUpd f).agenda = s.agenda := rfl
@[simp] theorem regsUpd_turn (f : Regs → Regs) : (s.regsUpd f).turn = s.turn := rfl
@[simp] theorem regsUpd_issue (f : Regs → Regs) : (s.regsUpd f).issue = s.issue := rfl
@[simp] theorem regsUpd_tick (f : Regs → Regs) : (s.regsUpd f).tick = s.tick := rfl
@[simp] theorem regsUpd_clock (f : Regs → Regs) : (s.regsUpd f).clock = s.clock := rfl
@[simp] theorem regsUpd_serial (f : Regs → Regs) : (s.regsUpd f).serial = s.serial := rfl
@[simp] theorem regsUpd_regs (f : Regs → Regs) : (s.regsUpd f).regs = s.regs := rfl
@[simp] theorem regsUpd_ab (f : Regs → Regs) : (s.regsUpd f).ab = s.ab := rfl
@[simp] theorem regsUpd_sp (f : Regs → Regs) : (s.regsUpd f).sp = s.sp := rfl
@[simp] theorem regsUpd_tmem (f : Regs → Regs) : (s.regsUpd f).tmem = s.tmem := rfl
@[simp] theorem regsUpd_imem (f : Regs → Regs) : (s.regsUpd f).imem = s.imem := rfl
@[simp] theorem regsUpd_hbm (f : Regs → Regs) : (s.regsUpd f).hbm = s.hbm := rfl
@[simp] theorem regsUpd_hbmSeen (f : Regs → Regs) : (s.regsUpd f).hbmSeen = s.hbmSeen := rfl
@[simp] theorem regsUpd_spSeen (f : Regs → Regs) : (s.regsUpd f).spSeen = s.spSeen := rfl
@[simp] theorem regsUpd_parFlips (f : Regs → Regs) : (s.regsUpd f).parFlips = s.parFlips := rfl
@[simp] theorem regsUpd_abStamp (f : Regs → Regs) : (s.regsUpd f).abStamp = s.abStamp := rfl
@[simp] theorem regsUpd_spStamp (f : Regs → Regs) : (s.regsUpd f).spStamp = s.spStamp := rfl
@[simp] theorem regsUpd_abMark (f : Regs → Regs) : (s.regsUpd f).abMark = s.abMark := rfl
@[simp] theorem regsUpd_spMark (f : Regs → Regs) : (s.regsUpd f).spMark = s.spMark := rfl
@[simp] theorem regsUpd_ops (f : Regs → Regs) : (s.regsUpd f).ops = s.ops := rfl
@[simp] theorem regsUpd_cmds (f : Regs → Regs) : (s.regsUpd f).cmds = s.cmds := rfl
@[simp] theorem regsUpd_elems (f : Regs → Regs) : (s.regsUpd f).elems = s.elems := rfl
@[simp] theorem regsUpd_ladles (f : Regs → Regs) : (s.regsUpd f).ladles = s.ladles := rfl
@[simp] theorem regsUpd_griddles (f : Regs → Regs) : (s.regsUpd f).griddles = s.griddles := rfl
@[simp] theorem regsUpd_octets (f : Regs → Regs) : (s.regsUpd f).octets = s.octets := rfl
@[simp] theorem regsUpd_cores (f : Regs → Regs) : (s.regsUpd f).cores = s.cores := rfl
@[simp] theorem regsUpd_monitors (f : Regs → Regs) : (s.regsUpd f).monitors = s.monitors := rfl
@[simp] theorem regsUpd_tlb (f : Regs → Regs) : (s.regsUpd f).tlb = s.tlb := rfl
@[simp] theorem regsUpd_sync (f : Regs → Regs) : (s.regsUpd f).sync = s.sync := rfl
@[simp] theorem regsUpd_synmap (f : Regs → Regs) : (s.regsUpd f).synmap = s.synmap := rfl
@[simp] theorem regsUpd_rings (f : Regs → Regs) : (s.regsUpd f).rings = s.rings := rfl
@[simp] theorem regsUpd_fltcnt (f : Regs → Regs) : (s.regsUpd f).fltcnt = s.fltcnt := rfl
@[simp] theorem regsUpd_gangs (f : Regs → Regs) : (s.regsUpd f).gangs = s.gangs := rfl
@[simp] theorem regsUpd_fab (f : Regs → Regs) : (s.regsUpd f).fab = s.fab := rfl
@[simp] theorem regsUpd_links (f : Regs → Regs) : (s.regsUpd f).links = s.links := rfl
@[simp] theorem regsUpd_svc (f : Regs → Regs) : (s.regsUpd f).svc = s.svc := rfl

/-! ## The issuing agent's control flow -/

@[simp] theorem flow_who (f : Flow → Flow) : (s.flow f).who = s.who := rfl
@[simp] theorem flow_c (f : Flow → Flow) : (s.flow f).c = { s.c with f := f s.c.f } := rfl
@[simp] theorem flow_parked (f : Flow → Flow) : (s.flow f).parked = s.parked := rfl
@[simp] theorem flow_agenda (f : Flow → Flow) : (s.flow f).agenda = s.agenda := rfl
@[simp] theorem flow_turn (f : Flow → Flow) : (s.flow f).turn = s.turn := rfl
@[simp] theorem flow_issue (f : Flow → Flow) : (s.flow f).issue = s.issue := rfl
@[simp] theorem flow_tick (f : Flow → Flow) : (s.flow f).tick = s.tick := rfl
@[simp] theorem flow_clock (f : Flow → Flow) : (s.flow f).clock = s.clock := rfl
@[simp] theorem flow_serial (f : Flow → Flow) : (s.flow f).serial = s.serial := rfl
@[simp] theorem flow_regs (f : Flow → Flow) : (s.flow f).regs = s.regs := rfl
@[simp] theorem flow_ab (f : Flow → Flow) : (s.flow f).ab = s.ab := rfl
@[simp] theorem flow_sp (f : Flow → Flow) : (s.flow f).sp = s.sp := rfl
@[simp] theorem flow_tmem (f : Flow → Flow) : (s.flow f).tmem = s.tmem := rfl
@[simp] theorem flow_imem (f : Flow → Flow) : (s.flow f).imem = s.imem := rfl
@[simp] theorem flow_hbm (f : Flow → Flow) : (s.flow f).hbm = s.hbm := rfl
@[simp] theorem flow_hbmSeen (f : Flow → Flow) : (s.flow f).hbmSeen = s.hbmSeen := rfl
@[simp] theorem flow_spSeen (f : Flow → Flow) : (s.flow f).spSeen = s.spSeen := rfl
@[simp] theorem flow_parFlips (f : Flow → Flow) : (s.flow f).parFlips = s.parFlips := rfl
@[simp] theorem flow_abStamp (f : Flow → Flow) : (s.flow f).abStamp = s.abStamp := rfl
@[simp] theorem flow_spStamp (f : Flow → Flow) : (s.flow f).spStamp = s.spStamp := rfl
@[simp] theorem flow_abMark (f : Flow → Flow) : (s.flow f).abMark = s.abMark := rfl
@[simp] theorem flow_spMark (f : Flow → Flow) : (s.flow f).spMark = s.spMark := rfl
@[simp] theorem flow_ops (f : Flow → Flow) : (s.flow f).ops = s.ops := rfl
@[simp] theorem flow_cmds (f : Flow → Flow) : (s.flow f).cmds = s.cmds := rfl
@[simp] theorem flow_elems (f : Flow → Flow) : (s.flow f).elems = s.elems := rfl
@[simp] theorem flow_ladles (f : Flow → Flow) : (s.flow f).ladles = s.ladles := rfl
@[simp] theorem flow_griddles (f : Flow → Flow) : (s.flow f).griddles = s.griddles := rfl
@[simp] theorem flow_octets (f : Flow → Flow) : (s.flow f).octets = s.octets := rfl
@[simp] theorem flow_cores (f : Flow → Flow) : (s.flow f).cores = s.cores := rfl
@[simp] theorem flow_monitors (f : Flow → Flow) : (s.flow f).monitors = s.monitors := rfl
@[simp] theorem flow_tlb (f : Flow → Flow) : (s.flow f).tlb = s.tlb := rfl
@[simp] theorem flow_sync (f : Flow → Flow) : (s.flow f).sync = s.sync := rfl
@[simp] theorem flow_synmap (f : Flow → Flow) : (s.flow f).synmap = s.synmap := rfl
@[simp] theorem flow_rings (f : Flow → Flow) : (s.flow f).rings = s.rings := rfl
@[simp] theorem flow_fltcnt (f : Flow → Flow) : (s.flow f).fltcnt = s.fltcnt := rfl
@[simp] theorem flow_gangs (f : Flow → Flow) : (s.flow f).gangs = s.gangs := rfl
@[simp] theorem flow_fab (f : Flow → Flow) : (s.flow f).fab = s.fab := rfl
@[simp] theorem flow_links (f : Flow → Flow) : (s.flow f).links = s.links := rfl
@[simp] theorem flow_svc (f : Flow → Flow) : (s.flow f).svc = s.svc := rfl

/-! ## The issuing agent's system state -/

@[simp] theorem sys_who (f : Sys → Sys) : (s.sys f).who = s.who := rfl
@[simp] theorem sys_c (f : Sys → Sys) : (s.sys f).c = { s.c with y := f s.c.y } := rfl
@[simp] theorem sys_parked (f : Sys → Sys) : (s.sys f).parked = s.parked := rfl
@[simp] theorem sys_agenda (f : Sys → Sys) : (s.sys f).agenda = s.agenda := rfl
@[simp] theorem sys_turn (f : Sys → Sys) : (s.sys f).turn = s.turn := rfl
@[simp] theorem sys_issue (f : Sys → Sys) : (s.sys f).issue = s.issue := rfl
@[simp] theorem sys_tick (f : Sys → Sys) : (s.sys f).tick = s.tick := rfl
@[simp] theorem sys_clock (f : Sys → Sys) : (s.sys f).clock = s.clock := rfl
@[simp] theorem sys_serial (f : Sys → Sys) : (s.sys f).serial = s.serial := rfl
@[simp] theorem sys_regs (f : Sys → Sys) : (s.sys f).regs = s.regs := rfl
@[simp] theorem sys_ab (f : Sys → Sys) : (s.sys f).ab = s.ab := rfl
@[simp] theorem sys_sp (f : Sys → Sys) : (s.sys f).sp = s.sp := rfl
@[simp] theorem sys_tmem (f : Sys → Sys) : (s.sys f).tmem = s.tmem := rfl
@[simp] theorem sys_imem (f : Sys → Sys) : (s.sys f).imem = s.imem := rfl
@[simp] theorem sys_hbm (f : Sys → Sys) : (s.sys f).hbm = s.hbm := rfl
@[simp] theorem sys_hbmSeen (f : Sys → Sys) : (s.sys f).hbmSeen = s.hbmSeen := rfl
@[simp] theorem sys_spSeen (f : Sys → Sys) : (s.sys f).spSeen = s.spSeen := rfl
@[simp] theorem sys_parFlips (f : Sys → Sys) : (s.sys f).parFlips = s.parFlips := rfl
@[simp] theorem sys_abStamp (f : Sys → Sys) : (s.sys f).abStamp = s.abStamp := rfl
@[simp] theorem sys_spStamp (f : Sys → Sys) : (s.sys f).spStamp = s.spStamp := rfl
@[simp] theorem sys_abMark (f : Sys → Sys) : (s.sys f).abMark = s.abMark := rfl
@[simp] theorem sys_spMark (f : Sys → Sys) : (s.sys f).spMark = s.spMark := rfl
@[simp] theorem sys_ops (f : Sys → Sys) : (s.sys f).ops = s.ops := rfl
@[simp] theorem sys_cmds (f : Sys → Sys) : (s.sys f).cmds = s.cmds := rfl
@[simp] theorem sys_elems (f : Sys → Sys) : (s.sys f).elems = s.elems := rfl
@[simp] theorem sys_ladles (f : Sys → Sys) : (s.sys f).ladles = s.ladles := rfl
@[simp] theorem sys_griddles (f : Sys → Sys) : (s.sys f).griddles = s.griddles := rfl
@[simp] theorem sys_octets (f : Sys → Sys) : (s.sys f).octets = s.octets := rfl
@[simp] theorem sys_cores (f : Sys → Sys) : (s.sys f).cores = s.cores := rfl
@[simp] theorem sys_monitors (f : Sys → Sys) : (s.sys f).monitors = s.monitors := rfl
@[simp] theorem sys_tlb (f : Sys → Sys) : (s.sys f).tlb = s.tlb := rfl
@[simp] theorem sys_sync (f : Sys → Sys) : (s.sys f).sync = s.sync := rfl
@[simp] theorem sys_synmap (f : Sys → Sys) : (s.sys f).synmap = s.synmap := rfl
@[simp] theorem sys_rings (f : Sys → Sys) : (s.sys f).rings = s.rings := rfl
@[simp] theorem sys_fltcnt (f : Sys → Sys) : (s.sys f).fltcnt = s.fltcnt := rfl
@[simp] theorem sys_gangs (f : Sys → Sys) : (s.sys f).gangs = s.gangs := rfl
@[simp] theorem sys_fab (f : Sys → Sys) : (s.sys f).fab = s.fab := rfl
@[simp] theorem sys_links (f : Sys → Sys) : (s.sys f).links = s.links := rfl
@[simp] theorem sys_svc (f : Sys → Sys) : (s.sys f).svc = s.svc := rfl

/-! ## The issuing agent's handler state -/

@[simp] theorem exc_who (f : Exc → Exc) : (s.exc f).who = s.who := rfl
@[simp] theorem exc_c (f : Exc → Exc) : (s.exc f).c = { s.c with e := f s.c.e } := rfl
@[simp] theorem exc_parked (f : Exc → Exc) : (s.exc f).parked = s.parked := rfl
@[simp] theorem exc_agenda (f : Exc → Exc) : (s.exc f).agenda = s.agenda := rfl
@[simp] theorem exc_turn (f : Exc → Exc) : (s.exc f).turn = s.turn := rfl
@[simp] theorem exc_issue (f : Exc → Exc) : (s.exc f).issue = s.issue := rfl
@[simp] theorem exc_tick (f : Exc → Exc) : (s.exc f).tick = s.tick := rfl
@[simp] theorem exc_clock (f : Exc → Exc) : (s.exc f).clock = s.clock := rfl
@[simp] theorem exc_serial (f : Exc → Exc) : (s.exc f).serial = s.serial := rfl
@[simp] theorem exc_regs (f : Exc → Exc) : (s.exc f).regs = s.regs := rfl
@[simp] theorem exc_ab (f : Exc → Exc) : (s.exc f).ab = s.ab := rfl
@[simp] theorem exc_sp (f : Exc → Exc) : (s.exc f).sp = s.sp := rfl
@[simp] theorem exc_tmem (f : Exc → Exc) : (s.exc f).tmem = s.tmem := rfl
@[simp] theorem exc_imem (f : Exc → Exc) : (s.exc f).imem = s.imem := rfl
@[simp] theorem exc_hbm (f : Exc → Exc) : (s.exc f).hbm = s.hbm := rfl
@[simp] theorem exc_hbmSeen (f : Exc → Exc) : (s.exc f).hbmSeen = s.hbmSeen := rfl
@[simp] theorem exc_spSeen (f : Exc → Exc) : (s.exc f).spSeen = s.spSeen := rfl
@[simp] theorem exc_parFlips (f : Exc → Exc) : (s.exc f).parFlips = s.parFlips := rfl
@[simp] theorem exc_abStamp (f : Exc → Exc) : (s.exc f).abStamp = s.abStamp := rfl
@[simp] theorem exc_spStamp (f : Exc → Exc) : (s.exc f).spStamp = s.spStamp := rfl
@[simp] theorem exc_abMark (f : Exc → Exc) : (s.exc f).abMark = s.abMark := rfl
@[simp] theorem exc_spMark (f : Exc → Exc) : (s.exc f).spMark = s.spMark := rfl
@[simp] theorem exc_ops (f : Exc → Exc) : (s.exc f).ops = s.ops := rfl
@[simp] theorem exc_cmds (f : Exc → Exc) : (s.exc f).cmds = s.cmds := rfl
@[simp] theorem exc_elems (f : Exc → Exc) : (s.exc f).elems = s.elems := rfl
@[simp] theorem exc_ladles (f : Exc → Exc) : (s.exc f).ladles = s.ladles := rfl
@[simp] theorem exc_griddles (f : Exc → Exc) : (s.exc f).griddles = s.griddles := rfl
@[simp] theorem exc_octets (f : Exc → Exc) : (s.exc f).octets = s.octets := rfl
@[simp] theorem exc_cores (f : Exc → Exc) : (s.exc f).cores = s.cores := rfl
@[simp] theorem exc_monitors (f : Exc → Exc) : (s.exc f).monitors = s.monitors := rfl
@[simp] theorem exc_tlb (f : Exc → Exc) : (s.exc f).tlb = s.tlb := rfl
@[simp] theorem exc_sync (f : Exc → Exc) : (s.exc f).sync = s.sync := rfl
@[simp] theorem exc_synmap (f : Exc → Exc) : (s.exc f).synmap = s.synmap := rfl
@[simp] theorem exc_rings (f : Exc → Exc) : (s.exc f).rings = s.rings := rfl
@[simp] theorem exc_fltcnt (f : Exc → Exc) : (s.exc f).fltcnt = s.fltcnt := rfl
@[simp] theorem exc_gangs (f : Exc → Exc) : (s.exc f).gangs = s.gangs := rfl
@[simp] theorem exc_fab (f : Exc → Exc) : (s.exc f).fab = s.fab := rfl
@[simp] theorem exc_links (f : Exc → Exc) : (s.exc f).links = s.links := rfl
@[simp] theorem exc_svc (f : Exc → Exc) : (s.exc f).svc = s.svc := rfl

/-! ## A register outside the contexts -/

@[simp] theorem setReg_who (i n : Nat) (v : Word) : (s.setReg i n v).who = s.who := rfl
@[simp] theorem setReg_c (i n : Nat) (v : Word) : (s.setReg i n v).c = s.c := rfl
@[simp] theorem setReg_parked (i n : Nat) (v : Word) : (s.setReg i n v).parked = s.parked := rfl
@[simp] theorem setReg_agenda (i n : Nat) (v : Word) : (s.setReg i n v).agenda = s.agenda := rfl
@[simp] theorem setReg_turn (i n : Nat) (v : Word) : (s.setReg i n v).turn = s.turn := rfl
@[simp] theorem setReg_issue (i n : Nat) (v : Word) : (s.setReg i n v).issue = s.issue := rfl
@[simp] theorem setReg_tick (i n : Nat) (v : Word) : (s.setReg i n v).tick = s.tick := rfl
@[simp] theorem setReg_clock (i n : Nat) (v : Word) : (s.setReg i n v).clock = s.clock := rfl
@[simp] theorem setReg_serial (i n : Nat) (v : Word) : (s.setReg i n v).serial = s.serial := rfl
@[simp] theorem setReg_regs (i n : Nat) (v : Word) : (s.setReg i n v).regs = SMap.set (fun k => SysReg.reset (k % 4096)) s.regs (i * 4096 + n) v := rfl
@[simp] theorem setReg_ab (i n : Nat) (v : Word) : (s.setReg i n v).ab = s.ab := rfl
@[simp] theorem setReg_sp (i n : Nat) (v : Word) : (s.setReg i n v).sp = s.sp := rfl
@[simp] theorem setReg_tmem (i n : Nat) (v : Word) : (s.setReg i n v).tmem = s.tmem := rfl
@[simp] theorem setReg_imem (i n : Nat) (v : Word) : (s.setReg i n v).imem = s.imem := rfl
@[simp] theorem setReg_hbm (i n : Nat) (v : Word) : (s.setReg i n v).hbm = s.hbm := rfl
@[simp] theorem setReg_hbmSeen (i n : Nat) (v : Word) : (s.setReg i n v).hbmSeen = s.hbmSeen := rfl
@[simp] theorem setReg_spSeen (i n : Nat) (v : Word) : (s.setReg i n v).spSeen = s.spSeen := rfl
@[simp] theorem setReg_parFlips (i n : Nat) (v : Word) : (s.setReg i n v).parFlips = s.parFlips := rfl
@[simp] theorem setReg_abStamp (i n : Nat) (v : Word) : (s.setReg i n v).abStamp = s.abStamp := rfl
@[simp] theorem setReg_spStamp (i n : Nat) (v : Word) : (s.setReg i n v).spStamp = s.spStamp := rfl
@[simp] theorem setReg_abMark (i n : Nat) (v : Word) : (s.setReg i n v).abMark = s.abMark := rfl
@[simp] theorem setReg_spMark (i n : Nat) (v : Word) : (s.setReg i n v).spMark = s.spMark := rfl
@[simp] theorem setReg_ops (i n : Nat) (v : Word) : (s.setReg i n v).ops = s.ops := rfl
@[simp] theorem setReg_cmds (i n : Nat) (v : Word) : (s.setReg i n v).cmds = s.cmds := rfl
@[simp] theorem setReg_elems (i n : Nat) (v : Word) : (s.setReg i n v).elems = s.elems := rfl
@[simp] theorem setReg_ladles (i n : Nat) (v : Word) : (s.setReg i n v).ladles = s.ladles := rfl
@[simp] theorem setReg_griddles (i n : Nat) (v : Word) : (s.setReg i n v).griddles = s.griddles := rfl
@[simp] theorem setReg_octets (i n : Nat) (v : Word) : (s.setReg i n v).octets = s.octets := rfl
@[simp] theorem setReg_cores (i n : Nat) (v : Word) : (s.setReg i n v).cores = s.cores := rfl
@[simp] theorem setReg_monitors (i n : Nat) (v : Word) : (s.setReg i n v).monitors = s.monitors := rfl
@[simp] theorem setReg_tlb (i n : Nat) (v : Word) : (s.setReg i n v).tlb = s.tlb := rfl
@[simp] theorem setReg_sync (i n : Nat) (v : Word) : (s.setReg i n v).sync = s.sync := rfl
@[simp] theorem setReg_synmap (i n : Nat) (v : Word) : (s.setReg i n v).synmap = s.synmap := rfl
@[simp] theorem setReg_rings (i n : Nat) (v : Word) : (s.setReg i n v).rings = s.rings := rfl
@[simp] theorem setReg_fltcnt (i n : Nat) (v : Word) : (s.setReg i n v).fltcnt = s.fltcnt := rfl
@[simp] theorem setReg_gangs (i n : Nat) (v : Word) : (s.setReg i n v).gangs = s.gangs := rfl
@[simp] theorem setReg_fab (i n : Nat) (v : Word) : (s.setReg i n v).fab = s.fab := rfl
@[simp] theorem setReg_links (i n : Nat) (v : Word) : (s.setReg i n v).links = s.links := rfl
@[simp] theorem setReg_svc (i n : Nat) (v : Word) : (s.setReg i n v).svc = s.svc := rfl

/-! ## A Ladle -/

@[simp] theorem updLadle_who (l : Nat) (f : Ladle → Ladle) : (s.updLadle l f).who = s.who := rfl
@[simp] theorem updLadle_c (l : Nat) (f : Ladle → Ladle) : (s.updLadle l f).c = s.c := rfl
@[simp] theorem updLadle_parked (l : Nat) (f : Ladle → Ladle) : (s.updLadle l f).parked = s.parked := rfl
@[simp] theorem updLadle_agenda (l : Nat) (f : Ladle → Ladle) : (s.updLadle l f).agenda = s.agenda := rfl
@[simp] theorem updLadle_turn (l : Nat) (f : Ladle → Ladle) : (s.updLadle l f).turn = s.turn := rfl
@[simp] theorem updLadle_issue (l : Nat) (f : Ladle → Ladle) : (s.updLadle l f).issue = s.issue := rfl
@[simp] theorem updLadle_tick (l : Nat) (f : Ladle → Ladle) : (s.updLadle l f).tick = s.tick := rfl
@[simp] theorem updLadle_clock (l : Nat) (f : Ladle → Ladle) : (s.updLadle l f).clock = s.clock := rfl
@[simp] theorem updLadle_serial (l : Nat) (f : Ladle → Ladle) : (s.updLadle l f).serial = s.serial := rfl
@[simp] theorem updLadle_regs (l : Nat) (f : Ladle → Ladle) : (s.updLadle l f).regs = s.regs := rfl
@[simp] theorem updLadle_ab (l : Nat) (f : Ladle → Ladle) : (s.updLadle l f).ab = s.ab := rfl
@[simp] theorem updLadle_sp (l : Nat) (f : Ladle → Ladle) : (s.updLadle l f).sp = s.sp := rfl
@[simp] theorem updLadle_tmem (l : Nat) (f : Ladle → Ladle) : (s.updLadle l f).tmem = s.tmem := rfl
@[simp] theorem updLadle_imem (l : Nat) (f : Ladle → Ladle) : (s.updLadle l f).imem = s.imem := rfl
@[simp] theorem updLadle_hbm (l : Nat) (f : Ladle → Ladle) : (s.updLadle l f).hbm = s.hbm := rfl
@[simp] theorem updLadle_hbmSeen (l : Nat) (f : Ladle → Ladle) : (s.updLadle l f).hbmSeen = s.hbmSeen := rfl
@[simp] theorem updLadle_spSeen (l : Nat) (f : Ladle → Ladle) : (s.updLadle l f).spSeen = s.spSeen := rfl
@[simp] theorem updLadle_parFlips (l : Nat) (f : Ladle → Ladle) : (s.updLadle l f).parFlips = s.parFlips := rfl
@[simp] theorem updLadle_abStamp (l : Nat) (f : Ladle → Ladle) : (s.updLadle l f).abStamp = s.abStamp := rfl
@[simp] theorem updLadle_spStamp (l : Nat) (f : Ladle → Ladle) : (s.updLadle l f).spStamp = s.spStamp := rfl
@[simp] theorem updLadle_abMark (l : Nat) (f : Ladle → Ladle) : (s.updLadle l f).abMark = s.abMark := rfl
@[simp] theorem updLadle_spMark (l : Nat) (f : Ladle → Ladle) : (s.updLadle l f).spMark = s.spMark := rfl
@[simp] theorem updLadle_ops (l : Nat) (f : Ladle → Ladle) : (s.updLadle l f).ops = s.ops := rfl
@[simp] theorem updLadle_cmds (l : Nat) (f : Ladle → Ladle) : (s.updLadle l f).cmds = s.cmds := rfl
@[simp] theorem updLadle_elems (l : Nat) (f : Ladle → Ladle) : (s.updLadle l f).elems = s.elems := rfl
@[simp] theorem updLadle_ladles (l : Nat) (f : Ladle → Ladle) : (s.updLadle l f).ladles = SMap.put Ladle.idle s.ladles l (f (s.ladle l)) := rfl
@[simp] theorem updLadle_griddles (l : Nat) (f : Ladle → Ladle) : (s.updLadle l f).griddles = s.griddles := rfl
@[simp] theorem updLadle_octets (l : Nat) (f : Ladle → Ladle) : (s.updLadle l f).octets = s.octets := rfl
@[simp] theorem updLadle_cores (l : Nat) (f : Ladle → Ladle) : (s.updLadle l f).cores = s.cores := rfl
@[simp] theorem updLadle_monitors (l : Nat) (f : Ladle → Ladle) : (s.updLadle l f).monitors = s.monitors := rfl
@[simp] theorem updLadle_tlb (l : Nat) (f : Ladle → Ladle) : (s.updLadle l f).tlb = s.tlb := rfl
@[simp] theorem updLadle_sync (l : Nat) (f : Ladle → Ladle) : (s.updLadle l f).sync = s.sync := rfl
@[simp] theorem updLadle_synmap (l : Nat) (f : Ladle → Ladle) : (s.updLadle l f).synmap = s.synmap := rfl
@[simp] theorem updLadle_rings (l : Nat) (f : Ladle → Ladle) : (s.updLadle l f).rings = s.rings := rfl
@[simp] theorem updLadle_fltcnt (l : Nat) (f : Ladle → Ladle) : (s.updLadle l f).fltcnt = s.fltcnt := rfl
@[simp] theorem updLadle_gangs (l : Nat) (f : Ladle → Ladle) : (s.updLadle l f).gangs = s.gangs := rfl
@[simp] theorem updLadle_fab (l : Nat) (f : Ladle → Ladle) : (s.updLadle l f).fab = s.fab := rfl
@[simp] theorem updLadle_links (l : Nat) (f : Ladle → Ladle) : (s.updLadle l f).links = s.links := rfl
@[simp] theorem updLadle_svc (l : Nat) (f : Ladle → Ladle) : (s.updLadle l f).svc = s.svc := rfl

/-! ## A Griddle -/

@[simp] theorem updGriddle_who (k : Nat) (f : Griddle → Griddle) : (s.updGriddle k f).who = s.who := rfl
@[simp] theorem updGriddle_c (k : Nat) (f : Griddle → Griddle) : (s.updGriddle k f).c = s.c := rfl
@[simp] theorem updGriddle_parked (k : Nat) (f : Griddle → Griddle) : (s.updGriddle k f).parked = s.parked := rfl
@[simp] theorem updGriddle_agenda (k : Nat) (f : Griddle → Griddle) : (s.updGriddle k f).agenda = s.agenda := rfl
@[simp] theorem updGriddle_turn (k : Nat) (f : Griddle → Griddle) : (s.updGriddle k f).turn = s.turn := rfl
@[simp] theorem updGriddle_issue (k : Nat) (f : Griddle → Griddle) : (s.updGriddle k f).issue = s.issue := rfl
@[simp] theorem updGriddle_tick (k : Nat) (f : Griddle → Griddle) : (s.updGriddle k f).tick = s.tick := rfl
@[simp] theorem updGriddle_clock (k : Nat) (f : Griddle → Griddle) : (s.updGriddle k f).clock = s.clock := rfl
@[simp] theorem updGriddle_serial (k : Nat) (f : Griddle → Griddle) : (s.updGriddle k f).serial = s.serial := rfl
@[simp] theorem updGriddle_regs (k : Nat) (f : Griddle → Griddle) : (s.updGriddle k f).regs = s.regs := rfl
@[simp] theorem updGriddle_ab (k : Nat) (f : Griddle → Griddle) : (s.updGriddle k f).ab = s.ab := rfl
@[simp] theorem updGriddle_sp (k : Nat) (f : Griddle → Griddle) : (s.updGriddle k f).sp = s.sp := rfl
@[simp] theorem updGriddle_tmem (k : Nat) (f : Griddle → Griddle) : (s.updGriddle k f).tmem = s.tmem := rfl
@[simp] theorem updGriddle_imem (k : Nat) (f : Griddle → Griddle) : (s.updGriddle k f).imem = s.imem := rfl
@[simp] theorem updGriddle_hbm (k : Nat) (f : Griddle → Griddle) : (s.updGriddle k f).hbm = s.hbm := rfl
@[simp] theorem updGriddle_hbmSeen (k : Nat) (f : Griddle → Griddle) : (s.updGriddle k f).hbmSeen = s.hbmSeen := rfl
@[simp] theorem updGriddle_spSeen (k : Nat) (f : Griddle → Griddle) : (s.updGriddle k f).spSeen = s.spSeen := rfl
@[simp] theorem updGriddle_parFlips (k : Nat) (f : Griddle → Griddle) : (s.updGriddle k f).parFlips = s.parFlips := rfl
@[simp] theorem updGriddle_abStamp (k : Nat) (f : Griddle → Griddle) : (s.updGriddle k f).abStamp = s.abStamp := rfl
@[simp] theorem updGriddle_spStamp (k : Nat) (f : Griddle → Griddle) : (s.updGriddle k f).spStamp = s.spStamp := rfl
@[simp] theorem updGriddle_abMark (k : Nat) (f : Griddle → Griddle) : (s.updGriddle k f).abMark = s.abMark := rfl
@[simp] theorem updGriddle_spMark (k : Nat) (f : Griddle → Griddle) : (s.updGriddle k f).spMark = s.spMark := rfl
@[simp] theorem updGriddle_ops (k : Nat) (f : Griddle → Griddle) : (s.updGriddle k f).ops = s.ops := rfl
@[simp] theorem updGriddle_cmds (k : Nat) (f : Griddle → Griddle) : (s.updGriddle k f).cmds = s.cmds := rfl
@[simp] theorem updGriddle_elems (k : Nat) (f : Griddle → Griddle) : (s.updGriddle k f).elems = s.elems := rfl
@[simp] theorem updGriddle_ladles (k : Nat) (f : Griddle → Griddle) : (s.updGriddle k f).ladles = s.ladles := rfl
@[simp] theorem updGriddle_griddles (k : Nat) (f : Griddle → Griddle) : (s.updGriddle k f).griddles = SMap.put Griddle.zero s.griddles k (f (s.griddle k)) := rfl
@[simp] theorem updGriddle_octets (k : Nat) (f : Griddle → Griddle) : (s.updGriddle k f).octets = s.octets := rfl
@[simp] theorem updGriddle_cores (k : Nat) (f : Griddle → Griddle) : (s.updGriddle k f).cores = s.cores := rfl
@[simp] theorem updGriddle_monitors (k : Nat) (f : Griddle → Griddle) : (s.updGriddle k f).monitors = s.monitors := rfl
@[simp] theorem updGriddle_tlb (k : Nat) (f : Griddle → Griddle) : (s.updGriddle k f).tlb = s.tlb := rfl
@[simp] theorem updGriddle_sync (k : Nat) (f : Griddle → Griddle) : (s.updGriddle k f).sync = s.sync := rfl
@[simp] theorem updGriddle_synmap (k : Nat) (f : Griddle → Griddle) : (s.updGriddle k f).synmap = s.synmap := rfl
@[simp] theorem updGriddle_rings (k : Nat) (f : Griddle → Griddle) : (s.updGriddle k f).rings = s.rings := rfl
@[simp] theorem updGriddle_fltcnt (k : Nat) (f : Griddle → Griddle) : (s.updGriddle k f).fltcnt = s.fltcnt := rfl
@[simp] theorem updGriddle_gangs (k : Nat) (f : Griddle → Griddle) : (s.updGriddle k f).gangs = s.gangs := rfl
@[simp] theorem updGriddle_fab (k : Nat) (f : Griddle → Griddle) : (s.updGriddle k f).fab = s.fab := rfl
@[simp] theorem updGriddle_links (k : Nat) (f : Griddle → Griddle) : (s.updGriddle k f).links = s.links := rfl
@[simp] theorem updGriddle_svc (k : Nat) (f : Griddle → Griddle) : (s.updGriddle k f).svc = s.svc := rfl

/-! ## A core's issue state -/

@[simp] theorem updCore_who (k : Nat) (f : CoreSt → CoreSt) : (s.updCore k f).who = s.who := rfl
@[simp] theorem updCore_c (k : Nat) (f : CoreSt → CoreSt) : (s.updCore k f).c = s.c := rfl
@[simp] theorem updCore_parked (k : Nat) (f : CoreSt → CoreSt) : (s.updCore k f).parked = s.parked := rfl
@[simp] theorem updCore_agenda (k : Nat) (f : CoreSt → CoreSt) : (s.updCore k f).agenda = s.agenda := rfl
@[simp] theorem updCore_turn (k : Nat) (f : CoreSt → CoreSt) : (s.updCore k f).turn = s.turn := rfl
@[simp] theorem updCore_issue (k : Nat) (f : CoreSt → CoreSt) : (s.updCore k f).issue = s.issue := rfl
@[simp] theorem updCore_tick (k : Nat) (f : CoreSt → CoreSt) : (s.updCore k f).tick = s.tick := rfl
@[simp] theorem updCore_clock (k : Nat) (f : CoreSt → CoreSt) : (s.updCore k f).clock = s.clock := rfl
@[simp] theorem updCore_serial (k : Nat) (f : CoreSt → CoreSt) : (s.updCore k f).serial = s.serial := rfl
@[simp] theorem updCore_regs (k : Nat) (f : CoreSt → CoreSt) : (s.updCore k f).regs = s.regs := rfl
@[simp] theorem updCore_ab (k : Nat) (f : CoreSt → CoreSt) : (s.updCore k f).ab = s.ab := rfl
@[simp] theorem updCore_sp (k : Nat) (f : CoreSt → CoreSt) : (s.updCore k f).sp = s.sp := rfl
@[simp] theorem updCore_tmem (k : Nat) (f : CoreSt → CoreSt) : (s.updCore k f).tmem = s.tmem := rfl
@[simp] theorem updCore_imem (k : Nat) (f : CoreSt → CoreSt) : (s.updCore k f).imem = s.imem := rfl
@[simp] theorem updCore_hbm (k : Nat) (f : CoreSt → CoreSt) : (s.updCore k f).hbm = s.hbm := rfl
@[simp] theorem updCore_hbmSeen (k : Nat) (f : CoreSt → CoreSt) : (s.updCore k f).hbmSeen = s.hbmSeen := rfl
@[simp] theorem updCore_spSeen (k : Nat) (f : CoreSt → CoreSt) : (s.updCore k f).spSeen = s.spSeen := rfl
@[simp] theorem updCore_parFlips (k : Nat) (f : CoreSt → CoreSt) : (s.updCore k f).parFlips = s.parFlips := rfl
@[simp] theorem updCore_abStamp (k : Nat) (f : CoreSt → CoreSt) : (s.updCore k f).abStamp = s.abStamp := rfl
@[simp] theorem updCore_spStamp (k : Nat) (f : CoreSt → CoreSt) : (s.updCore k f).spStamp = s.spStamp := rfl
@[simp] theorem updCore_abMark (k : Nat) (f : CoreSt → CoreSt) : (s.updCore k f).abMark = s.abMark := rfl
@[simp] theorem updCore_spMark (k : Nat) (f : CoreSt → CoreSt) : (s.updCore k f).spMark = s.spMark := rfl
@[simp] theorem updCore_ops (k : Nat) (f : CoreSt → CoreSt) : (s.updCore k f).ops = s.ops := rfl
@[simp] theorem updCore_cmds (k : Nat) (f : CoreSt → CoreSt) : (s.updCore k f).cmds = s.cmds := rfl
@[simp] theorem updCore_elems (k : Nat) (f : CoreSt → CoreSt) : (s.updCore k f).elems = s.elems := rfl
@[simp] theorem updCore_ladles (k : Nat) (f : CoreSt → CoreSt) : (s.updCore k f).ladles = s.ladles := rfl
@[simp] theorem updCore_griddles (k : Nat) (f : CoreSt → CoreSt) : (s.updCore k f).griddles = s.griddles := rfl
@[simp] theorem updCore_octets (k : Nat) (f : CoreSt → CoreSt) : (s.updCore k f).octets = s.octets := rfl
@[simp] theorem updCore_cores (k : Nat) (f : CoreSt → CoreSt) : (s.updCore k f).cores = SMap.put CoreSt.reset s.cores k (f (s.core k)) := rfl
@[simp] theorem updCore_monitors (k : Nat) (f : CoreSt → CoreSt) : (s.updCore k f).monitors = s.monitors := rfl
@[simp] theorem updCore_tlb (k : Nat) (f : CoreSt → CoreSt) : (s.updCore k f).tlb = s.tlb := rfl
@[simp] theorem updCore_sync (k : Nat) (f : CoreSt → CoreSt) : (s.updCore k f).sync = s.sync := rfl
@[simp] theorem updCore_synmap (k : Nat) (f : CoreSt → CoreSt) : (s.updCore k f).synmap = s.synmap := rfl
@[simp] theorem updCore_rings (k : Nat) (f : CoreSt → CoreSt) : (s.updCore k f).rings = s.rings := rfl
@[simp] theorem updCore_fltcnt (k : Nat) (f : CoreSt → CoreSt) : (s.updCore k f).fltcnt = s.fltcnt := rfl
@[simp] theorem updCore_gangs (k : Nat) (f : CoreSt → CoreSt) : (s.updCore k f).gangs = s.gangs := rfl
@[simp] theorem updCore_fab (k : Nat) (f : CoreSt → CoreSt) : (s.updCore k f).fab = s.fab := rfl
@[simp] theorem updCore_links (k : Nat) (f : CoreSt → CoreSt) : (s.updCore k f).links = s.links := rfl
@[simp] theorem updCore_svc (k : Nat) (f : CoreSt → CoreSt) : (s.updCore k f).svc = s.svc := rfl

/-! ## A gang -/

@[simp] theorem updGang_who (g : Nat) (f : Gang → Gang) : (s.updGang g f).who = s.who := rfl
@[simp] theorem updGang_c (g : Nat) (f : Gang → Gang) : (s.updGang g f).c = s.c := rfl
@[simp] theorem updGang_parked (g : Nat) (f : Gang → Gang) : (s.updGang g f).parked = s.parked := rfl
@[simp] theorem updGang_agenda (g : Nat) (f : Gang → Gang) : (s.updGang g f).agenda = s.agenda := rfl
@[simp] theorem updGang_turn (g : Nat) (f : Gang → Gang) : (s.updGang g f).turn = s.turn := rfl
@[simp] theorem updGang_issue (g : Nat) (f : Gang → Gang) : (s.updGang g f).issue = s.issue := rfl
@[simp] theorem updGang_tick (g : Nat) (f : Gang → Gang) : (s.updGang g f).tick = s.tick := rfl
@[simp] theorem updGang_clock (g : Nat) (f : Gang → Gang) : (s.updGang g f).clock = s.clock := rfl
@[simp] theorem updGang_serial (g : Nat) (f : Gang → Gang) : (s.updGang g f).serial = s.serial := rfl
@[simp] theorem updGang_regs (g : Nat) (f : Gang → Gang) : (s.updGang g f).regs = s.regs := rfl
@[simp] theorem updGang_ab (g : Nat) (f : Gang → Gang) : (s.updGang g f).ab = s.ab := rfl
@[simp] theorem updGang_sp (g : Nat) (f : Gang → Gang) : (s.updGang g f).sp = s.sp := rfl
@[simp] theorem updGang_tmem (g : Nat) (f : Gang → Gang) : (s.updGang g f).tmem = s.tmem := rfl
@[simp] theorem updGang_imem (g : Nat) (f : Gang → Gang) : (s.updGang g f).imem = s.imem := rfl
@[simp] theorem updGang_hbm (g : Nat) (f : Gang → Gang) : (s.updGang g f).hbm = s.hbm := rfl
@[simp] theorem updGang_hbmSeen (g : Nat) (f : Gang → Gang) : (s.updGang g f).hbmSeen = s.hbmSeen := rfl
@[simp] theorem updGang_spSeen (g : Nat) (f : Gang → Gang) : (s.updGang g f).spSeen = s.spSeen := rfl
@[simp] theorem updGang_parFlips (g : Nat) (f : Gang → Gang) : (s.updGang g f).parFlips = s.parFlips := rfl
@[simp] theorem updGang_abStamp (g : Nat) (f : Gang → Gang) : (s.updGang g f).abStamp = s.abStamp := rfl
@[simp] theorem updGang_spStamp (g : Nat) (f : Gang → Gang) : (s.updGang g f).spStamp = s.spStamp := rfl
@[simp] theorem updGang_abMark (g : Nat) (f : Gang → Gang) : (s.updGang g f).abMark = s.abMark := rfl
@[simp] theorem updGang_spMark (g : Nat) (f : Gang → Gang) : (s.updGang g f).spMark = s.spMark := rfl
@[simp] theorem updGang_ops (g : Nat) (f : Gang → Gang) : (s.updGang g f).ops = s.ops := rfl
@[simp] theorem updGang_cmds (g : Nat) (f : Gang → Gang) : (s.updGang g f).cmds = s.cmds := rfl
@[simp] theorem updGang_elems (g : Nat) (f : Gang → Gang) : (s.updGang g f).elems = s.elems := rfl
@[simp] theorem updGang_ladles (g : Nat) (f : Gang → Gang) : (s.updGang g f).ladles = s.ladles := rfl
@[simp] theorem updGang_griddles (g : Nat) (f : Gang → Gang) : (s.updGang g f).griddles = s.griddles := rfl
@[simp] theorem updGang_octets (g : Nat) (f : Gang → Gang) : (s.updGang g f).octets = s.octets := rfl
@[simp] theorem updGang_cores (g : Nat) (f : Gang → Gang) : (s.updGang g f).cores = s.cores := rfl
@[simp] theorem updGang_monitors (g : Nat) (f : Gang → Gang) : (s.updGang g f).monitors = s.monitors := rfl
@[simp] theorem updGang_tlb (g : Nat) (f : Gang → Gang) : (s.updGang g f).tlb = s.tlb := rfl
@[simp] theorem updGang_sync (g : Nat) (f : Gang → Gang) : (s.updGang g f).sync = s.sync := rfl
@[simp] theorem updGang_synmap (g : Nat) (f : Gang → Gang) : (s.updGang g f).synmap = s.synmap := rfl
@[simp] theorem updGang_rings (g : Nat) (f : Gang → Gang) : (s.updGang g f).rings = s.rings := rfl
@[simp] theorem updGang_fltcnt (g : Nat) (f : Gang → Gang) : (s.updGang g f).fltcnt = s.fltcnt := rfl
@[simp] theorem updGang_gangs (g : Nat) (f : Gang → Gang) : (s.updGang g f).gangs = updWhere (fun x => x.id == g) f s.gangs := rfl
@[simp] theorem updGang_fab (g : Nat) (f : Gang → Gang) : (s.updGang g f).fab = s.fab := rfl
@[simp] theorem updGang_links (g : Nat) (f : Gang → Gang) : (s.updGang g f).links = s.links := rfl
@[simp] theorem updGang_svc (g : Nat) (f : Gang → Gang) : (s.updGang g f).svc = s.svc := rfl

/-! ## The services -/

@[simp] theorem updSvc_who (f : Services → Services) : (s.updSvc f).who = s.who := rfl
@[simp] theorem updSvc_c (f : Services → Services) : (s.updSvc f).c = s.c := rfl
@[simp] theorem updSvc_parked (f : Services → Services) : (s.updSvc f).parked = s.parked := rfl
@[simp] theorem updSvc_agenda (f : Services → Services) : (s.updSvc f).agenda = s.agenda := rfl
@[simp] theorem updSvc_turn (f : Services → Services) : (s.updSvc f).turn = s.turn := rfl
@[simp] theorem updSvc_issue (f : Services → Services) : (s.updSvc f).issue = s.issue := rfl
@[simp] theorem updSvc_tick (f : Services → Services) : (s.updSvc f).tick = s.tick := rfl
@[simp] theorem updSvc_clock (f : Services → Services) : (s.updSvc f).clock = s.clock := rfl
@[simp] theorem updSvc_serial (f : Services → Services) : (s.updSvc f).serial = s.serial := rfl
@[simp] theorem updSvc_regs (f : Services → Services) : (s.updSvc f).regs = s.regs := rfl
@[simp] theorem updSvc_ab (f : Services → Services) : (s.updSvc f).ab = s.ab := rfl
@[simp] theorem updSvc_sp (f : Services → Services) : (s.updSvc f).sp = s.sp := rfl
@[simp] theorem updSvc_tmem (f : Services → Services) : (s.updSvc f).tmem = s.tmem := rfl
@[simp] theorem updSvc_imem (f : Services → Services) : (s.updSvc f).imem = s.imem := rfl
@[simp] theorem updSvc_hbm (f : Services → Services) : (s.updSvc f).hbm = s.hbm := rfl
@[simp] theorem updSvc_hbmSeen (f : Services → Services) : (s.updSvc f).hbmSeen = s.hbmSeen := rfl
@[simp] theorem updSvc_spSeen (f : Services → Services) : (s.updSvc f).spSeen = s.spSeen := rfl
@[simp] theorem updSvc_parFlips (f : Services → Services) : (s.updSvc f).parFlips = s.parFlips := rfl
@[simp] theorem updSvc_abStamp (f : Services → Services) : (s.updSvc f).abStamp = s.abStamp := rfl
@[simp] theorem updSvc_spStamp (f : Services → Services) : (s.updSvc f).spStamp = s.spStamp := rfl
@[simp] theorem updSvc_abMark (f : Services → Services) : (s.updSvc f).abMark = s.abMark := rfl
@[simp] theorem updSvc_spMark (f : Services → Services) : (s.updSvc f).spMark = s.spMark := rfl
@[simp] theorem updSvc_ops (f : Services → Services) : (s.updSvc f).ops = s.ops := rfl
@[simp] theorem updSvc_cmds (f : Services → Services) : (s.updSvc f).cmds = s.cmds := rfl
@[simp] theorem updSvc_elems (f : Services → Services) : (s.updSvc f).elems = s.elems := rfl
@[simp] theorem updSvc_ladles (f : Services → Services) : (s.updSvc f).ladles = s.ladles := rfl
@[simp] theorem updSvc_griddles (f : Services → Services) : (s.updSvc f).griddles = s.griddles := rfl
@[simp] theorem updSvc_octets (f : Services → Services) : (s.updSvc f).octets = s.octets := rfl
@[simp] theorem updSvc_cores (f : Services → Services) : (s.updSvc f).cores = s.cores := rfl
@[simp] theorem updSvc_monitors (f : Services → Services) : (s.updSvc f).monitors = s.monitors := rfl
@[simp] theorem updSvc_tlb (f : Services → Services) : (s.updSvc f).tlb = s.tlb := rfl
@[simp] theorem updSvc_sync (f : Services → Services) : (s.updSvc f).sync = s.sync := rfl
@[simp] theorem updSvc_synmap (f : Services → Services) : (s.updSvc f).synmap = s.synmap := rfl
@[simp] theorem updSvc_rings (f : Services → Services) : (s.updSvc f).rings = s.rings := rfl
@[simp] theorem updSvc_fltcnt (f : Services → Services) : (s.updSvc f).fltcnt = s.fltcnt := rfl
@[simp] theorem updSvc_gangs (f : Services → Services) : (s.updSvc f).gangs = s.gangs := rfl
@[simp] theorem updSvc_fab (f : Services → Services) : (s.updSvc f).fab = s.fab := rfl
@[simp] theorem updSvc_links (f : Services → Services) : (s.updSvc f).links = s.links := rfl
@[simp] theorem updSvc_svc (f : Services → Services) : (s.updSvc f).svc = f s.svc := rfl

end Sys2Proof.Laws
end

