-- ==== Sys2Proof/Laws/Vector.lean ====
section
/-! SUPPORT. Vectors: elements of packed vectors and predicates, lane-group masks, channel heads that are ready, and what
the shared vector shapes issue (R187 to R191). -/

namespace Sys2Proof.Laws

open Sys2Proof.Machine Sys2Proof.Safety

/-! ## Elements -/

/-- The number that `vecOfElems` packs. -/
def packElems (w : Nat) (es : List Nat) : Nat := es.foldr (fun e acc => e % 2 ^ (8 * w) + acc * 2 ^ (8 * w)) 0

theorem packElems_lt (w : Nat) (es : List Nat) : packElems w es < 2 ^ (8 * w * es.length) := by
  induction es with
  | nil => simp [packElems]
  | cons e es ih =>
    have he : e % 2 ^ (8 * w) < 2 ^ (8 * w) := Nat.mod_lt _ (by positivity)
    have hs : 2 ^ (8 * w * (es.length + 1)) = 2 ^ (8 * w * es.length) * 2 ^ (8 * w) := by rw [← pow_add]; ring_nf
    have : packElems w (e :: es) = e % 2 ^ (8 * w) + packElems w es * 2 ^ (8 * w) := rfl
    rw [this, List.length_cons, hs]
    nlinarith [Nat.succ_le_of_lt ih, Nat.two_pow_pos (8 * w)]

theorem packElems_elem (w : Nat) (es : List Nat) (i : Nat) :
    natBits (packElems w es) (8 * w * i) (8 * w) = es.getD i 0 % 2 ^ (8 * w) := by
  induction es generalizing i with
  | nil => simp [packElems, natBits]
  | cons e es ih =>
    have he : e % 2 ^ (8 * w) < 2 ^ (8 * w) := Nat.mod_lt _ (by positivity)
    have : packElems w (e :: es) = e % 2 ^ (8 * w) + packElems w es * 2 ^ (8 * w) := rfl
    cases i with
    | zero => simp [natBits, this, Nat.add_mul_mod_self_right]
    | succ i =>
      have hp : 2 ^ (8 * w * (i + 1)) = 2 ^ (8 * w) * 2 ^ (8 * w * i) := by rw [← pow_add]; ring_nf
      have := ih i
      simp only [natBits] at this ⊢
      rw [‹packElems w (e :: es) = _›, hp, ← Nat.div_div_eq_div_mul, Nat.add_mul_div_right _ _ (by positivity),
        Nat.div_eq_of_lt he, Nat.zero_add, this]
      simp

/-- An element of a packed vector (R187). -/
theorem elemOf_vecOfElems (w : Nat) (es : List Nat) (i : Nat) (h : es.length * w ≤ 256) :
    elemOf (vecOfElems w es) w i = es.getD i 0 % 2 ^ (8 * w) := by
  have hl := packElems_lt w es
  have : packElems w es < 2 ^ 2048 := lt_of_lt_of_le hl (Nat.pow_le_pow_right (by norm_num) (by nlinarith))
  rw [← packElems_elem, elemOf, vecOfElems, BitVec.toNat_ofNat]
  change natBits (packElems w es % 2 ^ 2048) _ _ = _
  rw [Nat.mod_eq_of_lt this]

/-- The bytes above the last element of a packed vector are zero. -/
theorem byte_above_vecOfElems (w : Nat) (es : List Nat) (b : Nat) (h : es.length * w ≤ b) : elemOf (vecOfElems w es) 1 b = 0 := by
  have hl := packElems_lt w es
  have hb : packElems w es < 2 ^ (8 * b) := lt_of_lt_of_le hl (Nat.pow_le_pow_right (by norm_num) (by nlinarith))
  have hm : (packElems w es) % 2 ^ 2048 < 2 ^ (8 * b) := lt_of_le_of_lt (Nat.mod_le _ _) hb
  simp only [elemOf, vecOfElems, BitVec.toNat_ofNat, natBits, Nat.mul_one]
  change packElems w es % 2 ^ 2048 / 2 ^ (8 * b) % 2 ^ 8 = 0
  rw [Nat.div_eq_of_lt hm, Nat.zero_mod]

theorem elemOf_lt (v : Vec) (w i : Nat) : elemOf v w i < 2 ^ (8 * w) := Nat.mod_lt _ (by positivity)

theorem el_lt (s : State) (a : VOp) (w i : Nat) : s.el a w i < 2 ^ (8 * w) := elemOf_lt _ _ _

/-- A bit of a predicate built from tests of elements. -/
theorem predOf_getLsbD (w : Nat) (f : Nat → Bool) (b : Nat) (hw : 0 < w) (hd : 256 / w * w = 256) (hb : b < 256) :
    (predOf w f).getLsbD b = f (b / w) := by
  have key : ∀ n, n ≤ 256 / w → ∀ b, ((List.range n).foldl (fun acc i => if f i then acc + (2 ^ w - 1) * 2 ^ (w * i) else acc) 0).testBit b
      = (decide (b < w * n) && f (b / w)) ∧
      (List.range n).foldl (fun acc i => if f i then acc + (2 ^ w - 1) * 2 ^ (w * i) else acc) 0 < 2 ^ (w * n) := by
    intro n
    induction n with
    | zero => intro _ b; simp
    | succ n ih =>
      intro hn b
      obtain ⟨h1, h2⟩ := ih (by omega) b
      have h1' := fun b => (ih (by omega) b).1
      rw [List.range_succ, List.foldl_append]
      simp only [List.foldl_cons, List.foldl_nil]
      set x := (List.range n).foldl (fun acc i => if f i then acc + (2 ^ w - 1) * 2 ^ (w * i) else acc) 0
      have hp : 2 ^ (w * (n + 1)) = 2 ^ w * 2 ^ (w * n) := by rw [← pow_add]; ring_nf
      have hwp := Nat.two_pow_pos w
      have hs : w * (n + 1) = w * n + w := by ring
      have hc : w * n = n * w := Nat.mul_comm _ _
      by_cases hf : f n = true
      · simp only [hf, if_true]
        constructor
        · rw [Nat.add_comm, Nat.mul_comm (2 ^ w - 1), Nat.testBit_two_pow_mul_add _ h2]
          by_cases hbn : b < w * n
          · have : b < w * (n + 1) := by omega
            simp [hbn, this, h1]
          · simp only [hbn, if_false]
            by_cases hb2 : b < w * (n + 1)
            · have : b / w = n := by
                rw [Nat.div_eq_iff (by omega)]; constructor <;> omega
              simp [hb2, this, hf, Nat.testBit_two_pow_sub_one]
              omega
            · simp [hb2, Nat.testBit_two_pow_sub_one]
              omega
        · rw [hp]
          have : (2 ^ w - 1) * 2 ^ (w * n) = 2 ^ w * 2 ^ (w * n) - 2 ^ (w * n) := by
            rw [Nat.sub_mul, Nat.one_mul]
          have : 2 ^ (w * n) ≤ 2 ^ w * 2 ^ (w * n) := Nat.le_mul_of_pos_left _ hwp
          omega
      · simp only [hf]
        constructor
        · have e : (if false = true then x + (2 ^ w - 1) * 2 ^ (w * n) else x) = x := rfl
          simp only [Bool.not_eq_true] at hf
          simp only [Bool.false_eq_true, if_false]
          rw [h1]
          by_cases hbn : b < w * n
          · have : b < w * (n + 1) := by omega
            simp [hbn, this]
          · by_cases hb2 : b < w * (n + 1)
            · have : b / w = n := by
                rw [Nat.div_eq_iff (by omega)]; constructor <;> omega
              simp [hbn, this, hf]
            · simp [hbn, hb2]
        · simp only [Bool.false_eq_true, if_false]
          rw [hp]
          nlinarith
  obtain ⟨h1, h2⟩ := key (256 / w) le_rfl b
  have e : w * (256 / w) = 256 := by rw [Nat.mul_comm]; exact hd
  rw [e] at h1 h2
  rw [predOf, BitVec.getLsbD_ofNat, h1]
  simp [hb]

/-- A bit of a lane-group mask. -/
theorem groupMask_getLsbD (f : Nat → Bool) (g : Nat) (h : g < 4) : (groupMask f).getLsbD g = f g := by
  unfold groupMask
  have : g = 0 ∨ g = 1 ∨ g = 2 ∨ g = 3 := by omega
  cases h0 : f 0 <;> cases h1 : f 1 <;> cases h2 : f 2 <;> cases h3 : f 3 <;> rcases this with rfl | rfl | rfl | rfl <;>
    simp [boolNat, *]

/-! ## Channel heads -/

/-- Reading the heads of `as` records pops, finds errors, and changes nothing else (R97, R466). -/
theorem reading_spec (s : State) (as : List VOp) : ∃ pops, Noticed (s.iss fun i => { i with pops := pops }) (reading s as) := by
  have key : ∀ (l : List VOp) (s : State), ∃ pops, Noticed (s.iss fun i => { i with pops := pops }) (l.foldl readOp s) := by
    intro l
    induction l with
    | nil => exact fun s => ⟨s.issue.pops, .refl s⟩
    | cons a l ih =>
      intro s
      rw [List.foldl_cons, readOp]
      cases headCode a with
      | none => exact ih s
      | some n =>
        obtain ⟨p, hp⟩ := ih (s.readHead n)
        refine ⟨p, .trans ?_ hp⟩
        have h := noticed_noticeAS s (s.c.chan n).inSp (chanKey s.who (s.c.chan n) (s.c.chan n).cidx) 256
        exact h.iss fun i => { i with pops := p }
  exact key as s

/-- A channel head that is ready is read. -/
theorem touchHead_ready {s : State} {n : Nat} (h1 : (s.c.chan n).en = true) (h2 : bitAt (s.c.chan n).cfg 58 = false)
    (h3 : (s.c.chan n).prod ≠ (s.c.chan n).cons) : s.touchHead n = s.readHead n := by
  simp [State.touchHead, h1, h2, h3]

section
variable (s : State) (as : List VOp)

@[simp] theorem reading_nil : reading s [] = s := rfl

@[simp] theorem reading_c : (reading s as).c = s.c := by obtain ⟨p, h⟩ := reading_spec s as; exact h.c

@[simp] theorem reading_who : (reading s as).who = s.who := by obtain ⟨p, h⟩ := reading_spec s as; exact h.who

@[simp] theorem reading_stop : (reading s as).issue.stop = s.issue.stop := by
  obtain ⟨p, h⟩ := reading_spec s as; rw [h.issue]; rfl

@[simp] theorem reading_stall : (reading s as).issue.stall = s.issue.stall := by
  obtain ⟨p, h⟩ := reading_spec s as; rw [h.issue]; rfl

@[simp] theorem reading_vop (a : VOp) : (reading s as).vop a = s.vop a := by
  obtain ⟨p, h⟩ := reading_spec s as; rw [h.vop]; rfl

@[simp] theorem reading_rp : (reading s as).rp = s.rp := by funext n; simp [State.rp]
@[simp] theorem reading_pp : (reading s as).pp = s.pp := by funext n; simp [State.pp]
@[simp] theorem reading_ps : (reading s as).ps = s.ps := by funext n; simp [State.ps]
@[simp] theorem reading_rs : (reading s as).rs = s.rs := by funext n; simp [State.rs]
@[simp] theorem reading_el (a : VOp) (w i : Nat) : (reading s as).el a w i = s.el a w i := by simp [State.el]

end

/-- Operands whose heads are ready do not hold the slot back: it runs with the heads recorded (R97). -/
theorem withHeads_ready {s : State} {as : List VOp} (hc : Clear s) (h : HeadsReady s as) (f : State → State) :
    s.withHeads as f = .next (f (reading s as)) := by
  have key : ∀ (l : List VOp) (t : State), t.c = s.c → (∀ a ∈ l, a ∈ as) →
      l.foldl State.touchOp t = reading t l := by
    intro l
    induction l with
    | nil => intro t _ _; rfl
    | cons a l ih =>
      intro t ht hl
      have hl' : ∀ a ∈ l, a ∈ as := fun b hb => hl b (List.mem_cons_of_mem _ hb)
      unfold reading
      rw [List.foldl_cons, List.foldl_cons, State.touchOp, readOp]
      cases ha : headCode a with
      | none => exact ih t ht hl'
      | some n =>
        obtain ⟨h1, h2, h3⟩ := h a (hl a (List.mem_cons_self ..)) n ha
        rw [← ht] at h1 h2 h3
        simp only [touchHead_ready h1 h2 h3]
        exact ih _ ((noticed_noticeAS t _ _ _).c.trans ht) hl'
  unfold State.withHeads
  rw [key as s rfl fun a ha => ha]
  dsimp only
  rw [if_neg]
  simp [hc.1, hc.2]

/-! ## The shared shapes -/

/-- A width that divides the vector. -/
def Width (w : Nat) : Prop := w = 1 ∨ w = 2 ∨ w = 4 ∨ w = 8

theorem width_intW (t : BitVec 3) : Width (intW t) := by revert t; unfold Width; decide

theorem Width.full {w : Nat} (h : Width w) : 256 / w * w = 256 := by rcases h with rfl | rfl | rfl | rfl <;> rfl
theorem Width.pos {w : Nat} (h : Width w) : 0 < w := by rcases h with rfl | rfl | rfl | rfl <;> decide

/-- The merged elements of a result (R189). -/
theorem merged_vecOfElems {w : Nat} (hw : Width w) (p : Pred) (old : Vec) (f : Nat → Nat) (hf : ∀ i, f i < 2 ^ (8 * w)) :
    Merged p w old (vecOfElems w ((List.range (256 / w)).map fun i => if active p w i then f i else elemOf old w i)) f := by
  intro i hi
  rw [elemOf_vecOfElems _ _ _ (by simp [hw.full])]
  have : (((List.range (256 / w)).map fun i => if active p w i then f i else elemOf old w i).getD i 0)
      = if active p w i then f i else elemOf old w i := by simp [List.getD_eq_getElem?_getD, hi]
  rw [this]
  split
  · exact Nat.mod_eq_of_lt (hf i)
  · exact Nat.mod_eq_of_lt (elemOf_lt _ _ _)

/-- The elements of a result written whole. -/
theorem elems_of_map {w m : Nat} (hm : m * w ≤ 256) (f : Nat → Nat) (k : Nat) (hk : k < m) :
    elemOf (vecOfElems w ((List.range m).map f)) w k = f k % 2 ^ (8 * w) := by
  rw [elemOf_vecOfElems _ _ _ (by simpa using hm)]
  simp [List.getD_eq_getElem?_getD, hk]

theorem lanePoison_vecPoison (s : State) (pg : PReg) (w : Nat) (d : VReg) (as : List VOp) (scalars : List SReg) (whole : Bool) :
    LanePoison s pg w d as scalars (whole = true)
      (vecPoison .lane (s.pp pg || scalars.any s.ps) (s.rp pg) w (as.map fun a => (s.vop a).p) (s.c.r.readV d.toNat).p whole) := by
  intro g hg
  rw [vecPoison, groupMask_getLsbD _ _ hg]
  simp [groupIdle, List.any_eq_true, or_assoc]

theorem crossPoison_vecPoison (s : State) (guards : List PReg) (olds : List (BitVec 4)) (as : List VOp) (scalars : List SReg)
    (guard : Bool) (p : Pred) (w : Nat) (srcs : List (BitVec 4)) (old : BitVec 4) (whole : Bool)
    (hg : guard = true ↔ (∃ p ∈ guards, s.pp p = true) ∨ ∃ n ∈ scalars, s.ps n = true)
    (hs : (∃ q ∈ srcs, q ≠ 0#4) ∨ old ≠ 0#4 ↔ (∃ a ∈ as, (s.vop a).p ≠ 0#4) ∨ ∃ o ∈ olds, o ≠ 0#4) :
    CrossPoison s guards olds as scalars (vecPoison .cross guard p w srcs old whole) := by
  have e : (guard || srcs.any (· != 0#4) || old != 0#4) = true ↔
      ((∃ p ∈ guards, s.pp p = true) ∨ (∃ n ∈ scalars, s.ps n = true) ∨ (∃ a ∈ as, (s.vop a).p ≠ 0#4) ∨ (∃ o ∈ olds, o ≠ 0#4)) := by
    rw [Bool.or_eq_true, Bool.or_eq_true, hg]
    simp only [List.any_eq_true, bne_iff_ne] at *
    rw [or_assoc, hs, or_assoc]
  unfold vecPoison
  constructor
  · intro h; rw [if_pos (e.mpr h)]
  · intro h; rw [if_neg (fun x => h (e.mp x))]

/-- What a merging instruction with lane-wise poison issues. -/
theorem vmerge_lane {s : State} {n w : Nat} {whole : Bool} {pg : PReg} {d : VReg} {as : List VOp} {sc : List SReg} {f : Nat → Nat}
    (hc : Clear s) (hh : HeadsReady s as) (hw : Width w) (hf : ∀ i, f i < 2 ^ (8 * w)) :
    ∃ v q, s.vmerge n .lane whole pg w d as sc f = .next ((reading s as).holdV n d ⟨v, q⟩) ∧
      Merged (s.rp pg) w (s.c.r.readV d.toNat).v v f ∧ LanePoison s pg w d as sc (whole = true) q := by
  unfold State.vmerge
  rw [withHeads_ready hc hh]
  simp only [reading_c, reading_vop, reading_rp, reading_pp, reading_ps]
  exact ⟨_, _, rfl, merged_vecOfElems hw _ _ f hf, lanePoison_vecPoison s pg w d as sc whole⟩

/-- What a merging instruction with cross-lane poison issues. -/
theorem vmerge_cross {s : State} {n w : Nat} {whole : Bool} {pg : PReg} {d : VReg} {as : List VOp} {sc : List SReg} {f : Nat → Nat}
    (hc : Clear s) (hh : HeadsReady s as) (hw : Width w) (hf : ∀ i, f i < 2 ^ (8 * w)) :
    ∃ v q, s.vmerge n .cross whole pg w d as sc f = .next ((reading s as).holdV n d ⟨v, q⟩) ∧
      Merged (s.rp pg) w (s.c.r.readV d.toNat).v v f ∧
      CrossPoison s [pg] [(s.c.r.readV d.toNat).p] as sc q := by
  unfold State.vmerge
  rw [withHeads_ready hc hh]
  simp only [reading_c, reading_vop, reading_rp, reading_pp, reading_ps]
  refine ⟨_, _, rfl, merged_vecOfElems hw _ _ f hf, crossPoison_vecPoison _ _ _ _ _ _ _ _ _ _ _ ?_ ?_⟩
  · simp
  · simp

/-- What an instruction written whole with cross-lane poison issues. -/
theorem vwhole_cross {s : State} {n : Nat} {gs : List PReg} {d : VReg} {as : List VOp} {v : Vec} (hc : Clear s) (hh : HeadsReady s as) :
    ∃ q, s.vwhole n .cross gs d as v = .next ((reading s as).holdV n d ⟨v, q⟩) ∧ CrossPoison s gs [] as [] q := by
  unfold State.vwhole
  rw [withHeads_ready hc hh]
  simp only [reading_vop, reading_pp]
  refine ⟨_, rfl, crossPoison_vecPoison _ _ _ _ _ _ _ _ _ _ _ ?_ ?_⟩ <;> simp

/-- What an instruction written whole with lane-wise poison issues: each group takes the poison of its sources. -/
theorem vwhole_lane {s : State} {n : Nat} {gs : List PReg} {d : VReg} {as : List VOp} {v : Vec} (hc : Clear s) (hh : HeadsReady s as) :
    ∃ q, s.vwhole n .lane gs d as v = .next ((reading s as).holdV n d ⟨v, q⟩) ∧
      ∀ g, g < 4 → (q.getLsbD g = true ↔ (∃ p ∈ gs, s.pp p = true) ∨ ∃ a ∈ as, (s.vop a).p.getLsbD g = true) := by
  unfold State.vwhole
  rw [withHeads_ready hc hh]
  simp only [reading_vop, reading_pp]
  refine ⟨_, rfl, fun g hg => ?_⟩
  rw [vecPoison, groupMask_getLsbD _ _ hg]
  simp

/-- What a predicate result of a vector comparison issues. -/
theorem vpred_tests {s : State} {n w : Nat} {pg pd : PReg} {as : List VOp} {f : Nat → Bool} (hc : Clear s) (hh : HeadsReady s as)
    (hw : Width w) : ∃ v : Pred, ∃ bad : Bool, s.vpred n pg w pd as f
      = .next ((reading s as).hold n (.pred pd.toNat v bad) (some ⟨predRing v, if bad then 15#4 else 0#4⟩)) ∧
    (∀ b, b < 256 → v.getLsbD b = (active (s.rp pg) w (b / w) && f (b / w))) ∧
    (bad = true ↔ s.pp pg = true ∨ ∃ a ∈ as, (s.vop a).p ≠ 0#4) := by
  unfold State.vpred
  rw [withHeads_ready hc hh]
  simp only [reading_vop, reading_rp, reading_pp]
  refine ⟨_, _, rfl, fun b hb => predOf_getLsbD _ _ _ hw.pos hw.full hb, ?_⟩
  simp

end Sys2Proof.Laws
end

