-- ==== Sys2Proof/Tests/Slice0.lean ====
section
/-! SUPPORT. Tests: ill-formed terms that the checks refuse, a word of every instruction and the spec's worked words, one
step at a time on small states, and a witness for the hypotheses of every statement. -/

set_option Elab.async false

namespace Sys2Proof.Tests

open Sys2Proof.Machine Sys2Proof.Safety Sys2Proof.Laws

/-! ## Ill-formed terms (R102, step 6(b)) -/

/-- Guard p0: always. -/
def g0 : Guard := ⟨0#3, false⟩

theorem test_wf_compare_code : (Instr.cmpCc g0 8#4 1#3 2#5 3#5).wf = false := by decide
theorem test_wf_p0_destination : (Instr.pand g0 0#3 1#3 2#3).wf = false ∧ (Instr.pnot g0 0#3 1#3).wf = false ∧
    (Instr.movpSp g0 0#3 1#5 0#2).wf = false ∧ (Instr.movpBc g0 0#3 1#5).wf = false ∧ (Instr.cmpCc g0 0#4 0#3 1#5 2#5).wf = false ∧
    (Instr.vcmpCc 0#2 0#3 0#3 0#3 1#6 2#6).wf = false ∧ (Instr.fcmpCc 0#2 0#3 0#3 0#3 1#6 2#6).wf = false := by decide
theorem test_wf_unassigned_register : (Instr.sread 1#5 0x7FF#12).wf = false ∧ (Instr.swrite 0x7FF#12 1#5).wf = false := by decide
theorem test_wf_no_field : (Instr.fcrSet g0 1#5 0#4).wf = false := by decide
theorem test_wf_pantry_selector : (Instr.panRead g0 1#5 2#5 3#2).wf = false ∧ (Instr.panRead g0 1#5 2#5 2#2).wf = false := by decide
theorem test_wf_poison_operand : (Instr.poisTest g0 3#2 1#5 2#5).wf = false ∧ (Instr.poisClr g0 2#2 8#5).wf = false ∧
    (Instr.poisSet g0 3#2 0#5).wf = false := by decide
theorem test_wf_operand_code : (Instr.vadd 0#3 0#3 1#5 58#6 0#6).wf = false ∧ (Instr.vadd 0#3 0#3 1#5 0#6 63#6).wf = false ∧
    (Instr.vadd 0#3 0#3 1#5 57#6 57#6).wf = true := by decide
theorem test_wf_float_type : (Instr.fadd 0#3 3#3 1#5 0#6 0#6).wf = false ∧ (Instr.fradd 0#3 7#3 1#5 0#6).wf = false := by decide
theorem test_wf_word_type : (Instr.vdot4 0#3 1#3 1#5 0#6 0#6).wf = false ∧ (Instr.vhash 0#3 3#3 1#5 0#6 0#6).wf = false := by decide
theorem test_wf_odd_pair : (Instr.vzip 0#3 0#3 5#5 0#6 0#6).wf = false ∧ (Instr.acas g0 0#2 false true 1#5 2#5 3#5).wf = false ∧
    (Instr.copyw g0 false false 1#5 2#5 3#5).wf = false ∧ (Instr.send g0 0#2 false 1#5 2#5 3#5).wf = false ∧
    (Instr.sendv g0 false 1#5 2#5 3#5).wf = false := by decide
theorem test_wf_shift_count : (Instr.vshli 0#3 1#5 0#6 8#6).wf = false ∧ (Instr.vshli 0#3 1#5 0#6 7#6).wf = true := by decide
theorem test_wf_rounding_fields : (Instr.cvt 1#5 0#6 0#4 1#4 1#2 true false).wf = false ∧
    (Instr.cvt 1#5 0#6 0#4 1#4 0#2 false true).wf = false ∧ (Instr.mxpack 1#5 0#6 6#3 false 0#2 false false).wf = false ∧
    (Instr.mxpack 1#5 0#6 5#3 false 0#2 false true).wf = false ∧ (Instr.mxunpack 1#5 0#6 7#3 false 0#2 false).wf = false ∧
    (Instr.mxunpack 1#5 0#6 6#3 true 0#2 false).wf = false ∧ (Instr.b16pack 1#5 0#6 1#2 true).wf = false := by decide
theorem test_wf_segment_type : (Instr.sfEval 0#3 7#3 1#5 0#6 0#2).wf = false := by decide
theorem test_wf_global_in_sp : (Instr.ldAcq g0 0#2 true true 1#5 2#5 0#2).wf = false ∧
    (Instr.stRel g0 0#2 true true 0#3 1#5 2#5 0#2).wf = false := by decide
theorem test_wf_block_type : (Instr.amxacc g0 0#2 3#2 1#5 2#5 3#5).wf = false := by decide
theorem test_wf_unit_numbers : (Instr.bundleIssue 2048).wf = false ∧ (Instr.issueSlotChange 512).wf = false ∧
    (Instr.ladleRunStart 1024).wf = false ∧ (Instr.leaseGrant 64).wf = false ∧ (Instr.kick 65536 0#64).wf = false ∧
    (Instr.placement 2).wf = false ∧ (Instr.pctlRst 16).wf = false ∧ (Instr.opSettleComplete 576).wf = false := by decide

/-! ## Decoding: a word of every instruction, written out in the fields of its form (R86, R94, R99 to R101) -/

/-- The word with the given CLASS and ROW and the fields of its form, from the top: width and value (R86). -/
def wordOf (cls row : Nat) (fs : List (Nat × Nat)) : Word32 :=
  BitVec.ofNat 32 (fs.foldl (fun w f => w * 2 ^ f.1 + f.2) (cls * 32 + row))

def wordS3 (cls row sd sa sb gn gp fn : Nat) : Word32 := wordOf cls row [(5, sd), (5, sa), (5, sb), (1, gn), (3, gp), (4, fn)]
def wordSI (cls row sd sa imm : Nat) : Word32 := wordOf cls row [(5, sd), (5, sa), (13, imm)]
def wordSL (cls row sd imm : Nat) : Word32 := wordOf cls row [(5, sd), (18, imm)]
def wordV3 (cls row vd a b pg t : Nat) : Word32 := wordOf cls row [(5, vd), (6, a), (6, b), (3, pg), (3, t)]
def wordVI (cls row vd a imm : Nat) : Word32 := wordOf cls row [(5, vd), (6, a), (12, imm)]
def wordVC (cls row vd a ctl : Nat) : Word32 := wordOf cls row [(5, vd), (6, a), (12, ctl)]
def wordB (cls row gp gn off : Nat) : Word32 := wordOf cls row [(3, gp), (1, gn), (19, off)]
def wordZ (cls row : Nat) : Word32 := wordOf cls row [(23, 0)]
def wordMI (cls row d b gn gp sp w off : Nat) : Word32 := wordOf cls row [(5, d), (5, b), (1, gn), (3, gp), (1, sp), (2, w), (6, off)]
def wordMR (cls row d b c gn gp f : Nat) : Word32 := wordOf cls row [(5, d), (5, b), (5, c), (1, gn), (3, gp), (4, f)]
def wordE (cls row d a b gn gp acq rel f : Nat) : Word32 := wordOf cls row [(5, d), (5, a), (5, b), (1, gn), (3, gp), (1, acq), (1, rel), (2, f)]

theorem test_decode_scalar_register_0 :
    decodeSlot (wordS3 0 0 6 7 9 1 2 0) = .ok (.add ⟨2#3, true⟩ 6#5 7#5 9#5) ∧
    decodeSlot (wordS3 0 1 6 7 9 1 2 0) = .ok (.sub ⟨2#3, true⟩ 6#5 7#5 9#5) ∧
    decodeSlot (wordS3 0 2 6 7 9 1 2 0) = .ok (.and ⟨2#3, true⟩ 6#5 7#5 9#5) ∧
    decodeSlot (wordS3 0 3 6 7 9 1 2 0) = .ok (.or ⟨2#3, true⟩ 6#5 7#5 9#5) ∧
    decodeSlot (wordS3 0 4 6 7 9 1 2 0) = .ok (.xor ⟨2#3, true⟩ 6#5 7#5 9#5) ∧
    decodeSlot (wordS3 0 5 6 7 9 1 2 0) = .ok (.shl ⟨2#3, true⟩ 6#5 7#5 9#5) ∧
    decodeSlot (wordS3 0 6 6 7 9 1 2 0) = .ok (.shr ⟨2#3, true⟩ 6#5 7#5 9#5) ∧
    decodeSlot (wordS3 0 7 6 7 9 1 2 0) = .ok (.sar ⟨2#3, true⟩ 6#5 7#5 9#5) ∧
    decodeSlot (wordS3 0 8 6 7 9 1 2 0) = .ok (.mul ⟨2#3, true⟩ 6#5 7#5 9#5) ∧
    decodeSlot (wordS3 0 9 6 7 9 1 2 0) = .ok (.mulh ⟨2#3, true⟩ 6#5 7#5 9#5) ∧
    decodeSlot (wordS3 0 10 6 7 9 1 2 0) = .ok (.mulhn ⟨2#3, true⟩ 6#5 7#5 9#5) ∧
    decodeSlot (wordS3 0 11 6 7 9 1 2 0) = .ok (.div ⟨2#3, true⟩ 6#5 7#5 9#5) := by decide

theorem test_decode_scalar_register_1 :
    decodeSlot (wordS3 0 12 6 7 9 1 2 0) = .ok (.divn ⟨2#3, true⟩ 6#5 7#5 9#5) ∧
    decodeSlot (wordS3 0 13 6 7 9 1 2 0) = .ok (.rem ⟨2#3, true⟩ 6#5 7#5 9#5) ∧
    decodeSlot (wordS3 0 14 6 7 9 1 2 0) = .ok (.remn ⟨2#3, true⟩ 6#5 7#5 9#5) ∧
    decodeSlot (wordS3 0 15 6 7 9 1 2 0) = .ok (.min ⟨2#3, true⟩ 6#5 7#5 9#5) ∧
    decodeSlot (wordS3 0 16 6 7 9 1 2 0) = .ok (.max ⟨2#3, true⟩ 6#5 7#5 9#5) ∧
    decodeSlot (wordS3 0 17 6 7 9 1 2 0) = .ok (.minn ⟨2#3, true⟩ 6#5 7#5 9#5) ∧
    decodeSlot (wordS3 0 18 6 7 9 1 2 0) = .ok (.maxn ⟨2#3, true⟩ 6#5 7#5 9#5) ∧
    decodeSlot (wordS3 0 19 6 7 9 1 2 5) = .ok (.sel ⟨2#3, true⟩ 6#5 7#5 9#5 5#3) ∧
    decodeSlot (wordS3 0 20 6 7 0 1 2 0) = .ok (.clz ⟨2#3, true⟩ 6#5 7#5) ∧
    decodeSlot (wordS3 0 21 6 7 0 1 2 0) = .ok (.ctz ⟨2#3, true⟩ 6#5 7#5) ∧
    decodeSlot (wordS3 0 22 6 7 0 1 2 0) = .ok (.popc ⟨2#3, true⟩ 6#5 7#5) ∧
    decodeSlot (wordS3 0 23 3 7 9 1 2 5) = .ok (.cmpCc ⟨2#3, true⟩ 5#4 3#3 7#5 9#5) := by decide

theorem test_decode_scalar_register_2 :
    decodeSlot (wordS3 0 24 3 5 3 1 2 0) = .ok (.pand ⟨2#3, true⟩ 3#3 5#3 3#3) ∧
    decodeSlot (wordS3 0 25 3 5 3 1 2 0) = .ok (.por ⟨2#3, true⟩ 3#3 5#3 3#3) ∧
    decodeSlot (wordS3 0 26 3 5 3 1 2 0) = .ok (.pxor ⟨2#3, true⟩ 3#3 5#3 3#3) ∧
    decodeSlot (wordS3 0 27 3 5 0 1 2 0) = .ok (.pnot ⟨2#3, true⟩ 3#3 5#3) ∧
    decodeSlot (wordS3 0 28 6 5 0 1 2 8) = .ok (.movpPs ⟨2#3, true⟩ 6#5 5#3 2#2) ∧
    decodeSlot (wordS3 0 28 3 7 0 1 2 9) = .ok (.movpSp ⟨2#3, true⟩ 3#3 7#5 2#2) ∧
    decodeSlot (wordS3 0 28 3 7 0 1 2 2) = .ok (.movpBc ⟨2#3, true⟩ 3#3 7#5) := by decide

theorem test_decode_scalar_immediate :
    decodeSlot (wordSI 1 0 6 7 4660) = .ok (.addi 6#5 7#5 4660#13) ∧
    decodeSlot (wordSI 1 1 6 7 4660) = .ok (.andi 6#5 7#5 4660#13) ∧
    decodeSlot (wordSI 1 2 6 7 4660) = .ok (.ori 6#5 7#5 4660#13) ∧
    decodeSlot (wordSI 1 3 6 7 4660) = .ok (.xori 6#5 7#5 4660#13) ∧
    decodeSlot (wordSI 1 4 6 7 7) = .ok (.shli 6#5 7#5 7#6) ∧
    decodeSlot (wordSI 1 5 6 7 7) = .ok (.shri 6#5 7#5 7#6) ∧
    decodeSlot (wordSI 1 6 6 7 7) = .ok (.sari 6#5 7#5 7#6) ∧
    decodeSlot (wordSL 1 7 6 181157) = .ok (.movi 6#5 181157#18) ∧
    decodeSlot (wordSL 1 8 6 181157) = .ok (.shi 6#5 181157#18) := by decide

theorem test_decode_control_and_system_0 :
    decodeSlot (wordB 2 0 2 1 370085) = .ok (.br ⟨2#3, true⟩ 370085#19) ∧
    decodeSlot (wordB 2 1 2 1 370085) = .ok (.brl ⟨2#3, true⟩ 370085#19) ∧
    decodeSlot (wordS3 2 2 6 7 0 1 2 0) = .ok (.brs ⟨2#3, true⟩ 6#5 7#5) ∧
    decodeSlot (wordS3 2 3 0 6 0 1 2 2) = .ok (.loop ⟨2#3, true⟩ 2#2 6#5) ∧
    decodeSlot (wordSI 2 4 2 0 4660) = .ok (.loopi 2#2 4660#13) ∧
    decodeSlot (wordZ 2 5) = .ok (.ppt) ∧
    decodeSlot (wordZ 2 6) = .ok (.yield) ∧
    decodeSlot (wordZ 2 7) = .ok (.exit) ∧
    decodeSlot (wordS3 2 8 6 0 0 1 2 0) = .ok (.tstamp ⟨2#3, true⟩ 6#5) ∧
    decodeSlot (wordS3 2 8 6 7 0 1 2 1) = .ok (.tstampSet ⟨2#3, true⟩ 6#5 7#5) ∧
    decodeSlot (wordSI 2 9 6 0 37) = .ok (.sread 6#5 37#12) ∧
    decodeSlot (wordSI 2 10 0 6 37) = .ok (.swrite 37#12 6#5) := by decide

theorem test_decode_control_and_system_1 :
    decodeSlot (wordSL 2 11 0 181157) = .ok (.trap 181157#18) ∧
    decodeSlot (wordSL 2 12 0 181157) = .ok (.svc 181157#18) ∧
    decodeSlot (wordZ 2 13) = .ok (.eret) ∧
    decodeSlot (wordS3 2 14 0 6 0 1 2 9) = .ok (.fcrSet ⟨2#3, true⟩ 6#5 9#4) ∧
    decodeSlot (wordS3 2 15 6 0 0 1 2 0) = .ok (.fcrGet ⟨2#3, true⟩ 6#5) ∧
    decodeSlot (wordS3 2 16 6 0 0 1 2 0) = .ok (.panAck ⟨2#3, true⟩ 6#5) ∧
    decodeSlot (wordS3 2 17 6 7 0 1 2 1) = .ok (.panRead ⟨2#3, true⟩ 6#5 7#5 1#2) ∧
    decodeSlot (wordS3 2 18 6 6 0 1 2 4) = .ok (.poisTest ⟨2#3, true⟩ 1#2 6#5 6#5) ∧
    decodeSlot (wordS3 2 18 0 6 0 1 2 5) = .ok (.poisClr ⟨2#3, true⟩ 1#2 6#5) ∧
    decodeSlot (wordS3 2 18 0 6 0 1 2 6) = .ok (.poisSet ⟨2#3, true⟩ 1#2 6#5) ∧
    decodeSlot (wordS3 2 19 6 7 9 1 2 0) = .ok (.preemptStop ⟨2#3, true⟩ 6#5 7#5 9#5) ∧
    decodeSlot (wordS3 2 19 6 7 9 1 2 1) = .ok (.preemptResume ⟨2#3, true⟩ 6#5 7#5 9#5) := by decide

theorem test_decode_control_and_system_2 :
    decodeSlot (wordS3 2 19 6 7 9 1 2 2) = .ok (.preemptState ⟨2#3, true⟩ 6#5 7#5 9#5) ∧
    decodeSlot (wordS3 2 20 6 7 9 1 2 0) = .ok (.ctxSave ⟨2#3, true⟩ 6#5 7#5 9#5) ∧
    decodeSlot (wordS3 2 21 6 7 9 1 2 0) = .ok (.ctxLoad ⟨2#3, true⟩ 6#5 7#5 9#5) ∧
    decodeSlot (wordZ 2 22) = .ok (.halt) := by decide

theorem test_decode_vector_a_0 :
    decodeSlot (wordV3 3 0 7 12 37 3 2) = .ok (.vadd 3#3 2#3 7#5 12#6 37#6) ∧
    decodeSlot (wordV3 3 1 7 12 37 3 2) = .ok (.vsub 3#3 2#3 7#5 12#6 37#6) ∧
    decodeSlot (wordV3 3 2 7 12 37 3 2) = .ok (.vmul 3#3 2#3 7#5 12#6 37#6) ∧
    decodeSlot (wordV3 3 3 7 12 37 3 2) = .ok (.vmulh 3#3 2#3 7#5 12#6 37#6) ∧
    decodeSlot (wordV3 3 4 7 12 37 3 2) = .ok (.vmin 3#3 2#3 7#5 12#6 37#6) ∧
    decodeSlot (wordV3 3 5 7 12 37 3 2) = .ok (.vmax 3#3 2#3 7#5 12#6 37#6) ∧
    decodeSlot (wordV3 3 6 7 12 37 3 2) = .ok (.vand 3#3 2#3 7#5 12#6 37#6) ∧
    decodeSlot (wordV3 3 7 7 12 37 3 2) = .ok (.vor 3#3 2#3 7#5 12#6 37#6) ∧
    decodeSlot (wordV3 3 8 7 12 37 3 2) = .ok (.vxor 3#3 2#3 7#5 12#6 37#6) ∧
    decodeSlot (wordV3 3 9 7 12 0 3 2) = .ok (.vnot 3#3 2#3 7#5 12#6) ∧
    decodeSlot (wordV3 3 10 7 12 37 3 2) = .ok (.vshl 3#3 2#3 7#5 12#6 37#6) ∧
    decodeSlot (wordV3 3 11 7 12 37 3 2) = .ok (.vshr 3#3 2#3 7#5 12#6 37#6) := by decide

theorem test_decode_vector_a_1 :
    decodeSlot (wordV3 3 12 7 12 37 3 2) = .ok (.vsar 3#3 2#3 7#5 12#6 37#6) ∧
    decodeSlot (wordV3 3 13 21 12 37 3 2) = .ok (.vcmpCc 2#2 3#3 2#3 5#3 12#6 37#6) ∧
    decodeSlot (wordV3 3 14 7 12 37 3 2) = .ok (.vadds 3#3 2#3 7#5 12#6 37#6) ∧
    decodeSlot (wordV3 3 15 7 12 37 3 2) = .ok (.vsubs 3#3 2#3 7#5 12#6 37#6) ∧
    decodeSlot (wordV3 3 16 7 12 37 3 2) = .ok (.fadd 3#3 2#3 7#5 12#6 37#6) ∧
    decodeSlot (wordV3 3 17 7 12 37 3 2) = .ok (.fsub 3#3 2#3 7#5 12#6 37#6) ∧
    decodeSlot (wordV3 3 18 7 12 37 3 2) = .ok (.fmul 3#3 2#3 7#5 12#6 37#6) ∧
    decodeSlot (wordV3 3 19 7 12 37 3 2) = .ok (.fma 3#3 2#3 7#5 12#6 37#6) ∧
    decodeSlot (wordV3 3 20 7 12 37 3 2) = .ok (.fms 3#3 2#3 7#5 12#6 37#6) ∧
    decodeSlot (wordV3 3 21 7 12 37 3 2) = .ok (.fnma 3#3 2#3 7#5 12#6 37#6) ∧
    decodeSlot (wordV3 3 22 7 12 37 3 2) = .ok (.fnms 3#3 2#3 7#5 12#6 37#6) ∧
    decodeSlot (wordV3 3 23 7 12 37 3 2) = .ok (.fmin 3#3 2#3 7#5 12#6 37#6) := by decide

theorem test_decode_vector_a_2 :
    decodeSlot (wordV3 3 24 7 12 37 3 2) = .ok (.fmax 3#3 2#3 7#5 12#6 37#6) ∧
    decodeSlot (wordV3 3 25 7 12 0 3 2) = .ok (.fabs 3#3 2#3 7#5 12#6) ∧
    decodeSlot (wordV3 3 26 7 12 0 3 2) = .ok (.fneg 3#3 2#3 7#5 12#6) ∧
    decodeSlot (wordV3 3 27 21 12 37 3 2) = .ok (.fcmpCc 2#2 3#3 2#3 5#3 12#6 37#6) ∧
    decodeSlot (wordV3 3 28 7 12 0 3 2) = .ok (.fclass 3#3 2#3 7#5 12#6) ∧
    decodeSlot (wordV3 3 29 7 12 0 3 2) = .ok (.frnd 3#3 2#3 7#5 12#6) ∧
    decodeSlot (wordV3 3 30 7 12 37 3 2) = .ok (.fscale 3#3 2#3 7#5 12#6 37#6) := by decide

theorem test_decode_vector_b_0 :
    decodeSlot (wordV3 4 0 6 37 12 5 2) = .ok (.vsel 2#3 6#5 37#6 12#6 5#3) ∧
    decodeSlot (wordV3 4 1 7 12 0 3 2) = .ok (.vmov 3#3 2#3 7#5 12#6) ∧
    decodeSlot (wordV3 4 2 7 9 0 3 2) = .ok (.vbcast 3#3 2#3 7#5 9#5) ∧
    decodeSlot (wordVI 4 3 6 2 2213) = .ok (.vimm 2#3 6#5 2213#12) ∧
    decodeSlot (wordV3 4 4 6 37 9 0 2) = .ok (.vext 2#3 6#5 37#6 9#5) ∧
    decodeSlot (wordV3 4 5 6 7 9 0 2) = .ok (.vins 2#3 6#5 7#5 9#5) ∧
    decodeSlot (wordV3 4 6 7 12 37 3 2) = .ok (.vperm 3#3 2#3 7#5 12#6 37#6) ∧
    decodeSlot (wordV3 4 7 7 12 10 3 2) = .ok (.vslideUp 3#3 2#3 7#5 12#6 10#5) ∧
    decodeSlot (wordV3 4 8 7 12 10 3 2) = .ok (.vslideDn 3#3 2#3 7#5 12#6 10#5) ∧
    decodeSlot (wordV3 4 9 7 12 10 3 2) = .ok (.vrot 3#3 2#3 7#5 12#6 10#5) ∧
    decodeSlot (wordV3 4 10 6 12 37 3 2) = .ok (.vzip 3#3 2#3 6#5 12#6 37#6) ∧
    decodeSlot (wordV3 4 11 6 12 37 3 2) = .ok (.vunzip 3#3 2#3 6#5 12#6 37#6) := by decide

theorem test_decode_vector_b_1 :
    decodeSlot (wordV3 4 12 6 12 37 3 2) = .ok (.vtrn 3#3 2#3 6#5 12#6 37#6) ∧
    decodeSlot (wordV3 4 13 7 12 0 3 2) = .ok (.vradd 3#3 2#3 7#5 12#6) ∧
    decodeSlot (wordV3 4 14 7 12 0 3 2) = .ok (.vrmin 3#3 2#3 7#5 12#6) ∧
    decodeSlot (wordV3 4 15 7 12 0 3 2) = .ok (.vrmax 3#3 2#3 7#5 12#6) ∧
    decodeSlot (wordV3 4 16 7 12 0 3 2) = .ok (.vscanAdd 3#3 2#3 7#5 12#6) ∧
    decodeSlot (wordV3 4 17 7 12 37 3 2) = .ok (.vdot4 3#3 2#3 7#5 12#6 37#6) ∧
    decodeSlot (wordV3 4 18 7 12 37 3 2) = .ok (.vhash 3#3 2#3 7#5 12#6 37#6) ∧
    decodeSlot (wordV3 4 19 7 3 0 3 2) = .ok (.pcnt 3#3 2#3 7#5 3#3) ∧
    decodeSlot (wordV3 4 20 7 3 0 3 2) = .ok (.pfirst 3#3 2#3 7#5 3#3) ∧
    decodeSlot (wordVI 4 21 6 37 331) = .ok (.vshli 5#3 6#5 37#6 11#6) ∧
    decodeSlot (wordVI 4 22 6 37 331) = .ok (.vshri 5#3 6#5 37#6 11#6) ∧
    decodeSlot (wordVI 4 23 6 37 331) = .ok (.vsari 5#3 6#5 37#6 11#6) := by decide

theorem test_decode_vector_b_2 :
    decodeSlot (wordVC 4 24 6 37 2441) = .ok (.cvt 6#5 37#6 9#4 9#4 2#2 false false) ∧
    decodeSlot (wordVC 4 25 6 37 1408) = .ok (.mxpack 6#5 37#6 2#3 true 2#2 false false) ∧
    decodeSlot (wordVC 4 26 6 37 1408) = .ok (.mxunpack 6#5 37#6 2#3 true 2#2 false) ∧
    decodeSlot (wordVC 4 27 6 37 128) = .ok (.b16pack 6#5 37#6 2#2 false) ∧
    decodeSlot (wordV3 4 28 7 12 0 3 2) = .ok (.fradd 3#3 2#3 7#5 12#6) ∧
    decodeSlot (wordV3 4 29 7 12 0 3 2) = .ok (.frmin 3#3 2#3 7#5 12#6) ∧
    decodeSlot (wordV3 4 30 7 12 0 3 2) = .ok (.frmax 3#3 2#3 7#5 12#6) := by decide

theorem test_decode_special_function :
    decodeSlot (wordV3 5 0 7 12 32 3 5) = .ok (.sfEval 3#3 5#3 7#5 12#6 2#2) ∧
    decodeSlot (wordV3 5 1 7 12 38 3 5) = .ok (.sfEvalx 3#3 5#3 7#5 12#6 9#4 2#2) ∧
    decodeSlot (wordS3 5 2 6 7 9 1 2 0) = .ok (.sftLoad ⟨2#3, true⟩ 6#5 7#5 9#5) ∧
    decodeSlot (wordS3 5 3 6 7 0 1 2 2) = .ok (.sftBind ⟨2#3, true⟩ 6#5 7#5 2#2) ∧
    decodeSlot (wordS3 5 3 6 0 0 1 2 6) = .ok (.sftBindOff ⟨2#3, true⟩ 6#5 2#2) ∧
    decodeSlot (wordS3 5 4 6 0 0 1 2 10) = .ok (.sftInfo ⟨2#3, true⟩ 6#5 2#2 2#2) ∧
    decodeSlot (wordS3 5 5 6 7 0 1 2 0) = .ok (.sftChk ⟨2#3, true⟩ 6#5 7#5) := by decide

theorem test_decode_memory_0 :
    decodeSlot (wordMI 6 0 6 7 1 2 1 2 7) = .ok (.ld ⟨2#3, true⟩ 2#2 true 6#5 7#5 7#6) ∧
    decodeSlot (wordMI 6 1 6 7 1 2 1 2 7) = .ok (.st ⟨2#3, true⟩ 2#2 true 6#5 7#5 7#6) ∧
    decodeSlot (wordMI 6 2 6 7 1 2 1 0 7) = .ok (.vld ⟨2#3, true⟩ true 6#5 7#5 7#6) ∧
    decodeSlot (wordMI 6 3 6 7 1 2 1 0 7) = .ok (.vst ⟨2#3, true⟩ true 6#5 7#5 7#6) ∧
    decodeSlot (wordMR 6 4 6 7 9 1 2 6) = .ok (.vlds ⟨2#3, true⟩ 2#2 true 6#5 7#5 9#5) ∧
    decodeSlot (wordMR 6 5 6 7 9 1 2 6) = .ok (.vgather ⟨2#3, true⟩ 2#2 true 6#5 7#5 9#5) ∧
    decodeSlot (wordMR 6 6 6 7 9 1 2 6) = .ok (.vscatter ⟨2#3, true⟩ 2#2 true 6#5 7#5 9#5) ∧
    decodeSlot (wordMI 6 7 6 7 1 2 0 2 7) = .ok (.gld ⟨2#3, true⟩ 2#2 6#5 7#5 7#6) ∧
    decodeSlot (wordMI 6 8 6 7 1 2 0 2 7) = .ok (.gst ⟨2#3, true⟩ 2#2 6#5 7#5 7#6) ∧
    decodeSlot (wordMR 6 9 6 0 2 1 2 0) = .ok (.chpop ⟨2#3, true⟩ 6#5 2#3) ∧
    decodeSlot (wordMR 6 9 0 0 2 1 2 1) = .ok (.chpopDrop ⟨2#3, true⟩ 2#3) ∧
    decodeSlot (wordMR 6 10 6 0 2 1 2 0) = .ok (.chpush ⟨2#3, true⟩ 2#3 6#5) := by decide

theorem test_decode_memory_1 :
    decodeSlot (wordMR 6 10 0 6 2 1 2 1) = .ok (.chpushAb ⟨2#3, true⟩ 2#3 6#5) ∧
    decodeSlot (wordMR 6 10 0 6 2 1 2 3) = .ok (.chpushSp ⟨2#3, true⟩ 2#3 6#5) ∧
    decodeSlot (wordMR 6 11 6 7 2 1 2 0) = .ok (.chpeek ⟨2#3, true⟩ 6#5 2#3 7#5) ∧
    decodeSlot (wordMR 6 12 6 0 2 1 2 0) = .ok (.chstat ⟨2#3, true⟩ 6#5 2#3) ∧
    decodeSlot (wordMI 6 13 6 7 1 2 0 2 6) = .ok (.ldAcq ⟨2#3, true⟩ 2#2 false true 6#5 7#5 2#2) ∧
    decodeSlot (wordMI 6 14 6 7 1 2 0 2 22) = .ok (.stRel ⟨2#3, true⟩ 2#2 false true 2#3 6#5 7#5 2#2) ∧
    decodeSlot (wordMR 6 15 6 7 9 1 2 11) = .ok (.aadd ⟨2#3, true⟩ 2#2 true true 6#5 7#5 9#5) ∧
    decodeSlot (wordMR 6 16 6 7 9 1 2 11) = .ok (.aand ⟨2#3, true⟩ 2#2 true true 6#5 7#5 9#5) ∧
    decodeSlot (wordMR 6 17 6 7 9 1 2 11) = .ok (.aor ⟨2#3, true⟩ 2#2 true true 6#5 7#5 9#5) ∧
    decodeSlot (wordMR 6 18 6 7 9 1 2 11) = .ok (.axor ⟨2#3, true⟩ 2#2 true true 6#5 7#5 9#5) ∧
    decodeSlot (wordMR 6 19 6 7 9 1 2 11) = .ok (.amin ⟨2#3, true⟩ 2#2 true true 6#5 7#5 9#5) ∧
    decodeSlot (wordMR 6 20 6 7 9 1 2 11) = .ok (.amax ⟨2#3, true⟩ 2#2 true true 6#5 7#5 9#5) := by decide

theorem test_decode_memory_2 :
    decodeSlot (wordMR 6 21 6 7 9 1 2 11) = .ok (.axch ⟨2#3, true⟩ 2#2 true true 6#5 7#5 9#5) ∧
    decodeSlot (wordMR 6 22 6 7 10 1 2 11) = .ok (.acas ⟨2#3, true⟩ 2#2 true true 6#5 7#5 10#5) ∧
    decodeSlot (wordMR 6 23 6 7 0 1 2 11) = .ok (.adecp ⟨2#3, true⟩ 2#2 true true 6#5 7#5) ∧
    decodeSlot (wordMR 6 24 6 7 9 1 2 10) = .ok (.amxacc ⟨2#3, true⟩ 2#2 2#2 6#5 7#5 9#5) ∧
    decodeSlot (wordMR 6 25 6 0 0 1 2 2) = .ok (.fence ⟨2#3, true⟩ 2#3 6#5) ∧
    decodeSlot (wordMR 6 26 6 7 9 1 2 1) = .ok (.waitv ⟨2#3, true⟩ true 6#5 7#5 9#5) ∧
    decodeSlot (wordMR 6 27 6 7 0 1 2 1) = .ok (.notify ⟨2#3, true⟩ true 6#5 7#5) ∧
    decodeSlot (wordMR 6 28 6 7 9 1 2 0) = .ok (.synAdd ⟨2#3, true⟩ 6#5 7#5 9#5) ∧
    decodeSlot (wordMR 6 29 6 7 9 1 2 0) = .ok (.synWait ⟨2#3, true⟩ 6#5 7#5 9#5) ∧
    decodeSlot (wordMR 6 30 6 7 0 1 2 0) = .ok (.synGet ⟨2#3, true⟩ 6#5 7#5) ∧
    decodeSlot (wordMR 6 31 6 0 0 1 2 1) = .ok (.bar ⟨2#3, true⟩ true 6#5) := by decide

theorem test_decode_engine_and_fabric_0 :
    decodeSlot (wordE 7 0 9 6 7 1 2 1 1 0) = .ok (.copy ⟨2#3, true⟩ true true 6#5 7#5 9#5) ∧
    decodeSlot (wordE 7 1 6 6 7 1 2 1 1 0) = .ok (.copyw ⟨2#3, true⟩ true true 6#5 7#5 6#5) ∧
    decodeSlot (wordE 7 2 9 6 7 1 2 0 0 1) = .ok (.ladRun ⟨2#3, true⟩ true 6#5 7#5 9#5) ∧
    decodeSlot (wordE 7 3 0 0 0 1 2 0 0 1) = .ok (.ladStop ⟨2#3, true⟩ true) ∧
    decodeSlot (wordE 7 4 6 0 0 1 2 0 0 1) = .ok (.ladStat ⟨2#3, true⟩ 6#5 true) ∧
    decodeSlot (wordE 7 5 0 6 7 1 2 1 0 0) = .ok (.pref ⟨2#3, true⟩ true 6#5 7#5) ∧
    decodeSlot (wordE 7 6 9 6 7 1 2 1 1 0) = .ok (.rowcpy ⟨2#3, true⟩ true true 6#5 7#5 9#5) ∧
    decodeSlot (wordE 7 7 9 6 7 1 2 1 1 0) = .ok (.rowinit ⟨2#3, true⟩ true true 6#5 7#5 9#5) ∧
    decodeSlot (wordE 7 8 0 0 0 1 2 0 0 0) = .ok (.grdLease ⟨2#3, true⟩) ∧
    decodeSlot (wordE 7 9 0 0 0 1 2 0 0 0) = .ok (.grdFree ⟨2#3, true⟩) ∧
    decodeSlot (wordE 7 10 0 6 0 1 2 0 0 0) = .ok (.grdWload ⟨2#3, true⟩ 6#5) ∧
    decodeSlot (wordE 7 11 0 6 0 1 2 0 0 0) = .ok (.grdScl ⟨2#3, true⟩ 6#5) := by decide

theorem test_decode_engine_and_fabric_1 :
    decodeSlot (wordE 7 11 0 0 6 1 2 0 0 1) = .ok (.grdSclAll ⟨2#3, true⟩ 6#5) ∧
    decodeSlot (wordE 7 12 9 6 7 1 2 1 1 0) = .ok (.grdMul ⟨2#3, true⟩ true true 6#5 7#5 9#5) ∧
    decodeSlot (wordE 7 13 6 0 0 1 2 0 0 0) = .ok (.grdZero ⟨2#3, true⟩ 6#5) ∧
    decodeSlot (wordE 7 14 7 6 0 1 2 1 1 0) = .ok (.grdDrain ⟨2#3, true⟩ true true 6#5 7#5) ∧
    decodeSlot (wordE 7 15 6 7 0 1 2 0 0 0) = .ok (.grdChk ⟨2#3, true⟩ 6#5 7#5) ∧
    decodeSlot (wordE 7 16 7 6 0 1 2 1 1 0) = .ok (.grdSave ⟨2#3, true⟩ true true 6#5 7#5) ∧
    decodeSlot (wordE 7 17 7 6 0 1 2 1 1 0) = .ok (.grdRest ⟨2#3, true⟩ true true 6#5 7#5) ∧
    decodeSlot (wordE 7 18 6 7 0 1 2 0 0 1) = .ok (.grdStat ⟨2#3, true⟩ true 6#5 7#5) ∧
    decodeSlot (wordE 7 19 6 6 7 1 2 0 1 2) = .ok (.send ⟨2#3, true⟩ 2#2 true 6#5 7#5 6#5) ∧
    decodeSlot (wordE 7 20 6 6 7 1 2 0 1 0) = .ok (.sendv ⟨2#3, true⟩ true 6#5 7#5 6#5) ∧
    decodeSlot (wordE 7 21 7 6 0 1 2 0 0 0) = .ok (.rld ⟨2#3, true⟩ 6#5 7#5) ∧
    decodeSlot (wordE 7 22 9 6 7 1 2 0 1 0) = .ok (.rred ⟨2#3, true⟩ true 6#5 7#5 9#5) := by decide

theorem test_decode_engine_and_fabric_2 :
    decodeSlot (wordE 7 23 6 7 2 1 2 0 0 0) = .ok (.recv ⟨2#3, true⟩ 6#5 2#3 7#5) ∧
    decodeSlot (wordE 7 24 6 7 9 1 2 0 0 0) = .ok (.mldr ⟨2#3, true⟩ 6#5 7#5 9#5) ∧
    decodeSlot (wordE 7 25 6 7 0 1 2 0 0 0) = .ok (.fabStat ⟨2#3, true⟩ 6#5 7#5) := by decide

/-- The spec's worked words (R99, R100 and the programs of 17 to 19). -/
theorem test_decode_worked_words :
    decodeSlot 0xE790C70D#32 = .ok (.aadd ⟨0#3, false⟩ 3#2 false true 4#5 6#5 7#5) ∧
    decodeSlot 0xE71060A4#32 = .ok (.stRel ⟨0#3, false⟩ 2#2 false true 4#3 4#5 3#5 0#2) ∧
    decodeSlot 0xE6946084#32 = .ok (.ldAcq ⟨0#3, false⟩ 2#2 false true 5#5 3#5 0#2) ∧
    decodeSlot 0xC1982007#32 = .ok (.vimm 2#3 6#5 7#12) ∧ decodeSlot 0xB0105852#32 = .ok (.vadd 2#3 2#3 4#5 5#6 33#6) ∧
    decodeSlot 0xD01C2403#32 = .ok (.sfEval 0#3 3#3 7#5 2#6 1#2) := by decide

/-- Unused OPC values, reserved bits and operand values that a rule refuses (R94, R99, R102). -/
theorem test_decode_refuses :
    decodeSlot (wordS3 0 29 0 0 0 0 0 0) = .error .unusedOpcode ∧ decodeSlot (wordS3 1 9 0 0 0 0 0 0) = .error .unusedOpcode ∧
    decodeSlot (wordS3 0 0 1 2 3 0 0 1) = .error .reservedField ∧ decodeSlot (wordSI 1 4 1 2 64) = .error .reservedField ∧
    decodeSlot (wordOf 2 5 [(23, 1)]) = .error .reservedField ∧ decodeSlot (wordS3 0 23 1 2 3 0 0 8) = .error .badOperand := by decide

/-! ## One instruction, one step (the spec's worked examples and calculations by hand) -/

/-- The state after reset with scalar registers set. -/
def withS (l : List (Nat × Word)) : State :=
  let s := State.reset
  { s with c := { s.c with r := l.foldl (fun r e => r.writeS e.1 e.2 false) s.c.r } }

/-- A vector whose elements of `w` bytes begin with `es`. -/
def vecW (w : Nat) (es : List Nat) : Vec := vecOfElems w es

/-- The state with vector registers set. -/
def withV (l : List (Nat × Vec)) (s : State) : State :=
  { s with c := { s.c with r := l.foldl (fun r e => r.writeV e.1 e.2 0#4) s.c.r } }

/-- The state in a supervisor context. -/
def supState (s : State) : State := { s with c := { s.c with y := { s.c.y with sup := true, ctxfeat := 0x3FFF#64 } } }

/-- The state of a next outcome. -/
def after (o : Out) : State := match o with
  | .next t => t
  | _ => State.reset

/-- The result that a slot has just held: how many logical cycles on it lands, and what it writes. -/
def heldBy (o : Out) : Option (Nat × Landing) :=
  let t := after o
  t.c.f.pend.getLast?.map fun h => ((h.cyc - t.c.now).toNat, h.land)

/-- Elements of `w` bytes of the vector result that a slot has just held. -/
def elemsBy (o : Out) (w : Nat) (is : List Nat) : Option (Nat × List Nat) :=
  match heldBy o with
  | some (n, .vec _ v _) => some (n, is.map (elemOf v w))
  | _ => none

/-- What stopped the bundle. -/
def stopBy (o : Out) : Option Stop := (after o).issue.stop

/-- The operation that a slot has just issued. -/
def opBy (o : Out) : Option OpKind := (after o).ops.getLast?.map (·.kind)

/-- The command that a slot has just handed over. -/
def cmdBy (o : Out) : Option (EngUnit × Word × Word × Word) := (after o).cmds.getLast?.map fun m => (m.unit, m.a, m.b, m.d)

def s12 (x y : Word) : State := withS [(1, x), (2, y)]

theorem test_add_wraps : heldBy (exec (.add g0 3#5 1#5 2#5) (s12 0xFFFFFFFFFFFFFFFF#64 2#64)) = some (1, .scal 3 1#64 false) := by decide
theorem test_sub : heldBy (exec (.sub g0 3#5 1#5 2#5) (s12 3#64 5#64)) = some (1, .scal 3 0xFFFFFFFFFFFFFFFE#64 false) := by decide
theorem test_bitwise : heldBy (exec (.and g0 3#5 1#5 2#5) (s12 12#64 10#64)) = some (1, .scal 3 8#64 false) ∧
    heldBy (exec (.or g0 3#5 1#5 2#5) (s12 12#64 10#64)) = some (1, .scal 3 14#64 false) ∧
    heldBy (exec (.xor g0 3#5 1#5 2#5) (s12 12#64 10#64)) = some (1, .scal 3 6#64 false) := by decide
theorem test_shifts_take_six_bits : heldBy (exec (.shl g0 3#5 1#5 2#5) (s12 3#64 65#64)) = some (1, .scal 3 6#64 false) ∧
    heldBy (exec (.shr g0 3#5 1#5 2#5) (s12 0x8000000000000000#64 63#64)) = some (1, .scal 3 1#64 false) ∧
    heldBy (exec (.sar g0 3#5 1#5 2#5) (s12 0x8000000000000000#64 63#64)) = some (1, .scal 3 0xFFFFFFFFFFFFFFFF#64 false) := by decide
theorem test_products : heldBy (exec (.mul g0 3#5 1#5 2#5) (s12 0xFFFFFFFFFFFFFFFF#64 3#64)) = some (3, .scal 3 0xFFFFFFFFFFFFFFFD#64 false) ∧
    heldBy (exec (.mulh g0 3#5 1#5 2#5) (s12 0xFFFFFFFFFFFFFFFF#64 3#64)) = some (3, .scal 3 0xFFFFFFFFFFFFFFFF#64 false) ∧
    heldBy (exec (.mulhn g0 3#5 1#5 2#5) (s12 0xFFFFFFFFFFFFFFFF#64 3#64)) = some (3, .scal 3 2#64 false) := by decide
/-- R136's examples. -/
theorem test_division : heldBy (exec (.div g0 3#5 1#5 2#5) (s12 (-7) 2#64)) = some (20, .scal 3 (-3) false) ∧
    heldBy (exec (.rem g0 3#5 1#5 2#5) (s12 (-7) 2#64)) = some (20, .scal 3 (-1) false) ∧
    heldBy (exec (.divn g0 3#5 1#5 2#5) (s12 0xFFFFFFFFFFFFFFF9#64 2#64)) = some (20, .scal 3 0x7FFFFFFFFFFFFFFC#64 false) ∧
    heldBy (exec (.remn g0 3#5 1#5 2#5) (s12 7#64 0#64)) = some (20, .scal 3 7#64 false) ∧
    heldBy (exec (.div g0 3#5 1#5 2#5) (s12 0x8000000000000000#64 (-1))) = some (20, .scal 3 0x8000000000000000#64 false) := by decide
theorem test_extremes : heldBy (exec (.min g0 3#5 1#5 2#5) (s12 (-1) 1#64)) = some (1, .scal 3 (-1) false) ∧
    heldBy (exec (.max g0 3#5 1#5 2#5) (s12 (-1) 1#64)) = some (1, .scal 3 1#64 false) ∧
    heldBy (exec (.minn g0 3#5 1#5 2#5) (s12 (-1) 1#64)) = some (1, .scal 3 1#64 false) ∧
    heldBy (exec (.maxn g0 3#5 1#5 2#5) (s12 (-1) 1#64)) = some (1, .scal 3 (-1) false) := by decide
theorem test_counts : heldBy (exec (.clz g0 3#5 1#5) (s12 0#64 0#64)) = some (1, .scal 3 64#64 false) ∧
    heldBy (exec (.ctz g0 3#5 1#5) (s12 8#64 0#64)) = some (1, .scal 3 3#64 false) ∧
    heldBy (exec (.popc g0 3#5 1#5) (s12 0xF0F#64 0#64)) = some (1, .scal 3 8#64 false) ∧
    heldBy (exec (.clz g0 3#5 1#5) (s12 1#64 0#64)) = some (1, .scal 3 63#64 false) := by decide
theorem test_select_and_compare : heldBy (exec (.sel g0 3#5 1#5 2#5 1#3) (s12 5#64 6#64)) = some (1, .scal 3 6#64 false) ∧
    heldBy (exec (.cmpCc g0 2#4 4#3 1#5 2#5) (s12 (-1) 1#64)) = some (1, .pred 4 (BitVec.allOnes 256) false) ∧
    heldBy (exec (.cmpCc g0 4#4 4#3 1#5 2#5) (s12 (-1) 1#64)) = some (1, .pred 4 0#256 false) := by decide
theorem test_predicates : heldBy (exec (.pand g0 4#3 0#3 1#3) (s12 0#64 0#64)) = some (1, .pred 4 0#256 false) ∧
    heldBy (exec (.por g0 4#3 0#3 1#3) (s12 0#64 0#64)) = some (1, .pred 4 (BitVec.allOnes 256) false) ∧
    heldBy (exec (.pxor g0 4#3 0#3 0#3) (s12 0#64 0#64)) = some (1, .pred 4 0#256 false) ∧
    heldBy (exec (.pnot g0 4#3 1#3) (s12 0#64 0#64)) = some (1, .pred 4 (BitVec.allOnes 256) false) ∧
    heldBy (exec (.movpPs g0 5#5 0#3 3#2) (s12 0#64 0#64)) = some (1, .scal 5 (-1) false) ∧
    heldBy (exec (.movpSp g0 4#3 1#5 1#2) (s12 7#64 0#64)) = some (1, .pred 4 (7#256 <<< 64) false) ∧
    heldBy (exec (.movpBc g0 4#3 1#5) (s12 2#64 0#64)) = some (1, .pred 4 0#256 false) := by decide
theorem test_immediates : heldBy (exec (.addi 3#5 1#5 0x1FFF#13) (s12 1#64 0#64)) = some (1, .scal 3 0#64 false) ∧
    heldBy (exec (.andi 3#5 1#5 0x1FFF#13) (s12 5#64 0#64)) = some (1, .scal 3 5#64 false) ∧
    heldBy (exec (.ori 3#5 1#5 0x1FFF#13) (s12 0#64 0#64)) = some (1, .scal 3 0x1FFF#64 false) ∧
    heldBy (exec (.xori 3#5 1#5 1#13) (s12 1#64 0#64)) = some (1, .scal 3 0#64 false) ∧
    heldBy (exec (.shli 3#5 1#5 63#6) (s12 3#64 0#64)) = some (1, .scal 3 0x8000000000000000#64 false) ∧
    heldBy (exec (.shri 3#5 1#5 1#6) (s12 (-1) 0#64)) = some (1, .scal 3 0x7FFFFFFFFFFFFFFF#64 false) ∧
    heldBy (exec (.sari 3#5 1#5 1#6) (s12 (-2) 0#64)) = some (1, .scal 3 (-1) false) := by decide
/-- R139's example: MOVI s1, 4 and three SHI. -/
theorem test_movi_shi : heldBy (exec (.movi 1#5 4#18) State.reset) = some (1, .scal 1 4#64 false) ∧
    heldBy (exec (.shi 1#5 0x23456#18) (withS [(1, 4#64)])) = some (1, .scal 1 0x123456#64 false) ∧
    heldBy (exec (.shi 1#5 0x1E26A#18) (withS [(1, 0x123456#64)])) = some (1, .scal 1 0x48D159E26A#64 false) ∧
    heldBy (exec (.shi 1#5 0x3CDEF#18) (withS [(1, 0x48D159E26A#64)])) = some (1, .scal 1 0x0123456789ABCDEF#64 false) := by decide

theorem test_guard_false_does_nothing : exec (.add ⟨1#3, false⟩ 3#5 1#5 2#5) (s12 1#64 2#64) = .next (s12 1#64 2#64) := rfl
theorem test_poison_travels :
    heldBy (exec (.add g0 3#5 1#5 2#5) { s12 1#64 2#64 with c := { (s12 1#64 2#64).c with r := (s12 1#64 2#64).c.r.setPois 0 1 true } })
      = some (1, .scal 3 3#64 true) := by decide
theorem test_branches : (after (exec (.br g0 0x7FFFE#19) { State.reset with issue := { Issue.empty with pc := 64#64, next := 72#64 } })).issue.target
      = some 56#64 ∧
    heldBy (exec (.brl g0 2#19) { State.reset with issue := { Issue.empty with pc := 64#64, next := 72#64 } }) = some (1, .scal 31 72#64 false) ∧
    (after (exec (.brs g0 5#5 1#5) (s12 16#64 0#64))).issue.target = some 16#64 ∧
    stopBy (exec (.brs g0 5#5 1#5) (s12 17#64 0#64)) = some (.trap .illegal 0 0#64) := by decide +kernel
theorem test_points : (after (exec .ppt State.reset)).issue.after = .ppt ∧ (after (exec .yield State.reset)).issue.after = .yield ∧
    (after (exec .exit State.reset)).issue.after = .exit ∧ (after (exec (.trap 5#18) State.reset)).issue.after = .trap 5#18 ∧
    (after (exec (.svc 6#18) State.reset)).issue.after = .svc 6#18 ∧ stopBy (exec .eret State.reset) = some (.trap .illegal 0 0#64) ∧
    stopBy (exec .halt State.reset) = some (.trap .priv 0 0#64) ∧ (after (exec .halt (supState State.reset))).issue.after = .halt := by
  decide +kernel
theorem test_loops : (after (exec (.loopi 1#2 5#13) { State.reset with
      c := { State.reset.c with f := { State.reset.c.f with loops := [(1, 0x4000000000040002#64)] } },
      issue := { Issue.empty with next := 8#64 } })).issue.arm = some (1, 5#64) ∧
    stopBy (exec (.loopi 1#2 5#13) State.reset) = some (.trap .illegal 0 0#64) ∧
    stopBy (exec (.loop g0 0#2 1#5) State.reset) = some (.trap .illegal 0 0#64) := by decide +kernel
theorem test_stamp_and_format : heldBy (exec (.tstamp g0 3#5) State.reset) = some (1, .scal 3 0#64 false) ∧
    heldBy (exec (.tstampSet g0 3#5 1#5) (s12 0x100000007#64 0#64)) = some (1, .sys 7 7#64) ∧
    heldBy (exec (.fcrSet g0 1#5 9#4) (s12 3#64 0#64)) = some (4, .fcr 0xFF03#64 3#64) ∧
    heldBy (exec (.fcrGet g0 3#5) State.reset) = some (2, .scal 3 0#64 false) ∧
    heldBy (exec (.poisTest g0 0#2 3#5 1#5) State.reset) = some (1, .scal 3 0#64 false) ∧
    heldBy (exec (.poisSet g0 1#2 4#5) State.reset) = some (1, .pois 1 4 true) ∧
    heldBy (exec (.poisClr g0 2#2 4#5) State.reset) = some (1, .pois 2 4 false) := by decide +kernel
theorem test_system_registers : heldBy (exec (.swrite 4#12 1#5) (s12 9#64 0#64)) = some (1, .sys 4 9#64) ∧
    heldBy (exec (.sread 3#5 4#12) (s12 9#64 0#64)) = some (2, .scal 3 0#64 false) ∧
    stopBy (exec (.sread 3#5 0x880#12) State.reset) = some (.trap .priv 0 0#64) := by decide +kernel
theorem test_supervisor_only : stopBy (exec (.ctxSave g0 3#5 1#5 2#5) State.reset) = some (.trap .priv 0 0#64) ∧
    opBy (exec (.ctxSave g0 3#5 1#5 2#5) (supState (s12 7#64 256#64))) = some (.ctxSave 7 256#64) ∧
    opBy (exec (.ctxLoad g0 3#5 1#5 2#5) (supState (s12 7#64 256#64))) = some (.ctxLoad 7 256#64) ∧
    opBy (exec (.preemptStop g0 3#5 1#5 2#5) (supState (s12 7#64 9#64))) = some (.preempt 0 7 9 false) ∧
    opBy (exec (.preemptResume g0 3#5 1#5 2#5) (supState (s12 0x807#64 9#64))) = some (.preempt 1 7 9 true) ∧
    opBy (exec (.preemptState g0 3#5 1#5 2#5) (supState (s12 7#64 0#64))) = some (.preempt 2 7 0 false) ∧
    opBy (exec (.panAck g0 3#5) State.reset) = some .panAck ∧
    opBy (exec (.panRead g0 3#5 1#5 1#2) (s12 7#64 0#64)) = some (.panRead 7 1) := by decide +kernel

/-! ## Vectors (R194 to R219) -/

def sv (w : Nat) (xs ys : List Nat) : State := withV [(1, vecW w xs), (2, vecW w ys)] State.reset

/-- R194's examples. -/
theorem test_saturation : elemsBy (exec (.vadds 0#3 0#3 3#5 1#6 2#6) (sv 1 [100] [50])) 1 [0, 1] = some (1, [127, 0]) ∧
    elemsBy (exec (.vadds 0#3 4#3 3#5 1#6 2#6) (sv 1 [0x64] [0xC8])) 1 [0] = some (1, [255]) ∧
    elemsBy (exec (.vsubs 0#3 5#3 3#5 1#6 2#6) (sv 2 [3] [5])) 2 [0] = some (1, [0]) ∧
    elemsBy (exec (.vmulh 0#3 1#3 3#5 1#6 2#6) (sv 2 [0xFFFE] [0x4000])) 2 [0] = some (3, [0xFFFF]) := by decide +kernel
theorem test_vector_integers : elemsBy (exec (.vadd 0#3 0#3 3#5 1#6 2#6) (sv 1 [255, 1] [2, 2])) 1 [0, 1] = some (1, [1, 3]) ∧
    elemsBy (exec (.vsub 0#3 0#3 3#5 1#6 2#6) (sv 1 [1] [2])) 1 [0] = some (1, [255]) ∧
    elemsBy (exec (.vmul 0#3 2#3 3#5 1#6 2#6) (sv 4 [0x10001] [0x10001])) 4 [0] = some (3, [0x20001]) ∧
    elemsBy (exec (.vmin 0#3 0#3 3#5 1#6 2#6) (sv 1 [255] [1])) 1 [0] = some (1, [255]) ∧
    elemsBy (exec (.vmax 0#3 4#3 3#5 1#6 2#6) (sv 1 [255] [1])) 1 [0] = some (1, [255]) := by decide +kernel
theorem test_vector_bits : elemsBy (exec (.vand 0#3 0#3 3#5 1#6 2#6) (sv 1 [12] [10])) 1 [0] = some (1, [8]) ∧
    elemsBy (exec (.vor 0#3 0#3 3#5 1#6 2#6) (sv 1 [12] [10])) 1 [0] = some (1, [14]) ∧
    elemsBy (exec (.vxor 0#3 0#3 3#5 1#6 2#6) (sv 1 [12] [10])) 1 [0] = some (1, [6]) ∧
    elemsBy (exec (.vnot 0#3 0#3 3#5 1#6) (sv 1 [12] [])) 1 [0] = some (1, [243]) := by decide +kernel
theorem test_vector_shifts : elemsBy (exec (.vshl 0#3 0#3 3#5 1#6 2#6) (sv 1 [3, 3] [7, 8])) 1 [0, 1] = some (1, [128, 0]) ∧
    elemsBy (exec (.vshr 0#3 0#3 3#5 1#6 2#6) (sv 1 [128, 128] [7, 8])) 1 [0, 1] = some (1, [1, 0]) ∧
    elemsBy (exec (.vsar 0#3 0#3 3#5 1#6 2#6) (sv 1 [128, 64] [200, 200])) 1 [0, 1] = some (1, [255, 0]) ∧
    elemsBy (exec (.vshli 0#3 3#5 1#6 4#6) (sv 1 [0x1F] [])) 1 [0] = some (1, [0xF0]) ∧
    elemsBy (exec (.vshri 0#3 3#5 1#6 4#6) (sv 1 [0xF1] [])) 1 [0] = some (1, [0x0F]) ∧
    elemsBy (exec (.vsari 0#3 3#5 1#6 4#6) (sv 1 [0xF1] [])) 1 [0] = some (1, [0xFF]) := by decide +kernel
theorem test_vector_compare : heldBy (exec (.vcmpCc 2#2 0#3 3#3 4#3 1#6 2#6) (sv 8 [2 ^ 64 - 1] [1])) = some (1, .pred 4 0xFF#256 false) := by
  decide +kernel
/-- R198's example: FMA.BF16 of 1.0625, 1.0625 and −1.125. -/
theorem test_fma_rounds_once :
    elemsBy (exec (.fma 0#3 1#3 3#5 1#6 2#6) (withV [(1, vecW 2 [0x3F88]), (2, vecW 2 [0x3F88]), (3, vecW 2 [0xBF90])] State.reset)) 2 [0]
      = some (4, [0x3B80]) ∧
    elemsBy (exec (.fmul 0#3 1#3 3#5 1#6 2#6) (sv 2 [0x3F88] [0x3F88])) 2 [0] = some (4, [0x3F90]) ∧
    elemsBy (exec (.fadd 0#3 1#3 3#5 1#6 2#6) (sv 2 [0x3F90] [0xBF90])) 2 [0] = some (4, [0]) := by decide +kernel
/-- R202's examples: FRND of −0.3 and 2.5, FSCALE of 1.5 by −150. -/
theorem test_round_and_scale : elemsBy (exec (.frnd 0#3 0#3 3#5 1#6) (sv 4 [0xBE99999A, 0x40200000] [])) 4 [0, 1] = some (2, [0x80000000, 0x40000000]) ∧
    elemsBy (exec (.fscale 0#3 0#3 3#5 1#6 2#6) (sv 4 [0x3FC00000] [2 ^ 32 - 150])) 4 [0] = some (2, [1]) := by decide +kernel
theorem test_float_kin : elemsBy (exec (.fsub 0#3 0#3 3#5 1#6 2#6) (sv 4 [0x40000000] [0x3F800000])) 4 [0] = some (4, [0x3F800000]) ∧
    elemsBy (exec (.fms 0#3 0#3 3#5 1#6 2#6) (withV [(1, vecW 4 [0x40000000]), (2, vecW 4 [0x40000000]), (3, vecW 4 [0x3F800000])] State.reset)) 4 [0]
      = some (4, [0x40400000]) ∧
    elemsBy (exec (.fnma 0#3 0#3 3#5 1#6 2#6) (withV [(1, vecW 4 [0x40000000]), (2, vecW 4 [0x40000000]), (3, vecW 4 [0x3F800000])] State.reset)) 4 [0]
      = some (4, [0xC0A00000]) ∧
    elemsBy (exec (.fnms 0#3 0#3 3#5 1#6 2#6) (withV [(1, vecW 4 [0x40000000]), (2, vecW 4 [0x40000000]), (3, vecW 4 [0x3F800000])] State.reset)) 4 [0]
      = some (4, [0xC0400000]) ∧
    elemsBy (exec (.fmin 0#3 0#3 3#5 1#6 2#6) (sv 4 [0x80000000] [0])) 4 [0] = some (2, [0x80000000]) ∧
    elemsBy (exec (.fmax 0#3 0#3 3#5 1#6 2#6) (sv 4 [0x80000000] [0])) 4 [0] = some (2, [0]) ∧
    elemsBy (exec (.fabs 0#3 0#3 3#5 1#6) (sv 4 [0xBF800000] [])) 4 [0] = some (2, [0x3F800000]) ∧
    elemsBy (exec (.fneg 0#3 0#3 3#5 1#6) (sv 4 [0xBF800000] [])) 4 [0] = some (2, [0x3F800000]) ∧
    heldBy (exec (.fcmpCc 1#2 0#3 0#3 4#3 1#6 2#6) (sv 4 [0xBF800000] [])) = some (2, .pred 4 0xF#256 false) := by decide +kernel
theorem test_moves : elemsBy (exec (.vmov 0#3 2#3 3#5 1#6) (sv 4 [9] [])) 4 [0, 1] = some (1, [9, 0]) ∧
    elemsBy (exec (.vbcast 0#3 1#3 3#5 1#5) (withS [(1, 0x12345#64)])) 2 [0, 127] = some (1, [0x2345, 0x2345]) ∧
    elemsBy (exec (.vimm 2#3 3#5 0xFFF#12) State.reset) 4 [0, 63] = some (1, [0xFFFFFFFF, 0xFFFFFFFF]) ∧
    elemsBy (exec (.vsel 2#3 3#5 1#6 2#6 0#3) (sv 4 [9] [8])) 4 [0] = some (1, [9]) ∧
    heldBy (exec (.vext 1#3 5#5 1#6 1#5) (sv 2 [0xFFFE] [])) = some (2, .scal 5 (-2) false) ∧
    elemsBy (exec (.vins 2#3 1#5 0#5 0#5) (sv 4 [9, 8] [])) 4 [0, 1] = some (2, [0, 8]) := by decide +kernel
theorem test_permutes : elemsBy (exec (.vperm 0#3 2#3 3#5 1#6 2#6) (sv 4 [10, 11] [1, 64])) 4 [0, 1] = some (2, [11, 10]) ∧
    elemsBy (exec (.vslideUp 0#3 2#3 3#5 1#6 1#5) (withV [(1, vecW 4 [10, 11])] (withS [(1, 1#64)]))) 4 [0, 1, 2] = some (2, [0, 10, 11]) ∧
    elemsBy (exec (.vslideDn 0#3 2#3 3#5 1#6 1#5) (withV [(1, vecW 4 [10, 11])] (withS [(1, 64#64)]))) 4 [0, 1] = some (2, [0, 0]) ∧
    elemsBy (exec (.vrot 0#3 2#3 3#5 1#6 1#5) (withV [(1, vecW 4 [10, 11])] (withS [(1, 65#64)]))) 4 [0, 63] = some (2, [11, 10]) := by decide +kernel
theorem test_pairs : heldBy (exec (.vzip 0#3 3#3 4#5 1#6 2#6) (sv 8 [1, 2] [3, 4])) = some (2, .vec 5 0#2048 0#4) ∧
    ((after (exec (.vzip 0#3 3#3 4#5 1#6 2#6) (sv 8 [1, 2] [3, 4]))).c.f.pend.head?.map (·.land)) = some (.vec 4 (vecW 8 [1, 3, 2, 4]) 0#4) ∧
    elemsBy (exec (.vunzip 0#3 3#3 4#5 1#6 2#6) (sv 8 [1, 2] [3, 4])) 8 [0, 16] = some (2, [2, 4]) ∧
    elemsBy (exec (.vtrn 0#3 3#3 4#5 1#6 2#6) (sv 8 [1, 2] [3, 4])) 8 [0, 1] = some (2, [2, 4]) := by decide +kernel
theorem test_reductions : elemsBy (exec (.vradd 0#3 0#3 3#5 1#6) (sv 1 [200, 100] [])) 1 [0, 1] = some (4, [44, 0]) ∧
    elemsBy (exec (.vrmin 1#3 0#3 3#5 1#6) (sv 1 [200] [])) 1 [0] = some (4, [127]) ∧
    elemsBy (exec (.vrmax 0#3 0#3 3#5 1#6) (sv 1 [200] [])) 1 [0] = some (4, [0]) ∧
    elemsBy (exec (.vscanAdd 0#3 2#3 3#5 1#6) (sv 4 [1, 2, 3] [])) 4 [0, 1, 2, 63] = some (6, [1, 3, 6, 6]) := by decide +kernel
/-- R213's example: vhash(1, 0). -/
theorem test_dot_hash_count : elemsBy (exec (.vhash 0#3 2#3 3#5 1#6 2#6) (sv 4 [1, 0] [0, 0])) 4 [0, 1] = some (3, [0x3A9E888B, 0]) ∧
    elemsBy (exec (.vdot4 0#3 2#3 3#5 1#6 2#6) (sv 1 [255, 2, 3, 4] [1, 1, 1, 1])) 4 [0] = some (4, [8]) ∧
    heldBy (exec (.pcnt 0#3 2#3 5#5 0#3) State.reset) = some (2, .scal 5 64#64 false) ∧
    heldBy (exec (.pfirst 0#3 2#3 5#5 1#3) State.reset) = some (2, .scal 5 64#64 false) := by decide +kernel
theorem test_float_reductions : elemsBy (exec (.fradd 0#3 0#3 3#5 1#6) (sv 4 [0x3F800000, 0x40000000] [])) 4 [0, 1] = some (8, [0x40400000, 0]) ∧
    elemsBy (exec (.frmin 1#3 0#3 3#5 1#6) (sv 4 [] [])) 4 [0] = some (4, [0x7F800000]) ∧
    elemsBy (exec (.frmax 0#3 0#3 3#5 1#6) (sv 4 [0x3F800000] [])) 4 [0] = some (4, [0x3F800000]) := by decide +kernel

/-! ## Memory, channels, atomics and waits (R277 to R291, R356 to R366) -/

/-- A supervisor whose AB holds bytes from address 0x40, its scalar registers set. -/
def sm (l : List (Nat × Word)) (bytes : List Byte) : State :=
  let s := supState (withS l)
  { s with ab := { s.ab with bytes := Mem.setBytes s.ab.bytes 0x40 bytes }, sp := { s.sp with bytes := Mem.setBytes s.sp.bytes 0x40 bytes } }

theorem test_loads : heldBy (exec (.ld g0 2#2 false 3#5 1#5 1#6) (sm [(1, 0x3C#64)] [1#8, 2#8, 3#8, 0x84#8, 5#8])) = some (3, .scal 3 0x84030201#64 false) ∧
    heldBy (exec (.ld g0 1#2 true 3#5 1#5 0#6) (sm [(1, 0x43#64)] [1#8, 2#8, 3#8, 4#8])) = some (3, .scal 3 0x403#64 false) ∧
    heldBy (exec (.ldAcq g0 0#2 false false 3#5 1#5 2#2) (sm [(1, 0x3F#64)] [1#8, 2#8])) = some (3, .scal 3 2#64 false) ∧
    opBy (exec (.gld g0 3#2 3#5 1#5 1#6) (sm [(1, 0x47#64)] [])) = some (.read [some (.glob 0x48#64)] 8 false 3) := by decide +kernel
theorem test_stores : heldBy (exec (.st g0 1#2 false 3#5 1#5 1#6) (sm [(1, 0x3E#64), (3, 0x12345#64)] [])) = some (1, .store false 0x40 [0x45#8, 0x23#8] false) ∧
    heldBy (exec (.stRel g0 1#2 true false 4#3 3#5 1#5 1#2) (sm [(1, 0x3E#64), (3, 0x12345#64)] [])) = some (1, .store true 0x40 [0x45#8, 0x23#8] true) ∧
    opBy (exec (.st g0 0#2 true 3#5 1#5 0#6) (sm [(1, 0x100000#64), (3, 7#64)] [])) = some (.write [(.sp 0x100000, [7#8])]) := by decide +kernel
/-- R277's example: a VLD at AB offset 0xFFFC0 makes a WINDOW fault. -/
theorem test_vld_past_the_end : (sm [] []).spot false 256 0xFFFC0#64 = .bad 7 false ∧
    heldBy (exec (.vld g0 false 3#5 1#5 0#6) (sm [(1, 0xFFFC0#64)] [])) = some (4, .vec 3 0#2048 15#4) := by decide +kernel
theorem test_vector_loads : elemsBy (exec (.vld g0 false 3#5 1#5 0#6) (sm [(1, 0x7F#64)] [1#8, 2#8])) 1 [0, 1] = some (4, [1, 2]) ∧
    elemsBy (exec (.vlds g0 0#2 false 3#5 1#5 2#5) (sm [(1, 0x40#64), (2, 2#64)] [1#8, 2#8, 3#8])) 1 [0, 1, 2] = some (6, [1, 3, 0]) ∧
    elemsBy (exec (.vgather g0 0#2 false 3#5 1#5 2#5) (withV [(2, vecW 4 [0, 2])] (sm [(1, 0x40#64)] [1#8, 2#8, 3#8]))) 1 [0, 1, 2, 64] = some (32, [1, 3, 1, 0]) := by
  decide +kernel
theorem test_vst : heldBy (exec (.vst g0 true 3#5 1#5 1#6) (withV [(3, vecW 1 [9])] (sm [(1, 0#64)] []))) = some (1, .store true 256 (9#8 :: List.replicate 255 0#8) false) := by
  decide +kernel
/-- R286's example: the element with the highest index remains. -/
theorem test_scatter_order :
    let s := after (exec (.vscatter g0 2#2 false 3#5 1#5 2#5)
      (withV [(2, vecW 4 ([5, 9, 5, 0, 0, 0, 0, 0] ++ (List.range 56).map (· + 100))), (3, vecW 4 (List.range 64))] (sm [(1, 0#64)] [])))
    let t := s.c.f.pend.foldl State.landHeld s
    Mem.read t.ab.bytes 0 4 = 7 ∧ Mem.read t.ab.bytes 20 4 = 2 ∧ Mem.read t.ab.bytes 36 4 = 1 := by decide +kernel

/-- Channel 0 of the issuing context, of four slots in AB: a consumer when `d` is false. -/
def sc (prod cons : Nat) (d : Bool) : State :=
  let s := sm [] []
  let h : Chan := { Chan.zero with cfg := BitVec.ofNat 64 (2 ^ 63 + (if d then 2 ^ 58 else 0) + 0x100 * 2 ^ 32 + 4), res := BitVec.ofNat 16 prod,
                                   prod := BitVec.ofNat 16 prod, cons := BitVec.ofNat 16 cons, ridx := prod % 4, vidx := prod % 4, cidx := cons % 4 }
  { s with c := { s.c with y := { s.c.y with chans := [(0, h)] } }, ab := { s.ab with bytes := Mem.setBytes s.ab.bytes 0x200 [7#8] } }

theorem test_channels : elemsBy (exec (.chpop g0 3#5 0#3) (sc 3 1 false)) 1 [0] = some (2, [7]) ∧
    (after (exec (.chpopDrop g0 0#3) (sc 3 1 false))).issue.pops = [0] ∧
    ((after (exec (.chpop g0 3#5 0#3) (sc 1 1 false))).issue.stall.map (·.1)) = some 2 ∧
    stopBy (exec (.chpop g0 3#5 0#3) (sc 3 1 true)) = some (.trap .illegal 0 0#64) ∧
    heldBy (exec (.chpush g0 0#3 3#5) (sc 3 1 false)) = some (1, .push 0 false 0x400 0#2048 0#4) ∧
    ((after (exec (.chpush g0 0#3 3#5) (sc 5 1 false))).issue.stall.map (·.1)) = some 3 ∧
    elemsBy (exec (.chpeek g0 3#5 0#3 0#5) (sc 2 1 false)) 1 [0] = some (2, [7]) ∧
    heldBy (exec (.chstat g0 3#5 0#3) (sc 3 1 false)) = some (2, .scal 3 (BitVec.ofNat 64 (2 ^ 63 + 2 * 2 ^ 16 + 2)) false) := by decide +kernel

theorem test_atomics : opBy (exec (.aadd g0 0#2 true true 3#5 1#5 2#5) (sm [(1, 0x47#64), (2, 5#64)] [])) = some (.atom .add (.sp 0x40) 8 5#64 0#64) ∧
    opBy (exec (.acas g0 0#2 true false 3#5 1#5 2#5) (sm [(1, 0x40#64), (2, 5#64), (3, 6#64)] [])) = some (.atom .cas (.sp 0x40) 4 5#64 6#64) ∧
    opBy (exec (.adecp g0 0#2 true true 3#5 1#5) (sm [(1, 0x40#64)] [])) = some (.atom .decp (.sp 0x40) 8 0#64 0#64) ∧
    stopBy (exec (.amxacc g0 0#2 0#2 3#5 1#5 2#5) (sm [(1, 0x48#64)] [])) = some (.trap .illegal 0 0#64) := by decide +kernel
/-- R356: AMIN is signed, ACAS writes only on a match, ADECP only above 0. -/
theorem test_atomic_values : atomNew .min 4 0xFFFFFFFF 1 0 = some 0xFFFFFFFF ∧ atomNew .max 4 0xFFFFFFFF 1 0 = some 1 ∧
    atomNew .add 4 0xFFFFFFFF 1 0 = some 0 ∧ atomNew .cas 8 3 3 9 = some 9 ∧ atomNew .cas 8 3 4 9 = none ∧ atomNew .decp 8 1 0 0 = some 0 ∧
    atomNew .decp 8 0 0 0 = none ∧ atomNew .decp 4 0x80000000 0 0 = none := by decide
theorem test_waits : opBy (exec (.fence g0 4#3 3#5) State.reset) = some (.fence 4) ∧
    opBy (exec (.waitv g0 true 3#5 1#5 2#5) (s12 0x47#64 9#64)) = some (.waitv 0x40#64 8 9#64) ∧
    opBy (exec (.notify g0 true 3#5 1#5) (s12 0x47#64 0#64)) = some (.notify true 0x40#64) ∧
    opBy (exec (.bar g0 false 3#5) State.reset) = some (.bar false 1#32) ∧
    stopBy (exec (.bar g0 true 3#5) State.reset) = some (.trap .illegal 0 0#64) ∧
    stopBy (exec (.synGet g0 3#5 1#5) (s12 256#64 0#64)) = some (.trap .illegal 0 0#64) ∧
    opBy (exec (.synAdd g0 3#5 1#5 2#5) { s12 4#64 9#64 with synmap := [(4, 256 + 17)] }) = some (.synAdd 4 9#32) ∧
    opBy (exec (.synWait g0 3#5 1#5 2#5) { s12 4#64 9#64 with synmap := [(4, 256 + 17)] }) = some (.synWait 4 9#32) := by decide +kernel

/-! ## Segment tables (09_segment_tables.md, "A worked evaluation") -/

/-- Table qz in TMEM at 0, with the words of its header and of segment 5. -/
def qzBytes : List Byte :=
  natLe 0x247F0C08 4 ++ natLe 0xC0800000 4 ++ natLe 0x40800000 4 ++ natLe 0 4 ++ natLe 0x3F800000 4 ++ natLe 0 4 ++ natLe 1 8

/-- qz bound in slot 1, v2 as in the example, RND as given. -/
def sq (rnd : Nat) (e9 : Nat) : State :=
  let s := withV [(2, vecW 4 ([0x3FA66666, 0x40800000, 0xC0A00000, 0x7FC00000] ++ List.replicate 5 0x3FA66666 ++ [e9] ++ List.replicate 54 0x3FA66666))]
    (supState State.reset)
  let seg := natLe 0x3F000000 4 ++ natLe 0x3E800000 4 ++ natLe 0xBD800000 4 ++ natLe 0 4
  { s with c := { s.c with y := { s.c.y with fcr := BitVec.ofNat 64 rnd, trsize := 4096, tabs := [(1, ⟨.bound, 0, qzBytes, 160, none⟩)] } },
           tmem := { s.tmem with bytes := Mem.setBytes (Mem.setBytes s.tmem.bytes 0 qzBytes) 112 seg } }

theorem test_segment_evaluation :
    elemsBy (exec (.sfEval 0#3 3#3 7#5 2#6 1#2) (sq 0 0x3FA66666)) 2 [0, 1, 2, 3, 4, 63, 64] = some (8, [0x3F12, 0x3F80, 0, 0x7FC0, 0x3F12, 0x3F12, 0]) := by
  decide +kernel
theorem test_segment_rounding_toward_zero : elemsBy (exec (.sfEval 0#3 3#3 7#5 2#6 1#2) (sq 1 0x3FA66666)) 2 [0] = some (8, [0x3F11]) := by
  decide +kernel
theorem test_segment_gap : stopBy (exec (.sfEval 0#3 3#3 7#5 2#6 1#2) (sq 0 0xC0600000)) = some (.trap .sfgap 0 (segInfo 0 0 0 1 9)) := by
  decide +kernel
theorem test_segment_unbound : stopBy (exec (.sfEvalx 0#3 0#3 7#5 2#6 1#4 2#2) (sq 0 0)) = some (.trap .sfgap 0 (segInfo 1 0 0 2 255)) := by
  decide +kernel
theorem test_segment_instructions : heldBy (exec (.sftInfo g0 3#5 1#2 0#2) (sq 0 0)) = some (3, .scal 3 (BitVec.ofNat 64 (leNat (qzBytes.take 8))) false) ∧
    heldBy (exec (.sftBindOff g0 3#5 1#2) (sq 0 0)) = some (4, .scal 3 2#64 false) ∧
    heldBy (exec (.sftBind g0 3#5 1#5 1#2) { sq 0 0 with tmem := Bank.empty 3 }) = some (4, .scal 3 1#64 false) ∧
    stopBy (exec (.sftBind g0 3#5 1#5 1#2) (withS [(1, 16#64)])) = some (.trap .illegal 0 0#64) ∧
    stopBy (exec (.sftChk g0 3#5 1#5) (withS [(1, 32#64)])) = some (.trap .trange 0 (tabInfo 32 0)) ∧
    stopBy (exec (.sftLoad g0 3#5 1#5 2#5) (withS [(1, 8#64), (2, 0x100000000#64)])) = some (.trap .illegal 0 0#64) := by decide +kernel

/-! ## Engines and fabric (R281 to R335, R385 to R393) -/

/-- A COPY in AB of 256 bytes from 0x40 to 0x80, handed over. -/
def copied : State := after (exec (.copy g0 false false 1#5 2#5 3#5) (sm [(1, 0x80#64), (2, 0x40#64), (3, 0x2800000000000100#64)] [7#8]))

theorem test_copy : (copied.cmds.map fun m => (m.unit, m.a, m.b, m.d)) = [(.copy 0, 0x80#64, 0x40#64, 0x2800000000000100#64)] := by decide +kernel
/-- R296's example: with overlapping ranges a line reads what an earlier line has written. -/
theorem test_copy_overlaps :
    let t := after (exec (.copyComplete 1) { copied with issue := Issue.empty })
    t.cmds = [] ∧ Mem.byte t.ab.bytes 0x80 = 7#8 ∧ Mem.byte t.ab.bytes 0xC0 = 7#8 ∧ Mem.byte t.ab.bytes 0x140 = 7#8 ∧ Mem.byte t.ab.bytes 0x180 = 0#8 := by
  decide +kernel
theorem test_rows : stopBy (exec (.rowinit g0 false false 1#5 2#5 3#5) (sm [(3, 65#64)] [])) = some (.trap .illegal 0 0#64) ∧
    stopBy (exec (.rowcpy g0 false false 1#5 2#5 3#5) (sm [(3, 0#64)] [])) = some (.trap .illegal 0 0#64) := by decide +kernel
theorem test_ladles : ((after (exec (.ladRun g0 true 1#5 2#5 3#5) (sm [(1, 8#64), (2, 9#64), (3, 10#64)] []))).ladle 1).runs.map (fun r => (r.ctx, r.a, r.b, r.d)) = [(0, 8#64, 9#64, 10#64)] ∧
    stopBy (exec (.ladRun g0 true 1#5 2#5 3#5) (sm [(1, 6#64)] [])) = some (.trap .illegal 0 0#64) ∧
    stopBy (exec (.ladStat g0 3#5 true) State.reset) = some (.trap .feature 0 0#64) ∧
    ((after (exec (.ladStop g0 true) (after (exec (.ladRun g0 true 1#5 2#5 3#5) (sm [] []))))).ladle 1).runs = [] := by decide +kernel
/-- A core that holds the lease. -/
def sg (l : List (Nat × Word)) : State := (sm l []).updGriddle 0 fun g => { g with lease := .held, budCmds := 64, budSteps := 16384 }
theorem test_griddle : cmdBy (exec (.grdZero g0 1#5) (sg [(1, 0x0302#64)])) = some (.griddle 0, 0#64, 0#64, 0x0302#64) ∧
    ((after (exec (.grdZero g0 1#5) (sg [(1, 0x0302#64)]))).griddle 0).budSteps = 16380 ∧
    cmdBy (exec (.grdSclAll g0 1#5) (sg [(1, 0x7F#64)])) = some (.griddle 0, 0#64, 0x7F#64, 0#64) ∧
    cmdBy (exec (.grdScl g0 1#5) (sg [(1, 0x80#64)])) = some (.griddle 0, 0x80#64, 0#64, 0#64) ∧
    cmdBy (exec (.grdWload g0 1#5) (sg [(1, 0x80#64)])) = some (.griddle 0, 0x80#64, 0#64, 0#64) ∧
    stopBy (exec (.grdZero g0 1#5) (sm [(1, 0x0302#64)] [])) = some (.trap .illegal 0 0#64) ∧
    opBy (exec (.grdLease g0) (sm [] [])) = some .lease ∧ (after (exec (.grdFree g0) (sg []))).issue.freesLease = true ∧
    ((after (exec (.grdFree g0) (sg []))).griddle 0).lease = .held ∧
    opBy (exec (.grdStat g0 true 3#5 1#5) (sm [] [])) = some (.grdStat 0 true false) := by decide +kernel
theorem test_griddle_transfers : (cmdBy (exec (.grdSave g0 false false 1#5 2#5) (sg [(1, 0x40#64), (2, 0x4000000000000000#64)]))).isSome = true ∧
    (cmdBy (exec (.grdRest g0 false false 1#5 2#5) (sg [(1, 0x40#64), (2, 0x4000000000000000#64)]))).isSome = true ∧
    (cmdBy (exec (.grdDrain g0 false false 1#5 2#5) (sg [(1, 0x40#64), (2, 0x4000000800000000#64)]))).isSome = true ∧
    (cmdBy (exec (.grdMul g0 false false 1#5 2#5 3#5) (sg [(1, 0x40#64), (2, 0x800#64), (3, 0x1F0000#64)]))).isSome = true ∧
    opBy (exec (.grdChk g0 3#5 1#5) (sg [(1, 0x0302#64)])) = some (.grdChk 1) := by decide +kernel

/-! ## Events, one step each -/

theorem test_bundle_commits :
    let t := after (step ((withS [(1, 5#64), (2, 6#64)]).withFetchWord 32 0x000C2200))
    t.c.f.lcc = 1#64 ∧ t.c.f.pc = 8#64 ∧ t.c.r.readS 3 = 11#64 ∧ t.c.f.pend = [] := by decide +kernel
/-- R149, R150: TRAP enters the handler behind its bundle. -/
theorem test_trap_enters :
    let s := State.reset.withFetchWord 32 0x25800005
    let t := after (step { s with c := { s.c with e := { s.c.e with tvecEn := true, tvecOff := 0x100#18 } } })
    t.c.e.hm = true ∧ t.c.e.epc = 8#32 ∧ t.c.e.ecKind = 16 ∧ t.c.e.einfo = 5#64 ∧ t.c.f.pc = 0x100#64 ∧ t.c.f.lcc = 1#64 ∧ t.c.f.hcc = 0#64 := by
  decide +kernel
/-- R152: ERET goes back to EPC. -/
theorem test_eret_returns :
    let s := State.reset.withFetchWord 32 0x26800000
    let t := after (step { s with c := { s.c with e := { s.c.e with hm := true, epc := 0x40#32 } } })
    t.c.e.hm = false ∧ t.c.f.pc = 0x40#64 ∧ t.c.f.hcc = 1#64 ∧ t.c.f.lcc = 0#64 := by decide +kernel
theorem test_illegal_suspends : ((after (step (State.reset.withFetchWord 32 0x0E800000))).ctx 0).st = .suspended := by decide +kernel
theorem test_taken_branch_takes_two_cycles :
    let t := after (step (State.reset.withFetchWord 32 0x20000010))
    t.c.f.pc = 64#64 ∧ t.c.f.lcc = 2#64 := by decide +kernel
theorem test_agenda_passes_over_an_instruction :
    (after (step { State.reset with agenda := [.exit, .kick 0 0#64] })).agenda = [.kick 0 0#64] := by decide +kernel
theorem test_elastic_load :
    let s := sm [(1, 0x100040#64)] []
    let s1 := { s with sp := { s.sp with bytes := Mem.setBytes s.sp.bytes 0x100040 [9#8] } }
    let t := after (exec (.ld g0 0#2 true 3#5 1#5 0#6) s1)
    let u := after (exec (.elasticResultArrival 1) (after (exec (.accessPerformed 1) t)))
    t.tokened 0 (.s 3) = true ∧ u.c.r.readS 3 = 9#64 ∧ u.tokened 0 (.s 3) = false ∧ u.ops = [] := by decide +kernel
theorem test_kick_counts : ((after (exec (.kick 3 0#64) State.reset)).queue 3).drop = 1#16 ∧
    ((after (exec (.kick 3 0#64) (State.reset.updQueue 3 fun u => { u with en := true }))).queue 3).seq = 1#32 := by decide +kernel
theorem test_package_reset : (after (exec .packageReset (sm [(1, 5#64)] [1#8]))).c.r.readS 1 = 0#64 := by decide +kernel
theorem test_lease :
    let t := after (exec (.leaseGrant 0) ((sm [] []).updGriddle 2 fun g => { g with requesting := true }))
    (t.griddle 2).lease = .held ∧ (t.griddle 2).budCmds = 64 ∧ (t.griddle 2).budSteps = 16384 ∧ (t.octet 0).ptr = 2 := by decide +kernel
theorem test_griddle_zero :
    let s := after (exec (.grdZero g0 1#5) ((sg [(1, 0x0002#64)]).updGriddle 0 fun g => { g with zb := [(255, 5#64), (256, 6#64), (384, 7#64)] }))
    ((after (exec (.griddleCommandComplete 0) { s with issue := Issue.empty })).griddle 0).zb = [(255, 5#64), (384, 7#64)] := by decide +kernel
/-- CRC-32C of "123456789" (R227). -/
theorem test_crc : crc32c [0x31#8, 0x32#8, 0x33#8, 0x34#8, 0x35#8, 0x36#8, 0x37#8, 0x38#8, 0x39#8] = 0xE3069283 := by decide +kernel

/-! ## Witnesses: states and operands that meet the hypotheses of each statement -/

/-- Registers s1 = 5, v1, p1 and p2 poisoned, p1 false, p2 true in element 0 only. -/
def marked : State :=
  let s := State.reset
  { s with c := { s.c with r := (((s.c.r.writeS 1 5#64 true).writeV 1 (vecW 1 [3]) 5#4).writeP 1 0#256 true).writeP 2 1#256 true } }

/-- As `marked`, with p1 false and p2 true unpoisoned. -/
def guarded12 : State := { marked with c := { marked.c with r := { marked.c.r with pp := [] } } }

def g1 : Guard := ⟨1#3, false⟩

def headsB (s : State) (as : List VOp) : Bool :=
  as.all fun a => match headCode a with
    | none => true
    | some n => (s.c.chan n).en && !bitAt (s.c.chan n).cfg 58 && (s.c.chan n).prod != (s.c.chan n).cons

theorem headsReady_of_headsB (s : State) (as : List VOp) (h : headsB s as = true) : HeadsReady s as := by
  intro a ha n hn
  have := List.all_eq_true.mp h a ha
  simp only [hn, Bool.and_eq_true, Bool.not_eq_true', bne_iff_ne, ne_eq] at this
  exact ⟨this.1.1, this.1.2, this.2⟩

theorem witness_ScalarRegisterResults : Executes State.reset g0 ∧ Executes marked g1 ∧ Executes guarded12 ⟨1#3, true⟩ := by decide +kernel
theorem witness_ScalarDivision : Executes (s12 5#64 0#64) g0 ∧ (s12 5#64 0#64).rs 2#5 = 0#64 ∧
    Executes (s12 (BitVec.intMin 64) (-1)) g0 ∧ (s12 (BitVec.intMin 64) (-1)).rs 1#5 = BitVec.intMin 64 ∧
    (s12 (BitVec.intMin 64) (-1)).rs 2#5 = BitVec.allOnes 64 ∧ Executes (s12 (-7) 2#64) g0 ∧ (s12 (-7) 2#64).rs 2#5 ≠ 0#64 ∧
    (s12 (-7) 2#64).rs 1#5 ≠ BitVec.intMin 64 := by decide +kernel
theorem witness_PredicateAndImmediateResults : Executes State.reset g0 ∧ Executes marked g1 ∧ 8 ≤ (8#4).toNat ∧
    8 ≤ (15#4).toNat ∧ (0 : Nat) < 256 ∧ 0 / 64 ≠ (1#2 : BitVec 2).toNat := by decide +kernel
theorem witness_ConstantsAndNullifiedSlots : (∀ o ∈ State.reset.ops, o.dest ≠ some (.s 0)) ∧
    Nullified guarded12 g1 ∧ Nullified State.reset ⟨0#3, true⟩ ∧ guardOf (.add g1 3#5 4#5 5#5) = some g1 := by decide +kernel
theorem witness_BranchesAreTaken : Ready (withS [(1, 0x3FFFC#64)]) g0 [] ∧ Ready (withS [(1, 0x3FFFC#64)]) g0 [1#5] ∧
    ((withS [(1, 0x3FFFC#64)]).rs 1#5).toNat % 4 = 0 ∧ ((withS [(1, 0x3FFFC#64)]).rs 1#5).toNat < 2 ^ 18 ∧
    Ready (withS [(1, 0x40000#64)]) g0 [1#5] ∧ 2 ^ 18 ≤ ((withS [(1, 0x40000#64)]).rs 1#5).toNat ∧
    Ready (withS [(1, 2#64)]) g0 [1#5] ∧ ((withS [(1, 2#64)]).rs 1#5).toNat % 4 ≠ 0 := by decide +kernel

/-- A context at pc 8 with loop level 1 of kind T, from word 1 to word 2, and 3 trips left. -/
def looping (left : Word) : State :=
  let s := State.reset
  { s with c := { s.c with f := { s.c.f with loops := [(1, BitVec.ofNat 64 (2 ^ 62 + 2 * 2 ^ 16 + 1))], lcnt := SMap.put 0#64 [] 1 left } },
           issue := { s.issue with pc := 8#64, next := 4#64 } }

theorem witness_LoopsRun : bits ((looping 3#64).c.loopEntry 1) 62 2 = 1 ∧
    (looping 3#64).issue.next = (looping 3#64).base + toWord (4 * bits ((looping 3#64).c.loopEntry 1) 0 16) ∧
    Ready (looping 3#64) g0 [2#5] ∧ bits ((looping 3#64).c.loopEntry 0) 62 2 ≠ 1 ∧ (looping 3#64).issue.arm = none ∧
    (looping 3#64).issue.target = none ∧ (looping 3#64).c.endsAt 2 = [1] ∧ (looping 1#64).c.lcntOf 1 = 1#64 := by decide +kernel

/-- A context in handler mode, without right of supervisors. -/
def inHandler : State := { State.reset with c := { State.reset.c with e := { State.reset.c.e with hm := true } } }

/-- Context 0 owns the slot of core 0. -/
def owning : State := State.reset.updCore 0 fun u => { u with owner := 1 }

theorem witness_PointsStampAndFormat : State.reset.slotOwner (coreOf State.reset.who) ≠ some State.reset.who ∧
    owning.slotOwner (coreOf owning.who) = some owning.who ∧ State.reset.c.e.hm = false ∧ inHandler.c.e.hm = true ∧
    (supState State.reset).c.y.sup = true ∧ State.reset.c.y.sup = false ∧ Ready State.reset g0 [] ∧ Ready (withS []) g0 [1#5] ∧
    Executes marked g1 := by decide +kernel
theorem witness_ElasticOperationsAreQueued : State.reset.fab.entries.length < 1024 ∧ (∀ c, some 1 = some c → Unheld State.reset c) ∧
    (∀ c, (none : Option Nat) = some c → Unheld State.reset c) := by
  refine ⟨by decide, fun c h => ?_, fun c h => ?_⟩
  · cases h; decide
  · cases h
theorem witness_SystemInstructions : SysReg.open (State.reset).c.y.sup 0x002 = true ∧ SysReg.open State.reset.c.y.sup 0x800 = false ∧
    (guarded12).ps 1#5 = true ∧ State.reset.ps 2#5 = false ∧ SysReg.open State.reset.c.y.sup 0x018 = true ∧
    State.reset.swriteBad 0 0x018 ((withS []).rs 2#5) = false ∧ SysReg.open inHandler.c.y.sup 0x019 = true ∧
    inHandler.swriteBad 0 0x019 2#64 = true ∧ inHandler.swriteBad 0 0x019 4#64 = false ∧ State.reset.swriteBad 0 0x019 4#64 = false ∧
    State.reset.c.e.hm = false := by decide +kernel
theorem witness_SystemInstructions_operations : Ready State.reset g0 [] ∧ Ready State.reset g0 [1#5] ∧ Ready (supState State.reset) g0 [1#5, 2#5] ∧
    (supState State.reset).c.y.sup = true ∧ ((supState (s12 0#64 256#64)).rs 2#5).toNat % 256 = 0 ∧
    ((supState (s12 0#64 64#64)).rs 2#5).toNat % 256 ≠ 0 ∧ State.reset.c.y.sup = false := by decide +kernel
/-! Vector operations: with vector registers, with a poisoned one, and with the head of a channel (code 56). -/

theorem witness_VectorIntegerResults : Clear marked ∧ HeadsReady marked [1#6, 2#6] :=
  ⟨by decide, headsReady_of_headsB _ _ (by decide)⟩
theorem witness_vector_heads : Clear (sc 3 1 false) ∧ HeadsReady (sc 3 1 false) [48#6, 2#6] ∧ headCode 48#6 = some 0 :=
  ⟨by decide, headsReady_of_headsB _ _ (by decide +kernel), by decide⟩
theorem witness_VectorMoveResults : Clear marked ∧ HeadsReady marked [1#6, 2#6] ∧ (7#6).toNat < 8 * intW 0#3 ∧ (63#6).toNat < 8 * intW 3#3 :=
  ⟨by decide, headsReady_of_headsB _ _ (by decide), by decide, by decide⟩
theorem witness_VectorPermuteResults : Clear guarded12 ∧ HeadsReady guarded12 [1#6, 2#6] :=
  ⟨by decide, headsReady_of_headsB _ _ (by decide)⟩
theorem witness_VectorReductionResults : Clear guarded12 ∧ HeadsReady guarded12 [1#6, 2#6] ∧ (2#3 = 2#3 ∨ 2#3 = 6#3) ∧
    ((List.range 256).filter (active (guarded12.rp 1#3) 1)) = [] ∧ ((List.range 256).filter (active (guarded12.rp 2#3) 1)) = [0] :=
  ⟨by decide, headsReady_of_headsB _ _ (by decide), by decide, by decide +kernel, by decide +kernel⟩
theorem witness_FloatResults : (2#3).toNat < 3 ∧ Clear guarded12 ∧ HeadsReady guarded12 [1#6, 2#6] ∧ HeadsReady guarded12 [1#6] ∧
    ((List.range 64).filter (active (guarded12.rp 1#3) 4)) = [] ∧ ((List.range 64).filter (active (guarded12.rp 2#3) 4)) = [0] ∧
    FFmt.f32.isNan (guarded12.el 1#6 4 0) = false ∧ FFmt.f32.isNan 0x7FC00000 = true :=
  ⟨by decide, by decide, headsReady_of_headsB _ _ (by decide), headsReady_of_headsB _ _ (by decide), by decide +kernel,
    by decide +kernel, by decide +kernel, by decide +kernel⟩
theorem witness_FloatResults_tree : ∃ tree : Nat → Nat → Option Nat, ∃ leaf : Nat → Option Nat, ∃ join : Option Nat → Option Nat → Option Nat,
    (∀ lo, tree lo 0 = leaf lo) ∧ (∀ lo k, tree lo (k + 1) = join (tree lo k) (tree (lo + 2 ^ k) k)) ∧ tree 0 6 = some 0 :=
  ⟨fun _ _ => some 0, fun _ => some 0, fun x _ => x, fun _ => rfl, fun _ _ => rfl, rfl⟩
theorem witness_ConversionResults : Clear marked ∧ HeadsReady marked [1#6] ∧ ElTy.of 0 = some .e4m3 ∧ ElTy.e4m3 ≠ .i16 :=
  ⟨by decide, headsReady_of_headsB _ _ (by decide), by decide, by decide⟩

/-! Memory: page tables for the supervisor's space on die 0, one 2 MiB page from 0 to physical 0x200000. -/

def paged (s : State) : State :=
  let t := s.setReg 0 0x8F2 0x8000000000004000#64
  let w (m : Mem) (a : Nat) (v : Nat) : Mem := Mem.setBytes m a (natLe v 8)
  { t with hbm := { Bank.empty 6 with bytes := w (w (w [] 0x4000 0x8000000000005000) 0x5000 0x8000000000006000) 0x6000 0xD000000000200000 } }

/-- The context as a tenant of partition 3, whose AB and SP windows are [0, 64 KiB). -/
def tenant (s : State) : State :=
  ({ s with c := { s.c with y := { s.c.y with part := 3, sup := false } } }.setReg 0 0x8A3 0x0100#64).setReg 0 0x8B3 0x0100#64

/-- Context 0 is a running tenant of a protected partition; its core and the next one are in protected mode. -/
def pairedState : State :=
  let s := tenant (sm [] [])
  ({ s with c := { s.c with st := .running }, who := 0 }.setReg 0 0x823 0x8000000000000001#64).updCore 0 fun u => { u with prot := true }

theorem witness_AccessesArePlaced : (8 ≤ 8) ∧ (sm [] []).reqOf 0 = (sm [] []).reqOf (sm [] []).who ∧ ((sm [] []).reqOf 0).sup = true ∧
    0xFFF00 + 2 ^ 8 ≤ 2 ^ 20 ∧ 2 ^ 20 < 0xFFFC0 + 2 ^ 8 ∧ ((tenant (sm [] [])).reqOf 0).sup = false ∧
    (let w := (tenant (sm [] [])).reg 0 0x8A3; 65536 * bits w 0 5 ≤ 0 ∧ 0xFF00 + 2 ^ 8 ≤ 65536 * bits w 8 5 ∧ ¬ 0xFFC0 + 2 ^ 8 ≤ 65536 * bits w 8 5) ∧
    (sm [] []).spot false 256 0xFFF00#64 = .own 0xFFF00 ∧ (sm [] []).spot true 256 0x100000#64 = .other 0x100000 ∧
    (tenant (sm [] [])).spot true 256 0xFFC0#64 = .bad 7 false ∧ (sm [] []).spot true 1 0x4000000#64 = .bad 7 false ∧
    pairedState.spot true 1 0x100000#64 = .bad 8 true := by decide +kernel

theorem witness_ScalarLoads : Executes (sm [(1, 0x40#64)] []) g0 ∧ NoRace (sm [(1, 0x40#64)] []) ∧ (sm [(1, 0x40#64)] []).ps 1#5 = false ∧
    Executes marked g0 ∧ NoRace marked ∧ marked.ps 1#5 = true ∧
    (sm [] []).spot false 8 0x40#64 = .own 0x40 ∧ RaceFree (sm [] []) false false true 0x40 8 ∧ (sm [] []).rawLoads 0x40 = false ∧
    (sm [] []).spot true 8 0x100000#64 = .other 0x100000 ∧ RaceFree (sm [] []) true false true 0x100000 8 ∧
    (sm [] []).spot false 8 0x100000#64 = .bad 7 false := by decide +kernel
theorem witness_ScalarStores : Ready (sm [(1, 0x40#64), (3, 9#64)] []) g0 [1#5, 3#5] ∧ NoRace (sm [] []) ∧
    (sm [] []).spot false 8 0x40#64 = .own 0x40 ∧ RaceFree (sm [] []) false true true 0x40 8 ∧ Unheld (sm [] []) 6 ∧
    (sm [] []).spot true 8 0x100000#64 = .other 0x100000 ∧ RaceFree (sm [] []) true true true 0x100000 8 ∧
    (sm [] []).spot false 8 0x100000#64 = .bad 7 false ∧ isLadle (sm [] []).who = false := by decide +kernel
/-- Global stores: another package, a page that may be written, and none. -/
theorem witness_ScalarStores_global : bits (0x0008000000000040#64 : Word) 60 4 = 0 ∧ (sm [] []).ownPackage 0x0008000000000040#64 = false ∧
    (paged (sm [] [])).ownPackage 0x40#64 = true ∧
    (∃ u, (paged (sm [] [])).resolve 0x40#64 0 true true = (u, .ok (0, 0x200040))) ∧
    (∃ u, (sm [] []).resolve 0x40#64 0 true true = (u, .error ⟨1, 0, 0, 0⟩)) :=
  ⟨by decide, by decide +kernel, by decide +kernel,
    ⟨_, Prod.ext rfl (by decide +kernel)⟩, ⟨_, Prod.ext rfl (by decide +kernel)⟩⟩

/-- A state of vector loads: base, stride 1, and indices 0, 1, 2, … in v2. -/
def vloads (base stride : Word) : State := withV [(2, vecW 4 (List.range 64))] (sm [(1, base), (2, stride)] [1#8, 2#8])

theorem witness_VectorLoads : Executes (vloads 0x40#64 1#64) g0 ∧ NoRace (vloads 0x40#64 1#64) ∧ marked.ps 1#5 = true ∧
    (marked.c.r.readV 1).p ≠ 0#4 ∧ (vloads 0x40#64 1#64).ps 1#5 = false ∧ (vloads 0x40#64 1#64).ps 2#5 = false ∧
    ((vloads 0x40#64 1#64).c.r.readV 2).p = 0#4 ∧
    (vloads 0x40#64 1#64).spot false 256 0x40#64 = .own 0x40 ∧ RaceFree (vloads 0x40#64 1#64) false false true 0x40 256 ∧
    (vloads 0x40#64 1#64).rawLoads 0x40 = false ∧ (vloads 0x40#64 1#64).spot true 256 0x100000#64 = .other 0x100000 ∧
    (vloads 0x40#64 1#64).spot false 256 0xFFFC0#64 = .bad 7 false := by decide +kernel
/-- Elements of a strided load from the end of AB: two inside, the others outside. -/
theorem witness_VectorLoads_elements :
    let s := vloads 0xFFFF8#64 4#64
    let eas := (List.range 64).map fun i => s.rs 1#5 + toWord i * s.rs 2#5
    let ps := eas.map (s.spot false 4)
    let t := (eas.zip ps).foldl (fun u e => u.spotFault false 4 e.1 false e.2) s
    ps.take 3 = [.own 0xFFFF8, .own 0xFFFFC, .bad 7 false] ∧
    (ps.all fun p => match p with | .other _ => false | .own k => !t.rawLoads k | .bad _ _ => true) = true ∧
    RaceFree t false false true 0xFFFF8 4 ∧ RaceFree t false false true 0xFFFFC 4 := by decide +kernel
theorem witness_VectorLoads_elsewhere :
    let s := vloads 0x100000#64 4#64
    ((List.range 64).map fun i => s.rs 1#5 + toWord i * s.rs 2#5).map (s.spot true 4) = (List.range 64).map (fun i => .other (0x100000 + 4 * i)) ∧
    RaceFree s true false true 0x100000 4 ∧ RaceFree s true false true 0x1000FC 4 := by decide +kernel
theorem witness_VectorStores : Ready (vloads 0x40#64 1#64) g0 [1#5] ∧ NoRace (vloads 0x40#64 1#64) ∧ (marked.c.r.readV 1).p ≠ 0#4 ∧
    ((vloads 0x40#64 1#64).c.r.readV 2).p = 0#4 ∧ ((vloads 0x40#64 1#64).c.r.readV 3).p = 0#4 ∧
    (vloads 0x40#64 1#64).spot false 256 0x40#64 = .own 0x40 ∧ RaceFree (vloads 0x40#64 1#64) false true true 0x40 256 ∧
    (vloads 0x40#64 1#64).spot true 256 0x100000#64 = .other 0x100000 ∧ RaceFree (vloads 0x40#64 1#64) true true true 0x100000 256 ∧
    isLadle (vloads 0x40#64 1#64).who = false := by decide +kernel
theorem witness_VectorStores_scatter :
    let s := vloads 0xFFF04#64 1#64
    let t := vloads 0x100000#64 1#64
    let eas (s : State) := (List.range (min 64 (256 / 4))).map fun i => s.rs 1#5 + toWord (4 * elemOf (s.c.r.readV 2).v 4 i)
    (eas s).map (s.spot false 4) = (List.range 63).map (fun i => .own (0xFFF04 + 4 * i)) ++ [.bad 7 false] ∧
    RaceFree s false true true 0xFFF04 4 ∧ (eas t).map (t.spot true 4) = (List.range 64).map (fun i => .other (0x100000 + 4 * i)) ∧
    RaceFree t true true true 0x100000 4 := by decide +kernel

theorem witness_ChannelInstructions : Clear (sc 3 1 false) ∧ NoRace (sc 3 1 false) ∧ Ready (sc 3 1 false) g0 [] ∧
    (let h := (sc 3 1 false).c.chan 0; h.en = true ∧ bitAt h.cfg 58 = false ∧ bits h.cfg 60 3 = 0 ∧ h.prod ≠ h.cons ∧ h.full = false ∧ h.size = 4) ∧
    ((sc 5 1 false).c.chan 0).full = true ∧ ((sc 1 1 false).c.chan 0).prod = ((sc 1 1 false).c.chan 0).cons ∧ Unheld (sc 3 1 false) 1 ∧
    bitAt ((sc 3 1 true).c.chan 0).cfg 58 = true ∧ (sc 3 1 false).who < 2048 ∧ isLadle (sc 3 1 false).who = false := by decide +kernel
theorem witness_ChannelInstructions_sources : Ready (sc 3 1 false) g0 [2#5] ∧ (sc 3 1 false).spot false 256 0#64 = .own 0 ∧
    RaceFree (sc 3 1 false) false false true 0 256 ∧ RaceFree (sc 3 1 false) true false true 0 256 ∧
    (sc 3 1 false).spot true 256 0#64 = .own 0 ∧ (sc 3 1 false).spot true 256 0x100000#64 = .other 0x100000 ∧ marked.ps 1#5 = true ∧
    (let h := (sc 3 1 false).c.chan 0; 1 < h.size ∧ 1 < (h.prod - h.cons).toNat ∧ 3 < h.size ∧ (h.prod - h.cons).toNat ≤ 3) := by decide +kernel

theorem witness_GlobalUpdates : Executes State.reset g0 ∧ NoRace State.reset ∧ State.reset.needFeat 0 = some .feature ∧
    State.reset.needFeat 11 = some .feature ∧ Ready (sm [] []) g0 [1#5, 2#5, 3#5] ∧ (sm [] []).needFeat 0 = none ∧ (sm [] []).needFeat 11 = none ∧
    (sm [] []).spot true 8 0x40#64 = .own 0x40 ∧ RaceFree ((sm [] []).releaseMarks 0) true true false 0x40 8 ∧
    (sm [] []).spot true 8 0x100000#64 = .other 0x100000 ∧ (sm [] []).spot true 8 0x4000000#64 = .bad 7 false := by decide +kernel
theorem witness_GlobalUpdates_pages : (∃ u, ((paged (sm [] [])).releaseMarks 0).resolve 0x40#64 0 true true = (u, .ok (0, 0x200040))) ∧
    (∃ u, ((sm [] []).releaseMarks 0).resolve 0x40#64 0 true true = (u, .error ⟨1, 0, 0, 0⟩)) ∧
    (0x40#64 : Word).toNat % 64 = 0 ∧ (0x48#64 : Word).toNat % 64 ≠ 0 ∧ (marked.c.r.readV 1).p.getLsbD 0 = true ∧
    ((sm [] []).c.r.readV 1).p.getLsbD 0 = false :=
  ⟨⟨_, Prod.ext rfl (by decide +kernel)⟩, ⟨_, Prod.ext rfl (by decide +kernel)⟩, by decide, by decide, by decide, by decide +kernel⟩
theorem witness_GlobalUpdates_values : (4 = 4 ∨ 4 = 8) ∧ 0xFFFFFFFF < 2 ^ (8 * 4) ∧ 0 < 2 ^ (8 * 4) := by decide

/-- Gang 7 of partition 3: contexts 0 and 5, in groups of `n`. -/
def gang7 (n : Nat) : Gang := { id := 7, part := 3, obj := 0#64, gen := 0, feat := 0#64, within := 0, loops := [], die := 0, queue := 0, node := 0,
                                members := [(0, 0), (1, 5)], twoDies := false, exited := [], group := n, bars := [], undo := [], nolog := false, rollback := none,
                                stops := [], energy := 0#64, saved := [], holds := [] }

/-- Context 0 as rank 0 of gang 7, whose rank 1 is context 5. -/
def ganged (n : Nat) : State :=
  let s := State.reset
  let m : Ctx := { s.c with st := .running, y := { s.c.y with gang := 7, part := 3 } }
  { s with gangs := [gang7 n], c := m, parked := [(5, m)] }

theorem witness_FencesAndWaits : Ready State.reset g0 [] ∧ Ready (s12 4#64 9#64) g0 [1#5, 2#5] ∧ Ready (s12 4#64 9#64) g0 [1#5] ∧
    ((s12 4#64 9#64).rs 1#5).toNat < 256 ∧ { s12 4#64 9#64 with synmap := [(4, 256 + 17)] }.syncObj 0 0 4 = some 17 ∧
    State.reset.syncObj 0 0 4 = none ∧ isLadle State.reset.who = false ∧ 256 ≤ ((s12 256#64 9#64).rs 1#5).toNat := by decide +kernel
theorem witness_FencesAndWaits_barriers : inHandler.c.e.hm = true ∧ State.reset.c.e.hm = false ∧ State.reset.gang State.reset.c.y.gang = none ∧
    (ganged 0).c.e.hm = false ∧ (((ganged 0).gang (ganged 0).c.y.gang).bind fun g => g.rankOf (ganged 0).who) = some 0 ∧
    (ganged 0).c.f.blocked = [] ∧ ((ganged 0).gang 7).map (·.group) = some 0 ∧ ((ganged 2).gang 7).map (·.group) = some 2 := by decide +kernel

/-! Engines, fabric, segment tables. -/

/-- A queue of context 0 filled with `n` copies of the command of `copied`. -/
def crowded (n : Nat) : State := { sm [] [] with cmds := (List.range n).flatMap fun _ => copied.cmds }

theorem witness_CopyCommandsAreAccepted : (crowded 15).queueFull (.copy 0) = false ∧ (crowded 16).queueFull (.copy 0) = true ∧
    (crowded 16).queueFull .fabric = false ∧ (tenant (sm [] [])).queueFull (.copy 0) = false ∧
    ((tenant (sm [] [])).ctx ((tenant (sm [] [])).ownerOf (tenant (sm [] [])).who)).y.sup = false := by decide +kernel
theorem witness_CopyCommandsAreAccepted_words :
    let s := sm [(1, 0x80#64), (2, 0x40#64), (3, 0x2800000000000100#64), (6, 0x2800000000000040#64), (7, 0x0000400000400001#64)] []
    Ready s g0 [1#5, 2#5, 3#5] ∧ s.needFeat 7 = none ∧ s.copyIllegal (copyGeo (s.rs 3#5) 0#64 false) (s.rs 3#5) (s.rs 1#5) (s.rs 2#5) = false ∧
    (copyGeo (s.rs 3#5) 0#64 false).dsp = 1 ∧ s.copyIllegal (copyGeo (s.rs 0#5) 0#64 false) (s.rs 0#5) (s.rs 1#5) (s.rs 2#5) = true ∧
    Ready s g0 [1#5, 2#5, 6#5, 7#5] ∧ (copyGeo (s.rs 6#5) (s.rs 7#5) true).rows = 1 ∧
    s.copyIllegal (copyGeo (s.rs 6#5) (s.rs 7#5) true) (s.rs 6#5) (s.rs 1#5) (s.rs 2#5) = false := by decide +kernel
/-- PREF: its words with a channel that the copy engine feeds, and without. -/
theorem witness_CopyCommandsAreAccepted_elements :
    let s := sm [(1, 0x80#64), (2, 0x0000001000000040#64)] []
    let t := { s with c := { s.c with y := { s.c.y with chans := [(0, { Chan.zero with cfg := 0xC000010000000004#64 })] } } }
    Ready s g0 [1#5, 2#5] ∧ bits (s.rs 2#5) 32 4 = 0 ∧ bits (s.rs 2#5) 36 13 = 1 ∧ bits (s.rs 2#5) 0 6 = 0 ∧ bits (s.rs 2#5) 61 3 = 0 ∧
    bits (s.c.chan 0).cfg 60 3 ≠ 4 ∧ bits (t.c.chan 0).cfg 60 3 = 4 := by decide +kernel
theorem witness_CopyCommandsAreAccepted_rows :
    let s := paged (sm [(1, 0x400#64), (2, 0x800#64), (3, 1#64)] [])
    let q := s.reqOf s.who
    Ready s g0 [1#5, 2#5, 3#5] ∧ bits (s.rs 3#5) 7 45 = 0 ∧ 1 ≤ bits (s.rs 3#5) 0 7 ∧ bits (s.rs 3#5) 0 7 ≤ 64 ∧
    (decide (bits (s.rs 1#5) 60 4 = 0) && !s.ownPackage (s.rs 1#5)) = false ∧
    (match (s.rowPas q (s.rs 1#5) true 0 1).2 with | .ok ps => decide (ps = [some (0, 0x200400)]) | .error _ => false) = true ∧
    bits (s.rs 1#5) 0 10 = 0 ∧ rowFault true [[some (0, 0x200400), some (0, 0x500400)]] = none ∧
    rowFault true [[some (0, 0x200400), some (0, 0x200400 + 4096)]] = some (1, 0) ∧ rowFault true [[none, some (0, 0)]] = some (2, 0) := by
  decide +kernel
theorem witness_CopyCommandsAreAccepted_rowStops :
    let s := sm [(1, 0x400#64), (2, 0x801#64), (3, 65#64)] []
    let q := s.reqOf s.who
    64 < bits (s.rs 3#5) 0 7 ∧ bits (s.rs 2#5) 0 10 ≠ 0 ∧
    (match (s.rowPas q (s.rs 1#5) true 0 1).2 with | .ok _ => false | .error f => decide (f = (⟨1, 0, 0, 0⟩, 0x400#64))) = true := by decide +kernel

/-- A Ladle 1 of core 0 that serves context 0, which runs, with `n` runs of it queued. -/
def ladled (n : Nat) (on : Bool) : State :=
  let s := sm [(1, 8#64), (2, 9#64), (3, 10#64)] []
  { s with c := { s.c with st := .running } }.updLadle 1 fun y =>
    { y with runs := (List.range n).map fun i => ⟨0, toWord (4 * i), 1#64, 2#64, i⟩, serving := if on then some 0 else none }

theorem witness_LadlesRun : (ladled 3 false).needFeat 6 = none ∧ Ready (ladled 3 false) g0 [1#5, 2#5, 3#5] ∧ ((ladled 3 false).rs 1#5).toNat % 4 = 0 ∧
    ((ladled 3 false).rs 1#5).toNat < 2 ^ 18 ∧ ((ladled 3 false).ladle 1).runs.length = 3 ∧ Unheld (ladled 3 false) 1 ∧
    ((ladled 4 false).ladle 1).runs.length = 4 ∧ ((ladled 4 false).rs 2#5).toNat % 4 ≠ 0 ∧ ((ladled 4 false).ladle 1).serving ≠ some 0 ∧
    ((ladled 4 true).ladle 1).serving = some 0 ∧ State.reset.needFeat 5 = some .feature ∧ Executes State.reset g0 := by decide +kernel
theorem witness_LadlesRun_events : (1 : Nat) < 1024 ∧ (ladled 1 false).who < 2048 ∧ ((ladled 1 false).ladle 1).serving = none ∧
    ((ladled 1 false).ladle 1).runs = [⟨0, 0#64, 1#64, 2#64, 0⟩] ∧ ((ladled 1 false).ctx 0).st = .running ∧ ((ladled 1 false).ctx 0).exiting = false ∧
    (∀ r ∈ (State.reset.ladle 1).runs, ¬ ((State.reset.ctx r.ctx).st = .running)) ∧ ((ladled 1 true).ladle 1).serving = some 0 ∧
    (match ((ladled 1 true).focus 2049).attempt with | .stop (.trap _ _ _) => true | _ => false) = true := by decide +kernel

theorem witness_GriddleCommandsAreQueued :
    let s := sg [(1, 0x80#64), (2, 0x0302#64), (3, 0x7F#64)]
    Ready s g0 [1#5] ∧ Ready s g0 [] ∧ (s.griddle 0).lease = .held ∧ s.queueFull (.griddle 0) = false ∧ s.fenced 522 = false ∧
    bits s.c.y.fcr 12 4 ≤ 6 ∧ (s.rs 1#5).toNat < 2 ^ 21 ∧ (s.rs 1#5).toNat % 64 = 0 ∧ (s.rs 1#5).toNat + 128 ≤ 2 ^ 20 ∧
    rowWord (s.rs 2#5) = some (2, 4) ∧ (s.rs 2#5).toNat < 2 ^ 16 ∧ Clear s := by decide +kernel
theorem witness_GriddleCommandsAreQueued_targets :
    let s := sg [(1, 0x800000000000#64), (2, 0x0000810000000302#64)]
    (sm [] []).needFeat 4 = none ∧ bits (s.rs 1#5) 48 16 = 0 ∧ bitAt (s.rs 1#5) 46 = false ∧ bitAt (s.rs 1#5) 47 = true ∧ bits (s.rs 1#5) 0 40 = 0 ∧ s.c.y.sup = true ∧
    (∀ j, j < 4 → (s.ctx (4 * 1 + j)).grdOwner = true → (s.ctx (4 * 1 + j)).st = .running → 4 * 1 + j = s.who) ∧
    rowWord (s.rs 2#5) = some (2, 4) ∧ bits (s.rs 2#5) 48 16 = 0 ∧ bits (s.rs 2#5) 16 24 = 0 ∧ bitAt (s.rs 2#5) 47 = true ∧
    (tenant (s12 0x800000000000#64 0#64)).c.y.sup = false ∧ ((sm [] []).griddle 0).lease = .none ∧
    (((sm [] []).updGriddle 0 fun g => { g with lease := .expired }).griddle 0).lease = .expired := by decide +kernel
theorem witness_GriddleCommandsAreQueued_products :
    let s := sg [(1, 0x40#64), (2, 0x800#64), (3, 0x1F0000#64), (4, 0x8000000000000000#64)]
    Ready s g0 [1#5, 2#5, 3#5] ∧ ElTy.of (bits s.c.y.fcr 8 4) = some .e4m3 ∧ bits (s.rs 3#5) 0 7 = 0 ∧ bits (s.rs 3#5) 8 7 + 1 = 1 ∧
    bitAt (s.rs 3#5) 15 = false ∧ bitAt (s.rs 3#5) 7 = false ∧ bits (s.rs 3#5) 32 6 = 0 ∧ bitAt (s.rs 3#5) 59 = false ∧ bitAt (s.rs 3#5) 63 = false ∧
    bits (s.rs 2#5) 52 12 = 0 ∧ bits (s.rs 1#5) 0 3 = 0 ∧ bitAt (s.rs 4#5) 63 = true ∧ s.rs 0#5 = 0#64 ∧
    bits (s.rs 1#5) 0 26 + (bits (s.rs 3#5) 16 16 + 1) * ElTy.e4m3.runBytes ≤ 2 ^ 20 ∧
    ((sc 3 1 true).c.chan 0).en = true ∧ bitAt ((sc 3 1 true).c.chan 0).cfg 58 = true := by decide +kernel
theorem witness_GriddleCommandsAreQueued_transfers :
    let s := sg [(1, 0x40#64), (2, 0x4000000000000000#64), (3, 0x4000000800000000#64), (4, 0xE000000000000000#64)]
    Ready s g0 [1#5, 2#5] ∧ bits (s.rs 3#5) 62 2 = 1 ∧ bits (s.rs 3#5) 34 4 = 2 ∧ bitAt (s.rs 3#5) 60 = false ∧ bitAt (s.rs 3#5) 31 = false ∧
    bits (s.rs 3#5) 16 14 = 0 ∧ bits (s.rs 1#5) 20 6 = 0 ∧ bits (s.rs 1#5) 0 6 = 0 ∧ bits (s.rs 2#5) 62 2 = 1 ∧ bitAt (s.rs 2#5) 47 = false ∧
    bits (s.rs 2#5) 60 2 = 0 ∧ (s.rs 1#5).toNat % 64 = 0 ∧ (s.rs 1#5).toNat / 2 ^ 20 = 0 ∧ (s.rs 1#5).toNat % 2 ^ 20 + 2 ^ 21 > 2 ^ 20 ∧
    (s.rs 1#5).toNat % 2 ^ 20 + 1024 ≤ 2 ^ 20 := by decide +kernel

/-- A port 0 in service that serves plane 0, whose phase 1 is unicast to package 9 and phase 2 reduces group 5; channel 0 is fed from the fabric. -/
def fabricked : State :=
  let s := (sm [(1, 0x1048000000000100#64), (2, 0x1048000000000200#64), (3, 0x2048000000000000#64), (6, 0x2048000000000000#64), (7, 0x0000800000000000#64),
    (8, 0x000100000A000000#64)] []).updLink 13 fun _ => ⟨2, 4, 0⟩
  let t := s.updPort 0 fun p => { p with table := [(1, 0x4009#16), (2, 0x8005#16)] }
  { t with c := { t.c with y := { t.c.y with chans := [(0, { Chan.zero with cfg := 0xB000010000000004#64, res := 1#16, prod := 1#16 })] } } }

theorem witness_FabricInstructions : fabricked.fab.entries.length < 1024 ∧ Ready fabricked g0 [1#5, 2#5, 6#5, 7#5] ∧
    bits (fabricked.rs 7#5) 0 47 = 0 ∧ fabricked.badFlag (fabricked.rs 6#5) (fabricked.rs 1#5) = false ∧
    fabricked.badRoute (fabricked.rs 7#5) (fun e => slotUnicast e (bits (fabricked.rs 1#5) 51 9)) = false ∧
    fabricked.servingPort 0 = some 0 ∧ fabricked.badTarget (fabricked.rs 1#5) [0, 1, 2] = false ∧ (fabricked.c.r.readV 4).p = 0#4 := by decide +kernel
theorem witness_FabricInstructions_receives :
    let h := fabricked.c.chan 0
    fabricked.badTarget (fabricked.rs 6#5) [2] = false ∧ (fabricked.rs 6#5).toNat % 256 = 0 ∧ h.badFab = false ∧ bitAt h.cfg 58 = false ∧ h.prod ≠ h.cons ∧
    fabricked.badTarget (fabricked.rs 3#5) [0, 2] = false ∧ fabricked.headStamp 0 = (fabricked.rs 0#5).setWidth 32 ∧
    fabricked.headStamp 0 ≠ (fabricked.rs 8#5).setWidth 32 ∧ bits (fabricked.rs 8#5) 0 25 = 0 ∧
    fabricked.badRoute 0x000100000A000000#64 (fun e => slotReduce e (bits (0x000100000A000000#64 : Word) 25 10)) = false ∧
    (h.res - h.cons).toNat + 2 ≤ h.size ∧ Clear fabricked ∧ bitAt fabricked.c.y.collcfg 63 = false ∧
    (fabricked.fabStat 0#64).isSome = true ∧ fabricked.fabStat 1#64 = none := by decide +kernel
theorem witness_FabricInstructions_reads : bits (0x0000800000000000#64 : Word) 0 35 = 0 ∧ bits (0x0000800000000000#64 : Word) 44 3 ≤ 5 ∧
    fabricked.badRoute 0x0000800000000000#64 (fun e => slotUnicast e (bits (0x2048000000000000#64 : Word) 51 9)) = false ∧
    bits (0x0000800000000000#64 : Word) 0 6 = 0 ∧ bits (0x0000800000000000#64 : Word) 44 3 = 0 := by decide +kernel

theorem witness_SegmentsAreEvaluated : (SegHeader.of qzBytes).ok = true ∧ (SegHeader.of qzBytes).mode = 0 ∧
    FFmt.f32.value 0x7FC00000 = .nan ∧ (FFmt.f32.value 0xC0A00000).lt (FFmt.f32.value (SegHeader.of qzBytes).lo) = true ∧
    (FFmt.f32.value 0x40800000).lt (FFmt.f32.value (SegHeader.of qzBytes).lo) = false ∧
    (FFmt.f32.value 0x40800000).lt (FFmt.f32.value (SegHeader.of qzBytes).hi) = false ∧
    (FFmt.f32.value 0x3FA66666).lt (FFmt.f32.value (SegHeader.of qzBytes).hi) = true ∧
    (FFmt.f32.value 0x3FA66666).lt (FFmt.f32.value (SegHeader.of qzBytes).lo) = false ∧
    (FFmt.f32.value 0xC0800000).lt (FFmt.f32.value (SegHeader.of qzBytes).lo) = false := by decide +kernel
theorem witness_SegmentsAreEvaluated_elements : let h := SegHeader.of qzBytes
    h.path 0x7FC00000 = .nan ∧ { h with pol := 1 }.path 0x40800000 = .sat h.sathi ∧ { h with pol := 2 }.path 0xC0A00000 = .dom 0 ∧
    (match h.path 0x3FA66666 with | .seg i _ => decide (i = 5) && !h.isGap i | _ => false) = true ∧
    (match h.path 0xC0600000 with | .seg i _ => h.isGap i | _ => false) = true ∧ h.deg ≤ 3 := by decide +kernel
theorem witness_SegmentsAreEvaluated_evaluation : Clear (sq 0 0xC0600000) ∧ HeadsReady (sq 0 0xC0600000) [2#6] ∧ 3#3 ≠ 7#3 ∧
    (SMap.at TabSlot.none (sq 0 0).c.y.tabs 2).st = .unbound ∧ (SMap.at TabSlot.none (sq 0 0).c.y.tabs 1).st = .bound ∧
    (SMap.at TabSlot.none [(1, ⟨.lost, 0, [], 0, none⟩)] 1).st = .lost :=
  ⟨by decide, headsReady_of_headsB _ _ (by decide), by decide, by decide, by decide, by decide⟩
theorem witness_SegmentsAreEvaluated_values :
    let s := sq 0 0xC0600000
    let out (i : Nat) : SegOut := s.segElem (SegHeader.of qzBytes) 0 .bf16 false (elemOf (s.vop 2#6).v 4 i)
    ((List.range 9).all fun i => match out i with | .val _ _ => true | _ => false) = true ∧ (match out 9 with | .gap _ => true | _ => false) = true := by
  decide +kernel
theorem witness_SegmentTableInstructions :
    let s := withS [(1, 0x80#64), (2, 0x100000000#64), (4, 0#64), (5, 8#64)]
    let t := { supState s with c := { (supState s).c with y := { (supState s).c.y with trsize := 4096 } } }
    NoRace s ∧ Ready s g0 [1#5, 2#5] ∧ (t.rs 1#5).toNat < 2 ^ 20 ∧ (t.rs 1#5).toNat % 16 = 0 ∧ signedOf 32 (bits (t.rs 2#5) 0 32) = 0 ∧
    bits (t.rs 2#5) 32 11 = 1 ∧ bits (t.rs 2#5) 43 21 = 0 ∧ s.tabOutside 0 16 = some 0 ∧ t.tabOutside 0 16 = none ∧
    firstBusy 0 16 (t.tabHolders ++ t.tabLoads false) = none ∧ t.spot false 64 0x80#64 = .own 0x80 ∧ RaceFree t false false true 0x80 64 := by
  decide +kernel
theorem witness_SegmentTableInstructions_busy :
    let t := sq 0 0
    let o : Op := { id := 1, agent := 0, owner := 0, kind := .sftLoad 0 [([], false), ([], false)], dest := none, gp := false, acq := false, rel := none,
                    pos := 0, cyc := 0#64, pc := 0#64, hm := false, phase := .issued, result := [], ready := true, bundle := 0, bun := 0, units := [] }
    let own := { t with ops := [o] }
    let others := { t with ops := [{ o with agent := 1 }] }
    (firstBusy 0 16 ({ t with c := { t.c with st := .running } }.tabHolders ++ t.tabLoads false)).isSome = true ∧ (withS [(1, 8#64)]).rs 1#5 = 8#64 ∧
    firstBusy 0 32 (own.tabLoads true) ≠ none ∧ firstBusy 0 32 (others.tabLoads true) = none ∧ (firstBusy 0 32 (others.tabLoads false)).isSome = true ∧
    (SegHeader.of (t.tmemBytes 0 32)).ok = true ∧ t.tmemPois 0 32 = false ∧ t.tabOutside 0 (32 + 16 * (SegHeader.of (t.tmemBytes 0 32)).nseg) = none ∧
    Executes marked g1 := by decide +kernel

/-! Events of the units, the launch units and the services. -/

/-- A state in which context 0 is a running supervisor of core 0. -/
def supervising : State :=
  let s := supState State.reset
  { s with c := { s.c with st := .running } }

/-- As `supervising`, in handler mode. -/
def handling : State := { supervising with c := { supervising.c with e := { supervising.c.e with hm := true } } }

theorem witness_SupervisorRegisterWrites : ¬ (0 < 2048 ∧ (State.reset.ctx 0).y.sup = true) ∧ (0 < 2048 ∧ (supervising.ctx 0).y.sup = true) ∧
    (supervising.queue 0).en = false ∧ ((supervising.updQueue 0 fun u => { u with en := true }).queue 0).en = true ∧
    (supervising.mig 0).run = none ∧ bitAt (0x1000000000000000#64 : Word) 60 = true ∧ ((3 : Nat) < 8) ∧ (15 : Nat) < 16 ∧
    (∀ r ∈ supervising.svc.replays, r.die = 0 → r.part ≠ 3) ∧
    (supervising.contextsOf 3).isEmpty = true ∧ bitAt (0x8000000000000000#64 : Word) 63 ≠ supervising.protectedPart 3 ∧
    ((ganged 0).gangs.any fun g => g.part == 3) = true := by decide +kernel
theorem witness_SupervisorRegisterWrites_numbers : 0x850 ≤ 0x86F ∧ 0x86F < 0x870 ∧ 0x900 ≤ 0x91F ∧ 0x91F < 0x920 ∧
    ((supervising.updMig 1 fun m => { m with run := some ⟨16, 0, 16, 0, 0⟩ }).mig 1).run ≠ none := by decide +kernel
theorem witness_PowerAndSensors : (3 : Nat) < 512 ∧ (0 : Nat) < 2048 ∧ (supervising.ctx 0).y.sup = true ∧ coreOf 0 = 0 ∧
    (supervising.core 0).lvl = 0#2 ∧ State.reset.svc.boot.attBusy = false ∧
    (State.reset.updBoot fun b => { b with attBusy := true }).svc.boot.attBusy = true ∧ (State.reset.core 0).owner = 0 ∧
    (1 ≤ (owning.core 0).owner ∧ (owning.core 0).owner ≤ 4) := by decide +kernel
theorem witness_PowerAndSensors_attestation : (State.reset.attRead (State.reset.reg 0 0xA10)).2 = none ∧
    ((paged State.reset).attRead ((paged State.reset).reg 0 0xA10)).2 = some (List.replicate 64 0#8) ∧
    ((paged State.reset).attWrite 0x40#64 [List.replicate 64 0#8]).2 = true := by decide +kernel

theorem witness_RegisterWrites : (0 : Nat) < 2048 ∧ (1 : Nat) < 4 ∧ (State.reset.ctx 0).st ≠ .running ∧ (supervising.ctx 0).st = .running ∧
    ((supervising.ctx 0).chan 0).en = false ∧ (0 < bits (0xC000010000000004#64 : Word) 0 13) ∧ bits (0xD000010000000004#64 : Word) 60 3 = 5 ∧
    bits ((supervising.ctx 0).loopEntry 1) 62 2 ≠ 1 ∧ bits ((looping 3#64).c.loopEntry 1) 62 2 = 1 ∧ supervising.c.e.hm = false ∧
    inHandler.c.e.hm = true ∧ ((sc 3 1 false).c.chan 0).res ≠ ((sc 3 1 false).c.chan 0).cons := by decide +kernel
theorem witness_RegisterWrites_numbers : SysReg.open false 0x800 = false ∧ SysReg.open true 0x8D0 = true ∧ supervising.swriteBad 0 0x8D0 1#64 = false ∧
    supervising.swriteBad 0 0x8BF 1#64 = false ∧ supervising.swriteBad 0 0x018 0x8000000000000004#64 = false ∧
    supervising.swriteBad 0 0x8E0 1#64 = false ∧ supervising.swriteBad 0 0x8C8 1#64 = false ∧ supervising.swriteBad 0 0x003 1#64 = false ∧
    handling.swriteBad 0 0x019 2#64 = true ∧ (handling.ctx 0).st = .running ∧ SysReg.open true 0x019 = true ∧ (65535 : Nat) < 65536 ∧ bitAt (0x800000000000#64 : Word) 47 = true := by
  decide +kernel

/-- Page tables of partition 0 beside the supervisor's, a launch region, a graph at 0x100 with GEN 7 of which a validated copy is held. -/
def graphed : State :=
  let s := (((paged State.reset).setReg 0 0x8E0 0x8000000000004000#64).setReg 0 0x9D0 0x8000000000000001#64).setReg 0 0x820 0x00FF000000000001#64
  let h := natLe 0x314F4754 4 ++ natLe 7 4 ++ natLe 1 4 ++ natLe 0 4 ++ natLe 64 4
  let g : GraphCopy := ⟨0, 0, 0x100#64, 7, [⟨0, 0, 0, 0, 0, 0#64, 0#64, [0#64, 0#64, 0#64, 0#64]⟩], [], 0, 0x8000000000000001#64⟩
  { s with hbm := { s.hbm with bytes := Mem.setBytes s.hbm.bytes 0x200100 h } }.updSvc fun v => { v with copies := [g] }

/-- Queue 3 with one kick of the graph at `addr` and the patch table `ptab`. -/
def kicked (addr : Word) (ptab : BitVec 45) : State :=
  graphed.updQueue 3 fun u => { u with en := true, graph := addr, pend := [⟨1#32, 2#16, ptab, 0⟩] }

theorem witness_ReplaysRun_pages : (3 : Nat) < 65536 ∧ (State.reset.queue 3).en = false ∧ ((kicked 0x100#64 0#45).queue 3).en = true ∧
    SMap.at false (kicked 0x100#64 0#45).svc.busy ((kicked 0x100#64 0#45).queue 3).part = false ∧ ((kicked 0x100#64 0#45).queue 3).pend.length ≠ 64 ∧
    (State.reset.queue 3).pend = [] ∧ (State.reset.queue 3).active = false ∧ ¬ (((kicked 0x100#64 0#45).queue 3).pend = []) := by decide +kernel
theorem witness_ReplaysRun : ((kicked 0x100#64 0#45).queue 3).hasRoom = true ∧ (kicked 0x100#64 0#45).svc.replays = [] ∧
    (((kicked 0x100#64 0#45).svc.replays.filter fun r => r.die == 0).length < 256) ∧
    ((kicked 0x100#64 0#45).svc.queues.all fun e => e.1 == 3) = true ∧
    (match (graphed.holdGraph 0 0 0x100#64).2 with | .ok c => decide (c.gen = 7 ∧ c.nodes.length = 1) | .error _ => false) = true ∧
    (match (graphed.holdGraph 0 0 0x200#64).2 with | .ok _ => false | .error e => decide (e = (0x18, none))) = true := by decide +kernel
theorem witness_ReplaysRun_patches : (match (graphed.applyPatches (launchReq 0 0) [] 0#45).2 with | .ok _ => true | .error _ => false) = true ∧
    (match (graphed.applyPatches (launchReq 0 0) [] 0x7FFFFFFFFFF#45).2 with | .ok _ => false | .error e => decide (e = (0x1C, none))) = true := by
  decide +kernel
/-- A replay of queue 3 whose one node has the phase `p`. -/
def replay9 (p : NodePhase) (n : GNode) : Replay := { queue := 3, seq := 1#32, tag := 2#16, die := 0, part := 0, addr := 0x100#64, gen := 7, pmax := 3, nodes := [n],
                                                      edges := [], counts := [0], phase := [p], fail := none, tstart := 0#64, id := 9 }

def replayed (p : NodePhase) (n : GNode) : State := graphed.updSvc fun v => { v with replays := [replay9 p n] }

def nopNode : GNode := ⟨0, 0, 0, 0, 0, 0#64, 0#64, [0#64, 0#64, 0#64, 0#64]⟩

theorem witness_ReplaysRun_ends : State.reset.replayOf 3 = none ∧ (((replayed .retired nopNode).replayOf 3).map (·.queue)) = some 3 ∧
    (((replayed .retired nopNode).replayOf 3).map fun r => r.phase.any fun p => p == .ready || p == .running) = some false ∧
    (((replayed .running nopNode).replayOf 3).map fun r => r.phase.any fun p => p == .ready || p == .running) = some true := by decide +kernel

theorem witness_HostMemoryAndPages : 0x8FFFFFFFC0 + 64 ≤ 2 * 0x4800000000 ∧ State.reset.svc.boot.memUp = false ∧
    (State.reset.updBoot fun b => { b with memUp := true }).svc.boot.memUp = true ∧ State.reset.svc.hostClosed = [] ∧
    ¬ (∃ r ∈ State.reset.svc.hostClosed, r.1 < 0x10 + 8 ∧ 0x10 < r.1 + r.2) := by decide +kernel
/-- A migration of the supervisor's page of 64 KiB or 2 MiB to `dst`. -/
def migrating (size dst : Nat) : State :=
  (paged State.reset).updMig 0 fun m => { m with run := some ⟨16, 0, size, 0x200000, dst⟩ }
theorem witness_HostMemoryAndPages_migrations : State.reset.svc.tlbinv.find? (fun t => t.die == 0) = none ∧
    (State.reset.updSvc fun w => { w with tlbinv := [⟨0, 5#64⟩] }).svc.tlbinv.find? (fun t => t.die == 0) = some ⟨0, 5#64⟩ ∧
    (State.reset.mig 0).run = none ∧ ((migrating 21 0x400000).mig 0).run = some ⟨16, 0, 21, 0x200000, 0x400000⟩ ∧
    State.reset.pageLeaf 0 16 0 = none ∧ ((migrating 21 0x400000).pageLeaf 0 16 0).map (fun e => e.2.2) = some 21 ∧ (21 : Nat) ≠ 16 ∧
    0x400000 % 2 ^ 21 = 0 ∧ 0x400000 + 2 ^ 21 ≤ 0x4800000000 ∧ 0x400001 % 2 ^ 21 ≠ 0 ∧ 0x4800000000 ≤ 0x4800000000 := by decide +kernel

/-- An operation of agent 0 beside others. -/
def opOf (id : Nat) (k : OpKind) (dest : Option Res) (ph : OpPhase) : Op :=
  { id := id, agent := 0, owner := 0, kind := k, dest := dest, gp := false, acq := false, rel := none, pos := 0, cyc := 0#64, pc := 0#64, hm := false,
    phase := ph, result := [], ready := true, bundle := 0, bun := 0, units := [] }
def operating (os : List Op) : State := { ganged 0 with ops := os, synmap := [(3 * 256 + 4, 256 + 17)] }

theorem witness_ElasticOperationsAreCarriedOut :
    let o := opOf 2 (.read [some (.ab 0x40)] 8 false 3) (some (.s 3)) .issued
    let e := { opOf 1 (.write [(.ab 0x44, [1#8])]) none .issued with cyc := 1#64, pc := 8#64, bun := 1 }
    (operating [o]).ops.find? (fun p => p.id == o.id) = some o ∧ o.phase = .issued ∧
    (operating [e, o]).ops.find? (fun p => p.id == o.id) = some o ∧ e.agent = o.agent ∧ e.done = false ∧
    (e.before o = true ∧ overlap ((operating [e, o]).rangesOf e) ((operating [e, o]).rangesOf o) = true) ∧ o.units = [] ∧
    (opOf 2 (.read [] 8 false 3) none .performed).phase = .performed := by decide +kernel
theorem witness_ElasticOperationsAreCarriedOut_objects :
    let s := operating [opOf 2 (.synWait 4 1#32) none .issued]
    let b := opOf 2 (.bar false 1#32) none .issued
    s.syncObj 0 3 4 = some 17 ∧ (s.ctx 0).y.part = 3 ∧ isLadle 0 = false ∧ (opOf 2 (.synAdd 4 1#32) none .issued).ready = true ∧
    2 ^ 31 ≤ ((SMap.at 0#32 s.sync 17) - 1#32).toNat ∧ ((SMap.at 0#32 s.sync 17) - 0#32).toNat < 2 ^ 31 ∧
    ((s.gang (s.ctx b.agent).y.gang).bind fun g => g.rankOf b.agent) = some 0 ∧
    (((s.gang 7).map fun g => { g with exited := [0, 1] }).map fun g => (g.barSet false 0).all fun r => g.exited.contains r) = some true := by decide +kernel
theorem witness_ElasticOperationsAreCarriedOut_arrivals :
    let o := { opOf 2 (.read [] 8 false 3) (some (.s 3)) .performed with result := [.scal 3 7#64 false] }
    o.phase = .performed ∧ (operating [o]).ops.find? (fun p => p.id == o.id) = some o ∧ o.agent = (operating [o]).who ∧
    (operating [o]).c.e.hm = false ∧ inHandler.c.e.hm = true ∧ o.hm = false := by decide +kernel

/-! Placement and retirement, interruptions, the fabric's events, boot, and the machine as a whole. -/

/-- A code object in the last line of the first page, whose section table opens the second page and whose image the third. -/
def objected : State :=
  let w (m : Mem) (a : Nat) (bs : List Byte) : Mem := Mem.setBytes m a bs
  let h := natLe 0x314F4446 4 ++ natLe 1 2 ++ natLe 0 2 ++ natLe 1 8 ++ natLe 0 4 ++ natLe 0 4 ++ natLe 1 2 ++ natLe 0 2 ++ natLe 0 4 ++ natLe 0 4 ++ natLe 8 4
  let t := natLe 1 2 ++ natLe 0 2 ++ natLe 0x200040 4 ++ natLe 8 4 ++ natLe 0 4
  let n : GNode := ⟨1, 3, 0, 0, 0, 0x1FFFC0#64, 0#64, [0#64, 0#64, 0#64, 0#64]⟩
  let s := replayed .ready n
  let b := w (w (w (w s.hbm.bytes 0x6008 (natLe 0xD000000000400000 8)) 0x6010 (natLe 0xD000000000600000 8)) 0x3FFFC0 h) 0x400000 t
  { s with hbm := { s.hbm with bytes := b } }.updSvc fun v => { v with
    pantry := { v.pantry with recs := [(10, { PanRec.zero with feat := 0x3FFF#64 })] },
    placers := [(0, { Placer.idle with ready := [[], [], [], [⟨3, 0, none, false⟩]] })] }

/-- The same with no core eligible, and with the object unreadable. -/
def unplaced : State := objected.updSvc fun v => { v with pantry := { v.pantry with recs := [] } }
def unreadable : State := { objected with hbm := Bank.empty 6 }

/-- What placing the node of `objected` comes to. -/
def placing (s : State) : Option Placed :=
  match s.replayOf 3 with
  | some r => (r.nodes[0]?).map fun n => (s.placeNode r 0 n 3 none).2
  | none => none

theorem witness_NodesAreRun : (3 : Nat) < 4 ∧
    (objected.placer 0).ready = (List.range 4).map (fun c => if c = 3 then [⟨3, 0, none, false⟩] else []) ∧
    (objected.replayOf 3).isSome = true ∧ placing objected = some .ok ∧ placing unplaced = some (.fails 0x14) ∧
    placing unreadable = some (.fails 0x10) := by decide +kernel
/-- Every context of core 0 is taken: the node does not fit. -/
theorem witness_NodesAreRun_nofit :
    let c : Ctx := { Ctx.reset with st := .running }
    placing { objected with c := c, parked := [(1, c), (2, c), (3, c)] } = some .nofit := by decide +kernel

/-- The gang of `ganged`, changed. -/
def gangedBy (f : Gang → Gang) : State := { ganged 0 with gangs := (ganged 0).gangs.map f }

theorem witness_NodesAreRun_retirement :
    let s := ganged 0
    let x : State := { s with c := { s.c with exiting := true } }
    (0 : Nat) < 2048 ∧ (x.ctx 0).exiting = true ∧ x.quiet 0 = true ∧ (((x.gang (x.ctx 0).y.gang).bind fun g => g.rankOf 0) = some 0) ∧
    (s.ctx 0).exiting = false ∧ ((((gangedBy fun g => { g with members := [(0, 0xFFFE), (1, 0xFFFE)] }).gang 7).map fun g =>
      g.members.all fun m => m.2 == 0xFFFE) = some true) ∧
    (((gangedBy fun g => { g with rollback := some (9, 0, 0#64, 0) }).gang 7).bind (·.rollback)) = some (9, 0, 0#64, 0) ∧
    ((((ganged 0).gang 7).map fun g => g.resident.all fun m => (ganged 0).quiet m) = some true) ∧ State.reset.gang State.reset.c.y.gang = none := by
  decide +kernel
theorem witness_NodesAreRun_commands :
    let m : Cmd := { nodeCmd 4 (replay9 .running nopNode) 0 { nopNode with kind := 2 } with acted := true }
    let s := { replayed .running nopNode with cmds := [m] }
    s.gang 4 = none ∧ (s.cmds.find? fun (x : Cmd) => x.id == 4 && x.ofLaunch) = some m ∧ (s.svc.replays.find? fun r => r.id == m.bundle).isSome = true ∧
    m.acted = true ∧ m.outs = [] ∧ m.waiting = false := by decide +kernel

/-- As `ganged`, with the members stopped, and a supervisor context 8. -/
def stoppedGang : State :=
  let s := ganged 0
  let c : Ctx := { s.c with st := .suspended }
  { s with c := c, parked := [(5, c), (8, supervising.c)] }

theorem witness_NodesAreRun_nodekill : (stoppedGang.ctx 8).y.sup = true ∧ bitAt (0x8000000000000005#64 : Word) 63 = true ∧
    bits (0x8000000000000005#64 : Word) 0 11 = 5 ∧ (stoppedGang.ctx 5).st ≠ .free ∧ (stoppedGang.gang (stoppedGang.ctx 5).y.gang).map (·.rollback) = some none ∧
    (stoppedGang.gang 7).map (fun g => g.resident.all fun m => (stoppedGang.ctx m).st == .suspended && !(stoppedGang.ctx m).exiting) = some true ∧
    (ganged 0).c.st = .running ∧ (ganged 0).c.y.sup = false := by decide +kernel
theorem witness_Rollbacks : (0 : Nat) < 2048 ∧ ((ganged 0).ctx 0).st ≠ .free ∧ ((ganged 0).ctx 0).y.sup = false ∧
    ((ganged 0).gang ((ganged 0).ctx 0).y.gang).map (fun g => (g.rollback, g.nolog)) = some (none, false) ∧
    bitAt (((ganged 0).setReg 0 0x983 0x8000000000000001#64).reg 0 0x983) 63 = true ∧ bitAt ((ganged 0).reg 0 0x983) 63 = false ∧
    (stoppedGang.ctx 8).y.sup = true ∧ (stoppedGang.ctx 8).st ≠ .free ∧ (ganged 0).pairSecond 1 = false ∧
    pairedState.pairSecond 1 = true := by decide +kernel
theorem witness_Rollbacks_restart :
    let g := gangedBy fun g => { g with rollback := some (1, 0, 0#64, 0) }
    let f := gangedBy fun g => { g with rollback := some (1, 0, 0#64, 0), members := [(0, 0xFFFF), (1, 0xFFFF)] }
    (g.gang 7).bind (·.rollback) = some (1, 0, 0#64, 0) ∧ (1 : Nat) ≠ 9 ∧ (g.gang 7).map (·.resident) = some [0, 5] ∧ g.quiet 0 = true ∧ g.quiet 5 = true ∧
    (f.gang 7).map (·.resident) = some [] ∧ ((f.placer 0).ready.all fun l => l.all fun e => e.gang != some 7) = true ∧
    ({ g with ops := [opOf 1 (.read [] 8 false 3) none .issued] }.quiet 0) = false := by decide +kernel

theorem witness_PartitionsReset : (3 : Nat) < 16 ∧ SMap.at false (ganged 0).svc.busy 3 = false ∧ bitAt (((ganged 0).setReg 0 0x882 8#64).reg 0 0x882) 3 = true ∧
    bitAt ((ganged 0).reg 0 0x882) 3 = false ∧ (stoppedGang.ctx 8).y.sup = true ∧ bitAt (0x8000000000030000#64 : Word) 63 = true ∧
    bits (0x8000000000030000#64 : Word) 16 4 = 3 ∧ SMap.at false ((ganged 0).updSvc fun w => { w with busy := [(3, true)] }).svc.busy 3 = true ∧
    (∀ c ∈ (ganged 0).contextsOf 3, (ganged 0).quiet c = true) ∧ (ganged 0).contextsOf 3 = [0, 5] ∧ (ganged 0).cmds = [] := by decide +kernel
theorem witness_PartitionsReset_replace : (stoppedGang.placer 0).replacing = none ∧ bits (0x8000000000000005#64 : Word) 0 11 = 5 ∧
    (stoppedGang.gang (stoppedGang.ctx 5).y.gang).map (fun g => g.rollback.isNone && (g.members.all fun m => m.2 != 0xFFFF) && stoppedGang.allStopped g) = some true ∧
    (stoppedGang.gang (stoppedGang.ctx 8).y.gang) = none ∧
    ((stoppedGang.updPlacer 0 fun p => { p with replacing := some 5 }).placer 0).replacing = some 5 ∧
    ((stoppedGang.gang 7).map fun g => g.resident.all fun m => (g.resident.foldl State.leaveWait stoppedGang).saveReady m) = some true := by decide +kernel
/-- The object of a gang that moves can be read, and its slots are chosen. -/
theorem witness_PartitionsReset_moves :
    let g : Gang := { gang7 0 with part := 0, obj := 0x1FFFC0#64, gen := 7, feat := 1#64, members := [(0, 5)] }
    (match (objected.readObject (launchReq 0 0) g.obj).2 with
      | .ok o => objected.chooseMoves g ⟨0, g.feat, g.obj, g.gen, o.imsize, o.region⟩ == some [(0, 0)] &&
          unplaced.chooseMoves g ⟨0, g.feat, g.obj, g.gen, o.imsize, o.region⟩ == none
      | .error _ => false) = true := by decide +kernel

/-- Staged records in the first line of the supervisor's page: record 10 (core 0) with STATE 1, and an ill-formed one. -/
def staged (w : Nat) : State :=
  let s := paged supervising
  { s with hbm := { s.hbm with bytes := Mem.setBytes s.hbm.bytes 0x200000 (natLe w 8) } }

theorem witness_PantryChangesAndErrors : (supervising.ctx 0).y.sup = true ∧ bits (0x100000000#64 : Word) 32 11 = 1 ∧ supervising.svc.pantry.queue = [] ∧
    (supervising.readLines pantryReq (supervising.reg 0 0x810) 1).2 = none ∧
    ((staged (3 * 2 ^ 56)).readLines pantryReq ((staged (3 * 2 ^ 56)).reg 0 0x810) 1).2.map (fun bs => (stagedRecs (cut 16 1 bs)).map fun l => l.map (·.1)) = some (some [10]) ∧
    ((staged (9 * 2 ^ 56)).readLines pantryReq ((staged 0).reg 0 0x810) 1).2.map (fun bs => (stagedRecs (cut 16 1 bs)).isNone) = some true ∧
    SMap.at false supervising.svc.pantry.hwf 10 = false := by decide +kernel
theorem witness_PantryChangesAndErrors_changes :
    let s := supervising.updPantry fun p => { p with queue := [⟨[(10, PanRec.zero)], true⟩], hwf := [(10, true)] }
    s.capsSettled = true ∧ (∀ c ∈ s.svc.pantry.queue, c.hw = true) ∧ SMap.at false s.svc.pantry.hwf 10 = true ∧ ¬ ([10, 10] : List Nat).Nodup ∧
    ((supervising.updCore 0 fun c => { c with settling := some 3#3 }).core 0).settling = some 3#3 ∧ (0 : Nat) < 512 ∧
    ¬ ((7#3 : BitVec 3).toNat < (3#3 : BitVec 3).toNat) ∧ ((ganged 0).ctx 0).y.panv ≠ (ganged 0).svc.pantry.ver ∧ (ganged 0).inTransit 0 = false ∧
    ((ganged 0).ctx 0).st = .running ∧ ((ganged 0).ctx 0).exiting = false := by decide +kernel
theorem witness_PantryChangesAndErrors_counters : (11 : Nat) < 12 ∧ 12 ≤ 12 ∧ ¬ (16 ≤ (State.reset.errs 10).ue) ∧
    ((State.reset.updErrs 10 fun e => { e with ue := 16 }).errs 10).ue = 16 ∧ SMap.at false State.reset.svc.pantry.hwf 10 = false ∧ (1654 : Nat) < 1655 := by
  decide +kernel

/-- Contexts 0 and 1 of core 0 run; the slot's owner code is `o`. -/
def slotted (o : Nat) : State :=
  let c : Ctx := { Ctx.reset with st := .running, y := { Sys.zero with spanSize := 64 } }
  ({ State.reset with c := c, parked := [(1, c)] }.setReg 0 0x800 0x10000#64).updCore 0 fun u => { u with owner := o }

theorem witness_SlotsAndBundlesIssue : (slotted 1).ready 0 = true ∧ (slotted 1).ready 1 = true ∧ (slotted 1).ready 2 = false ∧
    (∀ j, j < 4 → ((slotted 1).ctx (4 * 0 + j)).y.sup = false) ∧ ((slotted 5).core 0).owner = 5 ∧ (State.reset.ready 0 = false) ∧
    bits ((slotted 1).reg 0 0x800) 16 16 ≠ 0 ∧ supervising.ready 0 = true ∧ (∀ i, 1 ≤ i → i < 1 → (slotted 5).ready ((0 + i) % 4) = false) := by
  refine ⟨by decide +kernel, by decide +kernel, by decide +kernel, by decide +kernel, by decide +kernel, by decide +kernel, by decide +kernel, by decide +kernel, ?_⟩
  intro i h1 h2; omega

/-- The bundle of `withFetchWord`, in the hands of the owner of its slot. -/
def fetching (w : Nat) : State := State.reset.withFetchWord 32 w

theorem witness_SlotsAndBundlesIssue_bundles : (fetching 0x000C2200).runnable 0 = true ∧ (fetching 0x000C2200).slotOwner (coreOf 0) = some 0 ∧
    (((fetching 0x000C2200).focus 0).eventNow).isNone = true ∧ State.reset.runnable 0 = false ∧
    (match ((fetching 0x000C2200).focus 0).attempt with | .commit _ _ => true | _ => false) = true ∧
    (match ((fetching 0x0E800000).focus 0).attempt with | .stop _ => true | _ => false) = true := by decide +kernel
/-- A pending event, and a bundle that stalls on the token of its source. -/
theorem witness_SlotsAndBundlesIssue_waits :
    let s := fetching 0x000C2200
    let e : State := { s with c := { s.c with e := { s.c.e with thrn := true, tvecEn := true, thrEvent := some (1#2, 0#2) } } }
    let t : State := { s with ops := [{ opOf 1 (.read [] 8 false 1) (some (.s 1)) .issued with agent := 0 }] }
    ((e.focus 0).eventNow).isSome = true ∧ (match (t.focus 0).attempt with | .stall _ _ => true | _ => false) = true := by decide +kernel

theorem witness_GriddleRuns : (∀ i, i < 8 → (State.reset.griddle (8 * 0 + i)).lease ≠ .held) ∧ (∀ i, i < 8 → State.reset.leaseAsked (8 * 0 + i) = false) ∧
    ((sg []).griddle 0).lease = .held ∧ ((sg []).griddle 0).budCmds = 64 ∧ (State.reset.octet 0).ptr = 7 ∧
    (let s := State.reset.updGriddle 2 fun g => { g with requesting := true }
     s.leaseAsked (8 * 0 + (7 + 3) % 8) = true ∧ s.leaseAsked (8 * 0 + (7 + 1) % 8) = false ∧ s.leaseAsked (8 * 0 + (7 + 2) % 8) = false) ∧
    (((sg []).updGriddle 0 fun g => { g with budSteps := 0 }).griddle 0).budSteps = 0 := by decide +kernel
theorem witness_GriddleRuns_commands :
    let s := after (exec (.grdZero g0 1#5) (sg [(1, 0x0002#64)]))
    let t := after (exec (.grdSclAll g0 1#5) (sg [(1, 0x7F#64)]))
    (s.cmds.map fun (m : Cmd) => (m.unit == .griddle 0, m.instr == .grdZero g0 1#5, s.cmdReady m, s.cmdHeld m, m.acted)) = [(true, true, true, false, false)] ∧
    (s.cmds.map fun (m : Cmd) => rowWord m.d) = [some (2, 1)] ∧
    (t.cmds.map fun (m : Cmd) => (m.unit == .griddle 0, m.instr == .grdSclAll g0 1#5, t.cmdReady m, t.cmdHeld m, m.acted)) = [(true, true, true, false, false)] := by
  decide +kernel

/-- A row command of one row: ROWINIT with the pattern 5 at 0x400. -/
def rowed : State := after (exec (.rowinit g0 false false 1#5 2#5 3#5) (paged (sm [(1, 0x400#64), (2, 5#64), (3, 1#64)] [])))
/-- A PREF of one element, with its element reserved. -/
def feeding : State :=
  let s := sm [(1, 0x80#64), (2, 0x0000001000000040#64)] []
  let t := { s with c := { s.c with y := { s.c.y with chans := [(0, { Chan.zero with cfg := 0xC000010000000004#64 })] } } }
  let u := after (exec (.pref g0 false 1#5 2#5) t)
  u.cmds.foldl (fun v m => v.reserveNext m) u

theorem witness_CommandsAct : (copied.cmds.map fun (m : Cmd) => (m.id, m.instr == .copy g0 false false 1#5 2#5 3#5)) = [(1, true)] ∧
    (copied.cmds.map fun (m : Cmd) => (copied.cmdReady m, copied.cmdHeld m, copied.linesFar m, m.prog)) = [(true, false, false, 0)] ∧
    (copied.cmds.map fun (m : Cmd) => (m.feed.isNone, m.acted)) = [(true, false)] ∧
    (rowed.cmds.map fun (m : Cmd) => (m.instr == .rowinit g0 false false 1#5 2#5 3#5, rowed.cmdReady m, rowed.cmdHeld m)) = [(true, true, false)] ∧
    (copied.cmds.map fun (m : Cmd) =>
      ({ copied with ops := [opOf 0 (.read [some (.ab 0)] 8 false 3) none .issued] } : State).cmdReady m) = [false] := by decide +kernel
theorem witness_CommandsAct_elements : (feeding.elems.map fun (e : Elem) => (e.arrived, e.cmd, e.remote)) = [(false, 1, false)] ∧
    (feeding.cmds.map fun (m : Cmd) => (m.id, m.instr == .pref g0 false 1#5 2#5, (m.elemLines 0).all fun a => !feeding.remoteLine a)) = [(1, true, true)] := by
  decide +kernel

theorem witness_PreemptionsAndRecords : State.reset.c.y.stop = none ∧ (slotted 1).c.y.stop = none ∧ (slotted 1).c.st = .running ∧ State.reset.c.st ≠ .running ∧
    (⟨false, true⟩ : StopReq).atPpt = true ∧ (⟨true, false⟩ : StopReq).atPpt = false ∧
    (¬ ∃ m ∈ (slotted 1).cmds, m.owner = 0) ∧ (copied.cmds.any fun m => m.owner == 0) = true := by decide +kernel
theorem witness_PreemptionsAndRecords_hangs :
    let t : State := { fetching 0x000C2200 with ops := [{ opOf 1 (.read [] 8 false 1) (some (.s 1)) .issued with agent := 0 }] }
    (t.ctx 0).st = .running ∧ (t.ctx 0).exiting = false ∧ (t.ctx 0).y.sup = true ∧ ((slotted 1).ctx 0).y.sup = false ∧ ((slotted 1).ctx 0).y.hung = false ∧
    (t.ring 0).logn = 0 ∧ (Sys2Proof.Machine.Ring.mk 12#64 12#64 0#17 0#17 0#16 false).logn = 12 ∧ 5 + 8 ≤ 2 ^ 12 ∧ bitAt (State.reset.reg 0 0x9B0) 63 = false ∧
    bitAt ((State.reset.setReg 1 0x9B0 0x8000000000000000#64).reg 1 0x9B0) 63 = true := by decide +kernel
/-- A tenant's bundle that waits for the token of its source. -/
theorem witness_PreemptionsAndRecords_stall :
    let s := fetching 0x000C2200
    let c : Ctx := { s.c with y := { s.c.y with sup := false } }
    let t : State := { s with c := c, ops := [{ opOf 1 (.read [] 8 false 1) (some (.s 1)) .issued with agent := 0 }] }
    (t.ctx 0).st = .running ∧ (t.ctx 0).exiting = false ∧ (t.ctx 0).y.sup = false ∧ (t.ctx 0).y.hung = false ∧
    (match (t.focus 0).attempt with | .stall _ _ => true | _ => false) = true ∧ (match (s.focus 0).attempt with | .stall _ _ => true | _ => false) = false := by
  decide +kernel

/-- Package 9 is a live peer of incarnation 0; port 0 holds key 5 for partition 3, whose AB window is [0, 64 KiB). -/
def peered : State :=
  ((fabricked.updPeer 9 fun _ => ⟨1, 0#8, 1#32⟩).updPort 0 fun p => { p with members := [(0, 0x8300000000000005#64)] }).setReg 0 0x8A3 0x0100#64

def packetOf (op : Byte) (key : BitVec 32) (addr aux : Word) (bs : List Byte) : Packet :=
  { op := op, sinc := 0#8, tinc := 0#8, len := 0#8, key := key, ts := 0#32, route := 0x240#32, addr := addr, aux := aux, payload := bs, poison := 0#4, tag := 3#16 }

theorem witness_PacketsArrive : State.reset.portInService 0 = false ∧ peered.portInService 0 = true ∧ natBits (0x240#32 : BitVec 32).toNat 6 9 = 9 ∧
    (peered.peer 9).state = 1 ∧ (peered.peer 9).inc = 0#8 ∧ fabricked.peer 9 ≠ peered.peer 9 ∧ peered.ownInc = 0#8 ∧ (1#8 : Byte) ≠ peered.ownInc ∧
    peered.keyPart 0 5#32 = some 3 ∧ peered.keyPart 0 6#32 = none := by decide +kernel
theorem witness_PacketsArrive_requests :
    (peered.targetRead (fabRecv 0 3) 0x1000000000000100#64 64).2 = some (List.replicate 64 0#8, 0#4) ∧
    (peered.targetRead (fabRecv 0 3) 0x3000000000000100#64 64).2 = none ∧
    (match peered.placeAS false 3 0 false 64 0x100#64 with | .ok k => k == 0x100 | .error _ => false) = true ∧
    (match peered.placeAS false 3 0 false 64 0x10000#64 with | .ok _ => false | .error c => c == 7) = true ∧
    bits (0x1000000000000100#64 : Word) 60 4 = 1 ∧ bits (0x1000000000000100#64 : Word) 20 9 = 0 ∧
    peered.targetHeld (fabRecv 0 3) [0x1000000000000100#64] = false ∧ AtomOp.ofCode 0 = some .add ∧
    (peered.targetLoc (fabRecv 0 3) 0x1000000000000100#64 8 true).2 = some (.ab 0x100) ∧ (peered.atomAt (fabRecv 0 3) .add (.ab 0x100) 8 1#64 0#64).2 = some 0 ∧
    (peered.targetReduce (fabRecv 0 3) 0x1000000000000100#64 0 (List.replicate 64 0#8)).2 = true ∧
    (peered.targetReduce (fabRecv 0 3) 0x3000000000000100#64 0 (List.replicate 64 0#8)).2 = false := by decide +kernel
theorem witness_PacketsArrive_replies :
    let q : OpenReq := ⟨3, .op 1, 0, none, some 9, 0, [], 0⟩
    let t := peered.updFab fun f => { f with entries := [q] }
    (peered.fab.entries.find? fun q => q.tag == bits (3#64 : Word) 0 16 && (q.peer.isNone || q.peer == some 9)) = none ∧
    (t.fab.entries.find? fun q => q.tag == bits (3#64 : Word) 0 16 && (q.peer.isNone || q.peer == some 9)) = some q ∧ q.peer ≠ none := by decide +kernel

/-- A request waits at port 0 for package 9. -/
def waitingAt : State := fabricked.updPort 0 fun p => { p with queue := [⟨packetOf 1#8 5#32 0#64 0#64 [], false, none, some 9⟩] }

theorem witness_PortsAndLinks : waitingAt.portInService 0 = true ∧ State.reset.portInService 0 = false ∧
    min (waitingAt.link 13).width (waitingAt.pan 1622).cap = 0 ∧
    (let s := waitingAt.updPantry fun p => { p with recs := [(1622, { PanRec.zero with cap := 4 })] }
     let lanes := min (s.link 13).width (s.pan 1622).cap
     0 < 1 ∧ 1 < 2 ^ bits (s.reg 0 0x940) 32 4 ∧ lanes ≠ 0 ∧ 1 % (4 / min 4 lanes) = 0 ∧ ((s.port 0).queue.all fun w => s.mayDepart 0 1 w && !w.reply) = true ∧
     ((s.port 0).queue.all fun w => s.mayDepart 0 2 w) = false) ∧
    (supervising.ctx 0).y.sup = true ∧ (∀ n, n < 32 → supervising.portUp n = false) ∧ (∃ n, n < 32 ∧ waitingAt.portUp n = true) ∧
    supervising.fab.loading = none ∧ (supervising.updFab fun f => { f with loading := some 3 }).fab.loading = some 3 ∧ (6 : Nat) ≤ 12 := by decide +kernel
theorem witness_PortsAndLinks_tables :
    let q : Req := { part := 0, sup := true, ctx := 0xFFFF, agent := 5, die := 0, lcc := 0#64, pc := 0#64, gang := 0 }
    (supervising.readImage q (supervising.reg 0 0x941) (supervising.phases / 32)).2 = none ∧ supervising.phases = 256 ∧
    badTable (imageEntries (List.replicate 512 0#8) 256) = false ∧ badTable (imageEntries (1#8 :: List.replicate 511 0#8) 256) = true ∧
    (((paged supervising).setReg 0 0x940 0x500000000#64).readImage q 0#64 1).2 = some (List.replicate 64 0#8) := by decide +kernel
theorem witness_PortsAndLinks_links :
    let u : LinkUpdate := ⟨5, 9, 0, .linkUp, 0#8, 0#64, none⟩
    (0 : Nat) < 32 ∧ u.seq ∉ waitingAt.fab.lsuSeen ∧ u.pkg ≠ waitingAt.ownPkg ∧ waitingAt.portUp 0 = true ∧ waitingAt.portUp 1 = false ∧
    bits (0x800000000000000D#64 : Word) 0 6 = 13 + 0 ∧ bitAt (0x800000000000000D#64 : Word) 63 = true ∧ bitAt (0x400000000000000D#64 : Word) 62 = true ∧
    (waitingAt.link 13).state ≠ 1 ∧ ((waitingAt.updLink 14 fun l => { l with state := 1 }).link (13 + 1)).state = 1 ∧ waitingAt.fab.drains.length ≤ 0 ∧
    u.event ≠ .linkDown := by decide +kernel
theorem witness_PortsAndLinks_drains :
    let d : Drain := ⟨none, some 0, none, false, 3, ⟨5, 9, 0, .peerDownLink, 0#8, 0#64, none⟩, 0#64⟩
    let s := waitingAt.updFab fun f => { f with drains := [{ d with round := 2 }, d] }
    s.fab.drains[0]? = some { d with round := 2 } ∧ s.fab.drains[1]? = some d ∧ 3 ≤ d.round ∧ d.port = none ∧ d.plane = some 0 ∧ (2 : Nat) < 3 := by decide +kernel

/-- A flash whose bundle keeps the layout: a configuration entry and one image of code. -/
def flashed : Mem :=
  let e (k o n : Nat) : List Byte := natLe k 4 ++ natLe o 4 ++ natLe n 4 ++ natLe 0 4
  Mem.setBytes (Mem.setBytes [] 0 (natLe 0x31424446 4 ++ natLe 1 2 ++ natLe 2 2 ++ natLe 256 4)) 160 (e 1 208 0 ++ e 2 208 8 ++ e 3 216 8)

theorem witness_TheDeviceBoots : State.reset.svc.boot.stage = 0 ∧ State.reset.svc.boot.flash = [] ∧ badBundle flashed = false ∧ badBundle [(0, 1#8)] = true ∧
    (flashed : Mem) ≠ [] ∧ ((State.reset.updBoot fun b => { b with stage := 3 }).svc.boot.stage = 3) ∧ (supervising.ctx 0).y.sup = true ∧
    (false, 5) ∉ (supervising.coreTest 0).repairs ∧ addRepair [] (false, 5) = some [(false, 5)] ∧
    addRepair [(false, 0), (false, 32), (false, 64), (false, 96)] (false, 128) = none := by decide +kernel
theorem witness_TheDeviceBoots_cores : bitAt (0#64 : Word) 63 = false ∧ State.reset.svc.boot.stage ≠ 4 ∧ bitAt (1#64 : Word) 0 = true ∧ State.reset.svc.boot.attBusy = false ∧
    (∀ m, m < 256 → (State.reset.coreTest m).pass = false) ∧
    ((State.reset.updTest 3 fun t => { t with done := true }).coreTest 3).pass = true := by decide +kernel

theorem witness_StepRunsDecodedInstruction :
    let s := { fetching 0x000C2200 with agenda := [.bundleIssue 0] }
    let t := { s with agenda := [] }.focus 0
    let w : State := { t with c := { t.c with e := t.c.e.dropThrottle } }
    s.runnable 0 = true ∧ s.slotOwner (coreOf 0) = some 0 ∧ (t.eventNow).isNone = true ∧ t.c.f.blocked = [] ∧ w.fetchBad = false ∧
    w.c.y.inSpan w.offset 2 = true ∧ (match w.checkSlot 0 (w.imemWord 0 (w.c.f.pc.toNat + 4)) with | .ok i => i == .add g0 3#5 1#5 2#5 | .error _ => false) = true ∧
    (match w.decodeBundle with | .ok b => (w.tokenStall b.slots).isNone && (w.acquireStall b.slots).isNone | .error _ => false) = true ∧ w.c.y.chk = false := by
  decide +kernel
/-- The one slot of that bundle runs without a stop, and nothing stalls the bundle behind it. -/
theorem witness_StepRunsDecodedInstruction_slot :
    let w := (fetching 0x000C2200).focus 0
    (match w.decodeBundle with
      | .ok b =>
        let u := after (exec (.add g0 3#5 1#5 2#5) ((w.beginBundle b).iss fun i => { i with pos := 0, word := w.imemWord 0 (w.c.f.pc.toNat + 4), doff := 0#64, stop := none }))
        u.issue.stop.isNone && u.issue.stall.isNone && u.skidStall.isNone && u.bankTrap.isNone && u.heldTrap.isNone
      | .error _ => false) = true := by decide +kernel

theorem witness_BundlesAreChecked :
    let s := fetching 0x000C2200
    let pc := s.c.f.pc.toNat
    let h := Header.of (s.imemWord 0 pc)
    s.who < 2048 ∧ s.c.y.inSpan s.offset 1 = true ∧ s.c.y.inSpan s.offset (1 + maskCount h.pmask) = true ∧ h.ver.toNat < 2 ∧ maskCount h.pmask = 1 ∧
    stopOf (s.imemWord 0 (pc + 4)) = true ∧ h.pmask &&& h.dmask = 0#8 ∧ h.dmask = 0#8 ∧ h.rsv = 0#4 ∧
    State.reset.c.y.inSpan State.reset.offset 1 = false ∧ (Header.of 0xFFFFFFFF#32).ver.toNat = 3 := by decide +kernel
theorem witness_BundlesAreChecked_slots : positionOk (opcOf 0x000C2200#32) 0 = true ∧ positionOk (opcOf 0x000C2200#32) 2 = false ∧
    (match decodeSlot 0x0E800000#32 with | .ok _ => false | .error _ => true) = true ∧ featureOf 0x53#8 = some 0 ∧
    State.reset.hasFeat 0 = false ∧ (supState State.reset).hasFeat 0 = true := by decide +kernel

theorem witness_DecodingInvertsEncoding : (Instr.add g0 3#5 4#5 5#5).wf = true ∧ encode (.add g0 3#5 4#5 5#5) = some 0x000C8500#32 := by decide
theorem witness_EncodingInvertsDecoding : decodeSlot 0x800C8500#32 = .ok (.add g0 3#5 4#5 5#5) := by decide
theorem witness_ResetLeaves : (0 : Nat) < 4096 := by decide
theorem witness_StepKeepsMemoryCanonical : MemoryCanonical State.reset ∧ (match step State.reset with | .next _ => true | _ => false) = true ∧
    MemoryCanonical (fetching 0x000C2200) ∧ (match step (fetching 0x000C2200) with | .next _ => true | _ => false) = true := by decide +kernel

theorem witness_TrapsAndReturns : (State.reset.who < 2048) ∧ TrapKind.illegal ≠ .feature ∧ State.reset.c.e.hm = false ∧ State.reset.c.e.tvecEn = false ∧ inHandler.c.e.hm = true ∧
    ({ State.reset with c := { State.reset.c with e := { State.reset.c.e with tvecEn := true } } } : State).c.e.tvecEn = true ∧ inHandler.c.f.pend = [] ∧
    inHandler.c.f.saved.arrived = [] := by decide +kernel
theorem witness_LogicalTimeAdvances :
    let s := after (exec (.add g0 3#5 1#5 2#5) (s12 1#64 2#64))
    (s.c.f.pend.map (·.land)) = [.scal 3 3#64 false] ∧ (s.c.f.pend.map (·.cyc)) = [s.c.now + toWord 1] ∧ s.c.e.hm = false ∧ inHandler.c.e.hm = true := by decide +kernel
theorem witness_LandingsChange : MemoryCanonical State.reset ∧ (0x40 ≤ 0x41 ∧ 0x41 < 0x40 + [1#8, 2#8].length) := by decide +kernel
theorem witness_SlotsLeaveStateAlone : (Instr.add g0 3#5 1#5 2#5).opc = some 0#8 ∧ (0#8 : BitVec 8).toNat < 0xC0 ∧ (s12 1#64 2#64).issue.stop = none ∧
    (after (exec (.add g0 3#5 1#5 2#5) (s12 1#64 2#64))).issue.stop = none ∧ (Instr.vadd 0#3 0#3 1#5 2#6 3#6).opc.isSome = true := by decide +kernel

/-! The forms and events of the last two statements, and the conditions that stand beside those above. -/

/-- SHA-512 of "abc" (FIPS 180-4). -/
theorem test_sha512 : (sha512 [0x61#8, 0x62#8, 0x63#8]).take 4 = [0xDD#8, 0xAF#8, 0x35#8, 0xA1#8] := by decide +kernel

/-- A write of agent 0, of the bundle at hand or of an earlier one, that is queued. -/
def queuedWrite (l : Loc) (bun : Nat) (s : State) : State :=
  { s with ops := [{ opOf 1 (.write [(l, [1#8])]) none .issued with bun := bun }], issue := { s.issue with serial0 := 2 } }

theorem witness_ScalarLoads_queued : Unqueued (sm [] []) false 0x40 8 ∧ ¬ Unqueued (queuedWrite (.ab 0x40) 1 (sm [] [])) false 0x40 8 ∧
    RaceFree (queuedWrite (.ab 0x40) 1 (sm [] [])) false false true 0x40 8 ∧
    (queuedWrite (.ab 0x40) 1 (sm [] [])).spot false 8 0x40#64 = .own 0x40 ∧ pairedState.spot true 8 0x100000#64 = .bad 8 true := by decide +kernel
theorem witness_ScalarStores_queued : Unqueued (queuedWrite (.ab 0x40) 2 (sm [] [])) false 0x40 8 ∧
    (queuedWrite (.ab 0x40) 2 (sm [] [])).afterOwn (.ab 0x40) 8 none = true ∧ (sm [] []).afterOwn (.ab 0x40) 8 (some 3) = false ∧
    RaceFree (queuedWrite (.ab 0x40) 2 (sm [] [])) false true true 0x40 8 := by decide +kernel
theorem witness_VectorLoads_far : pairedState.spot true 256 0x100000#64 = .bad 8 true ∧
    Unqueued (vloads 0x40#64 1#64) false 0x40 256 := by decide +kernel
theorem witness_VectorStores_queued :
    let s := queuedWrite (.ab 0x80) 2 (vloads 0x40#64 1#64)
    Unqueued s false 0x40 256 ∧ s.afterOwn (.ab 0x40) 256 none = true ∧ (vloads 0x40#64 1#64).afterOwn (.ab 0x40) 256 none = false := by
  decide +kernel

/-- Ladle 1 of core 0 at work for context 0, whose channel 0 it feeds or a Ladle 0. -/
def pushing (prod : Nat) : State :=
  let s := sc 3 1 true
  let h : Chan := { s.c.chan 0 with cfg := (s.c.chan 0).cfg &&& 0x8FFFFFFFFFFFFFFF#64 ||| toWord (prod * 2 ^ 60) }
  ({ s with c := { s.c with y := { s.c.y with chans := [(0, h)] } } }.updLadle 1 fun y => { y with serving := some 0 }).focus 2049

theorem witness_ChannelInstructions_far : Clear pairedState ∧ NoRace pairedState ∧ Ready pairedState g0 [0#5] ∧
    pairedState.spot true 256 0x100000#64 = .bad 8 true ∧ pairedState.spot true 256 0xFFF80#64 = .bad 7 false ∧
    isLadle (pushing 2).who = true ∧ (pushing 2).ownerOf (pushing 2).who = 0 ∧
    (let h := ((pushing 2).ctx 0).chan 0
     h.en = true ∧ bits h.cfg 60 3 = 1 + ((pushing 2).who - 2048) % 2 ∧ h.full = false ∧ bits (((pushing 1).ctx 0).chan 0).cfg 60 3 ≠ 2) ∧
    (∀ m ∈ (pushing 2).cmds, m.agent = (pushing 2).who → m.bun < (pushing 2).issue.serial0 → m.feed = none) := by decide +kernel
theorem witness_LadlesRun_fenced :
    let s := (ladled 3 false).updPantry fun p => { p with recs := [(587, { PanRec.zero with state := 2 })] }
    s.fenced (586 + 1) = true ∧ (ladled 3 false).fenced (586 + 1) = false ∧ s.needFeat 6 = none := by decide +kernel
theorem witness_FencesAndWaits_first : (ganged 0).issue.redo = none ∧ Ready (ganged 0) g0 [] := by decide +kernel
theorem witness_GriddleCommandsAreQueued_b16 :
    let s := State.reset
    let t : State := { s with c := { s.c with y := { s.c.y with fcr := 0x6000#64 } } }
    (sg []).needB16 = none ∧ t.needB16 = some .feature ∧ Executes t g0 ∧ (after (exec (.grdFree g0) (sg []))).issue.freesLease = true ∧
    (sg []).issue.freesLease = false := by decide +kernel
theorem witness_CommandsAct_unit :
    let o : OutLine := ⟨1, 0x80#64, List.replicate 64 7#8, false⟩
    let s : State := { copied with cmds := copied.cmds.map fun m => { m with outs := [o], spot := some (.mem false 0x80), put := [3] } }
    (s.cmds.map fun (m : Cmd) => (s.ops.find? fun x => x.id == m.id).isNone && m.unit == .copy 0 && m.feed.isNone && !m.waiting) = [true] ∧
    (copied.cmds.map fun (m : Cmd) => m.spot == none && m.outs.isEmpty) = [true] ∧
    (s.cmds.map fun (m : Cmd) => (m.put.contains 0, m.put.contains 1, m.put.contains 3)) = [(false, false, true)] := by decide +kernel
theorem witness_LogicalTimeAdvances_tokens :
    let s := operating [opOf 2 (.read [] 8 false 3) (some (.s 3)) .issued]
    (∀ o ∈ State.reset.ops, o.agent = State.reset.who → o.bun = State.reset.issue.serial0 → o.dest = none) ∧
    ({ s with issue := { s.issue with serial0 := 5 } } : State).issue.serial0 = 5 ∧ ¬ (∀ o ∈ s.ops, o.agent = s.who → o.bun = s.issue.serial0 → o.dest = none) := by
  decide +kernel
theorem witness_StepRunsDecodedInstruction_turn : ({ fetching 0x000C2200 with agenda := [] } : State).mustYield 0 = false := by decide +kernel

/-- The words of a COPY or COPYW, as the statement limits them. -/
def plainCtl (w : Word) : Bool :=
  decide (bits w 61 3 ≤ 2) && decide (bits w 59 2 ≤ 2) && !bitAt w 55 && bits w 32 15 == 0 && decide (64 ≤ bits w 0 32) && bits w 0 32 % 64 == 0 &&
    bits w 61 3 != 0 && bits w 59 2 != 0

theorem witness_OtherFormsComplete :
    let s := sm [(1, 0x80#64), (2, 0x40#64), (3, 0x2800000000000100#64), (6, 0x2800000000000040#64), (7, 0x0000400000400001#64)] []
    Ready (looping 3#64) g0 [2#5] ∧ Ready s g0 [1#5, 2#5, 3#5] ∧ Ready s g0 [1#5, 2#5, 6#5, 7#5] ∧
    plainCtl (s.rs 3#5) = true ∧ plainCtl (s.rs 6#5) = true ∧ bits (s.rs 7#5) 0 16 = 1 ∧ bits (s.rs 7#5) 40 24 % 64 = 0 ∧
    bits (s.rs 7#5) 16 24 % 64 = 0 := by decide +kernel
/-- Rows from 0x400 and from 0x200400, which are two addresses of one row. -/
theorem witness_OtherFormsComplete_rows :
    let s := paged (sm [(1, 0x400#64), (2, 0x200400#64), (3, 1#64)] [])
    let t : State := { s with hbm := { s.hbm with bytes := Mem.setBytes s.hbm.bytes 0x6008 (natLe 0xD000000000200000 8) } }
    let q := t.reqOf t.who
    let ok (t : State × Except (AFault × Word) (List (Option (Nat × Nat)))) (p : Nat) : Bool :=
      match t.2 with | .ok ps => decide (ps = [some (0, p)]) | .error _ => false
    Ready t g0 [1#5, 2#5, 3#5] ∧ bits (t.rs 3#5) 7 45 = 0 ∧ bits (t.rs 3#5) 0 7 = 1 ∧ bitAt (t.rs 3#5) 63 = false ∧ bits (t.rs 1#5) 0 10 = 0 ∧
    bits (t.rs 2#5) 0 10 = 0 ∧ ok (t.rowPas q (t.rs 1#5) true 0 1) 0x200400 = true ∧
    ok ((t.rowPas q (t.rs 1#5) true 0 1).1.rowPas q (t.rs 2#5) false 0 1) 0x200400 = true := by decide +kernel
theorem witness_OtherFormsComplete_elements :
    let s := sm [(1, 0x80#64), (2, 0x0000001000000040#64)] []
    let t := { s with c := { s.c with y := { s.c.y with chans := [(0, { Chan.zero with cfg := 0xC000010000000004#64 })] } } }
    Ready t g0 [1#5, 2#5] ∧ bits (t.rs 2#5) 32 4 = 0 ∧ bits (t.rs 2#5) 36 13 = 1 ∧ bits (t.rs 2#5) 0 6 = 0 ∧ bitAt (t.rs 2#5) 60 = false ∧
    bits ((t.ctx (t.ownerOf t.who)).chan (bits (t.rs 2#5) 61 3)).cfg 60 3 = 4 ∧
    (State.reset.updBoot fun b => { b with memUp := true }).svc.boot.memUp = true ∧ State.reset.svc.hostClosed = [] ∧ 0x40 + 8 ≤ 2 * 0x4800000000 := by
  decide +kernel

theorem witness_EventsComplete_services :
    (∀ n, n < 16 → supervising.partBusy n = false) ∧ bitAt ((supervising.setReg 0 0x882 8#64).reg 0 0x882) 3 = true ∧
    (supervising.ctx 0).y.sup = true ∧ (let b := supervising.updSvc fun w => { w with busy := [(3, true)] }
      b.partBusy 3 = true ∧ b.contextsOf 3 = [] ∧ b.cmds = []) ∧
    (stoppedGang.ctx 8).y.sup = true ∧ bits (0x8000000000000005#64 : Word) 0 11 = 5 ∧ (stoppedGang.placer 0).replacing = none ∧
    (stoppedGang.ctx 5).st ≠ .free ∧ stoppedGang.gang (stoppedGang.ctx 5).y.gang = some (gang7 0) ∧ stoppedGang.allStopped (gang7 0) = true ∧
    stoppedGang.partBusy 3 = false ∧ ((stoppedGang.updPlacer 0 fun p => { p with replacing := some 5 }).placer 0).replacing = some 5 ∧
    (∀ m ∈ (gang7 0).resident, ((gang7 0).resident.foldl State.leaveWait stoppedGang).saveReady m = true) ∧
    (∀ m ∈ (gang7 0).members, m.2 ≠ 0xFFFF) := by decide +kernel
theorem witness_EventsComplete_registers :
    (supervising.queue (bits (supervising.reg 0 0x880) 0 16)).en = false ∧ supervising.contextsOf 3 = [] ∧ supervising.gangs = [] ∧
    (let s := supervising.setReg 0 0xA0A 0x300000#64
     bits (s.reg (dieOf 0) 0xA0A) 16 8 < bits ((s.setReg 0 0xA0B 0x40#64).reg (dieOf 0) 0xA0B) 0 8) ∧ (supervising.core 0).thr.toNat < 3 ∧
    (SMap.at Ring.none supervising.rings (32 + dieOf (coreOf 0))).pending = false ∧ (7 ≤ bits (12#64 : Word) 0 5 ∧ bits (12#64 : Word) 0 5 ≤ 16) ∧
    (supervising.updSvc fun w => { w with tlbinv := [⟨0, 5#64⟩] }).svc.tlbinv.find? (fun z => z.die == 0) = some ⟨0, 5#64⟩ ∧
    (supervising.mig (dieOf (coreOf 0))).run = none ∧ ((migrating 21 0x400000).mig 0).run = some ⟨16, 0, 21, 0x200000, 0x400000⟩ ∧
    (supervising.ctx 0).chan 3 = Chan.zero ∧ (supervising.ctx 0).st = .running ∧ bits (0x8000000000000004#64 : Word) 60 3 ≠ 9 ∧
    bits (0xC000010000000004#64 : Word) 60 3 ≤ 4 ∧ 1 ≤ bits (0xC000010000000004#64 : Word) 0 13 ∧
    bits (0xC000010000000004#64 : Word) 32 20 + 256 * bits (0xC000010000000004#64 : Word) 0 13 ≤ 2 ^ 20 ∧ (handling.ctx 0).e.hm = true ∧
    (let l : State := { supervising with c := { supervising.c with f := { supervising.c.f with loops := (looping 3#64).c.f.loops } } }
     (l.ctx 0).st = .running ∧ bits ((l.ctx 0).loopEntry 1) 62 2 = 1) := by decide +kernel
theorem witness_EventsComplete_pantry :
    supervising.svc.pantry.queue = [] ∧
    ((staged (3 * 2 ^ 56)).readLines pantryReq ((staged (3 * 2 ^ 56)).reg 0 0x810) 1).2.map
      (fun bs => (stagedRecs (cut 16 1 bs)).map fun l => (l.map (·.1), l.all fun r => !SMap.at false (staged 0).svc.pantry.hwf r.1)) = some (some ([10], true)) ∧
    (let s := supervising.updPantry fun p => { p with queue := [⟨[(10, PanRec.zero)], true⟩] }
     s.svc.pantry.queue = [⟨[(10, PanRec.zero)], true⟩] ∧ s.capsSettled = true) ∧
    (({ supervising with octets := [(3, { Octet.reset with settling := some 2#3 })] } : State).octet 3).settling = some 2#3 ∧
    (let s := ganged 0
     (s.ctx 0).st = .running ∧ (s.ctx 0).exiting = false ∧ (s.ctx 0).y.sup = false ∧ s.inTransit 0 = false ∧ (s.ctx 0).y.panv ≠ s.svc.pantry.ver) ∧
    (let s := (State.reset.updErrs 10 fun e => { e with ue := 15 }).setReg 0 (0x990 + (panKind 10).1) 0xF0000#64
     (s.errs 10).ue = 15 ∧ (s.errs 10).ueTold = false ∧ bits (s.reg 0 (0x990 + (panKind 10).1)) 16 5 = 15) := by decide +kernel
theorem witness_EventsComplete_gangs :
    let s := (ganged 0).setReg 0 0x983 0x8000000000000001#64
    let r := gangedBy fun g => { g with rollback := some (1, 0, 0#64, 0) }
    (s.ctx 0).st ≠ .free ∧ s.gang (s.ctx 0).y.gang = some (gang7 0) ∧ (gang7 0).rollback = none ∧ (gang7 0).id = (s.ctx 0).y.gang ∧ (gang7 0).nolog = false ∧
    (∀ m ∈ (gang7 0).members, m.2 < 2048 → bitAt (s.reg (dieOf (coreOf m.2)) (0x980 + (gang7 0).part)) 63 = true) ∧ (s.ctx 0).y.sup = false ∧
    (s.updCore 0 fun u => { u with prot := true }).pairSecond (coreOf 0 + 1) = true ∧
    (let f := { s with parked := (8, supervising.c) :: s.parked }; (f.ctx 8).y.sup = true ∧ (f.ctx 0).st ≠ .free) ∧
    r.gang 7 = some { gang7 0 with rollback := some (1, 0, 0#64, 0) } ∧ r.partBusy 3 = false ∧ ({ gang7 0 with rollback := some (1, 0, 0#64, 0) }).resident ≠ [] ∧
    (∀ m ∈ (gang7 0).resident, r.quiet m = true) := by decide +kernel
/-- The node of `objected` as a gang that a rollback has taken off its contexts: it can start again. -/
theorem witness_EventsComplete_restart :
    let g : Gang := { gang7 0 with part := 0, obj := 0x1FFFC0#64, gen := 7, feat := 1#64, queue := 3, node := 0, members := [(0, 0xFFFF)],
                                   rollback := some (1, 0, 0#64, 0) }
    let s : State := { (objected.updPlacer 0 fun p => { p with ready := [[], [], [], []] }) with gangs := [g] }
    s.gang 7 = some g ∧ g.rollback ≠ none ∧ g.resident = [] ∧ (∀ l ∈ (s.placer g.die).ready, ∀ e ∈ l, e.gang ≠ some 7) ∧
    ((s.replayOf 3).bind fun r => (r.nodes[0]?).map fun n => (s.placeNode r 0 n (s.nodeClass g.queue n) (some g)).2) = some .ok := by decide +kernel
theorem witness_EventsComplete_stops :
    let t : State := { fetching 0x000C2200 with ops := [{ opOf 1 (.read [] 8 false 1) (some (.s 1)) .issued with agent := 0 }] }
    let h : State := { t with c := { t.c with y := { t.c.y with sup := false } } }
    let p (q : StopReq) : State := { slotted 1 with c := { (slotted 1).c with y := { (slotted 1).c.y with stop := some q } } }
    (h.ctx 0).st = .running ∧ (h.ctx 0).exiting = false ∧ (h.ctx 0).y.sup = false ∧ (h.ctx 0).y.hung = false ∧
    (match (h.focus 0).attempt with | .stall _ _ => true | _ => false) = true ∧
    ((p ⟨false, false⟩).ctx 0).y.stop = some ⟨false, false⟩ ∧ ((p ⟨true, false⟩).ctx 0).y.stop = some ⟨true, false⟩ ∧ ((p ⟨true, false⟩).ctx 0).st = .running ∧
    (p ⟨true, false⟩).unreleased 0 = false ∧ bitAt ((State.reset.setReg 1 0x9B0 0x8000000000000000#64).reg 1 0x9B0) 63 = true := by decide +kernel
theorem witness_EventsComplete_fabric :
    let d : Drain := ⟨none, some 0, none, false, 3, ⟨5, 9, 0, .peerDownLink, 0#8, 0#64, none⟩, 0#64⟩
    let q : OpenReq := ⟨3, .op 1, 0, none, some 9, 0, [], 0⟩
    let e := peered.updFab fun f => { f with entries := [q] }
    let w := waitingAt.updPantry fun p => { p with recs := [(1622, { PanRec.zero with cap := 4 })] }
    (∀ q, q < 32 → supervising.portUp q = false) ∧ supervising.fab.loading = none ∧ (supervising.updFab fun f => { f with loading := some 3 }).fab.loading ≠ none ∧
    w.portInService 0 = true ∧ w.carries 0 1 = true ∧ ((w.port 0).queue.all fun q => w.mayDepart 0 1 q) = true ∧ (w.port 0).queue ≠ [] ∧
    waitingAt.portUp 0 = true ∧ (peered.updFab fun f => { f with drains := [d] }).fab.drains[0]? = some d ∧ 3 ≤ d.round ∧
    (supervising.link (13 + 1)).state = 0 ∧ ((supervising.updLink 14 fun l => { l with state := 1 }).link (13 + 1)).state = 1 ∧
    e.portInService 0 = true ∧ (e.peer 9).state = 1 ∧ (e.peer 9).inc = 0#8 ∧ natBits (0x240#32 : BitVec 32).toNat 6 9 = 9 ∧
    (e.fab.entries.find? fun q => q.tag == bits (3#64 : Word) 0 16 && (q.peer.isNone || q.peer == some 9)) = some q ∧ e.ownInc = 0#8 ∧
    e.keyPart 0 5#32 = some 3 := by decide +kernel
theorem witness_EventsComplete_boot :
    let b (n : Nat) : State := supervising.updBoot fun b => { b with stage := n }
    State.reset.svc.boot.stage = 0 ∧ badBundle flashed = false ∧ (flashed : Mem) ≠ [] ∧ (b 3).svc.boot.stage = 3 ∧ (b 4).svc.boot.stage = 4 ∧
    ((b 6).updTest 3 fun t => { t with done := true }).svc.boot.stage = 6 ∧ (((b 6).updTest 3 fun t => { t with done := true }).coreTest 3).pass = true ∧
    addRepair ((b 4).coreTest (coreOf 0)).repairs (bitAt (5#64 : Word) 16, bits (5#64 : Word) 0 14) = some [(false, 5)] ∧ ((b 4).coreTest (coreOf 0)).repairs = [] ∧
    supervising.svc.boot.attBusy = false ∧ (supervising.updBoot fun b => { b with attBusy := true }).svc.boot.attBusy = true := by decide +kernel

/-! The further clauses: releases at the commit, held page writes, the Griddle's commands, and the stages of the boot. -/

theorem witness_PointsStampAndFormat_points : (after (exec .ppt State.reset)).c.f.pend = [] ∧ (after (exec .ppt State.reset)).issue.after = .ppt ∧
    (after (exec .yield State.reset)).issue.after ≠ .ppt := by decide
/-- The issuer has every feature as a supervisor, and s1, v1 are poisoned. -/
def consumer : State := supState marked

theorem witness_PoisonedSourcesTrap : Executes marked g0 ∧ Executes marked g1 ∧ marked.guardPois g1 = true ∧ (∃ r ∈ [1#5], marked.ps r = true) ∧
    SysReg.open marked.c.y.sup (4#12 : BitVec 12).toNat = true ∧ consumer.c.y.sup = true ∧ consumer.ps 1#5 = true ∧ consumer.needFeat 0 = none ∧
    consumer.needFeat 11 = none ∧ consumer.needFeat 7 = none ∧ consumer.needLad false = none ∧ consumer.needLad true = none ∧ consumer.needB16 = none ∧
    ((copyGeo (consumer.rs 1#5) 0#64 false).dsp = 0 ∨ (copyGeo (consumer.rs 1#5) 0#64 false).ssp = 0) := by decide +kernel
theorem witness_PoisonedSourcesTrap_data : Ready marked g0 [2#5] ∧ Ready marked g0 [2#5, 3#5, 3#5 + 1#5] ∧ Ready marked g0 [2#5, 3#5] ∧
    (marked.c.r.readV (1#5 : VReg).toNat).p ≠ 0#4 ∧ (marked.c.r.readV (1#5 : VReg).toNat).p.getLsbD 0 = true := by decide +kernel
theorem witness_ScalarStores_dropped : (sm [] []).spot false 8 0x100000#64 = .bad 7 false ∧
    Unheld ((sm [] []).postAccess ((sm [] []).reqOf (sm [] []).who) 7 4 (onDieAddr false 8 0x100000#64)) 6 := by decide +kernel
theorem witness_CopyCommandsAreAccepted_signals :
    let s := paged (sm [(1, 0x400#64), (2, 0x800#64), (3, 0x8040000000000001#64)] [])
    let t := (s.rowPas (s.reqOf s.who) (s.rs 1#5) true 0 1).1
    bitAt (s.rs 3#5) 63 = true ∧ bits (s.rs 3#5) 52 3 = 4 ∧ t.queueFull t.copyUnit = false ∧ Unheld t 4 ∧ Unheld s (bits (0x0002000000000000#64 : Word) 49 3) := by
  decide +kernel
theorem witness_LadlesRun_released :
    let o : Op := { opOf 1 .release none .issued with bun := 0 }
    let s : State := { ladled 1 false with ops := [o] }
    ((s.ladle 1).runs.map fun r => (r.ctx, r.bun)) = [(0, 0)] ∧ (∃ o ∈ s.ops, o.agent = 0 ∧ o.kind = .release ∧ o.bun ≤ 0) ∧ (ladled 1 false).ops = [] := by
  decide +kernel
theorem witness_SegmentTableInstructions_queued :
    let s := withS [(1, 0x80#64), (2, 0x100000000#64)]
    Unqueued s false 0x80 64 ∧ ¬ Unqueued (queuedWrite (.ab 0x80) 1 s) false 0x80 64 := by decide +kernel
theorem witness_PowerAndSensors_limits :
    let s := (supervising.setReg 0 0xA0A 0x100500000#64).updCore 0 fun u => { u with power := 10#64 }
    let t := (supervising.setReg 0 0xA0A 0x6400500000#64).updCore 0 fun u => { u with power := 10#64, owner := 1 }
    let limit (s : State) : Nat := bits (s.reg 0 0xA0A) 32 16 * [600, 650, 700, 750, 800, 840, 880, 920].getD (s.core 0).opcur.toNat 0 / 100
    bits (s.reg 0 0xA0A) 32 16 ≠ 0 ∧ limit s < (s.core 0).power.toNat ∧ 10 * (t.core 0).power.toNat < 9 * limit t ∧
    10 * bits (t.reg 0 0xA0B) 0 8 < 9 * bits (t.reg 0 0xA0A) 16 8 ∧ (t.core 0).owner = 1 ∧ (t.core 0).power.toNat ≠ 0 ∧
    ((owning.core 0).owner = 1 ∧ (owning.core 0).power.toNat = 0) := by decide +kernel
/-- A host write into the page that a migration of die 0 or die 1 copies. -/
theorem witness_HostMemoryAndPages_held :
    let r : Migration := ⟨16, 0, 21, 0x200000, 0x400000⟩
    let s := migrating 21 0x400000
    let t := (paged State.reset).updMig 1 fun m => { m with run := some r }
    (s.mig 0).run = some r ∧ (t.mig 1).run = some r ∧ r.size ≠ 0 ∧ 0x200040 < r.src + 2 ^ r.size ∧ r.src < 0x200040 + 1 ∧
    (State.reset.mig 0).run = none ∧ (State.reset.mig 1).run = none ∧ 0x4800000000 + 0x200040 + 1 ≤ 2 * 0x4800000000 := by decide +kernel
/-- A page without an error: nothing of HBM is wrong or poisoned. -/
theorem witness_HostMemoryAndPages_clean (i : Nat) : (migrating 21 0x400000).hbm.flips = [] ∧
    (migrating 21 0x400000).hbm.poisoned 6 (hbmKey 0 (0x200000 + i)) = false := by
  have h : (migrating 21 0x400000).hbm.flips = [] ∧ (migrating 21 0x400000).hbm.pois = [] := by decide +kernel
  simp [Bank.poisoned, Bank.lost, Bank.worn, h.1, h.2, SMap.at, SMap.get]
theorem witness_HostMemoryAndPages_copies : ((migrating 21 0x400000).mig 0).held = [] ∧ 0x200000 + 2 ^ 21 ≤ 0x400000 ∧
    ((migrating 21 0x400000).pageLeaf 0 16 0).map (·.1) = some 0x6000 ∧ 0x6000 + 8 ≤ 0x400000 := by decide +kernel

theorem witness_ElasticOperationsAreCarriedOut_memory :
    let r := opOf 2 (.read [some (.phys 0 0x200040 0x40#64)] 8 false 3) (some (.s 3)) .issued
    let t (k : OpKind) : State := { (paged supervising) with ops := [opOf 2 k (some (.s 3)) .issued] }
    let q := (t (.waitv 0x40#64 8 0#64)).reqOfOp (opOf 2 (.waitv 0x40#64 8 0#64) (some (.s 3)) .issued)
    r.phase = .issued ∧ r.units = [] ∧ (operating [r]).ops = [r] ∧ r.done = false ∧ (operating [r]).elems = [] ∧ (operating [r]).cmds = [] ∧
    (migrating 21 0x400000).pageMoving 0 0x200040 1 = true ∧ (paged supervising).pageMoving 0 0x200040 1 = false ∧
    (paged supervising).sp.anyPoison 6 0x40 8 = false ∧ ({ Bank.empty 3 with pois := [(1, true)] }.anyPoison 6 0x40 8) = true ∧
    (paged supervising).hbm.anyPoison 6 (0 * 2 ^ 39 + 0x200040) 8 = false ∧ leNat ((paged supervising).hbm.readZ 6 0x200040 8) = 0 ∧
    (bits (0x0008000000000040#64 : Word) 60 4 = 0 ∧ (paged supervising).ownPackage 0x0008000000000040#64 = false) ∧
    (paged supervising).ownPackage 0x40#64 = true ∧ ((paged supervising).monitors.filter fun m => m.die == bits (0x40#64 : Word) 50 1).length < 4096 ∧
    (match ((t (.waitv 0x40#64 8 0#64)).resolveFor q 0x40#64 false).2 with | .ok p => p == (0, 0x200040) | .error _ => false) = true ∧
    (match ((t (.waitv 0x400000#64 8 0#64)).resolveFor q 0x400000#64 false).2 with | .ok _ => false | .error _ => true) = true := by decide +kernel
theorem witness_ElasticOperationsAreCarriedOut_monitors (n : Nat) (h : n = 4096) :
    (((List.replicate n (⟨0, 0x200040, 0x40#64, true, 0, 9⟩ : Monitor)).filter fun m => m.die == bits (0x40#64 : Word) 50 1).length) = 4096 := by
  subst h
  rw [List.filter_eq_self.mpr (by intro a ha; rw [List.eq_of_mem_replicate ha]; decide)]
  exact List.length_replicate
theorem witness_ElasticOperationsAreCarriedOut_signals :
    let o := opOf 2 (.signal 4 4 3 7 false) none .issued
    let f := opOf 2 (.fence 6) (some (.s 3)) .issued
    let m : Monitor := ⟨0, 0x200040, 0x40#64, true, 0, 2⟩
    o.ready = true ∧ (operating [o]).syncObj (clusterOf (coreOf o.owner)) 3 4 = some 17 ∧ (opOf 2 .release none .issued).phase = .issued ∧
    m.op = (opOf 2 (.waitv 0x40#64 8 0#64) none .armed).id ∧ (opOf 2 (.read [] 8 false 3) none .sent).phase = .sent ∧
    ((∃ c, f.kind = .fence c) ∧ ∃ e ∈ ({ operating [f] with elems := [⟨1, 0, 0, 0, false, 0x200, 0, 0, 0, false, 0#32, true, [], [], []⟩] } : State).elems,
      e.agent = f.agent ∧ e.remote = true ∧ e.arrived = false ∧ e.id < f.id) ∧
    ({ inHandler with ops := [{ opOf 2 (.read [] 8 false 3) (some (.s 3)) .performed with result := [.scal 3 7#64 false] }] } : State).c.e.hm = true := by
  refine ⟨by decide, by decide +kernel, by decide, by decide, by decide, ⟨⟨6, rfl⟩, ?_⟩, by decide⟩
  exact ⟨_, List.mem_singleton.mpr rfl, by decide, by decide, by decide, by decide⟩

/-- As `ganged`, with context 0 exiting and the given operations and commands. -/
def exitingBy (os : List Op) (ms : List Cmd) : State := { ganged 0 with c := { (ganged 0).c with exiting := true }, ops := os, cmds := ms }

/-- A signal of a Ladle's run, held until the run has committed it. -/
def runSignal : Op := { opOf 1 (.signal 4 4 3 7 false) none .issued with agent := 2048, ready := false }

theorem witness_NodesAreRun_exits :
    let x := exitingBy [] []
    let w := exitingBy [runSignal] []
    (x.ctx 0).exiting = true ∧ x.exited 0 = true ∧ ((x.gang (x.ctx 0).y.gang).map fun g => g.rollback.isNone && g.rankOf 0 == some 0) = some true ∧
    (exitingBy [opOf 1 (.read [] 8 false 3) none .issued] []).exited 0 = false ∧
    (({ x with gangs := [{ gang7 0 with rollback := some (1, 0, 0#64, 0) }] } : State).gang 7).map (·.rollback.isSome) = some true ∧
    w.spent 0 = true ∧ w.quiet 0 = false ∧ (exitingBy [opOf 1 (.read [] 8 false 3) none .issued] []).spent 0 = false ∧
    ((gangedBy fun g => { g with members := [(0, 0xFFFF), (1, 5)] }).gang 7).map (·.members) = some [(0, 0xFFFF), (1, 5)] ∧
    ((stoppedGang.gang 7).map fun g => g.members.all fun m => m.2 != 0xFFFF) = some true := by decide +kernel
theorem witness_Rollbacks_logs :
    let g (n : Bool) : Gang := { gang7 0 with rollback := some (1, 0, 0#64, 0), nolog := n, stops := [(0, 0, ⟨false, false⟩)] }
    let s (n : Bool) : State := { exitingBy [runSignal] [] with gangs := [g n] }
    ((s true).gang 7) = some (g true) ∧ ((s false).gang 7) = some (g false) ∧ (g true).resident = [0, 5] ∧ (1 : Nat) ≠ 9 ∧
    ((g true).resident.all fun m => (s true).spent m) = true ∧ ((g false).resident.any fun m => !(s false).quiet m) = true ∧
    SMap.at false (s true).svc.busy 3 = false ∧ SMap.at false ((s true).updSvc fun w => { w with busy := [(3, true)] }).svc.busy 3 = true := by decide +kernel
/-- The gang of a node that a rollback has taken off its contexts, found again once the node has been placed. -/
theorem witness_Rollbacks_placed :
    let g : Gang := { gang7 0 with part := 0, obj := 0x1FFFC0#64, gen := 7, feat := 1#64, queue := 3, node := 0, members := [(0, 0xFFFF)],
                                   rollback := some (1, 0, 0#64, 0), stops := [(0, 0, ⟨false, false⟩)] }
    let s : State := { (objected.updPlacer 0 fun p => { p with ready := [[], [], [], []] }) with gangs := [g] }
    let f : State := { s with hbm := Bank.empty 6 }
    let n : State := s.updSvc fun w => { w with busy := [(0, true)] }
    let placed (s : State) : Option (State × Placed) := (s.replayOf 3).bind fun r => (r.nodes[0]?).map fun n => s.placeNode r 0 n (min (min n.prio 3) (s.queue 3).pmax) (some g)
    s.gang 7 = some g ∧ g.resident = [] ∧ ((placed s).map fun t => (t.2, (t.1.gangs.find? fun z => z.queue == 3 && z.node == 0).isSome)) = some (.ok, true) ∧
    ((placed f).map (·.2)) = some (.fails 0x10) ∧ ((placed n).map (·.2)) = some .nofit := by decide +kernel
theorem witness_PartitionsReset_spent :
    let s := { (exitingBy [runSignal] []).updSvc fun w => { w with busy := [(3, true)] } with cmds := [] }
    SMap.at false s.svc.busy 3 = true ∧ (∀ c ∈ s.contextsOf 3, s.spent c = true) ∧ (∃ c ∈ s.contextsOf 3, s.quiet c = false) ∧ s.cmds = [] ∧
    (∃ c ∈ (exitingBy [opOf 1 (.read [] 8 false 3) none .issued] []).contextsOf 3,
      (exitingBy [opOf 1 (.read [] 8 false 3) none .issued] []).spent c = false) := by decide +kernel
/-- The Griddle owner of core 1 runs at point 3 while the cap of its octet has fallen to 2. -/
theorem witness_PantryChangesAndErrors_octets :
    let o : Ctx := { Ctx.reset with st := .running, y := { Sys.zero with ctxfeat := 8#64 } }
    let s : State := { State.reset with parked := [(4, o)], octets := [(0, { Octet.reset with op := 3#3 })] }
    let t := (s.updCore 1 fun c => { c with opcur := 3#3 }).updPantry fun p => { p with recs := [(522, { PanRec.zero with cap := 2 })] }
    (t.ctx 4).grdOwner = true ∧ t.octetPoint 0 < (t.octet 0).op.toNat ∧ t.hasGrdOwner (8 * 0 + 1) = true ∧
    t.octetPoint 0 < (t.core (8 * 0 + 1)).opcur.toNat := by decide +kernel

/-- A Griddle command that the lease holder of core 0 has handed over. -/
def queuedBy (i : Instr) (l : List (Nat × Word)) : State := { after (exec i (sg l)) with issue := Issue.empty }

/-- The oldest Griddle command of octet 0 is `i`, and may act. -/
def oldestIs (s : State) (i : Instr) : Bool :=
  match s.cmds.find? fun (c : Cmd) => c.unit == .griddle 0 with
  | some m => m.instr == i && s.cmdReady m && !s.cmdHeld m && !m.acted && m.core == 0
  | none => false

theorem witness_GriddleRuns_acts :
    oldestIs (queuedBy (.grdScl g0 1#5) [(1, 0x80#64)]) (.grdScl g0 1#5) = true ∧
    oldestIs (queuedBy (.grdWload g0 1#5) [(1, 0x80#64)]) (.grdWload g0 1#5) = true ∧
    oldestIs (queuedBy (.grdMul g0 false false 1#5 2#5 3#5) [(1, 0x40#64), (2, 0x800#64), (3, 0#64)]) (.grdMul g0 false false 1#5 2#5 3#5) = true ∧
    oldestIs (queuedBy (.grdDrain g0 false false 1#5 2#5) [(1, 0x40#64), (2, 0x4000000800000000#64)]) (.grdDrain g0 false false 1#5 2#5) = true ∧
    oldestIs (queuedBy (.grdChk g0 3#5 1#5) [(1, 0x0302#64)]) (.grdChk g0 3#5 1#5) = true ∧ rowWord 0x0302#64 = some (2, 4) ∧
    oldestIs (queuedBy (.grdSave g0 false false 1#5 2#5) [(1, 0x40#64), (2, 0x4000000000000000#64)]) (.grdSave g0 false false 1#5 2#5) = true ∧
    ElTy.of (fmtB 0#64) = some .e4m3 ∧ ElTy.of (fmtA 0#64) = some .e4m3 ∧ rowWord 0#64 = some (0, 1) ∧ bitAt (0#64 : Word) 63 = false ∧
    ((sg []).griddle 0).exOld = [] := by decide +kernel
theorem witness_GriddleRuns_restores :
    let s := queuedBy (.grdRest g0 false false 1#5 2#5) [(1, 0x40#64), (2, 0x4000000000000000#64)]
    oldestIs s (.grdRest g0 false false 1#5 2#5) = true ∧ (s.cmds.map fun (m : Cmd) => (s.restFar m, m.prog, m.spot.isNone)) = [(false, 0, true)] ∧
    (s.cmds.map fun m => (s.cmds.find? fun c => c.id == m.id) == some m) = [true] := by decide +kernel
/-- A GRD.MUL of one row and one block, which runs to its end, and one fed by an empty channel, which waits. -/
theorem witness_GriddleRuns_products :
    let s := queuedBy (.grdMul g0 false false 1#5 2#5 3#5) [(1, 0x40#64), (2, 0x800#64), (3, 0#64)]
    (s.cmds.map fun m => (s.mulRun m .e4m3 .e4m3 64 1 0).2.1) = [1] ∧
    (s.cmds.map fun m => (s.mulRun { m with d := m.d ||| 0x8000000000000000#64 } .e4m3 .e4m3 64 1 0).2.1) = [0] := by decide +kernel
theorem witness_GriddleArithmetic :
    let p : RowPass := ⟨.e4m3, .e4m3, 0, 5, [(0, 127)], false, 0⟩
    p.blocks = [(0, 127)] ∧ p.blocks.length ≤ 8 ∧ (List.replicate 1024 (⟨0, 0, 0, false⟩ : BlockRec)).length = 1024 ∧
    (∃ j < 8, ((List.replicate 1024 (⟨1, 127, 0x38, true⟩ : BlockRec)).getD (128 * j + 5) ⟨0, 0, 0, false⟩).pois = true) ∧
    (blockPartial .e4m3 .e4m3 0x7F 127 ⟨1, 127, 0x38, false⟩).spx = true ∧ (blockPartial .e4m3 .e4m3 0x38 127 ⟨1, 127, 0x38, false⟩).spx = false ∧
    rneScaled (blockPartial .e4m3 .e4m3 0x38 127 ⟨1, 127, 0x38, false⟩).p 0 ≠ 0 ∧ rneScaled 0 3 = 0 := by
  refine ⟨by decide, by decide, List.length_replicate, ⟨0, by decide, ?_⟩, ?_⟩
  · rw [List.getD_eq_getElem?_getD, List.getElem?_replicate]; decide
  · decide +kernel
theorem witness_GriddleArithmetic_checks :
    let z (w : Word) (b : Bool) : Griddle := { Griddle.zero with zb := [(0, w)], zbPois := if b then [(0, true)] else [] }
    ((z 0#64 false).checkRow 0) = (0, 0) ∧ ((z 0#64 true).checkRow 0) = (2, 4) ∧ ((z ({ Acc.of 0#64 with r1 := 5 } : Acc).enc false).checkRow 0).1 = 1 ∧
    ((z ({ Acc.of 0#64 with inexact := true } : Acc).enc false).checkRow 0) = (2, 1) ∧ ((z ({ Acc.of 0#64 with spx := true } : Acc).enc false).checkRow 0) = (2, 2) ∧
    ((z ({ Acc.of 0#64 with spx := true, inexact := true } : Acc).enc false).checkRow 0) = (2, 3) := by decide +kernel
theorem witness_GriddleArithmetic_images :
    let g := Griddle.zero
    let d (p : Nat) : Word := toWord (p * 2 ^ 60)
    rowWord (d 0) = some (0, 1) ∧ (g.saveLines (d 0)).length = 16 ∧ (g.saveLines (d 1)).length = 8 ∧ 18 < (g.saveLines (d 2)).length ∧
    bits (d 3) 60 2 = 3 ∧ rowWord (d 3) = some (0, 1) ∧ bits (0x800000000#64 : Word) 34 4 = 2 ∧ bits (0x3000000000#64 : Word) 34 4 = 12 := by decide +kernel

/-- A slot that a handler has left waits to be issued again: the GRD.LEASE of a bundle at 0x40. -/
def leftWaiting : State :=
  let s := fetching 0x000C2200
  let b : Block := ⟨(encode (.grdLease g0)).getD 0#32, 0, 5#64, 0x40#64, .op 1, true, s.c.r⟩
  { s with c := { s.c with f := { s.c.f with blocked := [b] }, y := { s.c.y with sup := true, ctxfeat := 0x3FFF#64 } } }

theorem witness_SlotsAndBundlesIssue_again :
    (match (leftWaiting.focus 0).attempt with | .redone _ => true | _ => false) = true ∧ leftWaiting.runnable 0 = true ∧
    leftWaiting.slotOwner (coreOf 0) = some 0 ∧ ((leftWaiting.focus 0).eventNow).isNone = true := by decide +kernel
/-- The header word of the bundle has two wrong bits. -/
theorem witness_SlotsAndBundlesIssue_uncorrectable :
    let s := fetching 0x000C2200
    let t : State := { s with imem := { s.imem with flips := [(0, [3, 7])] } }
    (match (t.focus 0).attempt with | .uncorr => true | _ => false) = true ∧ t.runnable 0 = true := by decide +kernel
theorem witness_PreemptionsAndRecords_releases :
    let s (k : OpKind) : State := { slotted 1 with ops := [opOf 1 k none .issued] }
    ∀ k ∈ [OpKind.release, OpKind.record 0 []], ∃ o ∈ (s k).ops, o.agent = 0 ∧ o.phase ≠ .performed ∧ (o.kind = .release ∨ ∃ r b, o.kind = .record r b) := by
  intro s k hk
  rcases List.mem_cons.mp hk with h | h
  · exact ⟨opOf 1 k none .issued, List.mem_singleton.mpr rfl, rfl, by simp [opOf], .inl h⟩
  · exact ⟨opOf 1 k none .issued, List.mem_singleton.mpr rfl, rfl, by simp [opOf], .inr ⟨0, [], List.mem_singleton.mp h⟩⟩
theorem witness_CommandsAct_slots :
    (feeding.elems.map fun (e : Elem) => e.put == [] && e.units == [] && !e.arrived) = [true] ∧
    (feeding.cmds.map fun (m : Cmd) => (m.elemLines 0).all fun a => !feeding.remoteLine a || m.got.any fun g => g.1 == a) = [true] := by decide +kernel
/-- The stages of the boot, and a repair that is already taken. -/
theorem witness_TheDeviceBoots_stages :
    let b (n : Nat) : State := State.reset.updBoot fun b => { b with stage := n }
    State.reset.svc.boot.stage = 0 ∧ (b 1).svc.boot.stage = 1 ∧ (b 2).svc.boot.stage = 2 ∧ 3 ≤ (b 3).svc.boot.stage ∧ (16 : Nat) ≠ 0 ∧ (b 4).svc.boot.stage = 4 ∧
    (b 5).svc.boot.stage = 5 ∧ ((b 1).updBoot fun b => { b with flash := flashed }).svc.boot.flash ≠ [] ∧ (0 : Nat) < 12 ∧
    bitAt (0x8000000000000000#64 : Word) 63 = true ∧ (∃ m, m < 512 ∧ m ≠ 0 ∧ ((b 4).coreTest m).runs = true ∧ ((b 4).coreTest m).done = false) :=
  ⟨by decide, by decide, by decide, by decide, by decide, by decide, by decide, by decide, by decide, by decide, 1, by decide, by decide, by decide +kernel, by decide +kernel⟩
theorem witness_LandingsChange_lines :
    let b : Bank := { Bank.empty 3 with flips := [(8, [1, 2])], pois := [(2, true)] }
    b.worn 6 1 2 = true ∧ SMap.at false b.pois 2 = true ∧ ¬ (0x40 ≤ 64 * 1 ∧ 64 * 1 + 64 ≤ 0x40 + 8) ∧ (0x40 ≤ 64 * 1 ∧ 64 * 1 + 64 ≤ 0x40 + 64) ∧
    State.reset.ab.flips = [] ∧ State.reset.sp.flips = [] ∧ State.reset.parFlips = [] := by decide
/-- A bundle that hands a command over as a release, with and without a store of its own in the scope, and with an RLD. -/
theorem witness_LandingsChange_releases :
    let i : Issue := { Issue.empty with rels := [3], serial0 := 1 }
    let s : State := { State.reset with ops := [{ opOf 1 (.write [(.sp 0x100040, [1#8])]) none .issued with bun := 1 }] }
    i.rels = [3] ∧ Issue.empty.rels = [] ∧ (∃ o ∈ s.ops, o.agent = s.who ∧ o.bun = i.serial0 ∧ o.phase ≠ .performed ∧
      ∃ l ∈ o.kind.touches, s.scopeOfLoc (coreOf s.who) l ≤ 3) ∧ State.reset.ops = [] ∧ State.reset.cmds = [] ∧ State.reset.c.f.pend = [] := by
  refine ⟨rfl, rfl, ⟨_, List.mem_singleton.mpr rfl, rfl, rfl, by decide, .sp 0x100040, by decide, by decide⟩, rfl, rfl, rfl⟩
theorem witness_StepKeepsMemoryCanonical_others : ((List.range 512).all fun k => Mem.wf (State.reset.griddle k).wb.bytes) = true ∧
    Mem.wf State.reset.svc.boot.flash = true ∧ Mem.wf flashed = true := by decide +kernel
theorem witness_TrapsAndReturns_results :
    let s : State := { inHandler with c := { inHandler.c with f := { inHandler.c.f with saved := { Saved.none with arrived := [⟨0#64, 0, .scal 3 7#64 false, none⟩] } } } }
    s.who < 2048 ∧ s.c.f.pend = [] ∧ s.c.f.saved.arrived ≠ [] := by decide
theorem witness_EventsComplete_stages :
    let b (n : Nat) : State := supervising.updBoot fun b => { b with stage := n }
    (b 1).svc.boot.stage = 1 ∧ (b 2).svc.boot.stage = 2 ∧ (b 5).svc.boot.stage = 5 ∧ (gang7 0).nolog = false ∧ (graphed.nodeClass 3 nopNode) = 0 ∧
    (∀ n, (State.reset.mig n).run = none) := ⟨by decide, by decide, by decide, rfl, by decide, fun _ => rfl⟩

end Sys2Proof.Tests
end

section
/-! The package after reset (R450). -/

namespace Sys2Proof.Scope

open Sys2Proof.Machine Sys2Proof.Safety Sys2Proof.Laws

/-- After a package reset every agent, the issuing one too, is in the reset state of a context. -/
@[simp] theorem ctx_reset (x : Nat) : State.reset.ctx x = Ctx.reset := by
  unfold State.ctx
  split <;> rfl

/-- The rules' reset values of the registers outside the contexts, with half-open ranges of numbers. -/
theorem sysReg_reset (n : Nat) : SysReg.reset n =
    if n = 0x800 then 0x100000 else if n = 0x802 then 1000 else if n = 0x812 then 1 else if 0x820 ≤ n ∧ n < 0x830 then 1000
    else if 0x870 ≤ n ∧ n < 0x880 then 10000 else if 0x8A0 ≤ n ∧ n < 0x8C0 then 0x1000 else if n = 0x940 then 0x800000000
    else if 0x950 ≤ n ∧ n < 0x970 then BitVec.ofNat 64 (n - 0x950) else if 0x991 ≤ n ∧ n ≤ 0x998 then 0x3E800100000
    else if n = 0x9B0 then 15625 else if n = 0xA0A then 0x640000 else 0#64 := by
  simp only [SysReg.reset, Nat.lt_iff_le_pred (by decide : 0 < 0x830), Nat.lt_iff_le_pred (by decide : 0 < 0x880),
    Nat.lt_iff_le_pred (by decide : 0 < 0x8C0), Nat.lt_iff_le_pred (by decide : 0 < 0x970)]
  rfl

/-- After a package reset no register outside the contexts has been written. -/
theorem reg_reset (k : Nat) {n : Nat} (hn : n < 4096) : State.reset.reg k n = SysReg.reset n := by
  have hk : (k * 4096 + n) % 4096 = n := by omega
  change SysReg.reset ((k * 4096 + n) % 4096) = SysReg.reset n
  rw [hk]

/-- Settles O53: the reset state is written out, so that each part reads off it. -/
theorem resetLeaves : Obligations.ResetLeaves := by
  unfold Obligations.ResetLeaves
  refine ⟨fun x => ?_, fun n => ?_, rfl, rfl, rfl, rfl, rfl, rfl, rfl, fun k n hn => ?_, by decide, rfl, rfl, reset_memories_wf,
    fun k => rfl, rfl, fun a => ⟨rfl, rfl⟩⟩
  · rw [ctx_reset]
    exact ⟨rfl, rfl, rfl, rfl, rfl⟩
  · rw [ctx_reset]
    refine ⟨rfl, ?_, rfl⟩
    unfold Regs.readS
    split <;> rfl
  · rw [reg_reset k hn, sysReg_reset]

end Sys2Proof.Scope
end

section
/-! Writes of supervisor registers (R12, R46, R62, R63, R162, R253, R271, R275, R363, R424). -/

namespace Sys2Proof.Scope

open Sys2Proof.Machine Sys2Proof.Safety Sys2Proof.Laws

/-! ## A second write of a map's key -/

section
variable {α : Type}

theorem erase_erase_same (m : SMap α) (k : Nat) : (m.erase k).erase k = m.erase k := by
  induction m with
  | nil => rfl
  | cons e m ih =>
    obtain ⟨a, v⟩ := e
    by_cases h : a = k <;> simp [SMap.erase, h, ih]

theorem erase_insert_same (m : SMap α) (k : Nat) (v : α) : (SMap.insert m k v).erase k = m.erase k := by
  induction m with
  | nil => simp [SMap.insert, SMap.erase]
  | cons e m ih =>
    obtain ⟨a, u⟩ := e
    by_cases h : k < a
    · simp [SMap.insert, SMap.erase, h]
    · by_cases g : a = k <;> simp [SMap.insert, SMap.erase, h, g, ih]

/-- The last write of a key stands. -/
theorem set_set_same [DecidableEq α] {d : Nat → α} (m : SMap α) (k : Nat) (u v : α) :
    SMap.set d (SMap.set d m k u) k v = SMap.set d m k v := by
  have h : (SMap.set d m k u).erase k = m.erase k := by
    unfold SMap.set
    split <;> simp [erase_insert_same, erase_erase_same]
  unfold SMap.set at *
  rw [h]

end

theorem mig_updMig (s : State) (d : Nat) (f : MigUnit → MigUnit) : (s.updMig d f).mig d = f (s.mig d) := get_set_same ..

/-- Two updates of a die's migration unit are one. -/
theorem updMig_updMig (s : State) (d : Nat) (f g : MigUnit → MigUnit) : (s.updMig d f).updMig d g = s.updMig d fun m => g (f m) := by
  rw [State.updMig, mig_updMig]
  simp only [State.updMig, State.updSvc, SMap.put, set_set_same]

/-! ## Who may write -/

theorem isSup_iff (s : State) (x : Nat) : s.isSup x = true ↔ x < 2048 ∧ (s.ctx x).y.sup = true := by simp [State.isSup]

/-- The events that write a supervisor's register change nothing for any other context (R12, R104). -/
theorem exec_supervisorWrite_refused {s : State} {x : Nat} (h : s.isSup x = false) (n num : Nat) (v : Word) :
    ∀ i ∈ [Instr.synobjWrite x v, .spcfgWrite x v, .cresWrite x n v, .qsetWrite x v, .lregWrite x n v, .pcfgWrite x n v,
      .isscfgWrite x v, .ringRegisterWrite x num v, .tlbinv x v, .migrationStart x v], exec i s = .next s := by
  simp only [List.forall_mem_cons, List.not_mem_nil, false_imp_iff, implies_true, and_true]
  refine ⟨?_, ?_, ?_, ?_, ?_, ?_, ?_, ?_, ?_, ?_⟩
  · change execSynobjWrite x v s = _; simp [execSynobjWrite, h]
  · change execSpcfgWrite x v s = _; simp [execSpcfgWrite, h]
  · change execCresWrite x n v s = _; simp [execCresWrite, h]
  · change execQsetWrite x v s = _; simp [execQsetWrite, h]
  · change execLregWrite x n v s = _; simp [execLregWrite, h]
  · change execPcfgWrite x n v s = _; simp [execPcfgWrite, h]
  · change execIsscfgWrite x v s = _; simp [execIsscfgWrite, h]
  · change execRingRegisterWrite x num v s = _; simp [execRingRegisterWrite, h]
  · change execTlbinv x v s = _; simp [execTlbinv, h]
  · change execMigrationStart x v s = _; simp [execMigrationStart, h]

/-! ## What each write does -/

section
variable {s : State} {x : Nat} (h : s.isSup x = true)
include h

theorem exec_synobjWrite (v : Word) : exec (.synobjWrite x v) s = .next (s.synobjWrite x v) := by
  change execSynobjWrite x v s = _
  rw [execSynobjWrite, if_pos h]

theorem exec_spcfgWrite (v : Word) : exec (.spcfgWrite x v) s = .next (s.setReg (coreOf x) 0x8D0 (v &&& 1#64)) := by
  change execSpcfgWrite x v s = _
  rw [execSpcfgWrite, if_pos h]

theorem exec_cresWrite {n : Nat} (hn : n < 8) (v : Word) : exec (.cresWrite x n v) s = .next (s.setReg 0 (0x8C0 + n) v) := by
  change execCresWrite x n v s = _
  rw [execCresWrite, if_pos (by simp [h, hn])]

theorem exec_qsetWrite (v : Word) : exec (.qsetWrite x v) s = .next (s.qsetWrite v) := by
  change execQsetWrite x v s = _
  rw [execQsetWrite, if_pos h]

theorem exec_lregWrite {n : Nat} (hn : n < 16) (v : Word) : exec (.lregWrite x n v) s = .next (s.lregWrite (dieOf (coreOf x)) n v) := by
  change execLregWrite x n v s = _
  rw [execLregWrite, if_pos (by simp [h, hn])]

theorem exec_pcfgWrite {n : Nat} (hn : n < 16) (v : Word) : exec (.pcfgWrite x n v) s = .next (s.pcfgWrite n v) := by
  change execPcfgWrite x n v s = _
  rw [execPcfgWrite, if_pos (by simp [h, hn])]

theorem exec_tlbinv (v : Word) : exec (.tlbinv x v) s = .next (s.tlbinvWrite (dieOf (coreOf x)) v) := by
  change execTlbinv x v s = _
  rw [execTlbinv, if_pos h]

theorem exec_migrationStart (v : Word) : exec (.migrationStart x v) s = .next (s.migctlWrite (dieOf (coreOf x)) v) := by
  change execMigrationStart x v s = _
  rw [execMigrationStart, if_pos h]

/-- A ring register's number names one ring (R275). -/
theorem exec_ringRegisterWrite {num i : Nat} (hn : (0x850 ≤ num ∧ num < 0x870) ∨ num = 0x890 ∨ num = 0x9B1)
    (hi : s.ringOf x num = some i) (v : Word) : exec (.ringRegisterWrite x num v) s = .next (s.ringWrite i v) := by
  change execRingRegisterWrite x num v s = _
  have hg : (!s.isSup x || !((0x850 ≤ num && num < 0x870) || num == 0x890 || num == 0x9B1)) = false := by
    rcases hn with ⟨h1, h2⟩ | rfl | rfl <;> simp [*]
  simp only [execRingRegisterWrite, hg, hi, Bool.false_eq_true, if_false]

/-- A supervisor's head register names one ring (R275). -/
theorem exec_ringHeadWrite {num i : Nat} (hn : (0x900 ≤ num ∧ num < 0x920) ∨ num = 0x891 ∨ num = 0x9B2)
    (hi : s.ringOf x num = some i) (v : Word) : exec (.ringHeadWrite x num v) s = .next (s.headWrite i v) := by
  change execRingHeadWrite x num v s = _
  have hx := ((isSup_iff s x).mp h).1
  have hg : (!(decide (x < 2048) && ((num == 0x022 || num == 0x023) || (((0x900 ≤ num && num < 0x920) || num == 0x891 || num == 0x9B2) && s.isSup x))))
      = false := by
    rcases hn with ⟨h1, h2⟩ | rfl | rfl <;> simp [*]
  simp only [execRingHeadWrite, hg, hi, Bool.false_eq_true, if_false]

end

/-- A ring register's write is ignored for a LOGN that no ring can have, and waits for the ring to drain otherwise (R275). -/
theorem ringWrite_eq (s : State) (i : Nat) (v : Word) :
    s.ringWrite i v = if bits v 0 5 ≠ 0 ∧ (bits v 0 5 < 7 ∨ 16 < bits v 0 5) then s
      else s.setRing i (Ring.settle { s.ring i with reg := v &&& 0x0FFFFFFFFFFFF01F#64, pending := true }) := by
  rfl

theorem ringOf_fault (s : State) (x : Nat) {num : Nat} (h1 : 0x850 ≤ num) (h2 : num < 0x870) : s.ringOf x num = some (num - 0x850) :=
  if_pos ⟨h1, h2⟩

theorem ringOf_head (s : State) (x : Nat) {num : Nat} (h1 : 0x900 ≤ num) (h2 : num < 0x920) : s.ringOf x num = some (num - 0x900) := by
  unfold State.ringOf
  dsimp only
  rw [if_neg (by omega), if_pos ⟨h1, h2⟩]

/-- Copies in a partition's old launch region go once no replay of it runs on the die (R46). -/
theorem lregWrite_idle {s : State} {d n : Nat} {v w : Word} (hw : w = v &&& 0x8000007FFFFFFFFF#64)
    (h : ∀ r ∈ s.svc.replays, r.die = d → r.part ≠ n) :
    s.lregWrite d n v = (s.setReg d (0x9D0 + n) w).updSvc fun u =>
      { u with copies := u.copies.filter fun c => !(c.die == d && c.part == n) || c.region == w } := by
  have hr : (s.svc.replays.any fun r => r.die == d && r.part == n) = false := by
    simpa using h
  have hg : (s.setReg d (0x9D0 + n) w).reg d (0x9D0 + n) = w := by simp [reg_setReg]
  subst hw
  simp only [State.lregWrite, State.dropCopies, hg]
  exact if_neg (by simp only [setReg_svc, hr]; simp)

theorem lregWrite_running {s : State} {d n : Nat} {v : Word} (h : ∃ r ∈ s.svc.replays, r.die = d ∧ r.part = n) :
    s.lregWrite d n v = s.setReg d (0x9D0 + n) (v &&& 0x8000007FFFFFFFFF#64) := by
  have hr : (s.svc.replays.any fun r => r.die == d && r.part == n) = true := by simpa using h
  exact if_pos hr

/-- PROT is fixed while a context of the partition is placed (R62). -/
theorem pcfgWrite_fixed {s : State} {n : Nat} {v : Word} (hp : (!(s.contextsOf n).isEmpty || s.gangs.any fun g => g.part == n) = true)
    (h : bitAt v 63 ≠ s.protectedPart n) : s.pcfgWrite n v = s :=
  if_pos (by rw [hp]; simpa using h)

theorem pcfgWrite_set {s : State} {n : Nat} {v w : Word} (hw : w = v &&& 0x80FF0000000FFFFF#64)
    (h : (!(s.contextsOf n).isEmpty || s.gangs.any fun g => g.part == n) = false ∨ bitAt v 63 = s.protectedPart n) :
    s.pcfgWrite n v = s.setReg 0 (0x820 + n) (if bits w 0 20 = 0 then w ||| 1#64 else w) := by
  subst hw
  exact if_neg (by rcases h with h | h <;> simp [h])

/-- GO of MIGCTL starts the migration of the page that it names, on an idle unit (R424). -/
theorem migctlWrite_go {s : State} {d : Nat} {v : Word} (hr : (s.mig d).run = none) (hv : bitAt v 60 = true) {space off : Nat}
    (hs : space = if bitAt v 54 then 16 else bits v 50 4) (ho : off = bits v 16 34 * 65536) :
    s.migctlWrite d v = s.updMig d fun m => ⟨toWord (bits v 16 39 * 2 ^ 16), m.dst, 0,
      some (match s.pageLeaf d space off with
        | some (_, e, b) => ⟨space, off / 2 ^ b * 2 ^ b, b, bits e 8 31 * 256, m.dst.toNat⟩
        | none => ⟨space, off, 0, 0, m.dst.toNat⟩), m.held⟩ := by
  subst hs ho
  simp only [State.migctlWrite, hr, hv, spaceNamed, updMig_updMig, Option.isSome_none, Bool.not_true, Bool.false_eq_true, if_false]
  unfold State.updMig
  rfl

/-- Settles O31: a register at a time, by what its write does. -/
theorem supervisorRegisterWrites : Obligations.SupervisorRegisterWrites := by
  unfold Obligations.SupervisorRegisterWrites
  intro s x n num v d sup ring setR ringAt headAt
  refine ⟨fun h => exec_supervisorWrite_refused (Bool.eq_false_iff.mpr (mt (isSup_iff s x).mp h)) n num v, fun h => ?_⟩
  have h : s.isSup x = true := (isSup_iff s x).mpr h
  have fault (i : Nat) (hi : s.ringOf x num = some i) (hn : (0x850 ≤ num ∧ num < 0x870) ∨ num = 0x890 ∨ num = 0x9B1) :
      exec (.ringRegisterWrite x num v) s = ringAt i := by
    rw [exec_ringRegisterWrite h hn hi, ringWrite_eq, apply_ite Host.Outcome.next]
    rfl
  have head (i : Nat) (hi : s.ringOf x num = some i) (hn : (0x900 ≤ num ∧ num < 0x920) ∨ num = 0x891 ∨ num = 0x9B2) :
      exec (.ringHeadWrite x num v) s = headAt i := exec_ringHeadWrite h hn hi v
  refine ⟨?_, exec_spcfgWrite h v, fun hn => exec_cresWrite h hn v, ?_, ?_, ?_, fun h1 h2 => fault _ (ringOf_fault s x h1 h2) (.inl ⟨h1, h2⟩),
    fun hn => fault _ (by rw [hn]; rfl) (.inr (.inl hn)), fun hn => fault _ (by rw [hn]; rfl) (.inr (.inr hn)),
    fun h1 h2 => head _ (ringOf_head s x h1 h2) (.inl ⟨h1, h2⟩), fun hn => head _ (by rw [hn]; rfl) (.inr (.inl hn)),
    fun hn => head _ (by rw [hn]; rfl) (.inr (.inr hn)), exec_tlbinv h v, ?_, ?_⟩
  · rintro _ rfl
    exact exec_synobjWrite h v
  · rintro _ rfl
    rw [exec_qsetWrite h]
    exact ⟨fun he => congrArg Host.Outcome.next (if_pos he), fun he => congrArg Host.Outcome.next (if_neg (by simp [he]))⟩
  · rintro hn w rfl _ rfl
    rw [exec_lregWrite h hn]
    exact ⟨fun hr => congrArg Host.Outcome.next (lregWrite_running hr), fun hr => congrArg Host.Outcome.next (lregWrite_idle rfl hr)⟩
  · intro hn w hw placed hpl
    rw [exec_pcfgWrite h hn]
    refine ⟨fun hp hv => ?_, fun hp => ?_⟩
    · rw [pcfgWrite_fixed (hpl.symm.trans hp) hv]
    · rw [pcfgWrite_set hw (hp.imp_left hpl.symm.trans)]
  · intro hr
    rw [exec_migrationStart h]
    exact congrArg Host.Outcome.next (if_pos (Option.isSome_iff_ne_none.mpr hr))
  · intro hr hv space off hs ho
    exact (exec_migrationStart h v).trans (congrArg Host.Outcome.next (migctlWrite_go hr hv hs ho))

end Sys2Proof.Scope
end

section
/-! Writes of context, partition and queue registers (R12, R38 to R43, R51, R104, R143, R148, R152, R153, R258, R275). -/

namespace Sys2Proof.Scope

open Sys2Proof.Machine Sys2Proof.Safety Sys2Proof.Laws

/-! ## The events of a context's own registers -/

theorem writer_iff (s : State) (x : Nat) : s.writer x = true ↔ x < 2048 ∧ (s.ctx x).st = .running := by simp [State.writer]

/-- A context that does not run writes none of its own registers. -/
theorem exec_contextWrite_refused {s : State} {x : Nat} (h : s.writer x = false) (n num : Nat) (v : Word) :
    ∀ i ∈ [Instr.chcfgWrite x num v, .lcntWrite x n v, .epcWrite x v, .fcrWrite x v], exec i s = .next s := by
  simp only [List.forall_mem_cons, List.not_mem_nil, false_imp_iff, implies_true, and_true]
  refine ⟨?_, ?_, ?_, ?_⟩
  · change execChcfgWrite x num v s = _; simp [execChcfgWrite, h]
  · change execLcntWrite x n v s = _; simp [execLcntWrite, h]
  · change execEpcWrite x v s = _; simp [execEpcWrite, h]
  · change execFcrWrite x v s = _; simp [execFcrWrite, h]

/-- Where R258 forbids a write of CHCFG: a channel in use, a configuration that cannot be, or a buffer outside the window. -/
theorem chcfgBad_iff (s : State) (x n : Nat) (v : Word) : s.chcfgBad x n v = true ↔
    (((s.ctx x).chan n).en = true ∧ ((s.ctx x).chan n).res ≠ ((s.ctx x).chan n).cons) ∨
    (bitAt v 63 = true ∧ (4 < bits v 60 3 ∨ bits v 0 13 = 0 ∨ 2 ^ 20 < bits v 32 20 + 256 * bits v 0 13)) ∨
    (bits v 0 13 ≠ 0 ∧ ¬ ((s.ctx x).y.sup = true ∨ ∃ w, w = s.reg 0 ((if bitAt v 59 then 0x8B0 else 0x8A0) + (s.ctx x).y.part) ∧
      65536 * bits w 0 5 ≤ bits v 32 20 ∧ bits v 32 20 + 256 * bits v 0 13 ≤ 65536 * bits w 8 5)) := by
  simp [State.chcfgBad, State.inWindow, or_assoc, imp_iff_not_or]

theorem lcntBad_iff (s : State) (x n : Nat) (v : Word) :
    s.lcntBad x n v = true ↔ v ≠ 0#64 ∧ bits ((s.ctx x).loopEntry n) 62 2 ≠ 1 := by simp [State.lcntBad]

section
variable {s : State} {x : Nat} (h : s.writer x = true)
include h

theorem exec_chcfgWrite {n : Nat} (hn : n < 8) (v : Word) :
    exec (.chcfgWrite x n v) s = .next (if s.chcfgBad x n v then s.writeIllegal x else s.chcfgWrite x n v) := by
  change execChcfgWrite x n v s = _
  rw [execChcfgWrite, if_neg (by simp [h, hn])]

theorem exec_lcntWrite {n : Nat} (hn : n < 4) (v : Word) :
    exec (.lcntWrite x n v) s = .next (if s.lcntBad x n v then s.writeIllegal x else s.lcntWrite x n v) := by
  change execLcntWrite x n v s = _
  rw [execLcntWrite, if_neg (by simp [h, hn])]

theorem exec_epcWrite (v : Word) : exec (.epcWrite x v) s
    = .next (if (s.ctx x).e.hm then if bits v 0 2 ≠ 0 then s.writeIllegal x else s.epcWrite x v else s) := by
  change execEpcWrite x v s = _
  cases hm : (s.ctx x).e.hm <;> simp [execEpcWrite, h, hm]

theorem exec_fcrWrite (v : Word) : exec (.fcrWrite x v) s
    = .next (s.upd x fun c => { c with f := { c.f with pend := c.f.pend ++ [⟨c.now + 4#64, 0, .fcr 0xFF0F#64 v, none⟩] } }) := by
  change execFcrWrite x v s = _
  rw [execFcrWrite, if_neg (by simp [h]), show fcrMask 15#4 = 0xFF0F#64 by decide]

end

/-- A partition's two ring heads are open to every context of it (R275). -/
theorem exec_ringHeadWrite_own {s : State} {x num i : Nat} (hx : x < 2048)
    (hi : (num = 0x022 ∧ i = (s.ctx x).y.part) ∨ (num = 0x023 ∧ i = 16 + (s.ctx x).y.part)) (v : Word) :
    exec (.ringHeadWrite x num v) s = .next (s.headWrite i v) := by
  change execRingHeadWrite x num v s = _
  rcases hi with ⟨rfl, rfl⟩ | ⟨rfl, rfl⟩ <;> simp [execRingHeadWrite, State.ringOf, hx]

/-! ## REGISTER_WRITE of a context (R12, R104, R148) -/

section
variable {s : State} {x num : Nat} {v : Word}

theorem exec_registerWrite_sys (s : State) (x num : Nat) (v : Word) :
    exec (.registerWrite (.sys x num) v) s = .next (s.regWrite x num v) := rfl

theorem regWrite_refused (h : s.writer x = false ∨ SysReg.open (s.ctx x).y.sup num = false) : s.regWrite x num v = s :=
  if_pos (by rcases h with h | h <;> simp [h])

variable (h : s.writer x = true) (ho : SysReg.open (s.ctx x).y.sup num = true)
include h ho

theorem regWrite_illegal (hb : s.swriteBad x num v = true) : s.regWrite x num v = s.writeIllegal x := by
  rw [State.regWrite, if_neg (by simp [h, ho]), if_pos hb]

theorem regWrite_allowed (hb : s.swriteBad x num v = false) (h2 : num ≠ 0x002) (h19 : num ≠ 0x019) :
    s.regWrite x num v = s.sysWrite x num v := by
  rw [State.regWrite, if_neg (by simp [h, ho]), if_neg (by simp [hb]), if_neg h2, if_neg fun hc => h19 hc.1]

end

/-- STR1 to STR3. -/
theorem sysWrite_str (s : State) (x : Nat) {num : Nat} (h1 : 0x004 ≤ num) (h2 : num ≤ 0x006) (v : Word) :
    s.sysWrite x num v = s.upd x fun c => { c with y := { c.y with str := SMap.put 0#64 c.y.str (num - 3) v } } := by
  interval_cases num <;> rfl

/-- The windows of AB and SP keep LIMIT and BASE (R247). -/
theorem sysWrite_window (s : State) (x : Nat) {num : Nat} (h1 : 0x8A0 ≤ num) (h2 : num < 0x8C0) (v : Word) :
    s.sysWrite x num v = s.setReg 0 num (v &&& 0x1F1F#64) := by
  interval_cases num <;> rfl

/-- The roots of the partitions' page tables on the writer's die (R268). -/
theorem sysWrite_root (s : State) (x : Nat) {num : Nat} (h1 : 0x8E0 ≤ num) (h2 : num < 0x8F0) (v : Word) :
    s.sysWrite x num v = s.setReg (dieOf (coreOf x)) num (v &&& 0x8000007FFFFFC000#64) := by
  interval_cases num <;> rfl

/-! ## Queue pages (R38 to R43) -/

theorem exec_registerWrite_queue (s : State) (q off : Nat) (v : Word) :
    exec (.registerWrite (.queue q off) v) s = .next (s.queueWrite q off v) := rfl

/-- A queue that there is takes the write of each offset of its page. -/
theorem queueWrite_spec (s : State) {q : Nat} (hq : q < 65536) (v : Word) :
    (bitAt v 47 = true → s.queueWrite q 0x008 v = s.updQueue q fun u => { u with cfgerr := false }) ∧
    s.queueWrite q 0x010 v = (s.updQueue q fun u =>
      { u with en := bitAt v 63 && decide (s.svc.boot.stage = 7), ien := bitAt v 62, vec := bits v 0 11 }) ∧
    s.queueWrite q 0x030 v = (s.updQueue q fun u => { u with chead := v.extractLsb' 0 17 }) ∧
    .next (s.queueWrite q 0x000 v) = exec (.kick q v) s ∧ .next (s.queueWrite q 0x018 v) = exec (.qgraphWrite q v) s ∧
    .next (s.queueWrite q 0x020 v) = exec (.qcbaseWrite q v) s ∧ .next (s.queueWrite q 0x028 v) = exec (.qcsizeWrite q v) s := by
  have hq : ¬ 65536 ≤ q := by omega
  exact ⟨fun hv => (if_neg hq).trans (if_pos hv), if_neg hq, if_neg hq, congrArg Host.Outcome.next (if_neg hq),
    congrArg Host.Outcome.next (if_neg hq), congrArg Host.Outcome.next (if_neg hq), congrArg Host.Outcome.next (if_neg hq)⟩

theorem queueWrite_outside (s : State) {q : Nat} (hq : 65536 ≤ q) (off : Nat) (v : Word) : s.queueWrite q off v = s := if_pos hq

/-- QSTAT's fields (R41); the length of the queue of kicks fits its field. -/
theorem stat_toNat {u : Queue} (h : u.pend.length ≤ 64) : u.stat.toNat =
    u.drop.toNat * 2 ^ 48 + boolNat u.cfgerr * 2 ^ 47 + boolNat u.active * 2 ^ 46 + u.pend.length * 2 ^ 32 + u.seq.toNat := by
  have hd := u.drop.isLt
  have hs := u.seq.isLt
  have hc : boolNat u.cfgerr ≤ 1 := by cases u.cfgerr <;> decide
  have ha : boolNat u.active ≤ 1 := by cases u.active <;> decide
  simp only [Queue.stat, toWord, packFields, List.foldl, BitVec.toNat_ofNat]
  omega

/-- QCFG's fields (R40). -/
theorem cfgWord_toNat {u : Queue} (hp : u.part < 16) (hm : u.pmax < 4) (hv : u.vec < 2 ^ 11) :
    u.cfgWord.toNat = boolNat u.en * 2 ^ 63 + boolNat u.ien * 2 ^ 62 + u.part * 2 ^ 40 + u.pmax * 2 ^ 32 + u.vec := by
  have he : boolNat u.en ≤ 1 := by cases u.en <;> decide
  have hi : boolNat u.ien ≤ 1 := by cases u.ien <;> decide
  simp only [Queue.cfgWord, toWord, packFields, List.foldl, BitVec.toNat_ofNat]
  omega

theorem queueRead_other (s : State) (q : Nat) {off : Nat} (h : off ∉ [0x008, 0x010, 0x018, 0x020, 0x028, 0x030]) :
    s.queueRead q off = 0#64 := by
  simp only [List.mem_cons, List.not_mem_nil, or_false, not_or] at h
  obtain ⟨h08, h10, h18, h20, h28, h30⟩ := h
  rw [State.queueRead] <;> assumption

/-- PSTAT's fields (R51). -/
theorem partRead_toNat (s : State) (n : Nat) : (s.partRead n 0x008).toNat =
    boolNat (s.partBusy n) * 2 ^ 63 + boolNat (bitAt (s.reg 0 0x882) n) * 2 ^ 62 + (SMap.at 0#32 s.fltcnt n).toNat := by
  have hf := (SMap.at 0#32 s.fltcnt n).isLt
  have hb : boolNat (s.partBusy n) ≤ 1 := by cases s.partBusy n <;> decide
  have hh : boolNat (bitAt (s.reg 0 0x882) n) ≤ 1 := by cases bitAt (s.reg 0 0x882) n <;> decide
  simp only [State.partRead, toWord, packFields, List.foldl, BitVec.toNat_ofNat]
  omega

/-- Settles O33: a register at a time. -/
theorem registerWrites : Obligations.RegisterWrites := by
  unfold Obligations.RegisterWrites
  refine ⟨fun s x n num v hx hn => ?_, fun s x num q n off v => ?_⟩
  · intro c h size base outside bad illegal
    refine ⟨fun hst => exec_contextWrite_refused (Bool.eq_false_iff.mpr fun hw => hst ((writer_iff s x).mp hw).2) n num v, fun hst => ?_,
      fun i hi => exec_ringHeadWrite_own hx hi v⟩
    have hw : s.writer x = true := (writer_iff s x).mpr ⟨hx, hst⟩
    refine ⟨fun h8 hb => ?_, fun h8 hb => ?_, fun hv hk => ?_, fun hv => ?_, fun hm => ?_, fun hm hv => ?_, fun hm hv => ?_, exec_fcrWrite hw v⟩
    · rw [exec_chcfgWrite hw h8, if_pos ((chcfgBad_iff s x num v).mpr hb)]; rfl
    · rw [exec_chcfgWrite hw h8, if_neg (mt (chcfgBad_iff s x num v).mp hb)]; rfl
    · rw [exec_lcntWrite hw hn, if_pos ((lcntBad_iff s x n v).mpr ⟨hv, hk⟩)]; rfl
    · rw [exec_lcntWrite hw hn, if_neg (mt (lcntBad_iff s x n v).mp fun hb => hv.elim hb.1 hb.2)]; rfl
    · rw [exec_epcWrite hw, if_neg (Bool.eq_false_iff.mp hm)]
    · rw [exec_epcWrite hw, if_pos hm, if_pos hv]; rfl
    · rw [exec_epcWrite hw, if_pos hm, if_neg (not_not.mpr hv)]; rfl
  · intro c wr runs
    have hw : runs ↔ s.writer x = true := (writer_iff s x).symm
    refine ⟨fun hr => ?_, fun hr ho => ⟨fun hb => ?_, fun hb => ?_⟩, ?_, fun hq => ?_, fun hq => ?_, ?_, partRead_toNat s n, fun hn hv => ?_⟩
    · rw [hw, Bool.not_eq_true] at hr
      exact congrArg Host.Outcome.next (regWrite_refused hr)
    · exact congrArg Host.Outcome.next (regWrite_illegal (hw.mp hr) ho hb)
    · have lands (h2 : num ≠ 0x002) (h19 : num ≠ 0x019) {t : State} (ht : s.sysWrite x num v = t) : wr t :=
        congrArg Host.Outcome.next ((regWrite_allowed (hw.mp hr) ho hb h2 h19).trans ht)
      refine ⟨?_, ?_, fun h1 h2 => lands (by omega) (by omega) (sysWrite_str s x h1 h2 v), ?_, ?_, ?_, ?_,
        fun h1 h2 => lands (by omega) (by omega) (sysWrite_window s x h1 h2 v),
        fun h1 h2 => lands (by omega) (by omega) (sysWrite_root s x h1 h2 v)⟩ <;>
      · rintro rfl
        exact lands (by decide) (by decide) rfl
    · rintro hq pg rfl
      obtain ⟨h08, h10, h30, h00, h18, h20, h28⟩ := queueWrite_spec s hq v
      exact ⟨fun hv => congrArg Host.Outcome.next (h08 hv), congrArg Host.Outcome.next h10, congrArg Host.Outcome.next h30, h00, h18, h20, h28⟩
    · exact congrArg Host.Outcome.next (queueWrite_outside s hq off v)
    · exact congrArg Host.Outcome.next (if_pos hq)
    · rintro u rfl hl hp hm hv
      exact ⟨stat_toNat hl, cfgWord_toNat hp hm hv, rfl, rfl, rfl, rfl, queueRead_other s q⟩
    · exact congrArg Host.Outcome.next (if_pos ⟨rfl, hv, hn⟩)

end Sys2Proof.Scope
end

section
/-! The issue slot and the issue of a bundle (R116, R122 to R124, R126, R400, R434, R466). -/

namespace Sys2Proof.Scope

open Sys2Proof.Machine Sys2Proof.Safety Sys2Proof.Laws

/-! ## Who owns a slot, and who goes before the owner (R122, R123) -/

theorem coreOf_context {k i : Nat} (hk : k < 512) (hi : i < 4) : coreOf (4 * k + i) = k := by
  rw [coreOf, if_pos (by omega)]
  omega

theorem slotOwner_iff (s : State) (k x : Nat) :
    s.slotOwner k = some x ↔ 1 ≤ (s.core k).owner ∧ (s.core k).owner ≤ 4 ∧ x = 4 * k + ((s.core k).owner - 1) := by
  unfold State.slotOwner
  dsimp only
  split
  · rw [Option.some_inj]; omega
  · simp only [reduceCtorEq, false_iff]; omega

theorem mustYield_iff (s : State) (x : Nat) : s.mustYield x = true ↔
    ∃ j, j < 4 ∧ 4 * coreOf x + j ≠ x ∧ (s.ctx (4 * coreOf x + j)).y.sup = true ∧
      ((s.ctx x).y.sup = false ∨ 4 * coreOf x + j < x) ∧ s.ready (4 * coreOf x + j) = true := by
  simp [State.mustYield, and_assoc]

/-- The owner with index `i` keeps the slot of core `k` while no supervisor that goes before it is ready. -/
theorem mustYield_eq_false {s : State} {k i : Nat} (hk : k < 512) (hi : i < 4) : s.mustYield (4 * k + i) = false ↔
    ∀ j, j < 4 → j ≠ i → (s.ctx (4 * k + j)).y.sup = true → ((s.ctx (4 * k + i)).y.sup = true → j < i) →
      s.ready (4 * k + j) = false := by
  rw [Bool.eq_false_iff, ne_eq, mustYield_iff, coreOf_context hk hi]
  constructor
  · intro h j hj hji hs ho
    by_contra hr
    refine h ⟨j, hj, by omega, hs, ?_, by simpa using hr⟩
    cases hsi : (s.ctx (4 * k + i)).y.sup
    · exact .inl rfl
    · exact .inr (by have := ho hsi; omega)
  · rintro h ⟨j, hj, hji, hs, ho, hr⟩
    refine Bool.eq_false_iff.mp (h j hj (by omega) hs fun hsi => ?_) hr
    rcases ho with ho | ho
    · simp [hsi] at ho
    · omega

/-! ## The next owner (R123) -/

theorem nextOwner_supervisor {s : State} {k j : Nat} (hj : j < 4) (hs : (s.ctx (4 * k + j)).y.sup = true)
    (hr : s.ready (4 * k + j) = true)
    (hf : ∀ i, i < j → ¬ ((s.ctx (4 * k + i)).y.sup = true ∧ s.ready (4 * k + i) = true)) : s.nextOwner k = some j := by
  have h : ((List.range 4).find? fun j => (s.ctx (4 * k + j)).y.sup && s.ready (4 * k + j)) = some j := by
    rw [List.find?_range_eq_some]
    exact ⟨by simp [hs, hr], List.mem_range.mpr hj, fun i hi => by simpa only [Bool.not_eq_true', Bool.and_eq_true, Bool.eq_false_iff, ne_eq] using hf i hi⟩
  simp only [State.nextOwner, h]

/-- Without a ready supervisor the search goes round from the old owner. -/
theorem nextOwner_round {s : State} {k : Nat} (h : ∀ j, j < 4 → (s.ctx (4 * k + j)).y.sup = true → s.ready (4 * k + j) = false) :
    s.nextOwner k = ((List.range 4).find? fun i => s.ready (4 * k + ((s.core k).oldOwner + (i + 1)) % 4)).map fun i =>
      ((s.core k).oldOwner + (i + 1)) % 4 := by
  have hn : ((List.range 4).find? fun j => (s.ctx (4 * k + j)).y.sup && s.ready (4 * k + j)) = none := by
    rw [List.find?_eq_none]
    intro j hj
    simpa using h j (List.mem_range.mp hj)
  simp only [State.nextOwner, hn]
  exact List.find?_map (f := fun i => ((s.core k).oldOwner + (i + 1)) % 4) (l := List.range 4) ..

theorem nextOwner_first {s : State} {k n : Nat} (h : ∀ j, j < 4 → (s.ctx (4 * k + j)).y.sup = true → s.ready (4 * k + j) = false)
    (h1 : 1 ≤ n) (h4 : n ≤ 4) (hr : s.ready (4 * k + ((s.core k).oldOwner + n) % 4) = true)
    (hf : ∀ i, 1 ≤ i → i < n → s.ready (4 * k + ((s.core k).oldOwner + i) % 4) = false) :
    s.nextOwner k = some (((s.core k).oldOwner + n) % 4) := by
  obtain ⟨m, rfl⟩ : ∃ m, n = m + 1 := ⟨n - 1, by omega⟩
  have hm : ((List.range 4).find? fun i => s.ready (4 * k + ((s.core k).oldOwner + (i + 1)) % 4)) = some m := by
    rw [List.find?_range_eq_some]
    exact ⟨hr, List.mem_range.mpr (by omega), fun i hi => by simp [hf (i + 1) (by omega) (by omega)]⟩
  rw [nextOwner_round h, hm, Option.map_some]

theorem nextOwner_nobody {s : State} {k : Nat} (h : ∀ j, j < 4 → s.ready (4 * k + j) = false) : s.nextOwner k = none := by
  rw [nextOwner_round fun j hj _ => h j hj, Option.map_eq_none_iff, List.find?_eq_none]
  intro i _
  simp [h _ (Nat.mod_lt _ (by decide))]

/-! ## Giving up the slot, and the charge for it (R123, R434) -/

@[simp] theorem core_setCtx (s : State) (a k : Nat) (c : Ctx) : (s.setCtx a c).core k = s.core k := by
  unfold State.setCtx; split <;> rfl

@[simp] theorem core_chargeSlot (s : State) (k j : Nat) : (s.chargeSlot k).core j = s.core j := by
  unfold State.chargeSlot
  split
  · exact core_setCtx ..
  · rfl

theorem freeSlot_owner {s : State} {x : Nat} (h : s.slotOwner (coreOf x) = some x) :
    s.freeSlot x = (s.chargeSlot (coreOf x)).updCore (coreOf x) fun c => { c with owner := 5 + x % 4 } := if_pos h

/-- The charge of the issuing agent for its own slot changes its energy alone, and a free value may be used. -/
theorem chargeSlot_issuer {s : State} {k : Nat} (h : s.slotOwner k = some s.who) : ∃ e n w,
    s.chargeSlot k = { s with c := { s.c with y := { s.c.y with energy := e } }, tick := n, clock := w } := by
  unfold State.chargeSlot
  split
  next x hx =>
    have hw : x = s.who := by
      split at hx
      · cases hx
      · exact Option.some_inj.mp (hx.symm.trans h)
    subst hw
    simp only [State.upd, State.setCtx, State.ctx, if_true]
    exact ⟨_, _, _, rfl⟩
  next => exact ⟨_, _, _, rfl⟩

/-- A stalled bundle changes two registers of its context's system state, its core's slot, which it gives up, and may leave a
request for the lease; nothing else (R116, R123, R307). -/
theorem stalled_spec {s : State} (h : s.slotOwner (coreOf s.who) = some s.who) (why : Nat × Nat × Word) (l : Bool) :
    (s.stalled why l).slotOwner (coreOf s.who) = none ∧ ∃ e n w g k, s.stalled why l
      = { s with c := { s.c with y := { s.c.y with tokWait := why.1 == 1, energy := e } }, tick := n, clock := w,
                 griddles := g, cores := k } := by
  have gives {t : State} (ht : t.slotOwner (coreOf t.who) = some t.who) : (t.freeSlot t.who).slotOwner (coreOf t.who) = none ∧
      ∃ e n w k, t.freeSlot t.who
        = { t with c := { t.c with y := { t.c.y with energy := e } }, tick := n, clock := w, cores := k } := by
    obtain ⟨e, n, w, hc⟩ := chargeSlot_issuer ht
    rw [freeSlot_owner ht]
    constructor
    · rw [State.slotOwner, core_updCore, if_pos rfl, if_neg (by dsimp only; omega)]
    · rw [hc]; exact ⟨e, n, w, _, rfl⟩
  unfold State.stalled
  cases l
  · obtain ⟨ho, e, n, w, k, hs⟩ := gives (t := s.sys fun y => { y with tokWait := why.1 == 1 }) h
    exact ⟨ho, e, n, w, _, k, hs⟩
  · obtain ⟨ho, e, n, w, k, hs⟩ := gives
      (t := (s.updGriddle (coreOf s.who) fun g => { g with requesting := true }).sys fun y => { y with tokWait := why.1 == 1 }) h
    exact ⟨ho, e, n, w, _, k, hs⟩

/-- What a stalled bundle of context `x` leaves of the machine in which it was to issue. -/
theorem stalled_leaves {s u : State} {x : Nat} (hu : u = { s with who := x, c := u.c, parked := u.parked })
    (ho : s.slotOwner (coreOf x) = some x) (why : Nat × Nat × Word) (l : Bool) :
    let v := (u.stalled why l).issued
    v.c.r = u.c.r ∧ v.c.f = u.c.f ∧ v.c.e = u.c.e ∧ v.c.y = { u.c.y with tokWait := why.1 == 1, energy := v.c.y.energy } ∧
      v.slotOwner (coreOf x) = none ∧ v.ops = s.ops ∧ v.cmds = s.cmds ∧ SameMemory s v := by
  have hw : u.who = x := by rw [hu]
  have huo : u.slotOwner (coreOf u.who) = some u.who := by rw [hu]; exact ho
  obtain ⟨hn, e, n, w, g, k, hs⟩ := stalled_spec huo why l
  rw [hw] at hn
  have hops : u.ops = s.ops ∧ u.cmds = s.cmds := by rw [hu]; exact ⟨rfl, rfl⟩
  have hmem : SameMemory s u := by rw [hu]; exact fun a => ⟨rfl, rfl, rfl, rfl, rfl⟩
  refine ⟨?_, ?_, ?_, ?_, hn, ?_, ?_, ?_⟩ <;> rw [hs]
  exacts [rfl, rfl, rfl, rfl, hops.1, hops.2, hmem]

/-! ## ISSUE_SLOT_CHANGE and QUANTUM_EXPIRY (R123, R126) -/

section
variable {s : State} {k : Nat} (hk : k < 512)
include hk

theorem exec_issueSlotChange_keeps {x : Nat} (ho : s.slotOwner k = some x) (hr : s.ready x = true) (hy : s.mustYield x = false) :
    exec (.issueSlotChange k) s = .next s := by
  change execIssueSlotChange k s = _
  simp [execIssueSlotChange, Nat.not_le.mpr hk, ho, hr, hy]

/-- Any other slot goes to the next owner, or is free and remembers the old one. -/
theorem exec_issueSlotChange_changes (hc : ∀ x, s.slotOwner k = some x → s.ready x = true → s.mustYield x = true) :
    exec (.issueSlotChange k) s = .next ((s.chargeSlot k).updCore k fun c => (s.nextOwner k).elim
      { c with owner := 5 + (s.core k).oldOwner } fun j =>
      { c with owner := 1 + j, swcnt := if j = (s.core k).oldOwner then c.swcnt else c.swcnt + 1#32 }) := by
  change execIssueSlotChange k s = _
  have hk : ¬ 512 ≤ k := Nat.not_le.mpr hk
  have changes : execIssueSlotChange k s = .next ((s.chargeSlot k).updCore k fun c => (s.nextOwner k).elim
      { c with owner := 5 + c.oldOwner } fun j => { c with owner := 1 + j, swcnt := if j = c.oldOwner then c.swcnt else c.swcnt + 1#32 }) := by
    cases ho : s.slotOwner k with
    | none => cases hn : s.nextOwner k <;> simp [execIssueSlotChange, hk, ho, hn]
    | some x =>
      have hx : (s.ready x && !s.mustYield x) = false := by
        cases hr : s.ready x
        · rfl
        · simp [hc x ho hr]
      cases hn : s.nextOwner k <;> simp [execIssueSlotChange, hk, ho, hx, hn]
  rw [changes]
  simp only [State.updCore, core_chargeSlot]

end

/-- A quantum frees the slot only for another ready context (R123). -/
theorem exec_quantumExpiry_freed {s : State} {k i : Nat} (hk : k < 512) (hi : i < 4) (ho : s.slotOwner k = some (4 * k + i))
    (hq : bits (s.reg k 0x800) 16 16 ≠ 0) (hr : ∃ j, j < 4 ∧ j ≠ i ∧ s.ready (4 * k + j) = true) :
    exec (.quantumExpiry k) s = .next ((s.chargeSlot k).updCore k fun c => { c with owner := 5 + i }) := by
  have ha : ((List.range 4).any fun j => decide (4 * k + j ≠ 4 * k + i) && s.ready (4 * k + j)) = true := by simpa using hr
  have hf : s.freeSlot (4 * k + i) = (s.chargeSlot k).updCore k fun c => { c with owner := 5 + i } := by
    rw [freeSlot_owner (by rw [coreOf_context hk hi, ho]), coreOf_context hk hi, show (4 * k + i) % 4 = i by omega]
  change execQuantumExpiry k s = _
  simp only [execQuantumExpiry, ho]
  rw [if_pos (by simp only [ha, hq, bne_iff_ne, ne_eq, not_false_eq_true, Bool.and_true]), hf]

theorem exec_quantumExpiry_keeps {s : State} {k : Nat} (h : ∀ x, s.slotOwner k = some x → bits (s.reg k 0x800) 16 16 ≠ 0 →
    ∀ j, j < 4 → 4 * k + j ≠ x → s.ready (4 * k + j) = false) : exec (.quantumExpiry k) s = .next s := by
  change execQuantumExpiry k s = _
  cases ho : s.slotOwner k with
  | none => simp only [execQuantumExpiry, ho]
  | some x =>
    simp only [execQuantumExpiry, ho]
    rw [if_neg]
    simpa using h x ho

/-! ## BUNDLE_ISSUE (R116, R122, R123, R400, R466) -/

theorem exec_bundleIssue_idle {s : State} {x : Nat} (h : s.runnable x = false ∨ s.slotOwner (coreOf x) ≠ some x) :
    exec (.bundleIssue x) s = .next s := by
  change execBundleIssue x s = _
  rw [execBundleIssue, if_pos (by rcases h with h | h <;> simp [h])]

section
variable {s : State} {x : Nat} (hr : s.runnable x = true) (ho : s.slotOwner (coreOf x) = some x)
include hr ho

theorem exec_bundleIssue_yields (hy : s.mustYield x = true) : exec (.bundleIssue x) s = .next (s.freeSlot x) := by
  change execBundleIssue x s = _
  rw [execBundleIssue, if_neg (by simp [hr, ho]), if_pos hy]

theorem exec_bundleIssue_issues (hy : s.mustYield x = false) : exec (.bundleIssue x) s = .next ((s.focus x).issueNext).issued := by
  change execBundleIssue x s = _
  rw [execBundleIssue, if_neg (by simp [hr, ho]), if_neg (by simp [hy])]

end

section
variable {t : State}

theorem issueNext_event {k : TrapKind} {info : Word} (h : t.eventNow = some (k, info)) : t.issueNext = t.takeEvent k info := by
  simp only [State.issueNext, h]

variable (h : t.eventNow = none) {u : State} (hu : u = { t with c := { t.c with e := t.c.e.dropThrottle } })
include h hu

theorem issueNext_stall {why : Nat × Nat × Word} {l : Bool} (ha : u.attempt = .stall why l) : t.issueNext = u.stalled why l := by
  simp only [State.issueNext, h, ← hu, ha]

theorem issueNext_stop {p : Stop} (ha : u.attempt = .stop p) :
    t.issueNext = (u.noticeFetch.stopping.takeStop p).upd t.who fun c => { c with y := { c.y with tokWait := false, hung := false } } := by
  simp only [State.issueNext, h, ← hu, ha]

theorem issueNext_uncorr (ha : u.attempt = .uncorr) : exec (.uncorr t.who) u = .next t.issueNext := by
  simp only [State.issueNext, h, ← hu, ha]
  rfl

theorem issueNext_redone {w : State} (ha : u.attempt = .redone w) :
    t.issueNext = w.leaseCommit.sys fun y => { y with tokWait := false, hung := false } := by
  simp only [State.issueNext, h, ← hu, ha]

theorem issueNext_commit {w : State} {b : Bundle} (ha : u.attempt = .commit w b) :
    t.issueNext = (w.noticeFetch.commitBundle b).settle.afterCommit w.issue.after := by
  simp only [State.issueNext, h, ← hu, ha]

end

theorem focus_frame (s : State) (a : Nat) :
    s.focus a = { s with who := a, c := (s.focus a).c, parked := (s.focus a).parked } := by
  unfold State.focus
  split
  next h => subst h; rfl
  next => rfl

/-- Settles O41. The owner of core `k`'s slot has the index `owner - 1`; the slot's rules are said of it, and BUNDLE_ISSUE's of the
outcome of the owner's attempt. -/
theorem slotsAndBundlesIssue : Obligations.SlotsAndBundlesIssue := by
  unfold Obligations.SlotsAndBundlesIssue
  refine ⟨fun s k hk => ?_, fun s x => ?_⟩
  · intro u old ready sup keeps taken
    have hold : (s.core k).oldOwner = old := rfl
    have owner {x : Nat} (h : s.slotOwner k = some x) : 1 ≤ u.owner ∧ u.owner ≤ 4 ∧ x = 4 * k + (u.owner - 1) := (slotOwner_iff s k x).mp h
    have owned (h1 : 1 ≤ u.owner) (h4 : u.owner ≤ 4) : s.slotOwner k = some (4 * k + (u.owner - 1)) := (slotOwner_iff s k _).mpr ⟨h1, h4, rfl⟩
    refine ⟨fun ⟨h1, h4, hr, hy⟩ => ?_, fun hk' => ?_, fun h1 h4 hq hr => ?_, fun hq => ?_⟩
    · exact exec_issueSlotChange_keeps hk (owned h1 h4) hr ((mustYield_eq_false hk (by omega)).mpr hy)
    · have changes := exec_issueSlotChange_changes (s := s) hk fun x ho hr => by
        obtain ⟨h1, h4, rfl⟩ := owner ho
        by_contra hy
        exact hk' ⟨h1, h4, hr, (mustYield_eq_false hk (by omega)).mp (by simpa using hy)⟩
      rw [hold] at changes
      refine ⟨fun j hj hs hr hf => ?_, fun hs => ⟨fun n h1 h4 hr hf => ?_, fun hn => ?_⟩⟩
      · rw [changes, nextOwner_supervisor hj hs hr hf]; rfl
      · rw [changes, nextOwner_first hs h1 h4 hr hf]; rfl
      · rw [changes, nextOwner_nobody hn]; rfl
    · exact exec_quantumExpiry_freed hk (by omega) (owned h1 h4) hq hr
    · refine exec_quantumExpiry_keeps fun x ho hb j hj hjx => ?_
      obtain ⟨h1, h4, rfl⟩ := owner ho
      rcases hq with hq | hq | hq | hq
      · exact absurd hq hb
      · omega
      · omega
      · exact hq j hj (by omega)
  · intro t
    refine ⟨exec_bundleIssue_idle, ?_⟩
    intro yields
    have hy : s.mustYield x = true ↔ yields := mustYield_iff s x
    refine ⟨fun hr ho hyi => ?_, fun hr ho hyi => ?_⟩
    · rw [exec_bundleIssue_yields hr ho (hy.mpr hyi), freeSlot_owner ho]
    · rw [exec_bundleIssue_issues hr ho (Bool.eq_false_iff.mpr (mt hy.mp hyi))]
      refine ⟨fun k info he => by rw [issueNext_event he], fun he u hu => ?_⟩
      have hw : t.who = x := who_focus s x
      refine ⟨fun p ha => ?_, fun ha => ⟨t.issueNext, ?_, rfl⟩, fun w b ha => ?_,
        fun w ha => ?_, fun why l ha => ⟨_, rfl, ?_⟩⟩
      · rw [issueNext_stop he hu ha, hw]
      · rw [← hw, issueNext_uncorr he hu ha]
      · rw [issueNext_commit he hu ha]
      · rw [issueNext_redone he hu ha]
      · rw [issueNext_stall he hu ha]
        exact stalled_leaves (by rw [hu, show t = _ from focus_frame s x]) ho why l

end Sys2Proof.Scope
end

section
/-! What landings and releases change, and what they leave (R10, R111, R113, R153, R156, R254, R273, R342, R343, R348, R466). -/

namespace Sys2Proof.Scope

open Sys2Proof.Machine Sys2Proof.Safety Sys2Proof.Laws

/-! ## Poison changes of POIS (R156) -/

theorem poisS_setPois (r : Regs) (n m : Nat) (on : Bool) :
    (r.setPois 0 n on).poisS m = if m = n ∧ n ≠ 0 then on else r.poisS m := by
  unfold Regs.setPois Regs.poisS
  by_cases hn : n = 0 <;> by_cases hm : m = 0 <;> simp [hn, hm, get_set]
  subst hm; intro h; exact absurd h.symm hn

theorem poisP_setPois (r : Regs) (n m : Nat) (on : Bool) :
    (r.setPois 2 n on).poisP m = if m = n ∧ n ≠ 0 then on else r.poisP m := by
  unfold Regs.setPois Regs.poisP
  by_cases hn : n = 0 <;> by_cases hm : m = 0 <;> simp [hn, hm, get_set]
  subst hm; intro h; exact absurd h.symm hn

theorem readV_setPois (r : Regs) (n m : Nat) (on : Bool) :
    (r.setPois 1 n on).readV m = ⟨(r.readV m).v, if m = n then (if on then 15#4 else 0#4) else (r.readV m).p⟩ := by
  simp [Regs.setPois, Regs.readV, get_set]

theorem readS_setPois (r : Regs) (k n m : Nat) (on : Bool) : (r.setPois k n on).readS m = r.readS m := by
  unfold Regs.setPois
  split
  · rfl
  · split
    · rfl
    · split <;> rfl

/-! ## Errors that a write finds in one memory (R466) -/

@[simp] theorem bank_setBank (s : State) (m : MemKind) (b : Bank) : (s.setBank m b).bank m = b := by cases m <;> rfl

/-- The second state is the first one after an access has found errors of memory `m`: marks of units with an uncorrectable error
may be new there, and error counts; no mark goes. -/
structure Finds (m : MemKind) (s t : State) : Prop where
  frame : ∃ p q e, t = { s.setBank m { s.bank m with pois := p } with spSeen := q, svc := { s.svc with errs := e } } ∧
    (m ≠ .sp → q = s.spSeen)
  found : ∀ u, SMap.at false (t.bank m).pois u = true → SMap.at false (s.bank m).pois u = true ∨ (s.bank m).worn m.shift u 2 = true
  kept : ∀ u, SMap.at false (s.bank m).pois u = true → SMap.at false (t.bank m).pois u = true

/-- Counts alone leave every mark. -/
theorem Finds.of_counts {m : MemKind} {s : State} (q : SMap Bool) (e : SMap ErrCount) (hq : m ≠ .sp → q = s.spSeen) :
    Finds m s { s with spSeen := q, svc := { s.svc with errs := e } } := by
  refine ⟨⟨(s.bank m).pois, q, e, by cases m <;> rfl, hq⟩, fun u h => .inl ?_, fun u h => ?_⟩ <;> cases m <;> exact h

theorem Finds.refl (m : MemKind) (s : State) : Finds m s s := .of_counts s.spSeen s.svc.errs fun _ => rfl

theorem worn_setBank_pois (s : State) (m : MemKind) (p : SMap Bool) (q : SMap Bool) (e : SMap ErrCount) (u n : Nat) :
    (({ s.setBank m { s.bank m with pois := p } with spSeen := q, svc := { s.svc with errs := e } } : State).bank m).worn m.shift u n
      = (s.bank m).worn m.shift u n := by cases m <;> rfl

theorem Finds.trans {m : MemKind} {s t u : State} (h : Finds m s t) (g : Finds m t u) : Finds m s u := by
  obtain ⟨⟨p, q, e, rfl, hq⟩, hf, hk⟩ := h
  obtain ⟨⟨p', q', e', rfl, hq'⟩, gf, gk⟩ := g
  refine ⟨⟨p', q', e', by cases m <;> rfl, fun hm => (hq' hm).trans (hq hm)⟩, fun x hx => ?_, fun x hx => gk x (hk x hx)⟩
  rcases gf x hx with hx | hx
  · exact hf x hx
  · rw [worn_setBank_pois] at hx
    exact .inr hx

theorem finds_countUE (m : MemKind) (s : State) (r n : Nat) (a : Word) : Finds m s (s.countUE r n a) := by
  unfold State.countUE
  split
  · exact .refl m s
  · exact .of_counts s.spSeen _ fun _ => rfl

theorem finds_countCE (m : MemKind) (s : State) (r : Nat) (a : Word) : Finds m s (s.countCE r a) := .of_counts s.spSeen _ fun _ => rfl

theorem finds_countSeen (s : State) (i k : Nat) : Finds .sp s (s.countSeen i k) := by
  unfold State.countSeen
  split
  · exact .refl .sp s
  · exact .of_counts _ _ fun h => absurd rfl h

/-- The mark of a unit with an uncorrectable error, set beside its count. -/
theorem Finds.mark {m : MemKind} {s t : State} (h : Finds m s t) {u : Nat} (hw : (s.bank m).worn m.shift u 2 = true) :
    Finds m s (t.setBank m { s.bank m with pois := SMap.put false (s.bank m).pois u true }) := by
  have hp : ∀ x, SMap.at false ((t.setBank m { s.bank m with pois := SMap.put false (s.bank m).pois u true }).bank m).pois x
      = if x = u then true else SMap.at false (s.bank m).pois x := fun x => by
    rw [bank_setBank]
    exact get_set (s.bank m).pois u x true
  obtain ⟨p, q, e, rfl, hq⟩ := h.frame
  refine ⟨⟨SMap.put false (s.bank m).pois u true, q, e, by cases m <;> rfl, hq⟩, fun x hx => ?_, fun x hx => ?_⟩
  · rw [hp] at hx
    by_cases hxu : x = u
    · exact .inr (hxu ▸ hw)
    · exact .inl (by simpa [hxu] using hx)
  · rw [hp, hx, ite_self]

theorem finds_unit (s : State) (m : MemKind) (k n u : Nat) : Finds m s (s.noticeUnit m k n u) := by
  unfold State.noticeUnit
  dsimp only
  split
  · exact .refl m s
  · split
    next hw =>
      split
      next hr =>
        have hm : m = .sp := by simp at hr; exact hr.1
        subst hm
        unfold State.noticeRebuilt
        dsimp only
        split
        · exact (finds_countSeen s u _).trans (finds_countCE .sp _ _ _)
        · exact finds_countSeen s u _
      next =>
        refine Finds.mark ?_ hw
        split
        next hm => subst hm; exact finds_countSeen s u _
        next => exact finds_countUE m s _ 1 _
    next =>
      split
      · exact finds_countCE m s _ _
      · exact .refl m s

theorem finds_notice (s : State) (m : MemKind) (k n : Nat) : Finds m s (s.notice m k n) := by
  unfold State.notice
  split
  · exact .refl m s
  · exact List.foldlRecOn _ _ (.refl m s) fun t h u _ => h.trans (finds_unit t m k n u)

theorem finds_noticeEdges (s : State) (m : MemKind) (k n : Nat) : Finds m s (s.noticeEdges m k n) := by
  have one {t : State} (p : Prop) [Decidable p] (a w : Nat) (h : Finds m s t) : Finds m s (if p then t else t.notice m a w) := by
    split
    · exact h
    · exact h.trans (finds_notice t m a w)
  unfold State.noticeEdges
  dsimp only
  split
  · exact .refl m s
  · split
    · exact one _ _ _ (.refl m s)
    · exact one _ _ _ (one _ _ _ (.refl m s))

/-- A memory without wrong bits shows no error. -/
theorem noticeEdges_clean {s : State} {m : MemKind} (h : (s.bank m).flips = []) (k n : Nat) : s.noticeEdges m k n = s := by
  unfold State.noticeEdges
  dsimp only
  rw [if_pos (by simp [h])]

/-- Bringing the parity words up to date changes their errors and the counts alone (R253). -/
theorem noticeParity_frame (s : State) (k n : Nat) : ∃ q f e,
    s.noticeParity k n = { s with spSeen := q, parFlips := f, svc := { s.svc with errs := e } } := by
  unfold State.noticeParity
  split
  · exact ⟨_, _, _, rfl⟩
  · have counted : ∀ l : List (Nat × List Nat), ∃ q e, l.foldl (fun t e =>
        if e.2.length = 1 then t.countCE (MemKind.sp.record (64 * (8 * (e.1 / 8)))) (MemKind.sp.addr (64 * (8 * (e.1 / 8))))
        else t.countSeen (2 ^ 40 + e.1) (64 * (8 * (e.1 / 8)))) s = { s with spSeen := q, svc := { s.svc with errs := e } } := by
      refine fun l => List.foldlRecOn (motive := fun t => ∃ q e, t = { s with spSeen := q, svc := { s.svc with errs := e } }) _ _ ⟨_, _, rfl⟩ ?_
      rintro _ ⟨q, e, rfl⟩ x _
      dsimp only
      split
      · exact ⟨_, _, rfl⟩
      · unfold State.countSeen
        split <;> exact ⟨_, _, rfl⟩
    dsimp only
    obtain ⟨q, e, h⟩ := counted (s.parFlips.filter fun e => (unitsOf 3 k n).any fun w => parityGroup (w / 8) * 8 + w % 8 == e.1)
    rw [h]
    exact ⟨q, _, e, rfl⟩

theorem noticeParity_clean {s : State} (h : s.parFlips = []) (k n : Nat) : s.noticeParity k n = s := by
  unfold State.noticeParity
  rw [if_pos (by simp [h])]

/-! ## Stores of AB and SP (R113, R254, R273, R348) -/

theorem mem_unitsOf {shift a n u : Nat} : u ∈ unitsOf shift a n ↔ n ≠ 0 ∧ a / 2 ^ shift ≤ u ∧ u ≤ (a + n - 1) / 2 ^ shift := by
  unfold unitsOf
  by_cases hn : n = 0
  · simp [hn]
  · have hle : a / 2 ^ shift ≤ (a + n - 1) / 2 ^ shift := Nat.div_le_div_right (by omega)
    simp only [hn, if_false, List.mem_map, List.mem_range, ne_eq, not_false_eq_true, true_and]
    exact ⟨fun ⟨i, hi, hu⟩ => by omega, fun ⟨h1, h2⟩ => ⟨u - a / 2 ^ shift, by omega, by omega⟩⟩

/-- A unit that a range covers whole is one that the range touches. -/
theorem mem_unitsOf_of_whole {shift a n u : Nat} (h : a ≤ u * 2 ^ shift ∧ u * 2 ^ shift + 2 ^ shift ≤ a + n) : u ∈ unitsOf shift a n := by
  have hpos : 0 < 2 ^ shift := Nat.two_pow_pos shift
  refine mem_unitsOf.mpr ⟨by omega, ?_, (Nat.le_div_iff_mul_le hpos).mpr (by omega)⟩
  exact (Nat.div_le_div_right h.1).trans_eq (Nat.mul_div_cancel u hpos)

/-- A unit that a write covers whole loses its mark; every other keeps it (R273). -/
theorem pois_writeP (b : Bank) (shift a : Nat) (bs : List Byte) (u : Nat) : SMap.at false (b.writeP shift a bs false).pois u =
    if a ≤ u * 2 ^ shift ∧ u * 2 ^ shift + 2 ^ shift ≤ a + bs.length then false else SMap.at false b.pois u := by
  have clears : ∀ (l : List Nat) (m : SMap Bool), SMap.at false (l.foldl (fun m x =>
      if false then SMap.put false m x true
      else if decide (a ≤ x * 2 ^ shift ∧ x * 2 ^ shift + 2 ^ shift ≤ a + bs.length) then SMap.put false m x false else m) m) u =
      if u ∈ l ∧ a ≤ u * 2 ^ shift ∧ u * 2 ^ shift + 2 ^ shift ≤ a + bs.length then false else SMap.at false m u := by
    intro l
    induction l with
    | nil => simp
    | cons x l ih =>
      intro m
      rw [List.foldl_cons, ih]
      by_cases hx : u = x
      · subst hx
        by_cases hw : a ≤ u * 2 ^ shift ∧ u * 2 ^ shift + 2 ^ shift ≤ a + bs.length <;> simp [hw]
      · have hput : SMap.at false (SMap.put false m x false) u = SMap.at false m u := get_set_other m false hx
        simp only [List.mem_cons, hx, false_or]
        split
        · rfl
        · simp only [Bool.false_eq_true, if_false]
          split
          · exact hput
          · rfl
  refine (clears (unitsOf shift a bs.length) b.pois).trans (if_congr ?_ rfl rfl)
  exact and_iff_right_of_imp mem_unitsOf_of_whole

/-- What a context's or a Ladle's own release with a store leaves (R343, R348). -/
theorem landRelease_frame (s : State) : ∃ am sm, s.landRelease = { s with abMark := am, spMark := sm } ∧
    (∀ e ∈ s.spMark, e.2 ≠ s.who + 1 → e ∈ sm) ∧ ∀ e ∈ sm, e ∈ s.spMark := by
  unfold State.landRelease
  split
  · exact ⟨_, _, rfl, fun e he _ => he, fun e he => he⟩
  · exact ⟨_, _, rfl, fun e he hw => List.mem_filter.mpr ⟨he, by simpa using hw⟩, fun e he => (List.mem_filter.mp he).1⟩

/-- The state in which a landing store writes: its release has been made, if it is one. -/
def released (s : State) (rel : Bool) : State := if rel then s.landRelease else s

theorem released_frame (s : State) (rel : Bool) : ∃ am sm, released s rel = { s with abMark := am, spMark := sm } ∧
    (rel = false → am = s.abMark ∧ sm = s.spMark) ∧ (∀ e ∈ s.spMark, e.2 ≠ s.who + 1 → e ∈ sm) ∧ ∀ e ∈ sm, e ∈ s.spMark := by
  unfold released
  cases rel
  · exact ⟨s.abMark, s.spMark, rfl, fun _ => ⟨rfl, rfl⟩, fun e he _ => he, fun e he => he⟩
  · obtain ⟨am, sm, h, h1, h2⟩ := landRelease_frame s
    exact ⟨am, sm, h, fun h => Bool.noConfusion h, h1, h2⟩

theorem landHeld_store (s : State) (cyc : Word) (pos : Nat) (sp : Bool) (a : Nat) (bs : List Byte) (rel : Bool) :
    s.landHeld ⟨cyc, pos, .store sp a bs rel, none⟩
      = (released s rel).writeAS sp a bs false (if rel || isLadle s.who then 0 else s.who + 1) := rfl

/-- Which lines are marked after a store that found errors first: none that it covers whole; of the others those that were marked,
and lines with an uncorrectable word. -/
theorem Finds.store_pois {m : MemKind} {s t : State} (h : Finds m s t) (hm : m.shift = 6) (a : Nat) (bs : List Byte) (l : Nat) :
    let b := (t.bank m).writeP 6 a bs false
    let whole := a ≤ 64 * l ∧ 64 * l + 64 ≤ a + bs.length
    (SMap.at false b.pois l = true → ¬ whole ∧ (SMap.at false (s.bank m).pois l = true ∨ (s.bank m).worn 6 l 2 = true)) ∧
    (¬ whole → SMap.at false (s.bank m).pois l = true → SMap.at false b.pois l = true) := by
  intro b whole
  have hb : SMap.at false b.pois l = if whole then false else SMap.at false (t.bank m).pois l := by
    refine (pois_writeP (t.bank m) 6 a bs l).trans (if_congr ?_ rfl rfl)
    rw [Nat.mul_comm l]
    exact Iff.rfl
  rw [hb]
  by_cases hw : whole
  · simp [hw]
  · rw [if_neg hw, ← hm]
    exact ⟨fun hp => ⟨hw, h.found l hp⟩, fun _ hp => h.kept l hp⟩

/-- A store of AB changes AB with its tags, and error counts; nothing else. -/
theorem writeAS_ab (s : State) (a : Nat) (bs : List Byte) (w : Nat) :
    let t := s.writeAS false a bs false w
    t = { s with ab := t.ab, abStamp := t.abStamp, abMark := t.abMark, svc := { s.svc with errs := t.svc.errs } } ∧
    t.ab.bytes = Mem.setBytes s.ab.bytes a bs ∧ (s.ab.flips = [] → t.svc = s.svc) ∧
    ∀ l, let whole := a ≤ 64 * l ∧ 64 * l + 64 ≤ a + bs.length
      (SMap.at false t.ab.pois l = true → ¬ whole ∧ (SMap.at false s.ab.pois l = true ∨ s.ab.worn 6 l 2 = true)) ∧
      (¬ whole → SMap.at false s.ab.pois l = true → SMap.at false t.ab.pois l = true) := by
  intro t
  have hf := finds_noticeEdges s .ab a bs.length
  have clean : s.ab.flips = [] → s.noticeEdges .ab a bs.length = s := fun hc => noticeEdges_clean (m := .ab) hc a bs.length
  obtain ⟨p, q, e, hn, hq⟩ := hf.frame
  have ht : t = { s.noticeEdges .ab a bs.length with
    ab := (s.noticeEdges .ab a bs.length).ab.writeP 6 a bs false, abStamp := zeroStamps (s.noticeEdges .ab a bs.length).abStamp a bs.length,
    abMark := setMarks (s.noticeEdges .ab a bs.length).abMark a bs.length w } := rfl
  refine ⟨?_, ?_, fun hc => ?_, hf.store_pois rfl a bs⟩
  · rw [ht, hn, hq (by decide)]; rfl
  · rw [ht, hn]; rfl
  · rw [ht, clean hc]

/-- A store of SP changes SP with its tags, its parity's errors and the record of those that have counted, and error counts. -/
theorem writeAS_sp (s : State) (a : Nat) (bs : List Byte) (w : Nat) :
    let t := s.writeAS true a bs false w
    t = { s with sp := t.sp, spStamp := t.spStamp, spMark := t.spMark, parFlips := t.parFlips, spSeen := t.spSeen,
                 svc := { s.svc with errs := t.svc.errs } } ∧
    t.sp.bytes = Mem.setBytes s.sp.bytes a bs ∧ (s.sp.flips = [] → s.parFlips = [] → t.svc = s.svc) ∧
    ∀ l, let whole := a ≤ 64 * l ∧ 64 * l + 64 ≤ a + bs.length
      (SMap.at false t.sp.pois l = true → ¬ whole ∧ (SMap.at false s.sp.pois l = true ∨ s.sp.worn 6 l 2 = true)) ∧
      (¬ whole → SMap.at false s.sp.pois l = true → SMap.at false t.sp.pois l = true) := by
  intro t
  have hf := finds_noticeEdges s .sp a bs.length
  have clean : s.sp.flips = [] → s.noticeEdges .sp a bs.length = s := fun hc => noticeEdges_clean (m := .sp) hc a bs.length
  obtain ⟨q', f, e', hpar⟩ := noticeParity_frame (s.noticeEdges .sp a bs.length) a bs.length
  obtain ⟨p, q, e, hn, -⟩ := hf.frame
  have hsp : t.sp = (s.noticeEdges .sp a bs.length).sp.writeP 6 a bs false := by
    change (((s.noticeEdges .sp a bs.length).noticeParity a bs.length).sp).writeP 6 a bs false = _
    rw [hpar]
  have ht : t = { (s.noticeEdges .sp a bs.length).noticeParity a bs.length with
    sp := t.sp, spStamp := t.spStamp, spMark := t.spMark, spSeen := t.spSeen } := rfl
  refine ⟨?_, ?_, fun hc hp => ?_, ?_⟩
  · rw [hpar, hn] at ht
    have hpf : t.parFlips = f := by rw [ht]
    have hsv : t.svc.errs = e' := by rw [ht]
    rw [hpf, hsv]
    exact ht
  · rw [hsp, hn]; rfl
  · change ((s.noticeEdges .sp a bs.length).noticeParity a bs.length).svc = _
    rw [clean hc, noticeParity_clean hp]
  · rw [hsp]
    exact hf.store_pois rfl a bs

/-! ## Releases at a commit (R342, R343, R348) -/

theorem mem_releaseMarks (s : State) (w : Nat) (e : Nat × Nat) :
    (e ∈ (s.releaseMarks w).abMark ↔ e ∈ s.abMark ∧ e.2 ≠ w + 1) ∧ (e ∈ (s.releaseMarks w).spMark ↔ e ∈ s.spMark ∧ e.2 ≠ w + 1) := by
  simp [State.releaseMarks, dropMarks]

/-- The accesses of the bundle of issue `i`, or the elements that it asked another package for, that a release at scope `c`
follows (R340, R342, R389). -/
def ReleaseWaits (s : State) (i : Issue) (c : Nat) : Prop :=
  (∃ o ∈ s.ops, o.agent = s.who ∧ o.bun = i.serial0 ∧ o.phase ≠ .performed ∧ ∃ l ∈ o.kind.touches, s.scopeOfLoc (coreOf s.who) l ≤ c) ∨
    (6 ≤ c ∧ ∃ m ∈ s.cmds, m.agent = s.who ∧ m.unit = .fabric ∧ m.bun = i.serial0)

/-- A bundle with one release makes it at once, unless something that it follows is outstanding. -/
theorem commitReleases_one {s : State} {i : Issue} {c : Nat} (cyc : Word) (h : i.rels = [c]) : ∃ waits : Bool,
    (waits = true ↔ ReleaseWaits s i c) ∧ s.commitReleases i cyc = s.releaseFor s.who c cyc i.serial0 waits := by
  refine ⟨_, ?_, by rw [State.commitReleases, h]; rfl⟩
  simp [ReleaseWaits, State.inScope, Op.done, and_assoc]

theorem commitReleases_now {s : State} {i : Issue} {c : Nat} (cyc : Word) (hs : s.who < 2048) (h : i.rels = [c])
    (hw : ¬ ReleaseWaits s i c) : s.commitReleases i cyc = s.releaseMarks s.who := by
  obtain ⟨waits, hiff, hc⟩ := commitReleases_one (s := s) cyc h
  rw [hc, State.releaseFor, if_neg (by omega), if_neg (mt hiff.mp hw)]

theorem commitReleases_later {s : State} {i : Issue} {c : Nat} (cyc : Word) (hs : s.who < 2048) (h : i.rels = [c])
    (hw : ReleaseWaits s i c) : ∃ o : Op, s.commitReleases i cyc = { s with ops := s.ops ++ [o], serial := s.serial + 1 } ∧
      o.kind = .release ∧ o.agent = s.who ∧ o.rel = some c ∧ o.phase = .issued ∧ o.ready = true := by
  obtain ⟨waits, hiff, hc⟩ := commitReleases_one (s := s) cyc h
  rw [hc, State.releaseFor, if_neg (by omega), if_pos (hiff.mpr hw)]
  exact ⟨_, rfl, rfl, rfl, rfl, rfl, rfl⟩

/-! ## A commit without held results reaches its releases with its issuer and its record -/

/-- The same agent issues the same bundle, and holds no result if it held none. -/
structure SameIssue (s t : State) : Prop where
  who : t.who = s.who
  issue : t.issue = s.issue
  pend : s.c.f.pend = [] → t.c.f.pend = []

theorem SameIssue.refl (s : State) : SameIssue s s := ⟨rfl, rfl, id⟩

theorem SameIssue.trans {s t u : State} (h : SameIssue s t) (g : SameIssue t u) : SameIssue s u :=
  ⟨g.who.trans h.who, g.issue.trans h.issue, fun hp => g.pend (h.pend hp)⟩

theorem sameIssue_pops (s : State) (l : List Nat) :
    SameIssue s (l.foldl (fun (t : State) n => { t with c := t.c.updChan n Chan.pop }) s) :=
  List.foldlRecOn _ _ (.refl s) fun _ h _ _ => h.trans ⟨rfl, rfl, id⟩

/-- A new target of a core's point changes the settling of cores and octets alone (R76, R77). -/
theorem retarget_frame (s : State) (k : Nat) : ∃ cs os, s.retarget k = { s with cores := cs, octets := os } := by
  have octet : ∀ (t : State) o, ∃ os, t.retargetOctet o = { t with octets := os } := by
    intro t o
    unfold State.retargetOctet
    dsimp only
    split <;> exact ⟨_, rfl⟩
  have cores : ∀ (l : List Nat) (p : Nat), ∃ cs, l.foldl (fun t x =>
      if (t.core x).settling.isSome || (t.core x).opcur.toNat == p then t
      else t.updCore x fun c => { c with settling := some (BitVec.ofNat 3 p) }) s = { s with cores := cs } := by
    refine fun l p => List.foldlRecOn (motive := fun t => ∃ cs, t = { s with cores := cs }) _ _ ⟨_, rfl⟩ ?_
    rintro _ ⟨cs, rfl⟩ x _
    split <;> exact ⟨_, rfl⟩
  unfold State.retarget
  dsimp only
  obtain ⟨cs, hc⟩ := cores (s.opGroup k) (s.corePoint k)
  rw [hc]
  obtain ⟨os, ho⟩ := octet { s with cores := cs } (octetOf k)
  exact ⟨cs, os, ho⟩

theorem sameIssue_retarget (s : State) (k : Nat) : SameIssue s (s.retarget k) := by
  obtain ⟨cs, os, h⟩ := retarget_frame s k
  rw [h]
  exact ⟨rfl, rfl, id⟩

theorem sameIssue_tokensTake (s : State) : SameIssue s s.tokensTake := by
  unfold State.tokensTake
  dsimp only
  split
  · exact .refl s
  · exact ⟨rfl, rfl, fun h => by simp [State.flow, h]⟩

theorem sameIssue_leaseCommit (s : State) : SameIssue s s.leaseCommit := by
  unfold State.leaseCommit State.budgetExpire
  dsimp only
  split <;> split <;> exact ⟨rfl, rfl, id⟩

theorem sameIssue_nextPc (s : State) : SameIssue s s.nextPc := by
  unfold State.nextPc
  dsimp only
  split <;> exact ⟨rfl, rfl, id⟩

/-- Cycles in which nothing is held land nothing. -/
theorem sameIssue_cycles {s : State} (h : s.c.f.pend = []) (n : Nat) : SameIssue s (s.cycles n) := by
  induction n generalizing s with
  | zero => exact .refl s
  | succ n ih =>
    have hc : SameIssue s s.cycle := by
      unfold State.cycle
      dsimp only
      rw [h, List.filter_nil]
      exact ⟨rfl, rfl, fun _ => congrArg (List.filter _) h⟩
    exact hc.trans (ih (hc.pend h))

/-- A bundle of an agent that holds no result makes its releases last. -/
theorem commitBundle_releases {s : State} (h : s.c.f.pend = []) (b : Bundle) :
    ∃ u : State, s.commitBundle b = u.commitReleases s.issue s.c.f.lcc ∧ u.who = s.who ∧ u.issue = s.issue := by
  have sys {t : State} (f : Sys → Sys) : SameIssue t (t.sys f) := ⟨rfl, rfl, id⟩
  have pops : SameIssue s (s.issue.pops.foldl (fun (t : State) n => { t with c := t.c.updChan n Chan.pop })
      (s.flow fun f => { f with pos := b.pos })) := 
    SameIssue.trans (t := s.flow fun f => { f with pos := b.pos }) ⟨rfl, rfl, id⟩ (sameIssue_pops _ _)
  have point {t : State} (h : SameIssue s t) : SameIssue s (if b.h.opv && !isLadle s.who then
      (t.sys fun y => { y with opReq := b.h.opp }).retarget (coreOf s.who) else t) := by
    split
    · exact (h.trans (sys _)).trans (sameIssue_retarget _ _)
    · exact h
  have ppt {t : State} (h : SameIssue s t) : SameIssue s (if s.issue.after = .ppt then t.pointCtx else t) := by
    split
    · exact h.trans ⟨rfl, rfl, id⟩
    · exact h
  have all := ((((ppt (point pops)).trans (sameIssue_tokensTake _)).trans (sameIssue_leaseCommit _)).trans (sameIssue_nextPc _)).trans
    (sys fun y => { y with tokWait := false, hung := false })
  have hu := all.trans (sameIssue_cycles (all.pend h)
    (1 + (if b.h.ver = 1#2 then 16 * b.h.adv.toNat else b.h.adv.toNat) + boolNat s.issue.target.isSome))
  exact ⟨_, rfl, hu.who, hu.issue⟩

/-- Settles O57: landings of registers, stores by what a write of AB or SP changes, and releases at a commit. -/
theorem landingsChange : Obligations.LandingsChange := by
  unfold Obligations.LandingsChange
  refine ⟨fun c r v q x p g m => ⟨?_, fun n => ?_, fun n => ?_, rfl⟩, fun s cyc pos a bs rel => ?_, fun s i cyc c b hs => ?_⟩
  · simp only [List.forall_mem_cons, List.not_mem_nil, false_imp_iff, implies_true, and_true]
    exact ⟨rfl, rfl, rfl, rfl, rfl, rfl⟩
  · exact ⟨readS_writeS .., poisS_writeS .., readP_writeP .., poisP_writeP .., readV_writeV .., poisS_setPois .., poisP_setPois ..,
      readV_setPois ..⟩
  · exact ⟨readV_writeS .., readP_writeS .., readS_writeP .., readS_writeV .., readS_setPois ..⟩
  · intro t u
    obtain ⟨am, sm, hr, hkept, hothers, hsub⟩ := released_frame s rel
    have ht : t = (released s rel).writeAS false a bs false (if rel || isLadle s.who then 0 else s.who + 1) := landHeld_store ..
    have hu : u = (released s rel).writeAS true a bs false (if rel || isLadle s.who then 0 else s.who + 1) := landHeld_store ..
    have ab := writeAS_ab (released s rel) a bs (if rel || isLadle s.who then 0 else s.who + 1)
    have sp := writeAS_sp (released s rel) a bs (if rel || isLadle s.who then 0 else s.who + 1)
    dsimp only at ab sp
    rw [← ht, hr] at ab
    rw [← hu, hr] at sp
    obtain ⟨abFrame, abBytes, abClean, abPois⟩ := ab
    obtain ⟨spFrame, spBytes, spClean, spPois⟩ := sp
    have tSp : t.spMark = sm := by rw [abFrame]
    have uAb : u.abMark = am := by rw [spFrame]
    refine ⟨fun n => ⟨?_, ?_⟩, ?_, ?_, abClean, spClean, fun h => ⟨tSp.trans (hkept h).2, uAb.trans (hkept h).1⟩, ?_, ?_, fun l => ?_, fun hm => ?_⟩
    · rw [abBytes, byte_setBytes]
    · rw [spBytes, byte_setBytes]
    · rw [tSp]; exact abFrame
    · rw [uAb]; exact spFrame
    · rw [tSp]; exact hothers
    · rw [tSp]; exact hsub
    · exact ⟨(abPois l).1, (spPois l).1, (abPois l).2, (spPois l).2⟩
    · have hm : MemoryCanonical (released s rel) := by rw [hr]; exact hm
      exact ⟨canonical_writeAS hm .., canonical_writeAS hm ..⟩
  · exact ⟨mem_releaseMarks s s.who, rfl, fun h => by rw [State.commitReleases, h]; rfl, fun h hw => commitReleases_now cyc hs h hw,
      fun h hw => commitReleases_later cyc hs h hw, fun h => commitBundle_releases h b⟩

end Sys2Proof.Scope
end

section
/-! Queue pages, kicks and replays (R29, R30, R33, R42 to R45, R49). -/

namespace Sys2Proof.Scope

open Sys2Proof.Machine Sys2Proof.Safety Sys2Proof.Laws

/-! ## Queue pages (R42 to R44) -/

@[simp] theorem queue_updQueue (s : State) (q : Nat) (f : Queue → Queue) : (s.updQueue q f).queue q = f (s.queue q) := get_set_same ..

theorem idleWrite_idle {s : State} {q : Nat} (hq : q < 65536) (h : (s.queue q).pend = [] ∧ (s.queue q).active = false)
    (f : Queue → Queue) : s.idleWrite q f = .next (s.updQueue q f) := by
  simp [State.idleWrite, Nat.not_le.mpr hq, h]

theorem idleWrite_used {s : State} {q : Nat} (hq : q < 65536) (h : ¬ ((s.queue q).pend = [] ∧ (s.queue q).active = false))
    (f : Queue → Queue) : s.idleWrite q f = .next (s.updQueue q fun u => { u with cfgerr := true }) := by
  have h : ¬ ((s.queue q).pend.isEmpty && !(s.queue q).active) = true := by simpa using h
  rw [State.idleWrite, if_neg (Nat.not_le.mpr hq), if_neg h]

theorem exec_kick_accepted {s : State} {q : Nat} (hq : q < 65536) (he : (s.queue q).en = true)
    (hb : SMap.at false s.svc.busy (s.queue q).part = false) (hp : (s.queue q).pend.length ≠ 64) (v : Word) :
    exec (.kick q v) s = .next ((s.updQueue q fun u =>
      { u with seq := u.seq + 1#32, pend := u.pend ++ [⟨u.seq + 1#32, v.extractLsb' 48 16, v.extractLsb' 0 45, s.svc.kickOrder⟩] }).updSvc
      fun w => { w with kickOrder := w.kickOrder + 1 }) := by
  change execKick q v s = _
  simp only [execKick, he, hb, Nat.not_le.mpr hq, beq_eq_false_iff_ne.mpr hp, Bool.not_true, Bool.or_false, Bool.false_eq_true,
    if_false]
  rfl

/-- DROP counts up to 65,535 and stays there. -/
theorem drop_saturates (d : BitVec 16) : BitVec.ofNat 16 (min 65535 (d.toNat + 1)) = if d.toNat = 65535 then d else d + 1#16 := by
  have hd := d.isLt
  apply BitVec.eq_of_toNat_eq
  split
  · rw [BitVec.toNat_ofNat]; omega
  · rw [BitVec.toNat_ofNat, BitVec.toNat_add, BitVec.toNat_ofNat]; omega

theorem exec_kick_dropped {s : State} {q : Nat} (hq : q < 65536)
    (h : (s.queue q).en = false ∨ SMap.at false s.svc.busy (s.queue q).part = true ∨ (s.queue q).pend.length = 64) (v : Word) :
    exec (.kick q v) s
      = .next (s.updQueue q fun u => { u with drop := if u.drop.toNat = 65535 then u.drop else u.drop + 1#16 }) := by
  have hr : (!(s.queue q).en || SMap.at false s.svc.busy (s.queue q).part || (s.queue q).pend.length == 64) = true := by
    simpa [or_assoc] using h
  change execKick q v s = _
  rw [execKick, if_neg (Nat.not_le.mpr hq), if_pos hr]
  simp only [drop_saturates]

/-! ## KICK_START (R45) -/

theorem kickReady_iff (s : State) (q : Nat) : s.kickReady q = true ↔ (s.queue q).pend ≠ [] ∧ (s.queue q).hasRoom = true ∧
    (∀ r ∈ s.svc.replays, r.addr ≠ (s.queue q).graph) ∧ (s.svc.replays.filter fun r => r.die == homeDie q).length < 256 := by
  simp [State.kickReady, and_assoc]

theorem exec_kickStart_waits {s : State} {q : Nat} (h : s.kickReady q = false) : exec (.kickStart q) s = .next s := by
  change execKickStart q s = _
  rw [execKickStart]
  split
  · rfl
  · simp only [h, Bool.false_and, Bool.false_eq_true, if_false]

/-- The oldest pending kick starts when its queue can start and no queue with room holds an earlier kick of the graph at its
head. -/
theorem exec_kickStart_starts {s : State} {q : Nat} {k : Kick} {ks : List Kick} (hp : (s.queue q).pend = k :: ks)
    (hr : s.kickReady q = true) (ho : ∀ e ∈ s.svc.queues, e.1 = q ∨ e.2.graph ≠ (s.queue q).graph ∨ e.2.hasRoom = false ∨
      ∀ j js, e.2.pend = j :: js → k.order ≤ j.order) : exec (.kickStart q) s = .next (s.startKick q k) := by
  have first : (s.svc.queues.any fun e => e.1 != q && e.2.graph == (s.queue q).graph && e.2.hasRoom &&
      (match e.2.pend with | j :: _ => decide (j.order < k.order) | [] => false)) = false := by
    rw [List.any_eq_false]
    intro e he
    rcases ho e he with h | h | h | h
    · simp [h]
    · simp [h]
    · simp [h]
    · cases hj : e.2.pend with
      | nil => simp
      | cons j js => simp [Nat.not_lt.mpr (h j js hj)]
  change execKickStart q s = _
  rw [execKickStart, hp]
  exact congrArg Host.Outcome.next (if_pos (Bool.and_eq_true_iff.mpr ⟨hr, congrArg not first⟩))

/-- The state in which a kick's graph is validated: PEND has fallen, ACTIVE is set, and the replay has its start time and
serial number. -/
def kickTaken (s : State) (q : Nat) : State :=
  ((s.updQueue q fun u => { u with pend := u.pend.drop 1, active := true }).ticked).withSerial

/-- The replay of kick `k` as it starts, from the copy `c` or with the failure `f`. -/
def kickReplay (s : State) (q : Nat) (k : Kick) (c : GraphCopy) (f : Option (Nat × Option Nat)) : Replay :=
  { queue := q, seq := k.seq, tag := k.tag, die := homeDie q, part := (s.queue q).part, addr := (s.queue q).graph, gen := c.gen,
    pmax := (s.queue q).pmax, nodes := c.nodes, edges := c.edges, counts := c.nodes.map (·.npred),
    phase := c.nodes.map fun _ => .waiting, fail := f, tstart := s.pkgTime, id := s.serial }

/-- A replay that fails before it has a graph. -/
def noCopy : GraphCopy := ⟨0, 0, 0#64, 0, [], [], 0, 0#64⟩

/-- A replay joins those that run. -/
def addReplay (t : State) (r : Replay) : State := t.updSvc fun v => { v with replays := v.replays ++ [r] }

section
variable {s t w : State} {q : Nat} {k : Kick} {c : GraphCopy} {e : Nat × Option Nat}

theorem startKick_invalid (h : (kickTaken s q).holdGraph (homeDie q) (s.queue q).part (s.queue q).graph = (t, .error e)) :
    s.startKick q k = addReplay t (kickReplay s q k noCopy (some e)) := by
  rw [kickTaken] at h
  rw [State.startKick, h]
  rfl

variable (h : (kickTaken s q).holdGraph (homeDie q) (s.queue q).part (s.queue q).graph = (t, .ok c))
include h

theorem startKick_unpatched (hp : t.applyPatches (launchReq (homeDie q) (s.queue q).part) c.nodes k.ptab = (w, .error e)) :
    s.startKick q k = addReplay w (kickReplay s q k noCopy (some e)) := by
  rw [kickTaken] at h
  simp only [State.startKick, h, hp]
  rfl

theorem startKick_runs (hp : t.applyPatches (launchReq (homeDie q) (s.queue q).part) c.nodes k.ptab = (w, .ok ())) :
    s.startKick q k = (addReplay w (kickReplay s q k c none)).startNodes q (kickReplay s q k c none) := by
  rw [kickTaken] at h
  simp only [State.startKick, h, hp]
  rfl

end

/-! ## REPLAY_COMPLETE (R33, R49, R50) -/

theorem exec_replayComplete_idle {s : State} {q : Nat} (h : s.replayOf q = none) : exec (.replayComplete q) s = .next s := by
  change execReplayComplete q s = _
  rw [execReplayComplete, h]

/-- How a replay ends once nothing of it is ready or running: its failure, 0 when every node has retired, else GRAPHSTUCK. -/
def replayEnding (r : Replay) : Nat × Option Nat := match r.fail with
  | some e => e
  | none => if r.phase.all (· == .retired) then (0, none) else (0x1A, none)

theorem outcome_busy {r : Replay} (h : ∃ p ∈ r.phase, p = .ready ∨ p = .running) : r.outcome = none := by
  have h : (r.phase.any fun p => p = .ready || p = .running) = true := by simpa using h
  exact if_pos h

theorem outcome_ended {r : Replay} (h : ¬ ∃ p ∈ r.phase, p = .ready ∨ p = .running) : r.outcome = some (replayEnding r) := by
  have h : ¬ (r.phase.any fun p => p = .ready || p = .running) = true := by simpa using h
  rw [Replay.outcome, if_neg h, replayEnding]
  cases r.fail with
  | some e => rfl
  | none => exact (apply_ite some _ _ _).symm

section
variable {s : State} {q : Nat} {r : Replay} (h : s.replayOf q = some r)
include h

theorem exec_replayComplete_busy (hb : ∃ p ∈ r.phase, p = .ready ∨ p = .running) : exec (.replayComplete q) s = .next s := by
  change execReplayComplete q s = _
  simp only [execReplayComplete, h, outcome_busy hb]

theorem exec_replayComplete_ends (hb : ¬ ∃ p ∈ r.phase, p = .ready ∨ p = .running) :
    exec (.replayComplete q) s = .next (s.endReplay r (replayEnding r).1 (replayEnding r).2) := by
  change execReplayComplete q s = _
  simp only [execReplayComplete, h, outcome_ended hb]

end

theorem take_natLe (v : Nat) {n m : Nat} (h : n ≤ m) : (natLe v m).take n = natLe v n := by
  induction n generalizing v m with
  | zero => rfl
  | succ n ih =>
    obtain ⟨m, rfl⟩ := Nat.exists_eq_add_of_lt h
    exact congrArg _ (ih _ (by omega))

theorem drop_natLe (v o m : Nat) : (natLe v m).drop o = natLe (v / 256 ^ o) (m - o) := by
  induction o generalizing v m with
  | zero => simp
  | succ o ih => cases m with
    | zero => simp [natLe]
    | succ m => rw [natLe, List.drop_succ_cons, ih, Nat.add_sub_add_right, pow_succ', Nat.div_div_eq_div_mul]

/-- The `n` bytes at `o` of a little-endian number. -/
theorem leNat_natLe_field {o n m : Nat} (v : Nat) (h : o + n ≤ m) : leNat (((natLe v m).drop o).take n) = v / 256 ^ o % 256 ^ n := by
  rw [drop_natLe, take_natLe _ (by omega), leNat_natLe]

/-- The sum of later fields is a multiple of the place where the first of them starts. -/
theorem foldl_fields_above {fs : List (Nat × Nat × Nat)} {m : Nat} (h : ∀ f ∈ fs, m ≤ f.1) (acc : Nat) :
    ∃ c, fs.foldl (fun acc f => acc + f.2.2 % 256 ^ f.2.1 * 256 ^ f.1) acc = acc + 256 ^ m * c := by
  induction fs generalizing acc with
  | nil => exact ⟨0, rfl⟩
  | cons f fs ih =>
    obtain ⟨hf, hfs⟩ := List.forall_mem_cons.mp h
    obtain ⟨c, hc⟩ := ih hfs (acc + f.2.2 % 256 ^ f.2.1 * 256 ^ f.1)
    refine ⟨f.2.2 % 256 ^ f.2.1 * 256 ^ (f.1 - m) + c, hc.trans ?_⟩
    rw [← Nat.sub_add_cancel hf, pow_add, Nat.add_sub_cancel]
    ring

/-- Fields in order, none over another, above what has been summed: each reads as its value. -/
theorem foldl_fields_read {fs : List (Nat × Nat × Nat)} (hd : fs.Pairwise fun f g => f.1 + f.2.1 ≤ g.1) {o n v : Nat}
    (hf : (o, n, v) ∈ fs) {acc : Nat} (ha : ∀ f ∈ fs, acc < 256 ^ f.1) :
    fs.foldl (fun acc f => acc + f.2.2 % 256 ^ f.2.1 * 256 ^ f.1) acc / 256 ^ o % 256 ^ n = v % 256 ^ n := by
  induction fs generalizing acc with
  | nil => cases hf
  | cons g gs ih =>
    obtain ⟨hg, hgs⟩ := List.pairwise_cons.mp hd
    obtain ⟨hag, -⟩ := List.forall_mem_cons.mp ha
    rcases List.mem_cons.mp hf with rfl | hf
    · obtain ⟨c, hc⟩ := foldl_fields_above hg (acc + v % 256 ^ n * 256 ^ o)
      have hsum : acc + v % 256 ^ n * 256 ^ o + 256 ^ (o + n) * c = acc + 256 ^ o * (v % 256 ^ n + 256 ^ n * c) := by ring
      rw [List.foldl_cons, hc, hsum, Nat.add_mul_div_left _ _ (by positivity), Nat.div_eq_of_lt hag, Nat.zero_add,
        Nat.add_mul_mod_self_left, Nat.mod_mod]
    · refine ih hgs hf fun f hfg => ?_
      have hlt : g.2.2 % 256 ^ g.2.1 + 1 ≤ 256 ^ g.2.1 := Nat.mod_lt _ (by positivity)
      calc acc + g.2.2 % 256 ^ g.2.1 * 256 ^ g.1 < (g.2.2 % 256 ^ g.2.1 + 1) * 256 ^ g.1 := by rw [Nat.add_one_mul]; omega
        _ ≤ 256 ^ g.2.1 * 256 ^ g.1 := Nat.mul_le_mul_right _ hlt
        _ = 256 ^ (g.1 + g.2.1) := by rw [← pow_add, Nat.add_comm]
        _ ≤ 256 ^ f.1 := Nat.pow_le_pow_right (by decide) (hg f hfg)

/-- A field of a record whose fields stand in order reads as its value. -/
theorem leNat_recordBytes {fs : List (Nat × Nat × Nat)} (hd : fs.Pairwise fun f g => f.1 + f.2.1 ≤ g.1) {o n v : Nat}
    (hf : (o, n, v) ∈ fs) (h : o + n ≤ 32) : leNat (((recordBytes fs).drop o).take n) = v % 256 ^ n := by
  rw [recordBytes, leNat_natLe_field _ h, foldl_fields_read hd hf fun _ _ => by positivity]

/-- The completion record of a queue with `2 ^ n` ring entries at ring tail `tail` (R50). -/
def completionRecord (q n : Nat) (tail : BitVec 17) (seq : BitVec 32) (tag : BitVec 16) (status : Nat) (node : Option Nat) (part : Nat)
    (tstart tend : Word) : List Byte :=
  recordBytes [(0, 4, seq.toNat), (4, 2, tag.toNat), (6, 1, status), (7, 1, 1 - tail.toNat / 2 ^ n % 2),
    (8, 4, node.getD 0xFFFFFFFF), (12, 2, q), (14, 1, part), (16, 8, tstart.toNat), (24, 8, tend.toNat)]

section
variable {q n : Nat} {tail : BitVec 17} {seq : BitVec 32} {tag : BitVec 16} {status : Nat} {node : Option Nat} {part : Nat}
  {tstart tend : Word}

theorem completionRecord_length : (completionRecord q n tail seq tag status node part tstart tend).length = 32 := natLe_length ..

/-- SEQ, TAG, STATUS and the phase stand at their places; the phase is 1 on the first pass of the ring. -/
theorem completionRecord_fields : ∀ o k x, (o, k, x) ∈ [(0, 4, seq.toNat), (4, 2, tag.toNat), (6, 1, status % 256),
      (7, 1, if tail.toNat / 2 ^ n % 2 = 0 then 1 else 0)] →
    leNat (((completionRecord q n tail seq tag status node part tstart tend).drop o).take k) = x := by
  have hseq := seq.isLt
  have htag := tag.isLt
  have hphase : (if tail.toNat / 2 ^ n % 2 = 0 then 1 else 0) = 1 - tail.toNat / 2 ^ n % 2 := by split <;> omega
  intro o k x hx
  rw [hphase] at hx
  simp only [List.mem_cons, Prod.mk.injEq, List.not_mem_nil, or_false] at hx
  unfold completionRecord
  rcases hx with ⟨rfl, rfl, rfl⟩ | ⟨rfl, rfl, rfl⟩ | ⟨rfl, rfl, rfl⟩ | ⟨rfl, rfl, rfl⟩
  · exact (leNat_recordBytes (v := seq.toNat) (by simp) (by simp) (by decide)).trans (by omega)
  · exact (leNat_recordBytes (v := tag.toNat) (by simp) (by simp) (by decide)).trans (by omega)
  · exact leNat_recordBytes (by simp) (by simp) (by decide)
  · exact (leNat_recordBytes (v := 1 - tail.toNat / 2 ^ n % 2) (by simp) (by simp) (by decide)).trans (by omega)

end

/-- What keeps the queues keeps each of them. -/
theorem queue_updSvc {f : Services → Services} {s : State} (h : (f s.svc).queues = s.svc.queues) (q : Nat) :
    (s.updSvc f).queue q = s.queue q := congrArg (fun m => SMap.at Queue.reset m q) h

@[simp] theorem queue_ticked (s : State) (q : Nat) : s.ticked.queue q = s.queue q := rfl

theorem dropCopies_frame (s : State) (d n : Nat) : ∃ cs, s.dropCopies d n = s.updSvc fun v => { v with copies := cs } := by
  unfold State.dropCopies
  split
  · exact ⟨s.svc.copies, rfl⟩
  · exact ⟨_, rfl⟩

/-- A replay's record is written, ACTIVE is clear and the replay is gone; the interrupt is still to come. -/
def replayClosed (s : State) (r : Replay) (code : Nat) (node : Option Nat) : State :=
  ((s.postCompletion r.queue r.seq r.tag code node r.part r.tstart s.pkgTime).ticked.updQueue r.queue
    fun u => { u with active := false }).updSvc fun v => { v with replays := v.replays.filter fun x => x.id != r.id }

theorem queue_replayClosed (s : State) (r : Replay) (code : Nat) (node : Option Nat) : (replayClosed s r code node).queue r.queue
    = { s.queue r.queue with tail := (s.queue r.queue).tail + 1#17, active := false } := by
  rw [replayClosed, queue_updSvc, queue_updQueue, queue_ticked, State.postCompletion, queue_updSvc, queue_updQueue] <;> rfl

/-- The interrupt of a queue, when it is enabled. -/
def withInterrupt (t : State) (q : Nat) : State :=
  if (t.queue q).ien then t.updSvc fun v => { v with toHost := v.toHost ++ [.msix (t.queue q).vec] } else t

theorem withInterrupt_eq (t : State) (q : Nat) : withInterrupt t q = t.updSvc fun v =>
    { v with toHost := v.toHost ++ if (t.queue q).ien then [.msix (t.queue q).vec] else [] } := by
  unfold withInterrupt
  split
  · rfl
  · exact congrArg (fun l => { t with svc := { t.svc with toHost := l } }) (List.append_nil _).symm

theorem endReplay_eq (s : State) (r : Replay) (code : Nat) (node : Option Nat) :
    s.endReplay r code node = withInterrupt ((replayClosed s r code node).dropCopies r.die r.part) r.queue := rfl

/-- What the end of a replay leaves: the tail has moved on, ACTIVE is clear, the replay is gone, and the host has the record and,
when it is enabled, the interrupt. -/
theorem endReplay_spec (s : State) (r : Replay) (code : Nat) (node : Option Nat) :
    let u := s.queue r.queue
    let t := s.endReplay r code node
    t.queue r.queue = { u with tail := u.tail + 1#17, active := false } ∧
    t.svc.replays = s.svc.replays.filter (fun x => x.id != r.id) ∧
    t.svc.toHost = s.svc.toHost ++ [.write (u.cbase + toWord (32 * (u.tail.toNat % 2 ^ u.logn)))
      (completionRecord r.queue u.logn u.tail r.seq r.tag code node r.part r.tstart s.pkgTime)]
        ++ (if u.ien then [.msix u.vec] else []) := by
  intro u t
  obtain ⟨cs, hcs⟩ := dropCopies_frame (replayClosed s r code node) r.die r.part
  have hq : ((replayClosed s r code node).dropCopies r.die r.part).queue r.queue = { u with tail := u.tail + 1#17, active := false } := by
    rw [hcs, queue_updSvc rfl, queue_replayClosed]
  have ht : t = ((replayClosed s r code node).updSvc fun v => { v with copies := cs }).updSvc fun v =>
      { v with toHost := v.toHost ++ if u.ien then [.msix u.vec] else [] } := by
    rw [show t = _ from endReplay_eq .., withInterrupt_eq, hq, hcs]
  refine ⟨?_, congrArg (·.svc.replays) ht, congrArg (·.svc.toHost) ht⟩
  rw [ht, queue_updSvc rfl, queue_updSvc rfl, queue_replayClosed]

/-- Settles O34: a register, a kick and the end of a replay at a time. -/
theorem replaysRun : Obligations.ReplaysRun := by
  unfold Obligations.ReplaysRun
  refine ⟨fun s q v hq => ?_, fun s q => ?_⟩
  · intro u busy idle set
    refine ⟨fun he hb hp => exec_kick_accepted hq he hb hp v, fun h => exec_kick_dropped hq h v,
      fun h => ⟨idleWrite_idle hq h _, idleWrite_idle hq h _, idleWrite_idle hq h _⟩, fun h => ?_⟩
    simp only [List.forall_mem_cons, List.not_mem_nil, false_imp_iff, implies_true, and_true]
    exact ⟨idleWrite_used hq h _, idleWrite_used hq h _, idleWrite_used hq h _⟩
  · intro u die s1 can r0 none_ add
    have ready : s.kickReady q = true ↔ u.pend ≠ [] ∧ can := kickReady_iff s q
    refine ⟨fun h => ?_, fun k ks hp hc ho => ?_, exec_replayComplete_idle, fun r hr => ?_⟩
    · rw [← not_ne_iff, ← not_and_or, ← ready, Bool.not_eq_true] at h
      exact exec_kickStart_waits h
    · have starts := exec_kickStart_starts hp (ready.mpr ⟨by simp [hp], hc⟩) ho
      refine ⟨fun t e h => ?_, fun t c h => ⟨fun w e hw => ?_, fun w hw => ?_⟩⟩
      · exact starts.trans (congrArg Host.Outcome.next (startKick_invalid h))
      · exact starts.trans (congrArg Host.Outcome.next (startKick_unpatched h hw))
      · exact starts.trans (congrArg Host.Outcome.next (startKick_runs h hw))
    · intro busy out
      refine ⟨exec_replayComplete_busy hr, fun hb hrq => ⟨_, exec_replayComplete_ends hr hb, ?_⟩⟩
      subst hrq
      obtain ⟨hqueue, hreplays, hhost⟩ := endReplay_spec s r out.1 out.2
      exact ⟨hqueue, hreplays, _, hhost, completionRecord_length, completionRecord_fields⟩

end Sys2Proof.Scope
end

section
/-! What writes of HBM, translations and posted records change, and what they leave (R10, R264, R267, R275, R419, R425). -/

namespace Sys2Proof.Scope

open Sys2Proof.Machine Sys2Proof.Safety Sys2Proof.Laws

/-! ## Writes of HBM -/

/-- The second state is the first one after accesses to the device's memory, with the records that they post: HBM, its errors, the
translations, the rings, what gangs log, the writes that a migration holds, and the contexts and operating points of woken
supervisors may differ. -/
structure Accessed (s t : State) : Prop where
  frame : t = { s with
    hbm := t.hbm, hbmSeen := t.hbmSeen, gangs := t.gangs, tick := t.tick, clock := t.clock, tlb := t.tlb, rings := t.rings,
    fltcnt := t.fltcnt, c := t.c, parked := t.parked, cores := t.cores, octets := t.octets,
    svc := { s.svc with errs := t.svc.errs, migs := t.svc.migs } }
  ids : t.gangs.map (·.id) = s.gangs.map (·.id)
  runs : ∀ d, (t.mig d).run = (s.mig d).run
  cores : ∀ k, { t.core k with settling := none } = { s.core k with settling := none }

theorem Accessed.refl (s : State) : Accessed s s := ⟨rfl, rfl, fun _ => rfl, fun _ => rfl⟩

theorem Accessed.trans {s t u : State} (h : Accessed s t) (g : Accessed t u) : Accessed s u := by
  refine ⟨?_, g.ids.trans h.ids, fun d => (g.runs d).trans (h.runs d), fun k => (g.cores k).trans (h.cores k)⟩
  have h1 := h.frame
  have g1 := g.frame
  rw [h1] at g1
  exact g1

/-- Errors that accesses to HBM find. -/
theorem Finds.accessed {s t : State} (h : Finds .hbm s t) : Accessed s t := by
  obtain ⟨⟨p, q, e, rfl, hq⟩, -, -⟩ := h
  rw [hq (by decide)]
  exact ⟨rfl, rfl, fun _ => rfl, fun _ => rfl⟩

theorem finds_foldl {α : Type} {m : MemKind} {f : State → α → State} (hf : ∀ t x, Finds m t (f t x)) (l : List α) (s : State) :
    Finds m s (l.foldl f s) :=
  List.foldlRecOn l f (.refl m s) fun t h x _ => h.trans (hf t x)

theorem accessed_foldl {α : Type} {f : State → α → State} (hf : ∀ t x, Accessed t (f t x)) (l : List α) (s : State) :
    Accessed s (l.foldl f s) :=
  List.foldlRecOn l f (.refl s) fun t h x _ => h.trans (hf t x)

theorem updWhere_map_id {α β : Type} {g : α → β} {f : α → α} (h : ∀ x, g (f x) = g x) (p : α → Bool) (l : List α) :
    (updWhere p f l).map g = l.map g := by
  rw [updWhere, List.map_map]
  refine List.map_congr_left fun x _ => ?_
  rw [Function.comp_apply]
  split <;> simp [h]

/-- A logged line changes what its gang logs, and no gang's number (R419, R423). -/
theorem logLine_frame (s : State) (g die pa : Nat) : ∃ gs, s.logLine g die pa = { s with gangs := gs } ∧
    gs.map (·.id) = s.gangs.map (·.id) := by
  have upd (f : Gang → Gang) (hf : ∀ x, (f x).id = x.id) : ∃ gs, s.updGang g f = { s with gangs := gs } ∧
      gs.map (·.id) = s.gangs.map (·.id) := ⟨_, rfl, updWhere_map_id hf _ _⟩
  unfold State.logLine
  split
  · exact ⟨s.gangs, rfl, rfl⟩
  · dsimp only
    split
    · exact upd _ fun _ => rfl
    · split
      · exact ⟨s.gangs, rfl, rfl⟩
      · split <;> exact upd _ fun _ => rfl

/-- A write of HBM writes its bytes; beside them it changes poison marks, errors and what gangs log. -/
theorem writeHbmNow_frame (s : State) (g die pa : Nat) (bs : List Byte) (p : Bool) : ∃ h n gs e,
    s.writeHbmNow g die pa bs p = { s with hbm := h, hbmSeen := n, gangs := gs, svc := { s.svc with errs := e } } ∧
    h.bytes = Mem.setBytes s.hbm.bytes (hbmKey die pa) bs ∧ gs.map (·.id) = s.gangs.map (·.id) := by
  obtain ⟨po, q, e, hn, hq⟩ := (finds_noticeEdges s .hbm (hbmKey die pa) bs.length).frame
  obtain ⟨gs, hl, hi⟩ : ∃ gs, (unitsOf 6 pa bs.length).foldl (fun t u => t.logLine g die (u * 64))
      (s.noticeEdges .hbm (hbmKey die pa) bs.length) = { s.noticeEdges .hbm (hbmKey die pa) bs.length with gangs := gs } ∧
      gs.map (·.id) = s.gangs.map (·.id) := by
    refine List.foldlRecOn (motive := fun (t : State) => ∃ gs, t = { s.noticeEdges .hbm (hbmKey die pa) bs.length with gangs := gs } ∧
      gs.map (·.id) = s.gangs.map (·.id)) _ _ ⟨s.gangs, by rw [hn]; rfl, rfl⟩ ?_
    rintro _ ⟨gs, rfl, hi⟩ u _
    obtain ⟨gs', hl, hi'⟩ := logLine_frame { s.noticeEdges .hbm (hbmKey die pa) bs.length with gangs := gs } g die (u * 64)
    exact ⟨gs', hl, hi'.trans hi⟩
  rw [hn, hq (by decide)] at hl
  simp only [State.writeHbmNow]
  rw [hn, hq (by decide), hl]
  exact ⟨_, _, gs, e, rfl, rfl, hi⟩

theorem accessed_writeHbmNow (s : State) (g die pa : Nat) (bs : List Byte) (p : Bool) : Accessed s (s.writeHbmNow g die pa bs p) := by
  obtain ⟨h, n, gs, e, hw, -, hi⟩ := writeHbmNow_frame s g die pa bs p
  rw [hw]
  exact ⟨rfl, hi, fun _ => rfl, fun _ => rfl⟩

/-- A write of a page that is being migrated waits at its die (R425). -/
theorem writeHbm_held {s : State} {die pa : Nat} {bs : List Byte} (h : s.pageMoving die pa bs.length = true) (g : Nat) (p : Bool) :
    s.writeHbm g die pa bs p = s.updMig die fun u => { u with held := u.held ++ [(pa, bs, p, g)] } := if_pos h

theorem writeHbm_now {s : State} {die pa : Nat} {bs : List Byte} (h : s.pageMoving die pa bs.length = false) (g : Nat) (p : Bool) :
    s.writeHbm g die pa bs p = s.writeHbmNow g die pa bs p := if_neg (by simp [h])

theorem mig_updMig_other (s : State) {d e : Nat} (f : MigUnit → MigUnit) (h : e ≠ d) : (s.updMig d f).mig e = s.mig e := get_set_other _ _ h

/-- Writes that join those that a die holds. -/
theorem accessed_updMig {s : State} {d : Nat} {f : MigUnit → MigUnit} (hf : ∀ u, (f u).run = u.run) : Accessed s (s.updMig d f) := by
  refine ⟨rfl, rfl, fun e => ?_, fun _ => rfl⟩
  by_cases he : e = d
  · subst he
    rw [mig_updMig, hf]
  · rw [mig_updMig_other s f he]

theorem accessed_writeHbm (s : State) (g die pa : Nat) (bs : List Byte) (p : Bool) : Accessed s (s.writeHbm g die pa bs p) := by
  cases h : s.pageMoving die pa bs.length
  · rw [writeHbm_now h]
    exact accessed_writeHbmNow ..
  · rw [writeHbm_held h]
    exact accessed_updMig fun _ => rfl

/-! ## Translations -/

theorem accessed_resolveAt (s : State) (core : Option Nat) (va : Word) (part : Nat) (sup write : Bool) :
    Accessed s (s.resolveAt core va part sup write).1 := by
  have tables (d p o : Nat) : Accessed s (s.noticeTables core d p o) := by
    unfold State.noticeTables
    dsimp only
    split
    · exact .refl s
    · exact (finds_foldl (fun t a => finds_notice t .hbm _ 8) _ s).accessed
  unfold State.resolveAt
  dsimp only
  split
  · exact .refl s
  · split
    · exact (tables _ _ _).trans ⟨rfl, rfl, fun _ => rfl, fun _ => rfl⟩
    · exact (tables _ _ _).trans ⟨rfl, rfl, fun _ => rfl, fun _ => rfl⟩

theorem accessed_resolve {s t : State} {va : Word} {part : Nat} {sup write : Bool} {r : Except AFault (Nat × Nat)}
    (h : s.resolve va part sup write = (t, r)) : Accessed s t := by
  have ha := accessed_resolveAt s none va part sup write
  rw [show s.resolveAt none va part sup write = (t, r) from h] at ha
  exact ha

/-! ## Records (R275) -/

theorem accessed_retarget (s : State) (k : Nat) : Accessed s (s.retarget k) := by
  have octet (t : State) (o : Nat) : Accessed t (t.retargetOctet o) := by
    unfold State.retargetOctet
    dsimp only
    split
    · exact .refl t
    · exact ⟨rfl, rfl, fun _ => rfl, fun _ => rfl⟩
  unfold State.retarget
  dsimp only
  refine (accessed_foldl (fun t x => ?_) _ s).trans (octet _ _)
  split
  · exact .refl t
  · refine ⟨rfl, rfl, fun _ => rfl, fun j => ?_⟩
    rw [core_updCore]
    split
    next h => rw [h]
    next => rfl

theorem accessed_contexts (s : State) (c : Ctx) (p : SMap Ctx) : Accessed s { s with c := c, parked := p } :=
  ⟨rfl, rfl, fun _ => rfl, fun _ => rfl⟩

theorem accessed_retargets (l : List (Nat × Ctx)) (s : State) : Accessed s (l.foldl (fun t e => t.retarget (coreOf e.1)) s) := by
  refine accessed_foldl (fun t e => ?_) l s
  exact accessed_retarget t _

/-- Waking changes contexts and operating points alone (R160). -/
theorem accessed_wakeHalted (s : State) (die : Nat) : Accessed s (s.wakeHalted die) := by
  unfold State.wakeHalted
  exact (accessed_contexts s _ _).trans (accessed_retargets _ _)

theorem accessed_setRings (s : State) (r : SMap Ring) : Accessed s { s with rings := r } := ⟨rfl, rfl, fun _ => rfl, fun _ => rfl⟩

theorem accessed_post (s : State) (i : Nat) (rec : List Byte) : Accessed s (s.post i rec) := by
  unfold State.post
  dsimp only
  split
  · exact accessed_setRings s _
  · split
    · exact accessed_setRings s _
    · split
      next t _ h => exact (accessed_resolve h).trans (accessed_setRings t _)
      next t die pa h =>
        have hw := ((accessed_resolve h).trans (accessed_writeHbm t 0 die pa rec false)).trans (accessed_setRings _
          (SMap.put Ring.none (t.writeHbm 0 die pa rec false).rings i { s.ring i with tail := (s.ring i).tail + 1#17 }))
        split
        · exact hw.trans (accessed_wakeHalted _ _)
        · exact hw

theorem accessed_postFault (s : State) (part : Nat) (rec : List Byte) : Accessed s (s.postFault part rec) := by
  unfold State.postFault State.postCounted
  dsimp only
  split
  · exact accessed_post ..
  · exact (accessed_post ..).trans ⟨rfl, rfl, fun _ => rfl, fun _ => rfl⟩

section
variable {s t : State} (h : Accessed s t)
include h

theorem Accessed.links : t.links = s.links := by rw [h.frame]
theorem Accessed.fab : t.fab = s.fab := by rw [h.frame]
theorem Accessed.regs : t.regs = s.regs := by rw [h.frame]

end

end Sys2Proof.Scope
end

section
/-! Page migration with a waiter whose wake posts a record (R264, R271, R275, R360, R362, R425). -/

namespace Sys2Proof.Scope

open Sys2Proof.Machine Sys2Proof.Safety Sys2Proof.Laws

/-! ## Zeros written over memory that nothing has written -/

theorem erase_of_absent {α : Type} {m : SMap α} {k : Nat} (h : ∀ e ∈ m, e.1 ≠ k) : m.erase k = m := by
  induction m with
  | nil => rfl
  | cons e m ih =>
    obtain ⟨hk, hm⟩ := List.forall_mem_cons.mp h
    rw [SMap.erase, if_neg hk, ih hm]

/-- The default written to a key that is not listed leaves the map. -/
theorem put_default {α : Type} [DecidableEq α] {d : α} {m : SMap α} {k : Nat} (h : ∀ e ∈ m, e.1 ≠ k) : SMap.put d m k d = m := by
  rw [SMap.put, SMap.set, if_pos rfl, erase_of_absent h]

theorem foldl_fixed {α β : Type} {f : β → α → β} {b : β} {l : List α} (h : ∀ x ∈ l, f b x = b) : l.foldl f b = b := by
  induction l with
  | nil => rfl
  | cons x l ih =>
    obtain ⟨hx, hl⟩ := List.forall_mem_cons.mp h
    rw [List.foldl_cons, hx, ih hl]

theorem bytes_above {m : Mem} {a : Nat} (h : ∀ e ∈ m, e.1 < a) (n : Nat) : Mem.bytes m a n = List.replicate n 0#8 := by
  induction n generalizing a with
  | zero => rfl
  | succ n ih =>
    have ha : Mem.byte m a = 0#8 := get_of_not_mem fun e he => Nat.ne_of_lt (h e he)
    rw [Mem.bytes, ha, ih fun e he => Nat.lt_succ_of_lt (h e he), List.replicate_succ]

theorem setBytes_zeros_above {m : Mem} {a : Nat} (h : ∀ e ∈ m, e.1 < a) (n : Nat) : Mem.setBytes m a (List.replicate n 0#8) = m := by
  induction n generalizing a with
  | zero => rfl
  | succ n ih =>
    have ha : Mem.setByte m a 0#8 = m := put_default fun e he => Nat.ne_of_lt (h e he)
    rw [List.replicate_succ, Mem.setBytes, ha, ih fun e he => Nat.lt_succ_of_lt (h e he)]

/-- Zeros written above every cell and mark of a memory without defects leave it. -/
theorem writeP_zeros_above {b : Bank} {shift a : Nat} (hf : b.flips = []) (hs : b.stuck = []) (hb : ∀ e ∈ b.bytes, e.1 < a)
    (hp : ∀ e ∈ b.pois, e.1 < a / 2 ^ shift) (n : Nat) : b.writeP shift a (List.replicate n 0#8) false = b := by
  have marks : (unitsOf shift a (List.replicate n 0#8).length).foldl (fun m u =>
      if false then SMap.put false m u true
      else if decide (a ≤ u * 2 ^ shift ∧ u * 2 ^ shift + 2 ^ shift ≤ a + (List.replicate n 0#8).length) then SMap.put false m u false
      else m) b.pois = b.pois := by
    refine foldl_fixed fun u hu => ?_
    have hle := (mem_unitsOf.mp hu).2.1
    have hput : SMap.put false b.pois u false = b.pois := put_default fun e he => by have := hp e he; omega
    simp only [Bool.false_eq_true, if_false, hput, ite_self]
  have flips (m : Mem) : b.flipsAfter m shift a (List.replicate n 0#8).length = b.flips := by
    simp [Bank.flipsAfter, hf, hs]
  simp only [Bank.writeP, setBytes_zeros_above hb, flips]
  exact congrArg (fun p => { b with pois := p }) marks

/-- The same for HBM, of which no error has been found and no gang logs. -/
theorem writeHbmNow_zeros_above {s : State} {g d pa : Nat} (hf : s.hbm.flips = []) (hs : s.hbm.stuck = []) (hn : s.hbmSeen = [])
    (hg : s.gangs = []) (hb : ∀ e ∈ s.hbm.bytes, e.1 < hbmKey d pa) (hp : ∀ e ∈ s.hbm.pois, e.1 < hbmKey d pa / 2 ^ 6) (n : Nat) :
    s.writeHbmNow g d pa (List.replicate n 0#8) false = s := by
  have edges : s.noticeEdges .hbm (hbmKey d pa) (List.replicate n 0#8).length = s := noticeEdges_clean (m := .hbm) hf _ _
  have logs : (unitsOf 6 pa (List.replicate n 0#8).length).foldl (fun t u => t.logLine g d (u * 64)) s = s :=
    foldl_fixed fun u _ => by simp [State.logLine, State.gang, hg]
  have seen (p : Nat → Bool) : (unitsOf 6 (hbmKey d pa) (List.replicate n 0#8).length).foldl
      (fun m u => if p u then SMap.put false m u false else m) ([] : SMap Bool) = [] :=
    foldl_fixed fun u _ => by split <;> rfl
  simp only [State.writeHbmNow, edges, logs, writeP_zeros_above hf hs hb hp, hn, Bool.false_or, seen, List.filter_nil]
  exact congrArg (fun n => { s with hbmSeen := n }) hn.symm

/-- A read of memory without wrong bits or marked lines finds nothing. -/
theorem noticePoison_clean {s : State} {d pa n : Nat} (hf : s.hbm.flips = [])
    (hp : ∀ u ∈ unitsOf 6 (hbmKey d pa) n, SMap.at false s.hbm.pois u = false) (q : Req) (va : Word) : s.noticePoison q va d pa n = s := by
  have hn : s.notice .hbm (hbmKey d pa) n = s := if_pos (by simp [State.bank, hf])
  rw [State.noticePoison, hn]
  exact foldl_fixed fun u hu => if_neg (by simp [hp u hu])

/-- What TLBINV names of a page that has been migrated (R425). -/
def Migration.inv (m : Migration) : Word := toWord (boolNat (m.space == 16) * 2 ^ 62 + m.space % 16 * 2 ^ 50 + m.off)

/-- The leaf of a page that has been migrated. -/
def Migration.leaf (m : Migration) (e : Word) : Word := toWord (setBits e.toNat 8 31 (m.dst / 256))

/-- A migration whose page has its leaf and whose destination is in place copies the page, writes the leaf, drops the translations
and wakes the waiters; it changes where operations, commands, elements and logs point, and releases the held writes. -/
theorem exec_migrationComplete_moves {s : State} {d a n : Nat} {m : Migration} {e : Word} (hr : (s.mig d).run = some m)
    (hl : s.pageLeaf d m.space m.off = some (a, e, n)) (hn : n = m.size) (ha : m.dst % 2 ^ n = 0) (hb : m.dst + 2 ^ n ≤ hbmSize) :
    ∃ os cs es gs, exec (.migrationComplete d) s = .next (State.releaseHeld
      { (((s.copyPage d m).1.writeHbmNow 0 d a (natLe (Migration.leaf m e).toNat 8) false).dropTlb d (Migration.inv m)).wakeNamed d
          (Migration.inv m) with ops := os, cmds := cs, elems := es, gangs := gs } d (if (s.copyPage d m).2 then 1 else 0) m.moved) := by
  have hpos := Nat.two_pow_pos n
  change ∃ os cs es gs, execMigrationComplete d s = _
  simp only [execMigrationComplete, hr, hl]
  rw [if_neg (by omega), if_neg (by omega)]
  exact ⟨_, _, _, _, rfl⟩

/-! ## A migration that wakes a waiter on a poisoned line -/

/-- The supervisor of context 0 waits on address 0x10040. -/
def waiter : Op :=
  { id := 7, agent := 0, owner := 0, kind := .waitv 0x10040#64 8 0#64, dest := none, gp := false, acq := false, rel := none, pos := 0,
    cyc := 0#64, pc := 0#64, hm := false, phase := .armed, result := [], ready := true, bundle := 0, bun := 0, units := [] }

/-- The supervisor's pages of 64 KiB at 0, 0x10000 and 0x20000 lie at 0x200000, 0x210000 and 0x220000 of die 0. The line that is
waited on is poisoned, and no read has reported it; die 0's SVRING lies in the third page. -/
def waitingState : State :=
  let word (m : Mem) (a v : Nat) : Mem := Mem.setBytes m a (natLe v 8)
  { (State.reset.setReg 0 0x8F2 0x8000000000004000#64).sys (fun y => { y with sup := true }) with
    hbm := { Bank.empty 6 with
      bytes := word (word (word (word (word (word [] 0x4000 0x8000000000005000) 0x5000 0x8000000000006000) 0x6000 0x8000000000007000)
        0x7000 0xD000000000200000) 0x7008 0xD000000000210000) 0x7010 0xD000000000220000
      pois := [(0x8401, true)] }
    rings := [(32, { Ring.none with reg := 0x20007#64, force := 0x20007#64 })]
    ops := [waiter]
    monitors := [⟨0, 0x210040, 0x10040#64, true, 0, 7⟩] }

/-- The page at 0 goes to 0x400000. -/
def waitingMove : Migration := ⟨16, 0, 16, 0x200000, 0x400000⟩

/-- Die 0 migrates the page at 0, which holds zeros and has no error. -/
def movingState : State := waitingState.updMig 0 fun m => { m with run := some waitingMove }

theorem movingState_clean : movingState.hbm.flips = [] ∧ movingState.hbm.stuck = [] ∧ movingState.hbmSeen = [] ∧ movingState.gangs = [] ∧
    movingState.hbm.pois = [(0x8401, true)] ∧ (∀ e ∈ movingState.hbm.bytes, e.1 < 0x8000) ∧ movingState.tlb = [] ∧
    (movingState.mig 0).run = some waitingMove ∧ (movingState.mig 0).held = [] ∧
    movingState.pageLeaf 0 16 0 = some (0x7000, 0xD000000000200000#64, 16) := by decide +kernel

theorem movingState_mark {u : Nat} (h : u ≠ 0x8401) : SMap.at false movingState.hbm.pois u = false := by
  obtain ⟨-, -, -, -, hp, -⟩ := movingState_clean
  rw [hp]
  exact if_neg fun e => h e.symm

theorem movingState_poisoned {a : Nat} (h : a / 64 ≠ 0x8401) : movingState.hbm.poisoned 6 a = false := by
  obtain ⟨hf, -⟩ := movingState_clean
  simp [Bank.poisoned, Bank.lost, Bank.worn, hf, movingState_mark h]

/-- The copy writes zeros over memory that nothing has written. -/
theorem copyPage_movingState : movingState.copyPage 0 waitingMove = (movingState, false) := by
  obtain ⟨hf, hs, hn, hg, hp, hb, -⟩ := movingState_clean
  refine foldl_fixed fun i hi => ?_
  have hi : i < 1024 := List.mem_range.mp hi
  have units : ∀ u ∈ unitsOf 6 (hbmKey 0 (waitingMove.src + 64 * i)) 64, u ≠ 0x8401 := fun u hu => by
    have := mem_unitsOf.mp hu
    simp only [hbmKey, waitingMove] at this
    omega
  have line : (hbmKey 0 (waitingMove.src + 64 * i)) / 64 ≠ 0x8401 := by
    simp only [hbmKey, waitingMove]
    omega
  have zeros := bytes_above (a := hbmKey 0 (waitingMove.src + 64 * i)) (fun e he => (hb e he).trans_le (by
    simp only [hbmKey, waitingMove]; omega)) 64
  simp only [noticePoison_clean hf fun u hu => movingState_mark (units u hu), movingState_poisoned line, zeros, Bool.or_false]
  rw [writeHbmNow_zeros_above hf hs hn hg]
  · exact fun e he => (hb e he).trans_le (by simp only [hbmKey, waitingMove]; omega)
  · rw [hp]
    simp only [List.mem_singleton, forall_eq, hbmKey, waitingMove]
    omega

theorem releaseHeld_tlb (s : State) (d result : Nat) (dest : Nat → Nat) : (s.releaseHeld d result dest).tlb = s.tlb := by
  have now (t : State) (g d pa : Nat) (bs : List Byte) (p : Bool) : (t.writeHbmNow g d pa bs p).tlb = t.tlb := by
    obtain ⟨_, _, _, _, h, -⟩ := writeHbmNow_frame t g d pa bs p
    rw [h]
  refine List.foldlRecOn (motive := fun (t : State) => t.tlb = s.tlb) _ _ rfl fun t ht h _ => ?_
  exact List.foldlRecOn (motive := fun (t : State) => t.tlb = s.tlb) _ _ ht fun t ht l _ => (now ..).trans ht

/-- The wake of the move posts the record of the poisoned line, and SVRING's translation is kept. -/
theorem movingState_woken : (((movingState.writeHbmNow 0 0 0x7000 (natLe (Migration.leaf waitingMove 0xD000000000200000#64).toNat 8) false).dropTlb
    0 (Migration.inv waitingMove)).wakeNamed 0 (Migration.inv waitingMove)).tlb ≠ [] := by decide +kernel

/-- Refutes O35: the page that moves has no error, but its invalidation wakes a waiter of the 2 MiB around it (R362), whose line is
poisoned; the record of that posts to SVRING, and the ring's translation is kept (R270), so that the TLB gains an entry. -/
theorem not_hostMemoryAndPages : ¬ Obligations.HostMemoryAndPages := by
  intro h
  obtain ⟨hf, hs, hn, hg, hp, hb, htlb, hrun, hheld, hleaf⟩ := movingState_clean
  obtain ⟨-, -, -, -, -, hm⟩ := h.2 movingState 0
  obtain ⟨-, hm⟩ := hm _ hrun
  obtain ⟨-, -, hm⟩ := hm _ _ _ hleaf
  obtain ⟨t, ht, -, -, -, hkeeps, -⟩ := (hm rfl (by decide) (by decide)).2 ⟨hf, fun i hi => movingState_poisoned (by
    simp only [hbmKey, waitingMove]; omega)⟩ hheld (by decide) (by decide)
  obtain ⟨os, cs, es, gs, moved⟩ := exec_migrationComplete_moves hrun hleaf rfl (by decide) (by decide)
  rw [copyPage_movingState] at moved
  have gains := congrArg State.tlb (Host.Outcome.next.inj (ht.symm.trans moved))
  rw [releaseHeld_tlb] at gains
  have none_ : t.tlb = [] := List.eq_nil_iff_forall_not_mem.mpr fun x hx => by
    have := (hkeeps x hx).1
    simp [htlb] at this
  rw [none_] at gains
  dsimp only at gains
  exact movingState_woken gains.symm

end Sys2Proof.Scope
end

section
/-! Rollback causes, the undo log and restarts (R413, R416, R420 to R423). -/

namespace Sys2Proof.Scope

open Sys2Proof.Machine Sys2Proof.Safety Sys2Proof.Laws

theorem gang_id {s : State} {i : Nat} {g : Gang} (h : s.gang i = some g) : g.id = i :=
  beq_iff_eq.mp (List.find?_some (p := fun g : Gang => g.id == i) h)

theorem mem_resident {g : Gang} {m : Nat} : m ∈ g.resident ↔ (∃ e ∈ g.members, e.2 = m) ∧ m < 2048 := by
  simp [Gang.resident]

/-- A gang has its log while no entry has been lost and the die of every resident member logs (R419, R423). -/
theorem noLog_eq_false_iff {s : State} {g : Gang} : s.noLog g = false ↔ g.nolog = false ∧
    ∀ m ∈ g.members, m.2 < 2048 → bitAt (s.reg (dieOf (coreOf m.2)) (0x980 + g.part)) 63 = true := by
  simp only [State.noLog, Bool.or_eq_false_iff, List.any_eq_false, mem_resident, Bool.not_eq_true', Bool.not_eq_false]
  exact and_congr_right fun _ => ⟨fun h m hm hx => h m.2 ⟨⟨m, hm, rfl⟩, hx⟩, fun h m ⟨⟨e, he, hm⟩, hx⟩ => hm ▸ h e he (hm ▸ hx)⟩

section
variable {s : State} {x cause : Nat} {g : Gang} (hg : s.gang (s.ctx x).y.gang = some g) (hr : g.rollback = none)
  (hf : (s.ctx x).st ≠ .free)
include hg hr hf

theorem beginRollback_logged (hl : s.noLog g = false) : s.beginRollback x cause =
    (g.resident.foldl State.cutOff s).updGang g.id fun z => { z with
      rollback := some (cause, x, (s.ctx x).f.lcc, 0),
      stops := g.members.filterMap fun m => if m.2 < 2048 then (s.ctx m.2).y.stop.map fun q => (m.1, m.2, q) else none } := by
  simp [State.beginRollback, hg, hr, hf, hl]

theorem beginRollback_unlogged (hl : s.noLog g = true) : s.beginRollback x cause =
    ((g.resident.filter fun m => !(s.ctx m).exiting).foldl
      (fun u m => (u.postSuspend m 6 (causeKind cause) 15 0#64).stopCtx m .suspended) s).postRollback g x cause 1 (s.ctx x).f.lcc 0 := by
  simp [State.beginRollback, hg, hr, hf, hl]

end

/-! ## Causes (R416, R420) -/

section
variable {s : State} {x : Nat} (hx : x < 2048) (hf : (s.ctx x).st ≠ .free)
include hx hf

theorem exec_uncorr_sup (h : (s.ctx x).y.sup = true) : exec (.uncorr x) s =
    .next (((s.countUE (10 + coreOf x) 1 0#64).postSuspend x 8 21 15 0#64).stopCtx x .suspended) := by
  change execUncorr x s = _
  have := Nat.not_le.mpr hx
  simp [execUncorr, h, hf, this]

theorem exec_uncorr_member (h : (s.ctx x).y.sup = false) : exec (.uncorr x) s =
    .next ((s.countUE (10 + coreOf x) 1 0#64).beginRollback x 1) := by
  change execUncorr x s = _
  have := Nat.not_le.mpr hx
  simp [execUncorr, h, hf, this]

theorem exec_lockstepMismatch_member (h : (s.ctx x).y.sup = false) (hp : s.pairSecond (coreOf x + 1) = true) :
    exec (.lockstepMismatch x) s =
      .next (((s.countUE (10 + coreOf x) 1 0#64).countUE (11 + coreOf x) 1 0#64).beginRollback x 2) := by
  change execLockstepMismatch x s = _
  have := Nat.not_le.mpr hx
  simp [execLockstepMismatch, h, hf, this, hp]

end

theorem exec_lockstepMismatch_idle {s : State} {x : Nat} (h : (s.ctx x).y.sup = true ∨ s.pairSecond (coreOf x + 1) = false) :
    exec (.lockstepMismatch x) s = .next s := by
  change execLockstepMismatch x s = _
  rcases h with h | h <;> simp [execLockstepMismatch, h]

theorem exec_rollreq_member {s : State} {x y : Nat} {v : Word} (hy : (s.ctx y).y.sup = true) (hv : bitAt v 63 = true)
    (hx : bits v 0 11 = x) (hf : (s.ctx x).st ≠ .free) (h : (s.ctx x).y.sup = false) :
    exec (.rollreq y v) s = .next (s.beginRollback x 3) := by
  change execRollreq y v s = _
  simp [execRollreq, State.rollreqWrite, hy, hv, hx, hf, h]

theorem exec_rollreq_idle {s : State} {y : Nat} {v : Word} (h : (s.ctx y).y.sup = false ∨ bitAt v 63 = false) :
    exec (.rollreq y v) s = .next s := by
  change execRollreq y v s = _
  rcases h with h | h <;> simp [execRollreq, State.rollreqWrite, h]

/-! ## GANG_ROLLBACK (R421, R423) -/

section
variable {s : State} {i cause x lines : Nat} {g : Gang} {lcc : Word} (hg : s.gang i = some g) (hr : g.rollback = some (cause, x, lcc, lines))
include hg hr

theorem exec_gangRollback_idle (h : SMap.at false s.svc.busy g.part = true ∨ (∃ m ∈ g.resident, s.spent m = false) ∨ g.resident = []) :
    exec (.gangRollback i) s = .next s := by
  change execGangRollback i s = _
  simp only [execGangRollback, hg, hr]
  refine congrArg _ (if_pos ?_)
  rcases h with h | ⟨m, hm, h⟩ | h
  · simp [h]
  · have : g.resident.all s.spent = false := List.all_eq_false.mpr ⟨m, hm, by simp [h]⟩
    simp [this]
  · simp [h]

variable (hc : cause ≠ 9) (hb : SMap.at false s.svc.busy g.part = false) (hm : g.resident ≠ []) (hs : ∀ m ∈ g.resident, s.spent m = true)
include hc hb hm hs

/-- A rollback whose members have nothing in flight goes on. -/
theorem exec_gangRollback_spent : exec (.gangRollback i) s = .next (
    if g.nolog then s.loseLog g cause x lcc
    else if !g.resident.all s.quiet then g.resident.foldl State.endRuns s
    else (g.resident.foldl State.sweep (g.undo.foldl State.undoItem (s.chargeEnergy g.part (s.gangEnergy g)))).updGang i fun z =>
      { z with
        rollback := some (cause, x, lcc, (g.undo.filter fun u => match u with | .line .. => true | _ => false).length),
        members := z.members.map (fun m => (m.1, 0xFFFF)), undo := [], nolog := false, exited := [], bars := [], saved := [],
        energy := 0#64 }) := by
  change execGangRollback i s = _
  have hs : g.resident.all s.spent = true := List.all_eq_true.mpr hs
  simp only [execGangRollback, hg, hr]
  exact congrArg Host.Outcome.next (if_neg (by simp [hc, hb, hm, hs]))

end

theorem spent_of_quiet {s : State} {m : Nat} (h : s.quiet m = true) : s.spent m = true := (Bool.and_eq_true_iff.mp h).1

/-! ## ROLLBACK_RESTART (R421, R422) -/

theorem exec_rollbackRestart_idle {s : State} {i : Nat} {g : Gang} (hg : s.gang i = some g)
    (h : g.resident ≠ [] ∨ ∃ l ∈ (s.placer g.die).ready, ∃ e ∈ l, e.gang = some i) : exec (.rollbackRestart i) s = .next s := by
  change execRollbackRestart i s = _
  simp only [execRollbackRestart, hg]
  refine congrArg _ (if_pos ?_)
  rcases h with h | ⟨l, hl, e, he, h⟩
  · simp [h]
  · have : (s.placer g.die).ready.any (fun l => l.any fun e => e.gang == some i) = true :=
      List.any_eq_true.mpr ⟨l, hl, List.any_eq_true.mpr ⟨e, he, by simp [h]⟩⟩
    simp [this]

section
variable {s : State} {i cause x lines : Nat} {g : Gang} {lcc : Word} (hg : s.gang i = some g) (hr : g.rollback = some (cause, x, lcc, lines))
  (hm : g.resident = []) (hw : ∀ l ∈ (s.placer g.die).ready, ∀ e ∈ l, e.gang ≠ some i) {r : Replay} {n : GNode}
  (hq : s.replayOf g.queue = some r) (hn : r.nodes[g.node]? = some n)
include hg hr hm hw hq hn

/-- A gang without members that waits nowhere is placed in its class. -/
theorem exec_rollbackRestart_places : exec (.rollbackRestart i) s = .next
    (match s.placeNode r g.node n (s.nodeClass g.queue n) (some g) with
    | (t, .ok) => t.restarted g
    | (t, .fails c) => t.restartFails g c
    | (t, .nofit) => t.updPlacer g.die fun p => { p with
        ready := p.ready.zipIdx.map fun l => if l.2 == s.nodeClass g.queue n then ⟨g.queue, g.node, some i, false⟩ :: l.1 else l.1 }) := by
  have hw : (s.placer g.die).ready.any (fun l => l.any fun e => e.gang == some i) = false :=
    List.any_eq_false.mpr fun l hl => by simpa using hw l hl
  change execRollbackRestart i s = _
  simp only [execRollbackRestart, hg]
  rw [if_neg (by simp [hr, hm, hw])]
  simp only [hq, hn, Option.bind_some, State.placeAgain]
  rcases s.placeNode r g.node n (s.nodeClass g.queue n) (some g) with ⟨t, _ | _ | c⟩ <;> rfl

end

/-- Settles O38: the causes by whether the gang has its log, the rollback by what its members still have in flight, the restart by how
the gang's placement ends. -/
theorem rollbacks : Obligations.Rollbacks := by
  unfold Obligations.Rollbacks
  refine ⟨fun s x y v hx hf => ⟨exec_uncorr_sup hx hf, fun hs g hg hr => ?_, exec_rollreq_idle, exec_lockstepMismatch_idle⟩,
    fun s i cause x lines g lcc hg hr hc => ?_⟩
  · have lost {t : State} (h : ¬ (g.nolog = false ∧
        ∀ m ∈ g.members, m.2 < 2048 → bitAt (s.reg (dieOf (coreOf m.2)) (0x980 + g.part)) 63 = true))
        (ht : t.noLog g = s.noLog g) : t.noLog g = true :=
      ht.trans (Bool.of_not_eq_false fun hl => h (noLog_eq_false_iff.mp hl))
    refine ⟨fun hl => ?_, fun hl => ?_, fun hp => ⟨fun hl => ?_, fun hl => ?_⟩, fun hy hv hxy => ⟨fun hl => ?_, fun hl => ?_⟩⟩
    · exact (exec_uncorr_member hx hf hs).trans (congrArg _ (beginRollback_logged hg hr hf (noLog_eq_false_iff.mpr hl)))
    · exact (exec_uncorr_member hx hf hs).trans (congrArg _ (beginRollback_unlogged hg hr hf (lost hl rfl)))
    · exact (exec_lockstepMismatch_member hx hf hs hp).trans (congrArg _ (beginRollback_logged hg hr hf (noLog_eq_false_iff.mpr hl)))
    · exact (exec_lockstepMismatch_member hx hf hs hp).trans (congrArg _ (beginRollback_unlogged hg hr hf (lost hl rfl)))
    · exact (exec_rollreq_member hy hv hxy hf hs).trans (congrArg _ (beginRollback_logged hg hr hf (noLog_eq_false_iff.mpr hl)))
    · exact (exec_rollreq_member hy hv hxy hf hs).trans (congrArg _ (beginRollback_unlogged hg hr hf (lost hl rfl)))
  · refine ⟨fun ⟨hb, hm, hn, hq⟩ t ht => ?_, fun hb hm hs => ⟨fun hn ⟨m, hmem, hq⟩ => ?_, fun hn t ht => ?_⟩,
      exec_gangRollback_idle hg hr, exec_rollbackRestart_idle hg, fun hm hw r n hq hn => ⟨fun t h hp hh => ?_, fun t c hp => ?_, fun t hp => ?_⟩⟩
    · have all : g.resident.all s.quiet = true := List.all_eq_true.mpr hq
      rw [exec_gangRollback_spent hg hr hc (Bool.of_not_eq_true hb) hm fun m hm => spent_of_quiet (hq m hm), ht, gang_id hg, hn, all]
      rfl
    · have all : g.resident.all s.quiet = false := List.all_eq_false.mpr ⟨m, hmem, by simp [hq]⟩
      rw [exec_gangRollback_spent hg hr hc (Bool.of_not_eq_true hb) hm hs, hn, all]
      rfl
    · rw [exec_gangRollback_spent hg hr hc (Bool.of_not_eq_true hb) hm hs, hn, ht]
      rfl
    · rw [exec_rollbackRestart_places hg hr hm hw hq hn, State.nodeClass, hp]
      simp only [State.restarted, hr, hh]
    · rw [exec_rollbackRestart_places hg hr hm hw hq hn, State.nodeClass, hp]
    · rw [exec_rollbackRestart_places hg hr hm hw hq hn, State.nodeClass, hp]
      simp only [beq_iff_eq]

end Sys2Proof.Scope
end

section
/-! Partition reset and the replacement of gangs (R51, R70, R73, R74). -/

namespace Sys2Proof.Scope

open Sys2Proof.Machine Sys2Proof.Safety Sys2Proof.Laws

/-! ## Reset of a partition (R51) -/

theorem bits_lt (v : Word) (i n : Nat) : bits v i n < 2 ^ n := Nat.mod_lt _ (Nat.two_pow_pos n)

/-- What a request leaves when no reset is in progress: the contexts stop, the STOPs of the gangs end, the logs are empty. -/
theorem resetRequest_begins {s : State} {n : Nat} (hn : n < 16) (hb : SMap.at false s.svc.busy n = false) : s.resetRequest n =
    (let t := (s.contextsOf n).foldl (fun t x => (t.leaveRunning x 0).cutOff x)
       (s.updSvc fun w => { w with busy := SMap.put false w.busy n true })
     let u := ((t.gangs.filter fun g => g.part == n).flatMap fun g => g.stops).foldl (fun t e => t.leaveRunning e.2.1 0) t
     { u with gangs := updWhere (fun (g : Gang) => g.part == n) (fun g => { g with undo := [], stops := [] }) u.gangs }) :=
  if_neg (by simp [State.partBusy, hb, hn])

theorem resetRequest_busy {s : State} {n : Nat} (hb : SMap.at false s.svc.busy n = true) : s.resetRequest n = s := if_pos (.inr hb)

theorem exec_pctlRst (s : State) (n : Nat) : exec (.pctlRst n) s = .next (if bitAt (s.reg 0 0x882) n then s.resetRequest n else s) := rfl

theorem exec_prst (s : State) (x : Nat) (v : Word) : exec (.prst x v) s =
    .next (if (s.ctx x).y.sup then (if bitAt v 63 then s.resetRequest (bits v 16 4) else s) else s) := rfl

@[simp] theorem updQueue_gangs (s : State) (q : Nat) (f : Queue → Queue) : (s.updQueue q f).gangs = s.gangs := rfl

@[simp] theorem updQueue_fltcnt (s : State) (q : Nat) (f : Queue → Queue) : (s.updQueue q f).fltcnt = s.fltcnt := rfl

@[simp] theorem postCompletion_gangs (s : State) (q : Nat) (seq : BitVec 32) (tag : BitVec 16) (code : Nat) (node : Option Nat) (part : Nat)
    (a b : Word) : (s.postCompletion q seq tag code node part a b).gangs = s.gangs := rfl

@[simp] theorem postCompletion_fltcnt (s : State) (q : Nat) (seq : BitVec 32) (tag : BitVec 16) (code : Nat) (node : Option Nat) (part : Nat)
    (a b : Word) : (s.postCompletion q seq tag code node part a b).fltcnt = s.fltcnt := rfl

theorem endReplay_frame (s : State) (r : Replay) (code : Nat) (node : Option Nat) :
    (s.endReplay r code node).gangs = s.gangs ∧ (s.endReplay r code node).fltcnt = s.fltcnt := by
  obtain ⟨cs, hcs⟩ := dropCopies_frame (replayClosed s r code node) r.die r.part
  rw [endReplay_eq, hcs, withInterrupt_eq]
  simp [replayClosed]

/-- The records of a queue's reset go to the host: no gang and no fault count changes. -/
theorem resetQueue_frame (s : State) (n q : Nat) : (s.resetQueue n q).gangs = s.gangs ∧ (s.resetQueue n q).fltcnt = s.fltcnt := by
  unfold State.resetQueue
  refine List.foldlRecOn (motive := fun (t : State) => t.gangs = s.gangs ∧ t.fltcnt = s.fltcnt) _ _ ?_ fun t ht k _ => ?_
  · split
    next r _ =>
      split
      · exact endReplay_frame s r 0x20 none
      · exact ⟨rfl, rfl⟩
    next => exact ⟨rfl, rfl⟩
  · dsimp only
    split <;> simpa using ht

theorem resetQueues_frame (s : State) (n : Nat) (qs : List Nat) :
    (qs.foldl (fun t q => t.resetQueue n q) s).gangs = s.gangs ∧ (qs.foldl (fun t q => t.resetQueue n q) s).fltcnt = s.fltcnt :=
  List.foldlRecOn (motive := fun (t : State) => t.gangs = s.gangs ∧ t.fltcnt = s.fltcnt) qs _ ⟨rfl, rfl⟩ fun t ht q _ =>
    ⟨(resetQueue_frame t n q).1.trans ht.1, (resetQueue_frame t n q).2.trans ht.2⟩

theorem exec_partitionResetComplete_waits {s : State} {n : Nat}
    (h : SMap.at false s.svc.busy n = false ∨ ∃ c ∈ s.contextsOf n, s.spent c = false) : exec (.partitionResetComplete n) s = .next s := by
  change execPartitionResetComplete n s = _
  refine congrArg _ (if_pos ?_)
  rcases h with h | ⟨c, hc, h⟩
  · simp [State.partBusy, h]
  · have : (s.contextsOf n).all s.spent = false := List.all_eq_false.mpr ⟨c, hc, by simp [h]⟩
    simp [this]

section
variable {s : State} {n : Nat} (hb : SMap.at false s.svc.busy n = true)
  (hw : ∀ m ∈ s.cmds, m.part = n → m.ofLaunch = true → m.waiting = false)
include hb hw

/-- The runs of the Ladles that serve the contexts end once nothing else is in flight. -/
theorem exec_partitionResetComplete_runs (hs : ∀ c ∈ s.contextsOf n, s.spent c = true) (hq : ∃ c ∈ s.contextsOf n, s.quiet c = false) :
    exec (.partitionResetComplete n) s = .next ((s.contextsOf n).foldl State.endRuns s) := by
  have spent : (s.contextsOf n).all s.spent = true := List.all_eq_true.mpr hs
  have quiet : (s.contextsOf n).all s.quiet = false := by
    obtain ⟨c, hc, h⟩ := hq
    exact List.all_eq_false.mpr ⟨c, hc, by simp [h]⟩
  change execPartitionResetComplete n s = _
  simp only [execPartitionResetComplete]
  rw [if_neg (by simpa [State.partBusy, hb, spent] using hw), if_pos (by simp [quiet])]

omit hb hw in
theorem busy_setBusy (s : State) (n : Nat) (b : Bool) : SMap.at false (s.setBusy n b).svc.busy n = b := get_set_same ..

/-- BUSY clears, and neither gangs nor fault counts of the partition are left. -/
theorem exec_partitionResetComplete_ends (hq : ∀ c ∈ s.contextsOf n, s.quiet c = true) : ∃ t, exec (.partitionResetComplete n) s = .next t ∧
    SMap.at false t.svc.busy n = false ∧ (∀ g ∈ t.gangs, g.part ≠ n) ∧ SMap.at 0#32 t.fltcnt n = 0#32 := by
  have spent : (s.contextsOf n).all s.spent = true := List.all_eq_true.mpr fun c hc => spent_of_quiet (hq c hc)
  have quiet : (s.contextsOf n).all s.quiet = true := List.all_eq_true.mpr hq
  change ∃ t, execPartitionResetComplete n s = _ ∧ _
  simp only [execPartitionResetComplete]
  rw [if_neg (by simpa [State.partBusy, hb, spent] using hw), if_neg (by simp [quiet])]
  refine ⟨_, rfl, busy_setBusy .., fun g hg => ?_, ?_⟩
  · rw [State.setBusy, updSvc_gangs, (resetQueues_frame ..).1] at hg
    dsimp only at hg
    simpa using (List.mem_filter.mp hg).2
  · rw [State.setBusy, updSvc_fltcnt, (resetQueues_frame ..).2]
    dsimp only
    exact get_set_same (d := fun _ => 0#32) ..

end

/-! ## REPLACE (R74) -/

/-- May the gang move: does no rollback wait, and has every member stopped? -/
theorem movable_iff {s : State} {g : Gang} : (g.rollback.isSome || !s.allStopped g) = false ↔
    g.rollback = none ∧ (∀ m ∈ g.members, m.2 ≠ 0xFFFF) ∧
    ∀ m ∈ g.resident, ((s.ctx m).st = .preempted ∨ (s.ctx m).st = .suspended) ∧ (s.ctx m).exiting = false := by
  simp [State.allStopped]

theorem exec_replace_ignored {s : State} {x : Nat} {v : Word}
    (h : (s.ctx x).y.sup = false ∨ (s.placer (dieOf (coreOf (bits v 0 11)))).replacing ≠ none) : exec (.replace x v) s = .next s := by
  change Host.Outcome.next (if (s.ctx x).y.sup then s.replaceWrite v else s) = _
  rcases h with h | h
  · simp [h]
  · rw [← Option.isSome_iff_ne_none] at h
    simp [State.replaceWrite, h]

section
variable {s : State} {x : Nat} {v : Word} (hx : (s.ctx x).y.sup = true) {y d : Nat} (hy : y = bits v 0 11) (hd : d = dieOf (coreOf y))
  (hr : (s.placer d).replacing = none) {w : State} (hw : w = s.setReg d 0x8D8 (toWord (setBits (s.reg d 0x8D8).toNat 0 11 y)))
include hx hy hd hr hw

theorem exec_replace_write (hv : bitAt v 63 = false) : exec (.replace x v) s = .next w := by
  subst hy hd hw
  change Host.Outcome.next (if (s.ctx x).y.sup then s.replaceWrite v else s) = _
  simp [State.replaceWrite, hx, hr, hv]

theorem exec_replace_noGang (hv : bitAt v 63 = true) (h : s.gang (s.ctx y).y.gang = none ∨ (s.ctx y).st = .free) :
    exec (.replace x v) s = .next (w.replaceResult d 3) := by
  subst hy hd hw
  change Host.Outcome.next (if (s.ctx x).y.sup then s.replaceWrite v else s) = _
  simp only [State.replaceWrite, hx, hr, hv]
  rcases h with h | h
  · simp [h]
  · cases hg : s.gang (s.ctx (bits v 0 11)).y.gang <;> simp [h]

theorem exec_replace_gang {g : Gang} (hv : bitAt v 63 = true) (hg : s.gang (s.ctx y).y.gang = some g) (hf : (s.ctx y).st ≠ .free) :
    exec (.replace x v) s = .next (if g.rollback.isSome || !s.allStopped g then w.replaceResult d 2
      else w.updPlacer d fun p => { p with replacing := some y }) := by
  subst hy hd hw
  change Host.Outcome.next (if (s.ctx x).y.sup then s.replaceWrite v else s) = _
  simp [State.replaceWrite, hx, hr, hv, hg, hf]

end

/-! ## The end of a replacement (R73, R74) -/

theorem exec_replaceComplete_idle {s : State} {n : Nat} (h : (s.placer n).replacing = none) : exec (.replaceComplete n) s = .next s := by
  change execReplaceComplete n s = _
  simp only [execReplaceComplete, h]

/-- The report of a replacement on a die, which ends it. -/
def replaced (s : State) (n code : Nat) : State := (s.updPlacer n fun p => { p with replacing := none }).replaceResult n code

section
variable {s : State} {n z : Nat} (h : (s.placer n).replacing = some z)
include h

theorem exec_replaceComplete_noGang (hg : s.gang (s.ctx z).y.gang = none) : exec (.replaceComplete n) s = .next (replaced s n 3) := by
  change execReplaceComplete n s = _
  simp only [execReplaceComplete, h, hg]
  rfl

variable {g : Gang} (hg : s.gang (s.ctx z).y.gang = some g)
include hg

theorem exec_replaceComplete_moved (hm : g.rollback ≠ none ∨ s.allStopped g = false ∨ SMap.at false s.svc.busy g.part = true) :
    exec (.replaceComplete n) s = .next (replaced s n 2) := by
  change execReplaceComplete n s = _
  simp only [execReplaceComplete, h, hg]
  refine congrArg _ (if_pos ?_)
  rw [← Option.isSome_iff_ne_none] at hm
  rcases hm with hm | hm | hm <;> simp [hm, State.partBusy]

variable (hr : g.rollback = none) (ha : s.allStopped g = true) (hb : SMap.at false s.svc.busy g.part = false)
  {t : State} (ht : t = g.resident.foldl State.leaveWait s)
include hr ha hb ht

theorem exec_replaceComplete_waits (hm : ∃ m ∈ g.resident, t.saveReady m = false) : exec (.replaceComplete n) s = .next t := by
  subst ht
  have ready : g.resident.all (g.resident.foldl State.leaveWait s).saveReady = false := by
    obtain ⟨m, hm, hs⟩ := hm
    exact List.all_eq_false.mpr ⟨m, hm, by simp [hs]⟩
  change execReplaceComplete n s = _
  simp only [execReplaceComplete, h, hg]
  rw [if_neg (by simp [hr, ha, hb, State.partBusy]), if_pos (by simp [ready])]

/-- Members with nothing in flight move as the code object that is read tells. -/
theorem exec_replaceComplete_goes (hm : ∀ m ∈ g.resident, t.saveReady m = true) : exec (.replaceComplete n) s = .next
    (match t.readObject (launchReq g.die g.part) g.obj with
    | (u, .error c) => replaced (u.terminate g z c) n 1
    | (u, .ok o) => match u.chooseMoves g ⟨g.part, g.feat, g.obj, g.gen, o.imsize, o.region⟩ with
      | none => replaced u n 1
      | some slots => replaced ((slots.filterMap fun e => match g.members.find? fun m => m.1 == e.1 with
          | some m => if m.2 < 2048 ∧ m.2 ≠ e.2 then some (m.2, e.2) else none
          | none => none).foldl (fun w m => w.moveMember o ⟨g.part, g.feat, g.obj, g.gen, o.imsize, o.region⟩ m.1 m.2) u) n 0) := by
  subst ht
  have ready : g.resident.all (g.resident.foldl State.leaveWait s).saveReady = true := List.all_eq_true.mpr hm
  change execReplaceComplete n s = _
  simp only [execReplaceComplete, h, hg]
  rw [if_neg (by simp [hr, ha, hb, State.partBusy]), if_neg (by simp [ready])]
  rfl

end

/-- Settles O39: a request and the end of a reset, then REPLACE and the end of a replacement, by what holds when each happens. -/
theorem partitionsReset : Obligations.PartitionsReset := by
  unfold Obligations.PartitionsReset
  intro s x n v busy halted ended stopped y d written
  refine ⟨fun hn hb hr => ?_, fun h => ?_, fun hx hv hn hb => ?_, fun h => ?_, exec_partitionResetComplete_waits,
    fun hb hs hq hw => exec_partitionResetComplete_runs hb hw hs hq, fun _ hb hq hw => exec_partitionResetComplete_ends hb hw hq,
    exec_replace_ignored, fun hx hr => ⟨exec_replace_write hx rfl rfl hr rfl, exec_replace_noGang hx rfl rfl hr rfl, fun g hv hg hf => ?_⟩,
    exec_replaceComplete_idle, fun z h hg => exec_replaceComplete_noGang h hg, fun z g h hg hm => exec_replaceComplete_moved h hg hm,
    fun z g h hg hr ha hb => ?_⟩
  · rw [exec_pctlRst, if_pos hr, resetRequest_begins hn hb]
  · rw [exec_pctlRst]
    rcases h with h | h
    · rw [resetRequest_busy h, ite_self]
    · rw [if_neg (by simp [h])]
  · have hn16 : n < 16 := hn ▸ bits_lt v 16 4
    rw [exec_prst, if_pos hx, if_pos hv, hn, resetRequest_begins hn16 hb]
  · rw [exec_prst]
    rcases h with h | h <;> simp [h]
  · rw [exec_replace_gang hx rfl rfl hr rfl hv hg hf]
    exact ⟨fun h => congrArg _ (if_neg (by simp [movable_iff.mpr h])),
      fun h => congrArg _ (if_pos (Bool.of_not_eq_false fun e => h (movable_iff.mp e)))⟩
  · refine ⟨exec_replaceComplete_waits h hg hr ha hb rfl, fun hm u c hu => ?_, fun hm u o hu => ⟨fun hs => ?_, fun slots moves hs hmv => ?_⟩⟩
    · rw [exec_replaceComplete_goes h hg hr ha hb rfl hm, hu]
      rfl
    · rw [exec_replaceComplete_goes h hg hr ha hb rfl hm, hu]
      simp only [hs]
      rfl
    · rw [exec_replaceComplete_goes h hg hr ha hb rfl hm, hu]
      simp only [hs]
      subst hmv
      rfl

end Sys2Proof.Scope
end

section
/-! LOOP and LOOPI, the engines' commands and the host's accesses run to their end (R36, R142, R292 to R297, R301, R302). -/

namespace Sys2Proof.Scope

open Sys2Proof.Machine Sys2Proof.Safety Sys2Proof.Laws

/-! ## LOOP and LOOPI (R142) -/

theorem armLoop_fits {s : State} {n : Nat} (hv : bits (s.c.loopEntry n) 62 2 = 1)
    (hn : s.issue.next = s.base + toWord (4 * bits (s.c.loopEntry n) 0 16)) (count : Word) :
    s.armLoop n count = { s with issue := { s.issue with arm := some (n, count) } } :=
  if_neg (by simp [hv, hn])

/-! ## Commands that join a queue (R292) -/

/-- State `u` is `t` with one more command in the queue of a unit, which has not begun. -/
def Queued (t u : State) (unit : EngUnit) (who : Nat) (i : Instr) (x y z : Word) : Prop :=
  ∃ m : Cmd, u = { t with cmds := t.cmds ++ [m], serial := t.serial + 1 } ∧ m.unit = unit ∧ m.instr = i ∧ m.agent = who ∧
    m.a = x ∧ m.b = y ∧ m.d = z ∧ m.prog = 0 ∧ m.acted = false

theorem accept_queued {s : State} {u : EngUnit} (h : s.queueFull u = false) (core : Nat) (i : Instr) (a b d e : Word) (step : Nat)
    (tags : List TagRange) : Queued s (s.accept u core i a b d e step tags) u s.who i a b d := by
  rw [State.accept, if_neg (by simp [h])]
  exact ⟨_, rfl, rfl, rfl, rfl, rfl, rfl, rfl, rfl, rfl⟩

/-! ## COPY and COPYW (R293 to R295) -/

theorem signedOf_aligned {v : Nat} (h : v % 64 = 0) : signedOf 24 v % 64 = 0 := by
  unfold signedOf
  split <;> omega

/-- A copy between global memory, AB and SP is legal: whole lines, aligned strides and at least one row. -/
theorem copyIllegal_eq_false {s : State} {g : CopyGeo} {ctl dest src : Word} (hd : g.dsp ≤ 2) (hs : g.ssp ≤ 2) (hr : bits ctl 32 15 = 0)
    (hl : 64 ≤ g.len) (hm : g.len % 64 = 0) (h1 : g.sstr % 64 = 0) (h2 : g.dstr % 64 = 0) (hn : g.rows ≠ 0) :
    s.copyIllegal g ctl dest src = false := by
  have d3 : g.dsp ≠ 3 := by omega
  have d4 : g.dsp ≠ 4 := by omega
  have d5 : g.dsp ≠ 5 := by omega
  have s3 : g.ssp ≠ 3 := by omega
  have dle : g.dsp ≤ 5 := by omega
  simp [State.copyIllegal, d3, d4, d5, s3, dle, hr, hl, hm, h1, h2, hn]

section
variable {s : State} {g : Guard} {i : Instr} {wide : Bool} {a b d : SReg}
  (hg : Ready s g ([a, b, d] ++ if wide then [d + 1#5] else [])) (hq : s.queueFull s.copyUnit = false)
  (hd : bits (s.rs d) 61 3 ≤ 2) (hs : bits (s.rs d) 59 2 ≤ 2) (hrel : bitAt (s.rs d) 55 = false) (hr : bits (s.rs d) 32 15 = 0)
  (hl : 64 ≤ bits (s.rs d) 0 32) (hm : bits (s.rs d) 0 32 % 64 = 0)
  (hf : bits (s.rs d) 61 3 = 0 ∨ bits (s.rs d) 59 2 = 0 → s.needFeat 7 = none)
  (hw : wide = true → bits (s.rs (d + 1#5)) 0 16 ≠ 0 ∧ bits (s.rs (d + 1#5)) 40 24 % 64 = 0 ∧ bits (s.rs (d + 1#5)) 16 24 % 64 = 0)
include hg hq hd hs hrel hr hl hm hf hw

/-- A copy without a release joins its queue. -/
theorem copyInstr_queued : ∃ u, s.copyInstr g i false wide a b d = .next u ∧ Queued s u s.copyUnit s.who i (s.rs a) (s.rs b) (s.rs d) := by
  have feat : (if bits (s.rs d) 61 3 = 0 ∨ bits (s.rs d) 59 2 = 0 then s.needFeat 7 else none) = none := by
    split
    next h => exact hf h
    next => rfl
  have legal (va vb : Word) : s.copyIllegal (copyGeo (s.rs d) (if wide then s.rs (d + 1#5) else 0#64) wide) (s.rs d) va vb = false := by
    cases wide with
    | false => exact copyIllegal_eq_false hd hs hr hl hm rfl rfl (by simp [copyGeo])
    | true =>
      obtain ⟨hrows, hsrc, hdst⟩ := hw rfl
      exact copyIllegal_eq_false hd hs hr hl hm (signedOf_aligned hsrc) (signedOf_aligned hdst) (by simpa [copyGeo] using hrows)
  simp only [State.copyInstr]
  rw [show (copyGeo (s.rs d) (if wide then s.rs (d + 1#5) else 0#64) wide).dsp = bits (s.rs d) 61 3 from rfl,
    show (copyGeo (s.rs d) (if wide then s.rs (d + 1#5) else 0#64) wide).ssp = bits (s.rs d) 59 2 from rfl, feat, consuming_ready hg,
    legal, hrel]
  exact ⟨_, rfl, accept_queued hq ..⟩

end

/-! ## PREF (R297) -/

theorem exec_pref_queued {s : State} {g : Guard} {acq : Bool} {a b : SReg} (hg : Ready s g [a, b]) (hq : s.queueFull s.copyUnit = false)
    (hr : bits (s.rs b) 32 4 = 0) (h1 : 1 ≤ bits (s.rs b) 36 13) (hn : bits (s.rs b) 36 13 ≤ 4096) (hl : bits (s.rs b) 0 6 = 0)
    (hrel : bitAt (s.rs b) 60 = false) (hc : bits ((s.ctx (s.ownerOf s.who)).chan (bits (s.rs b) 61 3)).cfg 60 3 =
      if isLadle s.who then 1 + (s.who - 2048) % 2 else 4) :
    ∃ u, exec (.pref g acq a b) s = .next u ∧ Queued s u s.copyUnit s.who (.pref g acq a b) (s.rs a) (s.rs b) 0#64 := by
  change ∃ u, execPref g acq a b s = _ ∧ _
  simp only [execPref]
  have n0 : bits (s.rs b) 36 13 ≠ 0 := by omega
  rw [consuming_ready hg, if_neg (by simp [hr, n0, hn, hl, hc]), hrel]
  exact ⟨_, rfl, accept_queued hq ..⟩

/-! ## ROWCPY and ROWINIT (R301, R302) -/

/-- The translations of rows find errors and keep translations; the issuing agent and the commands stand. -/
theorem rowPas_accessed (q : Req) (va : Word) (w : Bool) (s : State) (k n : Nat) : Accessed s (s.rowPas q va w k n).1 := by
  induction n generalizing s k with
  | zero => exact .refl s
  | succ n ih =>
    have one : Accessed s (if s.remoteLine (va + toWord (1024 * k)) then ((s, .ok none) : State × Except AFault (Option (Nat × Nat)))
        else let r := s.resolveFor q (va + toWord (1024 * k)) w; (r.1, r.2.map some)).1 := by
      split
      · exact .refl s
      · exact accessed_resolveAt ..
    rw [State.rowPas]
    dsimp only at one ⊢
    split
    next => exact one
    next =>
      have rest := one.trans (ih _ (k + 1))
      split
      next hu => rw [hu] at rest; exact rest
      next hu => rw [hu] at rest; exact rest

theorem Accessed.commands {s t : State} (h : Accessed s t) : t.who = s.who ∧ t.cmds = s.cmds := by
  rw [h.frame]
  exact ⟨rfl, rfl⟩

theorem rowFault_init {ps : List (Option (Nat × Nat))} (h : none ∉ ps) : rowFault true (ps.map fun p => [p]) = none := by
  simp only [rowFault, Bool.not_true, Bool.false_eq_true, if_false]
  refine List.findSome?_eq_none_iff.mpr fun e he => ?_
  obtain ⟨p, hp, hpe⟩ := List.mem_map.mp (List.fst_mem_of_mem_zipIdx he)
  rw [← hpe]
  cases p with
  | none => exact absurd hp h
  | some v => rfl

theorem rowFault_copy {ps qs : List (Option (Nat × Nat))} (hp : none ∉ ps) (hq : none ∉ qs)
    (h : ∀ (k : Nat) (v w : Nat × Nat), ps[k]? = some (some v) → qs[k]? = some (some w) → v.1 = w.1 ∧ hbmSub v.2 = hbmSub w.2) :
    rowFault true ((ps.zip qs).map fun e => [e.1, e.2]) = none := by
  simp only [rowFault, Bool.not_true, Bool.false_eq_true, if_false]
  refine List.findSome?_eq_none_iff.mpr fun e he => ?_
  obtain ⟨x, hx, hxe⟩ := List.mem_map.mp (List.fst_mem_of_mem_zipIdx he)
  obtain ⟨k, hk⟩ := List.mem_iff_getElem?.mp hx
  obtain ⟨v, w⟩ := x
  obtain ⟨hv, hw⟩ := List.getElem?_zip_eq_some.mp hk
  rw [← hxe]
  cases v with
  | none => exact absurd (List.mem_of_getElem? hv) hp
  | some v =>
    cases w with
    | none => exact absurd (List.mem_of_getElem? hw) hq
    | some w =>
      obtain ⟨hdie, hsub⟩ := h k v w hv hw
      simp [rowApart, hdie, hsub]

/-- The same for the state before the translations. -/
theorem Queued.of_accessed {s u v : State} {unit : EngUnit} {i : Instr} {x y z : Word} (h : Accessed s u)
    (hv : Queued u v unit u.who i x y z) : ∃ m : Cmd, v = { u with cmds := s.cmds ++ [m], serial := u.serial + 1 } ∧ m.unit = unit ∧
      m.instr = i ∧ m.agent = s.who ∧ m.a = x ∧ m.b = y ∧ m.d = z ∧ m.prog = 0 ∧ m.acted = false := by
  obtain ⟨hw, hc⟩ := h.commands
  rw [← hc, ← hw]
  exact hv

theorem Accessed.copyUnit {s t : State} (h : Accessed s t) : t.copyUnit = s.copyUnit := by
  rw [State.copyUnit, h.commands.1]
  rfl

theorem Accessed.queueFull {s t : State} (h : Accessed s t) (u : EngUnit) : t.queueFull u = s.queueFull u := by
  rw [State.queueFull, h.commands.2]
  rfl

section
variable {s : State} {g : Guard} {i : Instr} {a b d : SReg} (hg : Ready s g [a, b, d]) (hq : s.queueFull s.copyUnit = false)
  (hr : bits (s.rs d) 7 45 = 0) (h1 : 1 ≤ bits (s.rs d) 0 7) (hn : bits (s.rs d) 0 7 ≤ 64) (hrel : bitAt (s.rs d) 63 = false)
  (ha : bits (s.rs a) 0 10 = 0) {t : State} {ps : List (Option (Nat × Nat))}
  (ht : s.rowPas (s.reqOf s.who) (s.rs a) true 0 (bits (s.rs d) 0 7) = (t, .ok ps)) (hp : none ∉ ps)
include hg hq hr h1 hn hrel ha ht hp

/-- ROWINIT joins its queue after the translations of its rows. -/
theorem rowInstr_init_queued : ∃ v, s.rowInstr g i false false a b d = .next v ∧
    ∃ m : Cmd, v = { t with cmds := s.cmds ++ [m], serial := t.serial + 1 } ∧ m.unit = s.copyUnit ∧
      m.instr = i ∧ m.agent = s.who ∧ m.a = s.rs a ∧ m.b = s.rs b ∧ m.d = s.rs d ∧ m.prog = 0 ∧ m.acted = false := by
  have acc : Accessed s t := by
    have first := rowPas_accessed (s.reqOf s.who) (s.rs a) true s 0 (bits (s.rs d) 0 7)
    rw [ht] at first
    exact first
  have n0 : bits (s.rs d) 0 7 ≠ 0 := by omega
  simp only [State.rowInstr]
  rw [consuming_ready hg, if_neg (by simp [hr, n0, hn])]
  simp only [ht, Bool.false_eq_true, if_false, ha, hrel]
  rw [show rowFault (0 == 0 && (!false || bits (s.rs b) 0 10 == 0)) (ps.map fun p => [p]) = none from rowFault_init hp]
  refine ⟨_, rfl, Queued.of_accessed acc ?_⟩
  rw [← acc.copyUnit]
  exact accept_queued (by rw [acc.queueFull, acc.copyUnit, hq]) ..

/-- ROWCPY joins its queue after the translations of both operands' rows. -/
theorem rowInstr_copy_queued (hb : bits (s.rs b) 0 10 = 0) {u : State} {qs : List (Option (Nat × Nat))}
    (hu : t.rowPas (s.reqOf s.who) (s.rs b) false 0 (bits (s.rs d) 0 7) = (u, .ok qs)) (hs : none ∉ qs)
    (h : ∀ (k : Nat) (v w : Nat × Nat), ps[k]? = some (some v) → qs[k]? = some (some w) → v.1 = w.1 ∧ hbmSub v.2 = hbmSub w.2) :
    ∃ v, s.rowInstr g i false true a b d = .next v ∧
    ∃ m : Cmd, v = { u with cmds := s.cmds ++ [m], serial := u.serial + 1 } ∧ m.unit = s.copyUnit ∧
      m.instr = i ∧ m.agent = s.who ∧ m.a = s.rs a ∧ m.b = s.rs b ∧ m.d = s.rs d ∧ m.prog = 0 ∧ m.acted = false := by
  have acc : Accessed s u := by
    have first := rowPas_accessed (s.reqOf s.who) (s.rs a) true s 0 (bits (s.rs d) 0 7)
    have second := rowPas_accessed (s.reqOf s.who) (s.rs b) false t 0 (bits (s.rs d) 0 7)
    rw [ht] at first
    rw [hu] at second
    exact first.trans second
  have n0 : bits (s.rs d) 0 7 ≠ 0 := by omega
  simp only [State.rowInstr]
  rw [consuming_ready hg, if_neg (by simp [hr, n0, hn])]
  simp only [ht, if_true, hu, ha, hb, hrel]
  rw [show rowFault (0 == 0 && (!true || 0 == 0)) ((ps.zip qs).map fun e => [e.1, e.2]) = none from rowFault_copy hp hs h]
  refine ⟨_, rfl, Queued.of_accessed acc ?_⟩
  rw [← acc.copyUnit]
  exact accept_queued (by rw [acc.queueFull, acc.copyUnit, hq]) ..

end

/-! ## The host's accesses (R36, R425) -/

theorem hostDenied_eq_false {s : State} {h m : Nat} (hu : s.svc.boot.memUp = true)
    (hc : ∀ r ∈ s.svc.hostClosed, h + m ≤ r.1 ∨ r.1 + r.2 ≤ h) : s.hostDenied h m = false := by
  have : (s.svc.hostClosed.any fun r => decide (r.1 < h + m ∧ h < r.1 + r.2)) = false :=
    List.any_eq_false.mpr fun r hr => by
      have := hc r hr
      simp only [decide_eq_true_eq]
      omega
  rw [State.hostDenied, hu, this]
  rfl

section
variable {s : State} {h : Nat} (hu : s.svc.boot.memUp = true)
include hu

theorem exec_hostMemRead_data {m : Nat} (hc : ∀ r ∈ s.svc.hostClosed, h + m ≤ r.1 ∨ r.1 + r.2 ≤ h) (hm : h + m ≤ 2 * hbmSize) :
    ∃ bs p, bs.length = m ∧ exec (.hostMemRead h m) s
      = .next ((s.noticeHdm h m).updSvc fun v => { v with toHost := v.toHost ++ [.data bs p] }) := by
  change ∃ bs p, _ ∧ execHostMemRead h m s = _
  simp only [execHostMemRead]
  rw [if_neg (by omega), hostDenied_eq_false hu hc]
  exact ⟨_, _, by simp, rfl⟩

omit hu in
/-- Where no page is being migrated, a write is in memory at once. -/
theorem writeHbm_bytes {s : State} (hr : ∀ n, (s.mig n).run = none) (g die pa : Nat) (bs : List Byte) (p : Bool) :
    (s.writeHbm g die pa bs p).hbm.bytes = Mem.setBytes s.hbm.bytes (hbmKey die pa) bs ∧ ∀ n, ((s.writeHbm g die pa bs p).mig n).run = none := by
  have still : s.pageMoving die pa bs.length = false := by
    have := hr die
    rw [State.mig] at this
    rw [State.pageMoving, this]
  obtain ⟨b, seen, gs, e, hw, hb, -⟩ := writeHbmNow_frame s g die pa bs p
  rw [writeHbm_now still, hw]
  exact ⟨hb, hr⟩

/-- Every byte of an accepted write is in memory: those below the size of a die's memory on die 0, the others on die 1. -/
theorem exec_hostMemWrite_bytes {bytes : List Byte} (hc : ∀ r ∈ s.svc.hostClosed, h + bytes.length ≤ r.1 ∨ r.1 + r.2 ≤ h)
    (hm : h + bytes.length ≤ 2 * hbmSize) (hr : ∀ n, (s.mig n).run = none) : ∃ t, exec (.hostMemWrite h bytes) s = .next t ∧
      ∀ i, i < bytes.length → Mem.byte t.hbm.bytes (if h + i < hbmSize then h + i else 2 ^ 39 + (h + i - hbmSize)) = bytes.getD i 0#8 := by
  change ∃ t, execHostMemWrite h bytes s = _ ∧ _
  simp only [execHostMemWrite]
  rw [if_neg (by omega), hostDenied_eq_false hu hc, if_neg (by decide)]
  refine ⟨_, rfl, fun i hi => ?_⟩
  have size : hbmSize = 309237645312 := rfl
  have key0 (a : Nat) : hbmKey 0 a = a := by simp [hbmKey]
  have key1 (a : Nat) : hbmKey 1 a = 2 ^ 39 + a := by simp [hbmKey]
  split
  · obtain ⟨h1, r1⟩ := writeHbm_bytes hr 0 0 h (bytes.take (hbmSize - h)) false
    obtain ⟨h2, -⟩ := writeHbm_bytes r1 0 1 0 (bytes.drop (hbmSize - h)) false
    rw [h2, h1, byte_setBytes, byte_setBytes, key0, key1, List.length_take, List.length_drop]
    by_cases low : h + i < hbmSize
    · rw [if_pos low, if_neg (by omega), if_pos (by omega), List.getD_eq_getElem?_getD, List.getElem?_take_of_lt (by omega)]
      simp
    · have index : hbmSize - h + (2 ^ 39 + (h + i - hbmSize) - (2 ^ 39 + 0)) = i := by omega
      rw [if_neg low, if_pos (by omega), List.getD_eq_getElem?_getD, List.getElem?_drop, List.getD_eq_getElem?_getD, index]
  · split
    · rw [(writeHbm_bytes hr ..).1, byte_setBytes, key0, if_pos (by omega : h + i < hbmSize), if_pos (by omega), Nat.add_sub_cancel_left]
    · have index : 2 ^ 39 + (h + i - hbmSize) - (2 ^ 39 + (h - hbmSize)) = i := by omega
      rw [(writeHbm_bytes hr ..).1, byte_setBytes, key1, if_neg (by omega : ¬ h + i < hbmSize), if_pos (by omega), index]

end

/-- Settles O59: a loop is armed, a command is accepted by its unit's queue, a host's access reaches the memory. -/
theorem otherFormsComplete : Obligations.OtherFormsComplete := by
  unfold Obligations.OtherFormsComplete
  intro s g acq a b d n count e fits ctl geo unit queued moves
  have close {i : Instr} {x y z : Word} (h : ∃ u, exec i s = .next u ∧ Queued s u s.copyUnit s.who i x y z) : queued s i x y z := by
    obtain ⟨u, hu, m, rfl, hm⟩ := h
    exact ⟨m, hu, hm⟩
  have closeAt {t : State} {i : Instr} {x y z : Word} (h : ∃ v, exec i s = .next v ∧
      ∃ m : Cmd, v = { t with cmds := s.cmds ++ [m], serial := t.serial + 1 } ∧ m.unit = s.copyUnit ∧
        m.instr = i ∧ m.agent = s.who ∧ m.a = x ∧ m.b = y ∧ m.d = z ∧ m.prog = 0 ∧ m.acted = false) : queued t i x y z := by
    obtain ⟨u, hu, m, rfl, hm⟩ := h
    exact ⟨m, hu, hm⟩
  refine ⟨fun ⟨hv, hn⟩ hg => ?_, fun ⟨hv, hn⟩ => ?_, fun hq => ⟨fun hg hm => ?_, fun hg hm h1 h2 h3 => ?_,
    fun hg w hw hr h1 hn hl hrel hc => ?_, fun hg hr h1 hn hrel ha t ps ht hp => ⟨?_, fun hb u qs hu hs h => ?_⟩⟩,
    fun hu h m bytes hc hm => ⟨exec_hostMemRead_data hu hc hm, fun hl hr => ?_⟩⟩
  · change execLoop g n a s = _
    rw [execLoop, consuming_ready hg, armLoop_fits hv hn]
  · change execLoopi n count s = _
    rw [execLoopi, armLoop_fits hv hn]
  · obtain ⟨hd, hs, hrel, hr, hl, h64, hf⟩ := hm
    exact close (copyInstr_queued (wide := false) hg hq hd hs hrel hr hl h64 hf nofun)
  · obtain ⟨hd, hs, hrel, hr, hl, h64, hf⟩ := hm
    exact close (copyInstr_queued (wide := true) hg hq hd hs hrel hr hl h64 hf fun _ => ⟨h1, h2, h3⟩)
  · subst hw
    exact close (exec_pref_queued hg hq hr h1 hn hl hrel hc)
  · exact closeAt (rowInstr_init_queued hg hq hr h1 hn hrel ha ht hp)
  · exact closeAt (rowInstr_copy_queued hg hq hr h1 hn hrel ha ht hp hb hu hs h)
  · subst hl
    exact exec_hostMemWrite_bytes hu hc hm hr

end Sys2Proof.Scope
end

section
/-! What stopped and freed contexts, performed operations and posted records leave of the package (R343, R364, R404, R410, R421). -/

namespace Sys2Proof.Scope

open Sys2Proof.Machine Sys2Proof.Safety Sys2Proof.Laws

/-- The package's own state stands: the gangs that there are, the sync objects, the fabric with its links, the services but for what
accesses to memory find and what a migration holds. -/
structure Kept (s t : State) : Prop where
  ids : t.gangs.map (·.id) = s.gangs.map (·.id)
  sync : t.sync = s.sync
  fab : t.fab = s.fab
  links : t.links = s.links
  svc : t.svc = { s.svc with errs := t.svc.errs, migs := t.svc.migs }

theorem Kept.refl (s : State) : Kept s s := ⟨rfl, rfl, rfl, rfl, rfl⟩

theorem Kept.trans {s t u : State} (h : Kept s t) (g : Kept t u) : Kept s u := by
  refine ⟨g.ids.trans h.ids, g.sync.trans h.sync, g.fab.trans h.fab, g.links.trans h.links, ?_⟩
  have hs := h.svc
  have gs := g.svc
  rw [hs] at gs
  exact gs

theorem Kept.after {s t u : State} (g : Kept t u) (h : Kept s t) : Kept s u := h.trans g

/-- Accesses to the device's memory keep it. -/
theorem Accessed.kept {s t : State} (h : Accessed s t) : Kept s t := by
  refine ⟨h.ids, ?_, h.fab, h.links, ?_⟩ <;> rw [h.frame]

theorem kept_foldl {α : Type} {f : State → α → State} (hf : ∀ t x, Kept t (f t x)) (l : List α) (s : State) : Kept s (l.foldl f s) :=
  List.foldlRecOn l f (.refl s) fun t h x _ => h.trans (hf t x)

/-- Gangs with the same numbers are found alike. -/
theorem gang_isSome_congr {s t : State} (h : t.gangs.map (·.id) = s.gangs.map (·.id)) (i : Nat) : (t.gang i).isSome = (s.gang i).isSome := by
  have ids (l : List Gang) : (l.find? fun x => x.id == i).isSome = (l.map (·.id)).any fun j => j == i := by
    rw [Bool.eq_iff_iff, List.find?_isSome, List.any_map, List.any_eq_true]
    rfl
  rw [State.gang, State.gang, ids, ids, h]

/-- What an update that keeps the gang's number gives it holds of the gang that is found afterwards. -/
theorem gang_updGang {s : State} {i : Nat} {f : Gang → Gang} {q : Gang → Prop} (hf : ∀ g, (f g).id = g.id) (h : (s.gang i).isSome = true)
    (hq : ∀ z, q (f z)) : ∃ z, (s.updGang i f).gang i = some z ∧ q z := by
  obtain ⟨z, hz⟩ := Option.isSome_iff_exists.mp h
  refine ⟨f z, ?_, hq z⟩
  simp only [State.gang, updGang_gangs, updWhere] at hz ⊢
  rw [List.find?_map]
  have same : ((fun x : Gang => x.id == i) ∘ fun x => if (x.id == i) = true then f x else x) = fun x : Gang => x.id == i := by
    funext x
    rw [Function.comp_apply]
    split <;> simp [hf]
  rw [same, hz, Option.map_some, if_pos (List.find?_some (p := fun x : Gang => x.id == i) hz)]

/-! ## Contexts -/

theorem kept_setCtx (s : State) (a : Nat) (c : Ctx) : Kept s (s.setCtx a c) := by
  unfold State.setCtx
  split <;> exact ⟨rfl, rfl, rfl, rfl, rfl⟩

theorem kept_upd (s : State) (a : Nat) (f : Ctx → Ctx) : Kept s (s.upd a f) := kept_setCtx ..

theorem kept_ops (s : State) (os : List Op) : Kept s { s with ops := os } := ⟨rfl, rfl, rfl, rfl, rfl⟩

theorem kept_cmds (s : State) (cs : List Cmd) : Kept s { s with cmds := cs } := ⟨rfl, rfl, rfl, rfl, rfl⟩

theorem kept_orders (s : State) (os : List Op) (cs : List Cmd) : Kept s { s with ops := os, cmds := cs } := ⟨rfl, rfl, rfl, rfl, rfl⟩

theorem kept_updLadle (s : State) (l : Nat) (f : Ladle → Ladle) : Kept s (s.updLadle l f) := ⟨rfl, rfl, rfl, rfl, rfl⟩

theorem kept_freeMonitors (s : State) (x : Nat) : Kept s (s.freeMonitors x) := ⟨rfl, rfl, rfl, rfl, rfl⟩

theorem kept_releaseMarks (s : State) (w : Nat) : Kept s (s.releaseMarks w) := ⟨rfl, rfl, rfl, rfl, rfl⟩

theorem kept_leaveWait (s : State) (x : Nat) : Kept s (s.leaveWait x) := by
  unfold State.leaveWait
  dsimp only
  split
  · exact .refl s
  · exact (kept_upd _ _ _).after ((kept_ops _ _).after (kept_freeMonitors s x))

theorem kept_expireLease (s : State) (x : Nat) (l : Lease) : Kept s (s.expireLease x l) := by
  unfold State.expireLease
  split
  · exact ⟨rfl, rfl, rfl, rfl, rfl⟩
  · exact .refl s

theorem kept_releaseFor (s : State) (a scope : Nat) (cyc : Word) (bun : Nat) (waits : Bool) : Kept s (s.releaseFor a scope cyc bun waits) := by
  unfold State.releaseFor
  split
  · exact .refl s
  · split <;> exact ⟨rfl, rfl, rfl, rfl, rfl⟩

theorem kept_rewindLadle (s : State) (l : Nat) : Kept s (s.rewindLadle l) := by
  unfold State.rewindLadle
  dsimp only
  split
  · refine (kept_updLadle _ _ _).after ((kept_setCtx _ _ _).after ?_)
    refine (kept_orders _ _ _).after ((kept_leaveWait _ _).after ?_)
    exact (kept_foldl (fun t n => kept_upd t _ _) _ _).after ⟨rfl, rfl, rfl, rfl, rfl⟩
  · exact .refl s

theorem kept_parkCtx (s : State) (x : Nat) (st : CtxState) : Kept s (s.parkCtx x st) := by
  unfold State.parkCtx
  dsimp only
  refine Kept.trans ?_ (Kept.trans (kept_upd _ x _) (accessed_retarget _ _).kept)
  refine Kept.trans (((kept_leaveWait s x).trans (kept_expireLease _ x _)).trans (kept_releaseFor _ _ _ _ _ _)) (kept_foldl (fun t l => ?_) _ _)
  split
  · exact kept_rewindLadle t l
  · exact .refl t

theorem kept_cutOff (s : State) (x : Nat) : Kept s (s.cutOff x) := by
  unfold State.cutOff
  exact (kept_cmds _ _).after ((kept_parkCtx _ x _).after (kept_upd s x _))

theorem kept_endRun (s : State) (l : Nat) : Kept s (s.endRun l) := ⟨rfl, rfl, rfl, rfl, rfl⟩

theorem kept_dropStarved (s : State) (x : Nat) : Kept s (s.dropStarved x) := by
  unfold State.dropStarved
  refine kept_foldl (fun t m => ?_) _ s
  unfold State.lossOf
  split <;> exact ⟨rfl, rfl, rfl, rfl, rfl⟩

theorem kept_freeCtx (s : State) (x : Nat) : Kept s (s.freeCtx x) := by
  unfold State.freeCtx
  dsimp only
  split
  · exact (kept_upd s x _).trans ⟨rfl, rfl, rfl, rfl, rfl⟩
  · exact kept_upd s x _

theorem kept_vacate (s : State) (x : Nat) : Kept s (s.vacate x) := by
  unfold State.vacate
  dsimp only
  refine Kept.trans ?_ (accessed_retarget _ _).kept
  refine (kept_freeCtx _ x).after ((kept_freeMonitors _ x).after ((kept_releaseMarks _ x).after ?_))
  refine (kept_expireLease _ x _).after ((kept_dropStarved _ x).after (kept_foldl (fun t l => ?_) _ s))
  split
  · exact (kept_endRun _ _).after (kept_updLadle _ _ _)
  · exact kept_updLadle _ _ _

theorem kept_sweep (s : State) (x : Nat) : Kept s (s.sweep x) := by
  unfold State.sweep
  exact (kept_vacate _ x).after ⟨rfl, rfl, rfl, rfl, rfl⟩

/-! ## Operations -/

theorem kept_performed (s : State) (o : Op) (ls : List Landing) : Kept s (s.performed o ls) := by
  have rel : Kept s (s.released o) := by
    unfold State.released
    split
    · exact .refl s
    · split
      · exact ⟨rfl, rfl, rfl, rfl, rfl⟩
      · exact .refl s
  unfold State.performed
  dsimp only
  split
  · unfold State.dropOp
    exact (kept_upd _ _ _).after ((kept_ops _ _).after rel)
  · exact (kept_ops _ _).after rel

theorem kept_retestWait (s : State) (key : Nat) (o : Op) : Kept s (s.retestWait key o) := by
  unfold State.retestWait
  split
  · split
    · exact kept_performed ..
    · exact .refl s
  · exact .refl s

/-- A sync object takes its value; the waits that it satisfies change no object (R364). -/
theorem kept_setSync (s : State) (key : Nat) (v : BitVec 32) : Kept { s with sync := SMap.put 0#32 s.sync key v } (s.setSync key v) := by
  unfold State.setSync
  exact kept_foldl (fun t o => kept_retestWait t key o) _ _

theorem accessed_noticePoison (s : State) (q : Req) (va : Word) (die pa n : Nat) : Accessed s (s.noticePoison q va die pa n) := by
  unfold State.noticePoison
  refine (finds_notice s .hbm _ n).accessed.trans (accessed_foldl (fun t u => ?_) _ _)
  split
  · refine Accessed.trans (t := { t with hbmSeen := SMap.put false t.hbmSeen u true }) ⟨rfl, rfl, fun _ => rfl, fun _ => rfl⟩ ?_
    unfold State.postReq
    split
    · exact accessed_post ..
    · exact accessed_postFault ..
  · exact .refl t

/-- A woken waiter reads its word and is performed (R360). -/
theorem kept_wake (s : State) (m : Monitor) : Kept s (s.wake m) := by
  unfold State.wake
  dsimp only
  split
  · exact ⟨rfl, rfl, rfl, rfl, rfl⟩
  · exact (kept_performed _ _ _).after ((accessed_noticePoison _ _ _ _ _ _).kept.after ⟨rfl, rfl, rfl, rfl, rfl⟩)

theorem kept_wakeNamed (s : State) (die : Nat) (v : Word) : Kept s (s.wakeNamed die v) := kept_foldl kept_wake _ s

end Sys2Proof.Scope
end

section
/-! Resets, moves, supervisors' registers, split levels and translations run to their end (R46, R51, R62, R74, R127, R162, R253, R271,
R275, R363, R424, R434, R464). -/

namespace Sys2Proof.Scope

open Sys2Proof.Machine Sys2Proof.Safety Sys2Proof.Laws

/-- An event ends in a state of which `q` holds. -/
def Ends (i : Instr) (s : State) (q : State → Prop) : Prop := ∃ t, exec i s = .next t ∧ q t

theorem Ends.of_exec {i : Instr} {s t : State} {q : State → Prop} (h : exec i s = .next t) (hq : q t) : Ends i s q := ⟨t, h, hq⟩

/-! ## Resets and moves (R51, R74) -/

/-- The gangs of a partition in reset have no undo logs. -/
theorem resetRequest_undo {s : State} {n : Nat} (hn : n < 16) (hb : s.partBusy n = false) :
    ∀ z ∈ (s.resetRequest n).gangs, z.part = n → z.undo = [] := by
  rw [resetRequest_begins hn hb]
  intro z hz hp
  dsimp only [updWhere] at hz
  obtain ⟨g, -, rfl⟩ := List.mem_map.mp hz
  split
  · rfl
  next h =>
    rw [if_neg h] at hp
    exact absurd hp (by simpa using h)

theorem ends_pctlRst {s : State} {n : Nat} (hn : n < 16) (hb : s.partBusy n = false) (h : bitAt (s.reg 0 0x882) n = true) :
    Ends (.pctlRst n) s fun t => ∀ z ∈ t.gangs, z.part = n → z.undo = [] :=
  .of_exec ((exec_pctlRst s n).trans (congrArg _ (if_pos h))) (resetRequest_undo hn hb)

theorem ends_prst {s : State} {x n : Nat} {v : Word} (hn : n < 16) (hb : s.partBusy n = false) (hx : (s.ctx x).y.sup = true)
    (hv : bitAt v 63 = true) (hp : bits v 16 4 = n) : Ends (.prst x v) s fun t => ∀ z ∈ t.gangs, z.part = n → z.undo = [] := by
  refine .of_exec ?_ (resetRequest_undo hn hb)
  rw [exec_prst, if_pos hx, if_pos hv, hp]

theorem ends_partitionResetComplete {s : State} {n : Nat} (hb : s.partBusy n = true) (hq : ∀ z ∈ s.contextsOf n, s.quiet z = true)
    (hw : ∀ m ∈ s.cmds, m.part = n → m.ofLaunch = true → m.waiting = false) :
    Ends (.partitionResetComplete n) s fun t => t.partBusy n = false := by
  obtain ⟨t, ht, h, -⟩ := exec_partitionResetComplete_ends hb hw hq
  exact ⟨t, ht, h⟩

theorem placer_updPlacer (s : State) (d : Nat) (f : Placer → Placer) : (s.updPlacer d f).placer d = f (s.placer d) := get_set_same ..

theorem placer_replaceResult (s : State) (d n code : Nat) : (s.replaceResult d code).placer n = s.placer n := by
  rw [State.placer, State.placer, State.replaceResult, setReg_svc]

theorem ends_replace {s : State} {x y : Nat} {v : Word} {g : Gang} (hx : (s.ctx x).y.sup = true) (hv : bitAt v 63 = true)
    (hy : y = bits v 0 11) (hr : (s.placer (dieOf (coreOf y))).replacing = none) (hg : s.gang (s.ctx y).y.gang = some g)
    (hf : (s.ctx y).st ≠ .free) (hb : g.rollback = none) (ha : s.allStopped g = true) :
    Ends (.replace x v) s fun t => (t.placer (dieOf (coreOf y))).replacing = some y := by
  refine .of_exec (exec_replace_gang hx hy rfl hr rfl hv hg hf) ?_
  rw [if_neg (by simp [hb, ha]), placer_updPlacer]

theorem ends_replaceComplete {s : State} {n z : Nat} {g : Gang} (h : (s.placer n).replacing = some z) (hg : s.gang (s.ctx z).y.gang = some g)
    (hr : g.rollback = none) (ha : s.allStopped g = true) (hb : s.partBusy g.part = false)
    (hm : ∀ m ∈ g.resident, (g.resident.foldl State.leaveWait s).saveReady m = true) :
    Ends (.replaceComplete n) s fun t => (t.placer n).replacing = none := by
  have done (t : State) (code : Nat) : ((replaced t n code).placer n).replacing = none := by
    rw [replaced, placer_replaceResult, placer_updPlacer]
  refine .of_exec (exec_replaceComplete_goes h hg hr ha hb rfl hm) ?_
  split
  · exact done ..
  · split
    · exact done ..
    · exact done ..

/-! ## Bit fields -/

theorem bits_eq_extractLsb (w : Word) (i n : Nat) : bits w i n = (w.extractLsb' i n).toNat := by
  rw [bits, natBits, BitVec.extractLsb'_toNat, Nat.shiftRight_eq_div_pow]

/-- A mask that covers a field keeps it. -/
theorem bits_and {w m : Word} {i n : Nat} (h : m.extractLsb' i n = BitVec.allOnes n) : bits (w &&& m) i n = bits w i n := by
  rw [bits_eq_extractLsb, bits_eq_extractLsb, BitVec.extractLsb'_and, h, BitVec.and_allOnes]

/-! ## Registers that a supervisor writes (R46, R62, R63, R162, R253, R275, R363) -/

theorem reg_setReg_same (s : State) (i n : Nat) (v : Word) : (s.setReg i n v).reg i n = v := by rw [reg_setReg, if_pos rfl]

section
variable {s : State} {x : Nat} (h : s.isSup x = true)
include h

theorem ends_qsetWrite {v : Word} (he : (s.queue (bits (s.reg 0 0x880) 0 16)).en = false) : Ends (.qsetWrite x v) s fun t =>
    (t.queue (bits (s.reg 0 0x880) 0 16)).part = bits v 40 4 ∧ (t.queue (bits (s.reg 0 0x880) 0 16)).pmax = bits v 32 2 := by
  refine .of_exec (exec_qsetWrite h v) ?_
  rw [State.qsetWrite, if_neg (by simp [he]), queue_updQueue]
  exact ⟨rfl, rfl⟩

theorem ends_lregWrite {n : Nat} (hn : n < 16) (v : Word) :
    Ends (.lregWrite x n v) s fun t => t.reg (dieOf (coreOf x)) (0x9D0 + n) = v &&& 0x8000007FFFFFFFFF#64 := by
  obtain ⟨cs, hcs⟩ := dropCopies_frame (s.setReg (dieOf (coreOf x)) (0x9D0 + n) (v &&& 0x8000007FFFFFFFFF#64)) (dieOf (coreOf x)) n
  refine .of_exec (exec_lregWrite h hn v) ?_
  rw [State.lregWrite, hcs]
  exact reg_setReg_same ..

theorem ends_pcfgWrite {n : Nat} {v : Word} (hn : n < 16) (hc : s.contextsOf n = []) (hg : ∀ z ∈ s.gangs, z.part ≠ n) (hv : 1 ≤ bits v 0 20) :
    Ends (.pcfgWrite x n v) s fun t => t.reg 0 (0x820 + n) = v &&& 0x80FF0000000FFFFF#64 := by
  have idle : (!(s.contextsOf n).isEmpty || s.gangs.any fun g => g.part == n) = false := by simpa [hc] using hg
  have grace : bits (v &&& 0x80FF0000000FFFFF#64) 0 20 ≠ 0 := by
    rw [bits_and (by decide)]
    omega
  refine .of_exec (exec_pcfgWrite h hn v) ?_
  rw [pcfgWrite_set rfl (.inl idle), if_neg grace, reg_setReg_same]

theorem ends_cresWrite {n : Nat} (hn : n < 8) (v : Word) : Ends (.cresWrite x n v) s fun t => t.reg 0 (0x8C0 + n) = v :=
  .of_exec (exec_cresWrite h hn v) (reg_setReg_same ..)

theorem ends_spcfgWrite (v : Word) : Ends (.spcfgWrite x v) s fun t => t.reg (coreOf x) 0x8D0 = v &&& 1#64 :=
  .of_exec (exec_spcfgWrite h v) (reg_setReg_same ..)

end

end Sys2Proof.Scope
end

section
/-! Split levels, sync objects, rings, translations, migrations, the Pantry and the error counters run to their end (R56, R57, R60, R77,
R127, R264, R271, R275, R363, R417, R418, R424, R425, R434, R464). -/

namespace Sys2Proof.Scope

open Sys2Proof.Machine Sys2Proof.Safety Sys2Proof.Laws

/-! ## Split levels and power (R127, R407, R434, R464) -/

theorem accessed_upd (s : State) (a : Nat) (f : Ctx → Ctx) : Accessed s (s.upd a f) := by
  unfold State.upd State.setCtx
  split <;> exact accessed_contexts s _ _

theorem accessed_ticked (s : State) : Accessed s s.ticked := ⟨rfl, rfl, fun _ => rfl, fun _ => rfl⟩

/-- A level that comes into force is set in the core; contexts learn of it, and records are posted (R407). -/
theorem setLevel_accessed (s : State) (k cause : Nat) :
    s.setLevel k cause = s ∨ Accessed (s.updCore k fun c => { c with lvl := s.levelOf k }) (s.setLevel k cause) := by
  unfold State.setLevel
  dsimp only
  split
  · exact .inl rfl
  · refine .inr (Accessed.trans ?_ (accessed_ticked _))
    refine Accessed.trans ?_ (accessed_foldl (fun t n => accessed_post t _ _) _ _)
    exact accessed_foldl (fun t x => accessed_upd t x _) _ _

/-- Neither a register nor a throttle level changes. -/
theorem setLevel_frame (s : State) (k cause : Nat) :
    (s.setLevel k cause).regs = s.regs ∧ ((s.setLevel k cause).core k).thr = (s.core k).thr := by
  rcases setLevel_accessed s k cause with h | h
  · rw [h]
    exact ⟨rfl, rfl⟩
  · refine ⟨h.regs, (congrArg CoreSt.thr (h.cores k)).trans ?_⟩
    rw [core_updCore, if_pos rfl]

theorem reg_congr {s t : State} (h : t.regs = s.regs) (i n : Nat) : t.reg i n = s.reg i n := by rw [State.reg, State.reg, h]

theorem ends_isscfgWrite {s : State} {x : Nat} (h : s.isSup x = true) (v : Word) :
    Ends (.isscfgWrite x v) s fun t => t.reg (coreOf x) 0x800 = v &&& 0xFFFF0003#64 := by
  change ∃ t, execIsscfgWrite x v s = _ ∧ _
  rw [execIsscfgWrite, if_pos h]
  refine ⟨_, rfl, ?_⟩
  rw [State.isscfgWrite, reg_congr (setLevel_frame _ _ _).1, reg_setReg_same]

theorem ends_splitLevelStep {s : State} {k : Nat} (hot : bits (s.reg (dieOf k) 0xA0A) 16 8 < bits (s.reg (dieOf k) 0xA0B) 0 8)
    (hl : (s.core k).thr.toNat < 3) : Ends (.splitLevelStep k true) s fun t => (t.core k).thr.toNat = (s.core k).thr.toNat + 1 := by
  have below : (s.core k).thr ≠ 3#2 := fun h => by rw [h] at hl; exact absurd hl (by decide)
  change ∃ t, execSplitLevelStep k true s = _ ∧ _
  simp only [execSplitLevelStep, if_true]
  rw [if_pos (by simp [hot, below])]
  refine ⟨_, rfl, ?_⟩
  rw [(setLevel_frame _ _ _).2, core_updCore, if_pos rfl, BitVec.toNat_add, BitVec.toNat_ofNat]
  omega

theorem ticked_tick (s : State) : s.ticked.tick = s.tick + 1 := rfl

theorem ends_tempstatUpdate (s : State) (n : Nat) : Ends (.tempstatUpdate n) s fun t =>
    t.tick = s.tick + 1 ∧ t.reg n 0xA0B = Config.temperature s.tick &&& 0xFF#64 := by
  change ∃ t, execTempstatUpdate n s = _ ∧ _
  rw [execTempstatUpdate]
  refine ⟨_, rfl, ?_, (reg_congr (accessed_ticked _).regs n 0xA0B).trans (reg_setReg_same ..)⟩
  rw [ticked_tick, setReg_tick]

theorem ends_powerEstimateUpdate (s : State) (k : Nat) :
    Ends (.powerEstimateUpdate k) s fun t => (t.core k).power = Config.powerEstimate s.tick := by
  refine .of_exec (t := ((s.chargeSlot k).updCore k fun c => { c with power := Config.powerEstimate s.tick }).ticked) rfl ?_
  change (((s.chargeSlot k).updCore k fun c => { c with power := Config.powerEstimate s.tick }).core k).power = _
  rw [core_updCore, if_pos rfl]

/-! ## Sync objects and rings (R275, R363) -/

section
variable {s : State} {x : Nat} (h : s.isSup x = true)
include h

theorem ends_synobjWrite (v : Word) : Ends (.synobjWrite x v) s fun t =>
    SMap.at 0#32 t.sync (bits (s.ctx x).y.synsel 28 3 * 256 + bits (s.ctx x).y.synsel 20 8) = v.setWidth 32 := by
  refine .of_exec (exec_synobjWrite h v) ?_
  rw [State.synobjWrite, (kept_setSync _ _ _).sync]
  exact get_set_same (d := fun _ => 0#32) ..

omit h in
theorem ring_setRing (s : State) (i : Nat) (r : Ring) : SMap.at Ring.none (s.setRing i r).rings i = r := get_set_same (d := fun _ => Ring.none) ..

theorem ends_ringRegisterWrite {v : Word} (h7 : 7 ≤ bits v 0 5) (h16 : bits v 0 5 ≤ 16) : Ends (.ringRegisterWrite x 0x890 v) s fun t =>
    (SMap.at Ring.none t.rings (32 + dieOf (coreOf x))).reg = v &&& 0x0FFFFFFFFFFFF01F#64 := by
  refine .of_exec (exec_ringRegisterWrite h (.inr (.inl rfl)) (i := 32 + dieOf (coreOf x)) rfl v) ?_
  rw [ringWrite_eq, if_neg (by omega), ring_setRing, Ring.settle]
  split <;> rfl

theorem ends_ringHeadWrite {v : Word} (hp : (SMap.at Ring.none s.rings (32 + dieOf (coreOf x))).pending = false) :
    Ends (.ringHeadWrite x 0x891 v) s fun t => (SMap.at Ring.none t.rings (32 + dieOf (coreOf x))).head = v.extractLsb' 0 17 := by
  have hp : (s.ring (32 + dieOf (coreOf x))).pending = false := hp
  refine .of_exec (exec_ringHeadWrite h (.inr (.inl rfl)) (i := 32 + dieOf (coreOf x)) rfl v) ?_
  rw [State.headWrite, ring_setRing, Ring.settle, if_neg (by simp [hp])]

/-! ## Translations and migrations (R271, R424, R425) -/

/-- An invalidation is pending; the waiters that it names wake. -/
theorem ends_tlbinv (v : Word) : Ends (.tlbinv x v) s fun t => t.svc.tlbinv = s.svc.tlbinv ++ [⟨dieOf (coreOf x), v⟩] := by
  refine .of_exec (exec_tlbinv h v) ?_
  rw [State.tlbinvWrite, (kept_wakeNamed _ _ _).svc]
  rfl

theorem ends_migrationStart {v : Word} (hr : (s.mig (dieOf (coreOf x))).run = none) (hv : bitAt v 60 = true) :
    Ends (.migrationStart x v) s fun t => (t.mig (dieOf (coreOf x))).run ≠ none := by
  refine .of_exec (exec_migrationStart h v) ?_
  rw [migctlWrite_go hr hv rfl rfl, mig_updMig]
  exact Option.some_ne_none _

end

theorem ends_tlbinvComplete {s : State} {n : Nat} {z : TlbInv} (h : s.svc.tlbinv.find? (fun z => z.die == n) = some z) :
    Ends (.tlbinvComplete n) s fun t => ∀ e ∈ t.tlb, e.die = n → e.named z.v = false := by
  change ∃ t, execTlbinvComplete n s = _ ∧ _
  simp only [execTlbinvComplete, h]
  refine ⟨_, rfl, fun e he hd => ?_⟩
  rw [updSvc_tlb, State.dropTlb] at he
  simpa [hd] using (List.mem_filter.mp he).2

/-- The held writes take place after the migration has ended. -/
theorem releaseHeld_run (s : State) (d result : Nat) (dest : Nat → Nat) : ((s.releaseHeld d result dest).mig d).run = none := by
  unfold State.releaseHeld
  dsimp only
  have writes := accessed_foldl (f := fun (t : State) (w : Nat × List Byte × Bool × Nat) => (splitLines w.1 w.2.1).foldl
    (fun t l => t.writeHbmNow w.2.2.2 d (dest l.1) l.2 w.2.2.1) t) (fun t w => accessed_foldl (fun t l => accessed_writeHbmNow t _ _ _ _ _) _ t)
    (s.mig d).held (s.updMig d fun u => { u with run := none, held := [], result := result })
  rw [writes.runs d, mig_updMig]

theorem ends_migrationComplete {s : State} {n : Nat} {m : Migration} (hr : (s.mig n).run = some m) :
    Ends (.migrationComplete n) s fun t => (t.mig n).run = none := by
  have abort (line : Nat) : ((s.abortMig n m line).mig n).run = none := by
    rw [State.abortMig, (accessed_post _ _ _).runs n, releaseHeld_run]
  cases hl : s.pageLeaf n m.space m.off with
  | none =>
    change ∃ t, execMigrationComplete n s = _ ∧ _
    simp only [execMigrationComplete, hr, hl]
    exact ⟨_, rfl, abort 0⟩
  | some r =>
    obtain ⟨a, e, size⟩ := r
    by_cases h1 : size ≠ m.size ∨ m.dst % 2 ^ size ≠ 0 ∨ hbmSize ≤ m.dst
    · change ∃ t, execMigrationComplete n s = _ ∧ _
      simp only [execMigrationComplete, hr, hl]
      rw [if_pos h1]
      exact ⟨_, rfl, abort 0⟩
    · by_cases h2 : hbmSize < m.dst + 2 ^ size
      · change ∃ t, execMigrationComplete n s = _ ∧ _
        simp only [execMigrationComplete, hr, hl]
        rw [if_neg h1, if_pos h2]
        exact ⟨_, rfl, abort _⟩
      · obtain ⟨os, cs, es, gs, moved⟩ := exec_migrationComplete_moves hr hl (by omega) (by omega) (by omega)
        exact ⟨_, moved, releaseHeld_run ..⟩

/-! ## The Pantry (R56, R57, R60, R77) -/

theorem hasDup_eq_false {l : List Nat} (h : l.Nodup) : hasDup l = false := by
  induction l with
  | nil => rfl
  | cons x l ih =>
    obtain ⟨hx, hl⟩ := List.nodup_cons.mp h
    simp [hasDup, hx, ih hl]

theorem exec_pantryCommit_queued {s : State} {x : Nat} {v : Word} (hx : (s.ctx x).y.sup = true) (h1 : 1 ≤ bits v 32 11) (hn : bits v 32 11 ≤ 1655)
    (hq : s.svc.pantry.queue = []) {t : State} {bs : List Byte} {rs : List (Nat × PanRec)}
    (hr : s.readLines pantryReq (s.reg 0 0x810) ((bits v 32 11 + 3) / 4) = (t, some bs)) (hs : stagedRecs (cut 16 (bits v 32 11) bs) = some rs)
    (hd : (rs.map (·.1)).Nodup) (hw : ∀ r ∈ rs, SMap.at false t.svc.pantry.hwf r.1 = false) :
    exec (.pantryCommit x v) s = .next ((t.updPantry fun q => { q with queue := q.queue ++ [⟨rs, false⟩] }).retargetAll) := by
  have fences : (rs.any fun r => SMap.at false t.svc.pantry.hwf r.1) = false := List.any_eq_false.mpr fun r hm => by simp [hw r hm]
  change execPantryCommit x v s = _
  simp only [execPantryCommit, State.pantryWrite]
  rw [if_pos hx, if_neg (by rw [hq]; simp; omega), show ceilDiv (bits v 32 11) 4 = (bits v 32 11 + 3) / 4 from rfl, hr]
  simp only [hs, hasDup_eq_false hd, fences]
  rfl

theorem exec_pantryPublish_settled {s : State} {ch : PanChange} {rest : List PanChange} (hq : s.svc.pantry.queue = ch :: rest)
    (hs : s.capsSettled = true) : exec .pantryPublish s = .next (s.publish ch) := by
  change execPantryPublish s = _
  simp only [execPantryPublish, hq]
  rw [if_pos hs]

theorem octet_put (s : State) (n : Nat) (q : Octet) : ({ s with octets := SMap.put Octet.reset s.octets n q } : State).octet n = q :=
  get_set_same (d := fun _ => Octet.reset) s.octets n q

theorem ends_opSettleComplete {s : State} {n : Nat} {q : BitVec 3} (h : (s.octet n).settling = some q) :
    Ends (.opSettleComplete (512 + n)) s fun t => (t.octet n).op = q := by
  have keeps (t : State) : ((t.retargetOctet n).octet n).op = (t.octet n).op := by
    unfold State.retargetOctet
    dsimp only
    split
    · rfl
    · rw [octet_put]
  change ∃ t, execOpSettleComplete (512 + n) s = _ ∧ _
  simp only [execOpSettleComplete, Nat.add_sub_cancel_left, h]
  rw [if_neg (by omega)]
  refine ⟨_, rfl, (keeps _).trans ?_⟩
  rw [octet_put]

theorem exec_graceExpiry_suspends {s : State} {x : Nat} (hr : (s.ctx x).st = .running) (he : (s.ctx x).exiting = false)
    (hs : (s.ctx x).y.sup = false) (ht : s.inTransit x = false) (hv : (s.ctx x).y.panv ≠ s.svc.pantry.ver) :
    exec (.graceExpiry x) s = .next (s.suspendGang x 3 0 15 0#64) := by
  change execGraceExpiry x s = _
  simp [execGraceExpiry, State.panPending, hr, he, hs, ht, hv]

/-! ## Error counters (R264, R417, R418) -/

theorem errs_updErrs (s : State) (r : Nat) (f : ErrCount → ErrCount) : (s.updErrs r f).errs r = f (s.errs r) := get_set_same ..

theorem ends_errorThreshold {s : State} {n : Nat} (hn : n < 1655) (hu : (s.errs n).ue = 15) (ht : (s.errs n).ueTold = false)
    (hc : bits (s.reg 0 (0x990 + (panKind n).1)) 16 5 = 15) : Ends (.errorThreshold n) s fun t => (t.errs n).ueTold = true := by
  have limit : s.ueThreshold n = 15 := by simp [State.ueThreshold, State.errcfg, hc]
  change ∃ t, execErrorThreshold n s = _ ∧ _
  simp only [execErrorThreshold, limit, hu, ht]
  rw [if_neg (by simp; omega), if_neg (by simp)]
  refine ⟨_, rfl, ?_⟩
  rw [errs_updErrs]
  simp

theorem ends_errorWindowExpiry (s : State) (n : Nat) : Ends (.errorWindowExpiry n) s fun t => ∀ e ∈ t.svc.errs, (panKind e.1).1 ≠ n :=
  .of_exec (t := s.updSvc fun v => { v with errs := v.errs.filter fun e => (panKind e.1).1 != n }) rfl fun e he => by
    simpa using (List.mem_filter.mp he).2

theorem ends_hbmLaneDrift {s : State} {n : Nat} (hn : n < 12) :
    Ends (.hbmLaneDrift n) s fun t => (t.errs (1610 + n)).ue = min 16 ((s.errs (1610 + n)).ue + 1) := by
  refine .of_exec (t := s.countUE (1610 + n) 1 0#64) (congrArg _ (if_neg (by omega))) ?_
  rw [State.countUE, if_neg (by decide), errs_updErrs]

end Sys2Proof.Scope
end

section
/-! Rollbacks, hangs, pre-emption, samples and a context's own registers run to their end (R143, R152, R153, R158, R258, R367, R420 to
R423, R435). -/

namespace Sys2Proof.Scope

open Sys2Proof.Machine Sys2Proof.Safety Sys2Proof.Laws

/-! ## Rollbacks (R420 to R423) -/

section
variable {s : State} {x cause : Nat} {g : Gang} (hg : s.gang (s.ctx x).y.gang = some g) (hi : g.id = (s.ctx x).y.gang) (hr : g.rollback = none)
  (hf : (s.ctx x).st ≠ .free) (hl : s.noLog g = false)
include hg hi hr hf hl

/-- A gang with its log waits for its rollback. -/
theorem beginRollback_waits : ∃ z, (s.beginRollback x cause).gang g.id = some z ∧ z.rollback = some (cause, x, (s.ctx x).f.lcc, 0) := by
  have found : ((g.resident.foldl State.cutOff s).gang g.id).isSome = true := by
    rw [gang_isSome_congr (kept_foldl kept_cutOff g.resident s).ids, hi, hg]
    rfl
  rw [beginRollback_logged hg hr hf hl]
  exact gang_updGang (fun _ => rfl) found fun _ => rfl

end

theorem undoItem_ids (s : State) (u : UndoItem) : (s.undoItem u).gangs.map (·.id) = s.gangs.map (·.id) := by
  cases u with
  | line die pa old p => exact (accessed_writeHbm s 0 die pa old p).ids
  | sync k v => exact (kept_setSync s k _).ids

theorem undo_ids (l : List UndoItem) (s : State) : (l.foldl State.undoItem s).gangs.map (·.id) = s.gangs.map (·.id) :=
  List.foldlRecOn (motive := fun (t : State) => t.gangs.map (·.id) = s.gangs.map (·.id)) l _ rfl fun t h u _ => (undoItem_ids t u).trans h

/-- A gang that is rolled back has no log and no member on a core. -/
theorem ends_gangRollback {s : State} {n cause y i : Nat} {l : Word} {g : Gang} (hg : s.gang n = some g) (hr : g.rollback = some (cause, y, l, i))
    (hc : cause ≠ 9) (hb : s.partBusy g.part = false) (hm : g.resident ≠ []) (hn : g.nolog = false)
    (hq : ∀ m ∈ g.resident, s.quiet m = true) :
    Ends (.gangRollback n) s fun t => ∃ z, t.gang g.id = some z ∧ z.undo = [] ∧ z.resident = [] := by
  have all : g.resident.all s.quiet = true := List.all_eq_true.mpr hq
  refine .of_exec (exec_gangRollback_spent hg hr hc hb hm fun m hm => spent_of_quiet (hq m hm)) ?_
  rw [if_neg (by simp [hn]), if_neg (by simp [all]), gang_id hg]
  have found : ((g.resident.foldl State.sweep (g.undo.foldl State.undoItem (s.chargeEnergy g.part (s.gangEnergy g)))).gang n).isSome = true := by
    rw [gang_isSome_congr ((kept_foldl kept_sweep g.resident _).ids.trans (undo_ids ..)), State.gang, State.chargeEnergy, setReg_gangs,
      ← State.gang, hg]
    rfl
  refine gang_updGang (fun _ => rfl) found fun z => ⟨rfl, List.eq_nil_iff_forall_not_mem.mpr fun m hm => ?_⟩
  obtain ⟨⟨e, he, rfl⟩, hx⟩ := mem_resident.mp hm
  obtain ⟨_, -, rfl⟩ := List.mem_map.mp he
  exact absurd hx (Nat.not_lt.mpr (by decide : 2048 ≤ 0xFFFF))

theorem exec_rollbackRestart_placed {s : State} {n : Nat} {g : Gang} (hg : s.gang n = some g) (hr : g.rollback ≠ none) (hm : g.resident = [])
    (hw : ∀ l ∈ (s.placer g.die).ready, ∀ e ∈ l, e.gang ≠ some n) {r : Replay} {m : GNode} {t : State} (hq : s.replayOf g.queue = some r)
    (hn : r.nodes[g.node]? = some m) (hp : s.placeNode r g.node m (s.nodeClass g.queue m) (some g) = (t, .ok)) :
    exec (.rollbackRestart n) s = .next (t.restarted g) := by
  obtain ⟨⟨cause, x, lcc, lines⟩, hr⟩ := Option.ne_none_iff_exists'.mp hr
  rw [exec_rollbackRestart_places hg hr hm hw hq hn, hp]

/-! ## Hangs, STOPs and samples (R158, R367, R408, R435) -/

theorem ends_hangTimeout {s : State} {x : Nat} (hx : x < 2048) (hr : (s.ctx x).st = .running) (he : (s.ctx x).exiting = false)
    (hs : (s.ctx x).y.sup = false) (hh : (s.ctx x).y.hung = false) {q : Nat × Nat × Word} {l : Bool} (ha : (s.focus x).attempt = .stall q l) :
    Ends (.hangTimeout x) s fun t => (t.ctx x).y.hung = true := by
  change ∃ t, execHangTimeout x s = _ ∧ _
  simp only [execHangTimeout, ha]
  rw [if_neg (by simp [hr, he, hs, hh]; omega)]
  refine ⟨_, rfl, ?_⟩
  rw [ctx_upd, if_pos rfl]

theorem ends_preemptDeadline {s : State} {x : Nat} (h : (s.ctx x).y.stop = some ⟨false, false⟩) :
    Ends (.preemptDeadline x) s fun t => (t.ctx x).y.stop = some ⟨true, false⟩ := by
  change ∃ t, execPreemptDeadline x s = _ ∧ _
  simp only [execPreemptDeadline, h]
  refine ⟨_, rfl, ?_⟩
  rw [if_neg (by decide), ctx_upd, if_pos rfl]

theorem ctx_retarget (s : State) (k x : Nat) : (s.retarget k).ctx x = s.ctx x := by
  have octet (t : State) (o : Nat) : (t.retargetOctet o).ctx x = t.ctx x := by
    unfold State.retargetOctet
    dsimp only
    split <;> rfl
  unfold State.retarget
  dsimp only
  rw [octet]
  refine List.foldlRecOn (motive := fun (t : State) => t.ctx x = s.ctx x) _ _ rfl fun t h y _ => ?_
  split
  · exact h
  · exact h

theorem stopCtx_st (s : State) (x : Nat) (st : CtxState) : ((s.stopCtx x st).ctx x).st = st := by
  rw [State.stopCtx, State.parkCtx, ctx_retarget, ctx_upd, if_pos rfl]

theorem ends_preemptionComplete {s : State} {x : Nat} (h : (s.ctx x).y.stop = some ⟨true, false⟩) (hr : (s.ctx x).st = .running)
    (he : (s.ctx x).exiting = false) (hu : s.unreleased x = false) :
    Ends (.preemptionComplete x) s fun t => (t.ctx x).st = .preempted := by
  change ∃ t, execPreemptionComplete x s = _ ∧ _
  simp only [execPreemptionComplete, h]
  rw [if_neg (by simp [hr, he, hu]), if_neg (by decide), if_pos trivial]
  exact ⟨_, rfl, stopCtx_st ..⟩

theorem exec_pcSample_on {s : State} {n : Nat} (hn : n < 2) (h : bitAt (s.reg n 0x9B0) 63 = true) : exec (.pcSample n) s
    = .next ((List.range 256).foldl (fun t i => t.post (64 + n) (s.sample (256 * n + i))) s).ticked := by
  change execPcSample n s = _
  rw [execPcSample, if_pos ⟨hn, h⟩]

/-! ## A context's own registers (R143, R147, R152, R153, R258) -/

theorem chan_updChan (c : Ctx) (k : Nat) (f : Chan → Chan) : (c.updChan k f).chan k = f (c.chan k) :=
  get_set_same (d := fun _ => Chan.zero) ..

section
variable {s : State} {x : Nat} (h : s.writer x = true)
include h

/-- A channel that is not in use takes a configuration that a supervisor may choose. -/
theorem ends_chcfgWrite {k : Nat} {v : Word} (hk : k < 8) (hc : (s.ctx x).chan k = Chan.zero) (hm : bits v 60 3 ≤ 4) (h1 : 1 ≤ bits v 0 13)
    (hb : bits v 32 20 + 256 * bits v 0 13 ≤ 2 ^ 20) (hs : (s.ctx x).y.sup = true) :
    Ends (.chcfgWrite x k v) s fun t => ((t.ctx x).chan k).cfg = v &&& 0xFC0FFFFF00001FFF#64 := by
  have good : ¬ s.chcfgBad x k v = true := by
    rw [chcfgBad_iff, hc]
    rintro (⟨he, -⟩ | ⟨-, h⟩ | ⟨-, h⟩)
    · exact absurd he (by decide)
    · omega
    · exact h (.inl hs)
  refine .of_exec (exec_chcfgWrite h hk v) ?_
  rw [if_neg good, State.chcfgWrite, ctx_upd, if_pos rfl, chan_updChan]

theorem ends_lcntWrite {n : Nat} {v : Word} (hn : n < 4) (he : bits ((s.ctx x).loopEntry n) 62 2 = 1) :
    Ends (.lcntWrite x n v) s fun t => (t.ctx x).lcntOf n = v := by
  refine .of_exec (exec_lcntWrite h hn v) ?_
  rw [if_neg fun hb => ((lcntBad_iff s x n v).mp hb).2 he, State.lcntWrite, ctx_upd, if_pos rfl]
  exact get_set_same (d := fun _ => 0#64) ..

theorem ends_epcWrite {v : Word} (hm : (s.ctx x).e.hm = true) (hv : bits v 0 2 = 0) :
    Ends (.epcWrite x v) s fun t => (t.ctx x).e.epc = v.setWidth 32 := by
  refine .of_exec (exec_epcWrite h v) ?_
  rw [if_pos hm, if_neg (by simp [hv]), State.epcWrite, ctx_upd, if_pos rfl]

theorem ends_fcrWrite (v : Word) : Ends (.fcrWrite x v) s fun t =>
    (t.ctx x).f.pend = (s.ctx x).f.pend ++ [⟨(s.ctx x).now + 4#64, 0, .fcr 0xFF0F#64 v, none⟩] := by
  refine .of_exec (exec_fcrWrite h v) ?_
  rw [ctx_upd, if_pos rfl]

/-- TSOFF is open to every context. -/
theorem ends_registerWrite_tsoff (v : Word) : Ends (.registerWrite (.sys x 0x007) v) s fun t => (t.ctx x).y.tsoff = v.setWidth 32 := by
  have ho : SysReg.open (s.ctx x).y.sup 0x007 = true := by cases (s.ctx x).y.sup <;> decide
  have hb : s.swriteBad x 0x007 v = false := by simp [State.swriteBad]
  refine .of_exec (exec_registerWrite_sys s x 0x007 v) ?_
  have tsoff : s.sysWrite x 0x007 v = s.upd x fun c => { c with y := { c.y with tsoff := v.setWidth 32 } } := rfl
  rw [regWrite_allowed h ho hb (by decide) (by decide), tsoff, ctx_upd, if_pos rfl]

end

/-! ## FABID (R377) -/

/-- The package's number is written; the frame length, which lies below it, may be. -/
theorem ends_fabidWrite {s : State} {x : Nat} {v : Word} (hx : (s.ctx x).y.sup = true) (hp : ∀ q, q < 32 → s.portUp q = false) :
    Ends (.fabidWrite x v) s fun t => bits (t.reg 0 0x940) 48 8 = bits v 48 8 := by
  have down : (List.range 32).any s.portUp = false := List.any_eq_false.mpr fun q hq => by simp [hp q (List.mem_range.mp hq)]
  have number := bits_lt v 48 8
  have old := (s.reg 0 0x940).isLt
  change ∃ t, execFabidWrite x v s = _ ∧ _
  simp only [execFabidWrite]
  rw [if_neg (by simp [hx, down])]
  refine ⟨_, rfl, ?_⟩
  rw [reg_setReg_same]
  generalize bits v 48 8 = a at *
  generalize bits v 32 4 = b
  simp only [bits, toWord, BitVec.toNat_ofNat, natBits, setBits]
  split <;> omega

end Sys2Proof.Scope
end

section
/-! The ends of requests, packets, links and drains run to their end (R374, R375, R377 to R382, R388, R390, R393 to R396, R463). -/

namespace Sys2Proof.Scope

open Sys2Proof.Machine Sys2Proof.Safety Sys2Proof.Laws

/-! ## The end of a request (R379, R382) -/

/-- Errors that accesses find change memories and counts alone. -/
theorem kept_of_finds {m : MemKind} {s t : State} (h : Finds m s t) : Kept s t := by
  obtain ⟨⟨p, q, e, rfl, -⟩, -, -⟩ := h
  cases m <;> exact ⟨rfl, rfl, rfl, rfl, rfl⟩

theorem kept_writeAS (s : State) (sp : Bool) (a : Nat) (bs : List Byte) (p : Bool) (w : Nat) : Kept s (s.writeAS sp a bs p w) := by
  have parity (t : State) (n : Nat) : Kept t (t.noticeParity a n) := by
    obtain ⟨q, f, e, h⟩ := noticeParity_frame t a n
    rw [h]
    exact ⟨rfl, rfl, rfl, rfl, rfl⟩
  have put (t : State) (b : Bank) (z : SMap (BitVec 32)) (k : SMap Nat) (n : SMap Bool) :
      Kept t { t with sp := b, spStamp := z, spMark := k, spSeen := n } := ⟨rfl, rfl, rfl, rfl, rfl⟩
  have putAb (t : State) (b : Bank) (z : SMap (BitVec 32)) (k : SMap Nat) : Kept t { t with ab := b, abStamp := z, abMark := k } :=
    ⟨rfl, rfl, rfl, rfl, rfl⟩
  unfold State.writeAS
  dsimp only
  split
  · exact (put _ _ _ _ _).after ((parity _ _).after (kept_of_finds (finds_noticeEdges s .sp a bs.length)))
  · exact (putAb _ _ _ _).after (kept_of_finds (finds_noticeEdges s .ab a bs.length))

theorem kept_storeElem (s : State) (sp : Bool) (key : Nat) (v : Vec) (p : BitVec 4) (stamp : BitVec 32) :
    Kept s (s.storeElem sp key v p stamp) := by
  have lines := kept_foldl (fun t g => kept_writeAS t sp (key + 64 * g) (((vecBytes v).drop (64 * g)).take 64) (p.getLsbD g) 0) (List.range 4) s
  unfold State.storeElem
  dsimp only
  split
  · exact lines.trans ⟨rfl, rfl, rfl, rfl, rfl⟩
  · exact lines.trans ⟨rfl, rfl, rfl, rfl, rfl⟩

theorem kept_elemSignal (s : State) (e : Elem) : Kept s (s.elemSignal e) := by
  unfold State.elemSignal
  split
  · exact .refl s
  · split
    · split
      · exact ⟨rfl, rfl, rfl, rfl, rfl⟩
      · exact .refl s
    · exact .refl s

theorem kept_commitPush (s : State) (a bundle : Nat) : Kept s (s.commitPush a bundle) := by
  unfold State.commitPush
  split
  · exact .refl s
  · exact (kept_ops _ _).after (kept_updLadle _ _ _)

theorem kept_settleElems (fuel : Nat) (s : State) : Kept s (s.settleElems fuel) := by
  induction fuel generalizing s with
  | zero => exact .refl s
  | succ fuel ih =>
    rw [State.settleElems]
    dsimp only
    split
    · exact .refl s
    · refine (ih _).after ((kept_commitPush _ _ _).after ((kept_elemSignal _ _).after ((kept_upd _ _ _).after ?_)))
      exact ⟨rfl, rfl, rfl, rfl, rfl⟩

theorem kept_fillElems (s : State) (ids : List Nat) (stamp : BitVec 32) (vs : List PVec) : Kept s (s.fillElems ids stamp vs) := by
  unfold State.fillElems
  refine kept_foldl (fun t iv => ?_) _ s
  split
  · exact .refl t
  · exact (kept_settleElems _ _).after ((kept_storeElem t _ _ _ _ _).trans ⟨rfl, rfl, rfl, rfl, rfl⟩)

theorem kept_failCount (s : State) (x : Nat) (e : FabEnd) : Kept s (s.failCount x e) := by
  unfold State.failCount
  split
  · unfold State.countFail
    split
    · exact .refl s
    · exact kept_upd s x _
  · exact .refl s

theorem kept_lineLoss (s : State) (id : Nat) (e : FabEnd) : Kept s (s.lineLoss id e) := by
  unfold State.lineLoss
  split
  · split
    · unfold State.lossOf
      split
      · exact ⟨rfl, rfl, rfl, rfl, rfl⟩
      · exact .refl s
    · exact .refl s
  · exact .refl s

theorem kept_updCmd (s : State) (id : Nat) (f : Cmd → Cmd) : Kept s (s.updCmd id f) := kept_cmds s _

theorem kept_endMldr (s : State) (o : Op) (stamp : BitVec 32) (ids : List Nat) (e : FabEnd) : Kept s (s.endMldr o stamp ids e) := by
  have fills (vs : List PVec) (ls : List Landing) : Kept s ((s.fillElems ids stamp vs).performed o ls) :=
    (kept_performed _ o ls).after (kept_fillElems s ids stamp vs)
  unfold State.endMldr
  dsimp only
  split
  · split
    · exact fills _ _
    · split
      · exact kept_ops s _
      · exact fills _ _
  · exact fills _ _

theorem kept_endOp (s : State) (o : Op) (e : FabEnd) : Kept s (s.endOp o e) := by
  unfold State.endOp
  split
  · exact kept_performed ..
  · exact (kept_performed _ _ _).after (kept_failCount _ _ _)
  · exact (kept_performed _ _ _).after (kept_failCount _ _ _)
  · exact kept_endMldr ..
  · exact (kept_performed _ _ _).after (kept_failCount _ _ _)

/-- The end of a request reaches its operation, command or element; the fabric's own state stands. -/
theorem kept_endUse (s : State) (use : FabUse) (e : FabEnd) : Kept s (s.endUse use e) := by
  unfold State.endUse
  split
  · split
    · exact kept_endOp ..
    · exact .refl s
  · exact (kept_updCmd _ _ _).after (kept_lineLoss _ _ _)
  · split
    · exact (kept_updCmd _ _ _).after ((kept_failCount _ _ _).after (kept_lineLoss _ _ _))
    · exact .refl s
  · split
    · exact kept_fillElems ..
    · exact .refl s

end Sys2Proof.Scope
end

section
/-! Slot tables, packets, links and drains run to their end (R373 to R382, R388, R390, R393 to R396, R463). -/

namespace Sys2Proof.Scope

open Sys2Proof.Machine Sys2Proof.Safety Sys2Proof.Laws

/-! ## Drains (R396) -/

/-- Closing entries ends their requests; the drains stand. -/
theorem closeEntry_drains (s : State) (q : OpenReq) (e : FabEnd) : (s.closeEntry q e).fab.drains = s.fab.drains := by
  unfold State.closeEntry
  split
  · rw [(kept_endUse s q.use e).fab]
  · rw [(kept_endUse _ q.use e).fab]
    rfl

theorem foldl_drains {α : Type} {f : State → α → State} (hf : ∀ t x, (f t x).fab.drains = t.fab.drains) (l : List α) (s : State) :
    (l.foldl f s).fab.drains = s.fab.drains :=
  List.foldlRecOn (motive := fun (t : State) => t.fab.drains = s.fab.drains) l f rfl fun t h x _ => (hf t x).trans h

theorem failEntries_drains (s : State) (f : FabFail) (hit : OpenReq → Bool) : (s.failEntries f hit).fab.drains = s.fab.drains :=
  foldl_drains (fun t q => closeEntry_drains t q (.failed f)) _ s

theorem discardQueued_drains (s : State) (d : Drain) : (s.discardQueued d).fab.drains = s.fab.drains := by
  unfold State.discardQueued
  refine foldl_drains (fun t p => ?_) _ s
  dsimp only
  rw [failEntries_drains]
  split <;> rfl

/-- The last round of a drain ends it. -/
theorem ends_drainRoundExpiry {s : State} {n : Nat} {d : Drain} (hd : s.fab.drains[n]? = some d) (h3 : 3 ≤ d.round) :
    Ends (.drainRoundExpiry n) s fun t => t.fab.drains = s.fab.drains.eraseIdx n := by
  change ∃ t, execDrainRoundExpiry n s = _ ∧ _
  simp only [execDrainRoundExpiry, hd]
  rw [if_neg (by omega)]
  refine ⟨_, rfl, ?_⟩
  rw [State.fabRecordAt, (accessed_post _ _ _).fab, failEntries_drains, discardQueued_drains]
  rfl

/-! ## Links and their updates (R395, R463) -/

theorem link_updLink (s : State) (u : Nat) (f : Link → Link) : (s.updLink u f).link u = f (s.link u) := get_set_same (d := fun _ => Link.off) ..

theorem fabRecord_links (s : State) (die event plane pkg : Nat) (inc : Byte) : (s.fabRecord die event plane pkg inc).links = s.links :=
  ((accessed_ticked _).links).trans (accessed_post _ _ _).links

theorem fabRecord_fab (s : State) (die event plane pkg : Nat) (inc : Byte) : (s.fabRecord die event plane pkg inc).fab = s.fab :=
  ((accessed_ticked _).fab).trans (accessed_post _ _ _).fab

theorem link_congr {s t : State} (h : t.links = s.links) (u : Nat) : t.link u = s.link u := by rw [State.link, State.link, h]

/-- A dead link is recorded once its state and its update stand. -/
theorem declareDead_frame (s : State) (p : Nat) : ∃ (t : State) (die event plane pkg : Nat) (inc : Byte),
    s.declareDead p = t.fabRecord die event plane pkg inc ∧
    t.links = (s.updLink (13 + p) fun l => { l with state := 5 }).links ∧ s.fab.lsuSeen ⊆ t.fab.lsuSeen :=
  ⟨_, _, _, _, _, _, rfl, rfl, List.subset_append_left _ _⟩

theorem declareDead_link (s : State) (p : Nat) : ((s.declareDead p).link (13 + p)).state = 5 := by
  obtain ⟨t, die, event, plane, pkg, inc, hd, hl, -⟩ := declareDead_frame s p
  rw [hd, link_congr ((fabRecord_links t die event plane pkg inc).trans hl)]
  exact congrArg Link.state (link_updLink s (13 + p) fun l => { l with state := 5 })

section
variable {s : State} {n : Nat} (h : s.portUp n = true)
include h

theorem ends_linkDead : Ends (.linkDead n) s fun t => (t.link (13 + n)).state = 5 := by
  change ∃ t, execLinkDead n s = _ ∧ _
  rw [execLinkDead, if_pos h]
  exact ⟨_, rfl, declareDead_link s n⟩

theorem ends_linkRetry : Ends (.linkRetry n) s fun t => t = s.fabCount 0 := by
  change ∃ t, execLinkRetry n s = _ ∧ _
  rw [execLinkRetry, if_pos h]
  exact ⟨_, rfl, rfl⟩

theorem ends_linkDown {x : Nat} {v : Word} (hn : n < 32) (hx : (s.ctx x).y.sup = true) (hv : bitAt v 62 = true) (hu : bits v 0 6 = 13 + n) :
    Ends (.linkDown x v) s fun t => (t.link (13 + n)).state = 5 := by
  change ∃ t, execLinkDown x v s = _ ∧ _
  simp only [execLinkDown, hu, Nat.add_sub_cancel_left]
  rw [if_neg (by simp [hx, hv]; omega), if_pos h]
  exact ⟨_, rfl, declareDead_link s n⟩

end

theorem ends_linkTrain {s : State} {x n : Nat} {v : Word} (hx : (s.ctx x).y.sup = true) (hv : bitAt v 63 = true) (hn : n < 32)
    (hu : bits v 0 6 = 13 + n) (h : (s.link (13 + n)).state = 0) : Ends (.linkTrain x v) s fun t => (t.link (13 + n)).state = 1 := by
  change ∃ t, execLinkTrain x v s = _ ∧ _
  simp only [execLinkTrain, hu, h]
  rw [if_neg (by simp [hx, hv]; omega), if_pos (by decide)]
  refine ⟨_, rfl, ?_⟩
  rw [link_updLink]

/-- Joins that are sent change the fabric alone. -/
theorem sendJoins_links (s : State) (again : Option Nat) : (s.sendJoins again).links = s.links := by
  unfold State.sendJoins
  refine List.foldlRecOn (motive := fun (t : State) => t.links = s.links) _ _ rfl fun t h j _ => ?_
  split
  · exact h
  · split
    · exact h
    · exact h

theorem ends_linkTrainingComplete {s : State} {n width sport dly : Nat} (h : (s.link (13 + n)).state = 1) :
    Ends (.linkTrainingComplete n 2 width sport dly) s fun t => (t.link (13 + n)).state = 2 := by
  change ∃ t, execLinkTrainingComplete n 2 width sport dly s = _ ∧ _
  simp only [execLinkTrainingComplete, h]
  rw [if_neg (by decide), if_neg (by decide)]
  refine ⟨_, rfl, ?_⟩
  rw [link_congr ((sendJoins_links _ _).trans (fabRecord_links _ _ _ _ _ _))]
  exact congrArg Link.state (link_updLink s (13 + n) fun l => { state := 2, width := width, retrain := min 65535 (l.retrain + 1) })

/-! ## Link-state updates (R395) -/

/-- What has been applied stays so. -/
theorem declareDead_seen (s : State) (p : Nat) : s.fab.lsuSeen ⊆ (s.declareDead p).fab.lsuSeen := by
  obtain ⟨t, die, event, plane, pkg, inc, hd, -, hs⟩ := declareDead_frame s p
  rw [hd, fabRecord_fab]
  exact hs

theorem peerDown_seen (s : State) (u : LinkUpdate) (reset : Bool) : (s.peerDown u reset).fab.lsuSeen = s.fab.lsuSeen := by
  rw [State.peerDown, fabRecord_fab]
  rfl

theorem applyPeer_seen (s : State) (u : LinkUpdate) : (s.applyPeer u).fab.lsuSeen = s.fab.lsuSeen := by
  unfold State.applyPeer
  split
  · dsimp only
    split
    · rw [peerDown_seen, fabRecord_fab]
      rfl
    · rw [fabRecord_fab]
      rfl
  · rw [fabRecord_fab]
    rfl
  · exact peerDown_seen ..
  · exact peerDown_seen ..
  · rw [State.peerUp, fabRecord_fab]
    change (if _ then s.peerDown u true else s).fab.lsuSeen = _
    split
    · exact peerDown_seen ..
    · rfl

theorem ends_lsu {s : State} {u : LinkUpdate} (h : u.seq ∉ s.fab.lsuSeen) : Ends (.lsu u) s fun t => u.seq ∈ t.fab.lsuSeen := by
  have new : u.seq ∈ (s.updFab fun f => { f with lsuSeen := f.lsuSeen ++ [u.seq], lsuOut := f.lsuOut ++ [(u, 0)] }).fab.lsuSeen :=
    List.mem_append_right _ (List.mem_singleton_self _)
  change ∃ t, execLsu u s = _ ∧ _
  simp only [execLsu]
  rw [if_neg (by simpa using h)]
  refine ⟨_, rfl, ?_⟩
  split
  · rw [applyPeer_seen]
    exact new
  · split
    · exact declareDead_seen _ _ new
    · exact new

/-! ## Slot tables, joins and departures (R374, R375, R393) -/

theorem ends_tabload {s : State} {x : Nat} {v : Word} (hx : (s.ctx x).y.sup = true) (h : s.fab.loading = none) :
    Ends (.tabload x v) s fun t => t.fab.loading = some (bits v 0 5) := by
  change ∃ t, execTabload x v s = _ ∧ _
  rw [execTabload, if_neg (by simp [hx, h])]
  exact ⟨_, rfl, rfl⟩

theorem ends_tabloadComplete {s : State} (h : s.fab.loading ≠ none) : Ends .tabloadComplete s fun t => t.fab.loading = none := by
  obtain ⟨p, hp⟩ := Option.ne_none_iff_exists'.mp h
  change ∃ t, execTabloadComplete s = _ ∧ _
  simp only [execTabloadComplete, hp]
  refine ⟨_, rfl, ?_⟩
  split
  · rfl
  · split <;> rfl

/-- A join is held, and stays known when it is sent. -/
theorem sendJoins_joins {s : State} {again : Option Nat} {pl gr : Nat} (h : ∃ j ∈ s.fab.joins, j.plane = pl ∧ j.group = gr) :
    ∃ j ∈ (s.sendJoins again).fab.joins, j.plane = pl ∧ j.group = gr := by
  unfold State.sendJoins
  refine List.foldlRecOn (motive := fun (t : State) => ∃ j ∈ t.fab.joins, j.plane = pl ∧ j.group = gr) _ _ h fun t ht i _ => ?_
  split
  · exact ht
  · split
    · exact ht
    · obtain ⟨j, hj, hp, hg⟩ := ht
      refine ⟨_, List.mem_map.mpr ⟨j, hj, rfl⟩, ?_⟩
      split <;> exact ⟨hp, hg⟩

theorem ends_fabgrpJoin {s : State} {x : Nat} {v : Word} (hx : (s.ctx x).y.sup = true) (hv : bitAt v 63 = true) :
    Ends (.fabgrpJoin x v) s fun t => ∃ j ∈ t.fab.joins, j.plane = bits v 58 5 ∧ j.group = bits v 48 10 := by
  change ∃ t, execFabgrpJoin x v s = _ ∧ _
  rw [execFabgrpJoin, if_neg (by simp [hx, hv])]
  exact ⟨_, rfl, sendJoins_joins ⟨_, List.mem_append_right _ (List.mem_singleton_self _), rfl, rfl⟩⟩

theorem nextOut_isSome {s : State} {n k : Nat} (h : ∃ q ∈ (s.port n).queue, s.mayDepart n k q = true) : (s.nextOut n k).isSome = true := by
  obtain ⟨q, hq, hm⟩ := h
  obtain ⟨w, ws, hl⟩ := List.exists_cons_of_ne_nil (List.ne_nil_of_mem (List.mem_filter.mpr ⟨hq, hm⟩))
  simp only [State.nextOut, hl]
  cases List.find? (fun w => w.reply) (w :: ws) <;> rfl

theorem ends_packetDepart {s : State} {n k : Nat} (hp : s.portInService n = true) (hc : s.carries n k = true)
    (h : ∃ q ∈ (s.port n).queue, s.mayDepart n k q = true) :
    Ends (.packetDepart n k) s fun t => t.fab.sent.length = s.fab.sent.length + 1 := by
  obtain ⟨w, hw⟩ := Option.isSome_iff_exists.mp (nextOut_isSome h)
  change ∃ t, execPacketDepart n k s = _ ∧ _
  simp only [execPacketDepart, hw]
  rw [if_neg (by simp [hp, hc])]
  exact ⟨_, rfl, List.length_append⟩

theorem ends_frameBoundary (s : State) : Ends .frameBoundary s fun t => t.fab.lsuOut = [] := by
  change ∃ t, execFrameBoundary s = _ ∧ _
  exact ⟨_, rfl, rfl⟩

end Sys2Proof.Scope
end

section
/-! Packets that arrive are answered, and the boot goes from stage to stage (R377 to R382, R388, R390, R450 to R462). -/

namespace Sys2Proof.Scope

open Sys2Proof.Machine Sys2Proof.Safety Sys2Proof.Laws

/-! ## Replies (R379) -/

section
variable {s : State} {n : Nat} {p : Packet} (hp : s.portInService n = true) (hs : s.liveSource p = true)
include hp hs

theorem onReply_closes {q : OpenReq}
    (hq : (s.fab.entries.find? fun q => q.tag == bits p.addr 0 16 && (q.peer.isNone || q.peer == some (pktSrc p))) = some q) (e : FabEnd) :
    s.onReply n p e = .next (s.closeEntry q e) := by
  simp only [State.onReply, hq]
  rw [if_neg (by simp [hp]), if_neg (by simp [hs])]

/-! ## Requests (R381, R388, R390) -/

variable (ht : p.tinc = s.ownInc) {part : Nat} (hk : s.keyPart n p.key = some part)
include ht hk

theorem onRequest_runs (f : Nat → State) : s.onRequest n p f = .next (f part) := by
  simp only [State.onRequest, hk]
  rw [if_neg (by simp [hp]), if_neg (by simp [hs]), if_neg (by simp [ht])]

theorem exec_fabricRead_answers {t : State} {bs : List Byte} {ps : BitVec 4}
    (h : s.targetRead (fabRecv n part) p.addr (min 256 p.aux.toNat) = (t, some (bs, ps))) :
    exec (.fabricRead n p) s = .next (t.reply p 18#8 0 bs ps) := by
  change execFabricRead n p s = _
  rw [execFabricRead, onRequest_runs hp hs ht hk, h]

theorem exec_fabricReduce_answers {t : State} (h : s.targetReduce (fabRecv n part) p.addr (bits p.aux 44 3) p.payload = (t, true))
    (hn : bitAt p.aux 43 = false) : exec (.fabricReduce n p) s = .next (t.reply p 16#8 0 [] 0#4) := by
  change execFabricReduce n p s = _
  rw [execFabricReduce, onRequest_runs hp hs ht hk]
  simp only [h, hn]
  rfl

end

/-- A target word of space 1 names AB of a core (R385). -/
theorem targetLoc_ab {s : State} {q : Req} {t : Word} {z key : Nat} (h1 : bits t 60 4 = 1)
    (hk : s.placeAS false q.part (bits t 20 9) false z (toWord (bits t 0 20)) = .ok key) (w : Bool) : s.targetLoc q t z w = (s, some (.ab key)) := by
  simp only [State.targetLoc, h1, hk]
  rfl

/-- AB lies in no page that migrates. -/
theorem targetHeld_onDie {s : State} {q : Req} {ts : List Word} (h : ∀ t ∈ ts, bits t 60 4 ≠ 0) : s.targetHeld q ts = false :=
  List.any_eq_false.mpr fun t ht => by simp [h t ht]

theorem lineParts_line {bs : List Byte} (h : bs.length = 64) : lineParts bs = [(0, bs)] := by
  rw [lineParts, h, show (List.range (ceilDiv 64 64)) = [0] from rfl, List.map_singleton, Nat.mul_zero, List.drop_zero,
    List.take_of_length_le (Nat.le_of_eq h)]

/-- A line that fits lands in AB at once. -/
theorem targetWrite_ab {s : State} {q : Req} {t : Word} {key : Nat} {bs : List Byte} (h1 : bits t 60 4 = 1) (hl : bs.length = 64)
    (hk : s.placeAS false q.part (bits t 20 9) false 64 (toWord (bits t 0 20)) = .ok key) (ps : BitVec 4) :
    s.targetWrite q t bs ps = (s.writeAS false key bs (ps.getLsbD 0) 0, true) := by
  have at0 : t + toWord 0 = t := BitVec.add_zero t
  have n0 : ¬ bits t 60 4 = 0 := by omega
  simp only [State.targetWrite, lineParts_line hl, List.foldl_cons, List.foldl_nil, State.targetFits, hl, if_neg n0, targetLoc_ab h1 hk, at0]
  rfl

section
variable {s : State} {n : Nat} {p : Packet} (hp : s.portInService n = true) (hs : s.liveSource p = true) (ht : p.tinc = s.ownInc) {part : Nat}
  (hk : s.keyPart n p.key = some part) (h1 : bits p.addr 60 4 = 1) {key : Nat}
include hp hs ht hk h1

theorem exec_fabricWrite_line (hf : p.aux = noFlag) (hl : p.payload.length = 64)
    (ha : s.placeAS false part (bits p.addr 20 9) false 64 (toWord (bits p.addr 0 20)) = .ok key) :
    exec (.fabricWrite n p) s = .next ((s.writeAS false key p.payload (p.poison.getLsbD 0) 0).reply p 16#8 0 [] 0#4) := by
  have free : s.targetHeld (fabRecv n part) [p.addr, p.addr + 192#64] = false := by
    refine targetHeld_onDie fun t h => ?_
    rw [List.mem_cons, List.mem_singleton] at h
    have lt := p.addr.isLt
    rcases h with rfl | rfl
    · omega
    · simp only [bits, natBits, BitVec.toNat_add, BitVec.toNat_ofNat] at h1 ⊢
      omega
  have n3 : ¬ bits p.addr 60 4 = 3 := by omega
  change execFabricWrite n p s = _
  rw [execFabricWrite, onRequest_runs hp hs ht hk]
  simp only [if_pos hf, List.append_nil, free, if_neg n3, targetWrite_ab (q := fabRecv n part) h1 hl ha]
  rfl

theorem exec_fabricAtomic_answers {f : AtomOp} {z : Nat} {t : State} {r : Nat} (hf : AtomOp.ofCode (p.payload.getD 0 0#8).toNat = some f)
    (hz : z = (p.payload.getD 1 0#8).toNat) (ha : s.placeAS false part (bits p.addr 20 9) false z (toWord (bits p.addr 0 20)) = .ok key)
    (hr : s.atomAt (fabRecv n part) f (.ab key) z p.aux (toWord (leNat ((p.payload.drop 8).take 8))) = (t, some r)) :
    exec (.fabricAtomic n p) s = .next (t.reply p 18#8 0 (natLe (r % 2 ^ 64) 8) 0#4) := by
  have n9 : ¬ (p.payload.getD 0 0#8).toNat = 9 := fun h => by rw [h] at hf; cases hf
  have free : s.targetHeld (fabRecv n part) [p.addr] = false := targetHeld_onDie fun t h => by
    rw [List.mem_singleton.mp h]
    omega
  subst hz
  change execFabricAtomic n p s = _
  rw [execFabricAtomic, onRequest_runs hp hs ht hk]
  simp only [free, if_neg n9, targetLoc_ab (q := fabRecv n part) h1 ha, hf, hr, Option.map_some]
  rw [show r % 2 ^ 64 = (toWord r).toNat from (BitVec.toNat_ofNat r 64).symm]
  rfl

end

/-! ## Reset and boot (R450 to R459) -/

theorem bootStage_stage (s : State) (n : Nat) : (s.bootStage n).svc.boot.stage = n := rfl

theorem bootFail_stage (s : State) (e : Nat) : (s.bootFail e).svc.boot.stage = 15 := rfl

theorem ends_packageReset (s : State) : Ends .packageReset s fun t => t.svc.boot.stage = 0 ∧ t.svc.boot.flash = s.svc.boot.flash := by
  change ∃ t, execPackageReset s = _ ∧ _
  exact ⟨_, rfl, rfl, rfl⟩

theorem ends_bootVerify_rom {s : State} (h : s.svc.boot.stage = 0) : Ends .bootVerify s fun t => t.svc.boot.stage = 1 := by
  change ∃ t, execBootVerify s = _ ∧ _
  simp only [execBootVerify, h]
  exact ⟨_, rfl, rfl⟩

theorem ends_bootVerify_fetch {s : State} (h : s.svc.boot.stage = 1) : Ends .bootVerify s fun t =>
    t.svc.boot.stage = if s.svc.boot.flash ≠ [] ∧ badBundle s.svc.boot.flash = false then 2 else 15 := by
  change ∃ t, execBootVerify s = _ ∧ _
  simp only [execBootVerify, h]
  refine ⟨_, rfl, ?_⟩
  unfold State.fetchBundle
  by_cases he : s.svc.boot.flash = []
  · rw [if_pos (by simp [he]), if_neg (by simp [he]), bootFail_stage]
  · rw [if_neg (by simp [he])]
    cases hb : badBundle s.svc.boot.flash
    · rw [if_neg (by decide), if_pos ⟨he, rfl⟩, bootStage_stage]
    · rw [if_pos rfl, if_neg (by simp), bootFail_stage]

theorem ends_bootVerify_verify {s : State} (h : s.svc.boot.stage = 2) {f : Mem} (hf : f = s.svc.boot.flash) : Ends .bootVerify s fun t =>
    t.svc.boot.stage = if sha512 (rootKey f) = Config.romKeyHash ∧
      ecdsaVerify (rootKey f) (Mem.bytes f (Mem.read f 8 4) 132) (sha512 (Mem.bytes f 0 (Mem.read f 8 4))) = true ∧
      badConfig (configBytes f) (supEntry f).size = false then 3 else 15 := by
  subst hf
  change ∃ t, execBootVerify s = _ ∧ _
  simp only [execBootVerify, h]
  refine ⟨_, rfl, ?_⟩
  simp only [State.verifyBundle]
  generalize s.svc.boot.flash = f
  by_cases hh : sha512 (rootKey f) = Config.romKeyHash
  · rw [if_neg (not_not.mpr hh)]
    cases hv : ecdsaVerify (rootKey f) (Mem.bytes f (Mem.read f 8 4) 132) (sha512 (Mem.bytes f 0 (Mem.read f 8 4)))
    · rw [if_pos (by decide), if_neg (by simp), bootFail_stage]
    · rw [if_neg (by decide)]
      cases hc : badConfig (configBytes f) (supEntry f).size
      · rw [if_neg (by decide), if_pos ⟨hh, rfl, rfl⟩, bootStage_stage]
      · rw [if_pos rfl, if_neg (by simp), bootFail_stage]
  · rw [if_pos hh, if_neg fun h => hh h.1, bootFail_stage]

theorem ends_bist {s : State} (h : s.svc.boot.stage = 3) : Ends (.bist []) s fun t => t.svc.boot.stage = 4 := by
  change ∃ t, execBist [] s = _ ∧ _
  rw [execBist, if_neg (by simp [h])]
  exact ⟨_, rfl, bootStage_stage ..⟩

theorem updLink_svc (s : State) (u : Nat) (f : Link → Link) : (s.updLink u f).svc = s.svc := rfl

/-- Training changes the links alone. -/
theorem foldl_updLink_svc {α : Type} (u : α → Nat) (f : α → Link → Link) (l : List α) (s : State) :
    (l.foldl (fun t x => t.updLink (u x) (f x)) s).svc = s.svc :=
  List.foldlRecOn (motive := fun (t : State) => t.svc = s.svc) l _ rfl fun t h _ _ => (updLink_svc t _ _).trans h

theorem startTraining_stage (s : State) : s.startTraining.svc.boot.stage = 5 := by
  rw [State.startTraining, foldl_updLink_svc, bootStage_stage]

theorem ends_marchTimeout {s : State} (h : s.svc.boot.stage = 4) : Ends .marchTimeout s fun t => t.svc.boot.stage = 5 := by
  change ∃ t, execMarchTimeout s = _ ∧ _
  rw [execMarchTimeout, if_neg (by omega)]
  refine ⟨_, rfl, ?_⟩
  rw [if_pos h, startTraining_stage]

theorem ends_memTrainingComplete {s : State} (h : s.svc.boot.stage = 5) (br : Nat × Bool) :
    Ends (.memTrainingComplete [] br) s fun t => t.svc.boot.stage = 6 ∧ t.svc.boot.memUp = true := by
  change ∃ t, execMemTrainingComplete [] br s = _ ∧ _
  rw [execMemTrainingComplete, if_neg (by simp [h])]
  exact ⟨_, rfl, rfl, rfl⟩

theorem ends_bootPantry {s : State} {k : Nat} (h : s.svc.boot.stage = 6) (hk : k < 256) (hp : (s.coreTest k).pass = true) :
    Ends .bootPantry s fun t => t.svc.boot.stage = 7 := by
  have pass : ((List.range 256).any fun k => (s.coreTest k).pass) = true := List.any_eq_true.mpr ⟨k, List.mem_range.mpr hk, hp⟩
  change ∃ t, execBootPantry s = _ ∧ _
  simp only [execBootPantry]
  rw [if_neg (by simp [h]), if_neg (by simp [pass])]
  exact ⟨_, rfl, bootStage_stage ..⟩

/-! ## Tests and attestation (R455, R457, R458, R462) -/

theorem coreTest_updTest (s : State) (k : Nat) (f : CoreTest → CoreTest) : (s.updTest k f).coreTest k = f (s.coreTest k) :=
  get_set_same (d := fun _ => CoreTest.zero) ..

section
variable {s : State} {x : Nat} (h : s.isSup x = true)
include h

theorem ends_repadd {v : Word} (hs : s.svc.boot.stage = 4) {l : List (Bool × Nat)}
    (hn : (bitAt v 16, bits v 0 14) ∉ (s.coreTest (coreOf x)).repairs)
    (hl : addRepair (s.coreTest (coreOf x)).repairs (bitAt v 16, bits v 0 14) = some l) :
    Ends (.repadd x v) s fun t => (t.coreTest (coreOf x)).repairs = l := by
  change ∃ t, execRepadd x v s = _ ∧ _
  rw [execRepadd, if_pos h]
  refine ⟨_, rfl, ?_⟩
  simp only [State.repaddWrite, hl]
  rw [if_neg (by simpa [hs] using hn), coreTest_updTest]

theorem ends_testcfgWrite (hs : s.svc.boot.stage = 4) (v : Word) :
    Ends (.testcfgWrite x v) s fun t => t.reg (coreOf x) 0xA02 = v &&& 1#64 := by
  change ∃ t, execTestcfgWrite x v s = _ ∧ _
  rw [execTestcfgWrite, if_pos h]
  refine ⟨_, rfl, ?_⟩
  rw [State.testcfgWrite, if_pos hs, reg_setReg_same]

theorem ends_bootsumWrite {v : Word} (hs : s.svc.boot.stage = 7) (hv : bitAt v 63 = false) :
    Ends (.bootsumWrite x v) s fun t => (t.coreTest (coreOf x)).fails = bits v 32 16 := by
  have stage (f : CoreTest → CoreTest) : (s.updTest (coreOf x) f).svc.boot.stage = 7 := hs
  change ∃ t, execBootsumWrite x v s = _ ∧ _
  rw [execBootsumWrite, if_pos h]
  refine ⟨_, rfl, ?_⟩
  simp only [State.bootsumWrite, hv, Bool.false_eq_true, if_false, stage]
  rw [if_neg (by omega), coreTest_updTest]

theorem ends_attestationStart {v : Word} (hv : bitAt v 0 = true) (hb : s.svc.boot.attBusy = false) :
    Ends (.attestationStart x v) s fun t => t.svc.boot.attBusy = true := by
  change ∃ t, execAttestationStart x v s = _ ∧ _
  rw [execAttestationStart, if_pos h]
  refine ⟨_, rfl, ?_⟩
  rw [State.attctlWrite, if_neg (by simp [hv, hb])]
  rfl

end

theorem ends_attestationComplete {s : State} (h : s.svc.boot.attBusy = true) :
    Ends .attestationComplete s fun t => t.svc.boot.attBusy = false := by
  change ∃ t, execAttestationComplete s = _ ∧ _
  simp only [execAttestationComplete]
  rw [if_neg (by simp [h])]
  refine ⟨_, rfl, ?_⟩
  split
  · rfl
  · split
    · rfl
    · split <;> rfl

end Sys2Proof.Scope
end

section
/-! The package's own events complete. -/

namespace Sys2Proof.Scope

open Sys2Proof.Machine Sys2Proof.Safety Sys2Proof.Laws

/-- A packet comes from the incarnation that its live source has announced (R378). -/
theorem liveSource_of {s : State} {p : Packet} (hs : (s.peer (pktSrc p)).state = 1) (hi : (s.peer (pktSrc p)).inc = p.sinc) :
    s.liveSource p = true := by simp [State.liveSource, hs, hi]

/-- Settles O60: each event by the lemma that says how it ends. -/
theorem eventsComplete : Obligations.EventsComplete := by
  unfold Obligations.EventsComplete
  intro s x y n k v g p sup c runs does
  have su : sup → s.isSup x = true := (isSup_iff s x).mpr
  have wr : runs → s.writer x = true := (writer_iff s x).mpr
  refine ⟨fun hn hb => ⟨ends_pctlRst hn hb, fun h hv hp => ends_prst hn hb h.2 hv hp⟩, ends_partitionResetComplete,
    fun h hv hr hg hf hb _ ha => ends_replace h.2 hv rfl hr hg hf hb ha, ends_replaceComplete,
    -- registers, levels and rings
    fun h he => ends_qsetWrite (su h) he, fun h hn => ends_lregWrite (su h) hn v, fun h hn hc hg hv => ends_pcfgWrite (su h) hn hc hg hv,
    fun h hn => ends_cresWrite (su h) hn v, fun h => ends_isscfgWrite (su h) v, fun h => ends_spcfgWrite (su h) v,
    fun _ hot hl => ends_splitLevelStep hot hl, ends_tempstatUpdate s n, ends_powerEstimateUpdate s k, fun h => ends_synobjWrite (su h) v,
    fun h h7 h16 => ends_ringRegisterWrite (su h) h7 h16, fun h hp => ends_ringHeadWrite (su h) hp,
    -- translations and migrations
    fun h => ends_tlbinv (su h) v, fun z hz => ends_tlbinvComplete hz, fun h hr hv => ends_migrationStart (su h) hr hv,
    fun r hr => ends_migrationComplete hr,
    -- the Pantry and the error counters
    fun h h1 hn hq t bs rs hr hs hd hw => exec_pantryCommit_queued h.2 h1 hn hq hr hs hd hw, fun ch rest hq hs => exec_pantryPublish_settled hq hs,
    fun q hq => ends_opSettleComplete hq, exec_graceExpiry_suspends, ends_errorThreshold, ends_errorWindowExpiry s n, ends_hbmLaneDrift,
    -- rollbacks
    fun hx hf hg hr hi hn hm hs => ?_, fun cause l i hg hr hc hb hm hn hq => ends_gangRollback hg hr hc hb hm hn hq,
    fun hg hr hm hw r m t hq hn hp => exec_rollbackRestart_placed hg hr hm hw hq hn hp,
    -- hangs, STOPs, samples and a context's registers
    fun h he hs hh q l ha => ends_hangTimeout h.1 h.2 he hs hh ha, ends_preemptDeadline, ends_preemptionComplete, exec_pcSample_on,
    fun h hc hk hm h1 hb hs => ends_chcfgWrite (wr h) hk hc hm h1 hb hs, fun h hn he => ends_lcntWrite (wr h) hn he,
    fun h hm hv => ends_epcWrite (wr h) hm hv, fun h => ends_fcrWrite (wr h) v, fun h => ends_registerWrite_tsoff (wr h) v,
    -- the fabric
    fun h hp => ends_fabidWrite h.2 hp, fun h hl => ends_tabload h.2 hl, ends_tabloadComplete, fun h hv => ends_fabgrpJoin h.2 hv,
    ends_packetDepart, ends_frameBoundary s, fun u hu => ends_lsu hu,
    fun hn hp => ⟨ends_linkDead hp, ends_linkRetry hp, fun h hv hu => ends_linkDown hp hn h.2 hv hu⟩,
    fun r hd h3 => ends_drainRoundExpiry hd h3, fun h hv hn hu hl => ends_linkTrain h.2 hv hn hu hl,
    fun _ hl => ends_linkTrainingComplete hl, fun src hsrc hp hs hi => ?_,
    -- the boot
    ends_packageReset s, ends_bootVerify_rom, ends_bootVerify_fetch, fun hs f hf => ends_bootVerify_verify hs hf, ends_bist, ends_marchTimeout,
    fun hs br => ends_memTrainingComplete hs br, ends_bootPantry,
    fun h hs => ⟨fun l hn hl => ends_repadd (su h) hs hn hl, ends_testcfgWrite (su h) hs v⟩,
    fun h hs hv => ends_bootsumWrite (su h) hs hv, fun h hv hb => ends_attestationStart (su h) hv hb, ends_attestationComplete⟩
  · have log : s.noLog g = false := noLog_eq_false_iff.mpr ⟨hn, hm⟩
    exact ⟨fun hy hv hxy => Ends.of_exec (exec_rollreq_member hy hv hxy hf hs) (beginRollback_waits hg hi hr hf log),
      Ends.of_exec (exec_uncorr_member hx hf hs) (beginRollback_waits hg hi hr hf log),
      fun hp => Ends.of_exec (exec_lockstepMismatch_member hx hf hs hp) (beginRollback_waits hg hi hr hf log)⟩
  · subst hsrc
    have live : s.liveSource p = true := liveSource_of hs hi
    refine ⟨fun q hq => ⟨onReply_closes hp live hq .ack, onReply_closes hp live hq _, onReply_closes hp live hq _, onReply_closes hp live hq _⟩,
      fun ht part hk => ⟨fun t bs ps h => exec_fabricRead_answers hp live ht hk h,
        fun key h1 hf hl ha => exec_fabricWrite_line hp live ht hk h1 hf hl ha, fun t h hn => exec_fabricReduce_answers hp live ht hk h hn,
        fun key f z t r h1 hf hz ha hr => exec_fabricAtomic_answers hp live ht hk h1 hf hz ha hr⟩⟩

end Sys2Proof.Scope
end

section
/-! Where an access to the own memories goes, and when it is denied (R65, R247, R248, R277). -/

namespace Sys2Proof.Scope

open Sys2Proof.Machine Sys2Proof.Safety Sys2Proof.Laws

/-- An address is aligned by taking off what lies above a multiple of the unit (R277). -/
theorem alignTo_toNat (z : Nat) (va : Word) : (alignTo z va).toNat = va.toNat - va.toNat % min z 64 := by
  have whole : va.toNat / min z 64 * min z 64 = va.toNat - va.toNat % min z 64 :=
    Nat.eq_sub_of_add_eq (Nat.div_add_mod' va.toNat (min z 64))
  have fits := va.isLt
  change (va.toNat / min z 64 * min z 64) % 2 ^ 64 = _
  rw [whole]
  exact Nat.mod_eq_of_lt (by omega)

/-- A window bounds tenants alone (R247). -/
theorem inWindow_iff (s : State) (sup : Bool) (num part off n : Nat) : s.inWindow sup num part off n = true ↔
    sup = true ∨ (65536 * bits (s.reg 0 (num + part)) 0 5 ≤ off ∧ off + n ≤ 65536 * bits (s.reg 0 (num + part)) 8 5) := by
  simp [State.inWindow]

section
variable {s : State} {z : Nat} {va : Word} {a : Nat} (ha : (alignTo z va).toNat = a)
include ha

/-- AB: the core's own memory, inside its size and the window; an address of it names no other slice. -/
theorem spot_ab : s.spot false z va =
    if a + z ≤ 2 ^ 20 ∧ s.inWindow (s.reqOf s.who).sup 0x8A0 (s.reqOf s.who).part a z = true
    then .own (coreOf s.who * 2 ^ 20 + a) else .bad 7 false := by
  simp only [State.spot, State.placeAS, ha, Bool.false_eq_true, if_false, Bool.false_and]
  by_cases inside : a + z ≤ 2 ^ 20
  · rw [if_neg (by omega)]
    by_cases hw : s.inWindow (s.reqOf s.who).sup 0x8A0 (s.reqOf s.who).part a z = true
    · rw [if_neg (by simp [hw]), if_pos ⟨inside, hw⟩]
    · rw [if_pos (by simp [hw]), if_neg fun h => hw h.2]
  · rw [if_pos (by omega), if_neg fun h => inside h.1]

section
variable {core : Nat} (hc : core = clusterOf (coreOf s.who) * 64 + a / 2 ^ 20)
include hc

omit ha in
/-- An address names its own slice, or another of the cluster. -/
theorem ownSlice_iff : a / 2 ^ 20 = coreOf s.who % 64 ↔ core = coreOf s.who := by
  rw [hc, clusterOf]
  omega

/-- A denied access to SP is known with the slice that its address names (R248). -/
theorem spot_sp_denied (h : ¬ (a < 2 ^ 26 ∧ a % 2 ^ 20 + z ≤ 2 ^ 20 ∧
      s.inWindow (s.reqOf s.who).sup 0x8B0 (s.reqOf s.who).part (a % 2 ^ 20) z = true)) :
    s.spot true z va = .bad 7 (decide (a < 2 ^ 26 ∧ core ≠ coreOf s.who)) := by
  have denied : s.placeAS (s.reqOf s.who).sup (s.reqOf s.who).part (coreOf s.who) true z va = .error 7 := by
    simp only [State.placeAS, ha, if_true]
    by_cases outside : 2 ^ 26 ≤ a ∨ 2 ^ 20 < a % 2 ^ 20 + z
    · exact if_pos outside
    · rw [if_neg outside]
      exact if_pos (by simpa using fun hw => h ⟨by omega, by omega, hw⟩)
  simp only [State.spot, denied, ha, Bool.true_and, ne_eq, ownSlice_iff hc]

/-- SP inside its windows: the own slice, or another core's unless it is the second of a protected pair (R65, R248). -/
theorem spot_sp_granted (h26 : a < 2 ^ 26) (hz : a % 2 ^ 20 + z ≤ 2 ^ 20)
    (hw : s.inWindow (s.reqOf s.who).sup 0x8B0 (s.reqOf s.who).part (a % 2 ^ 20) z = true) :
    s.spot true z va = if core = coreOf s.who then .own (core * 2 ^ 20 + a % 2 ^ 20)
      else if s.pairSecond core = true then .bad 8 true else .other (core * 2 ^ 20 + a % 2 ^ 20) := by
  have slice : (core * 2 ^ 20 + a % 2 ^ 20) / 2 ^ 20 = core := by omega
  have placed : s.placeAS (s.reqOf s.who).sup (s.reqOf s.who).part (coreOf s.who) true z va
      = if (decide (core ≠ coreOf s.who) && s.pairSecond core) = true then .error 8 else .ok (core * 2 ^ 20 + a % 2 ^ 20) := by
    simp only [State.placeAS, ha, ← hc, if_true]
    rw [if_neg (by omega), hw, if_neg (by simp)]
  by_cases own : core = coreOf s.who
  · have placed := placed.trans (if_neg (by simp [own]))
    simp only [State.spot, placed, slice]
    rw [if_neg (by simp [own]), if_pos own]
  · rw [if_neg own]
    cases second : s.pairSecond core
    · have placed := placed.trans (if_neg (by simp [second]))
      simp only [State.spot, placed, slice]
      rw [if_pos (by simp [own]), if_neg (by simp)]
    · have placed := placed.trans (if_pos (by simp [second, own]))
      simp only [State.spot, placed, ha, Bool.true_and, if_true, decide_eq_true (And.intro h26 (mt (ownSlice_iff hc).mp own))]

end

end

/-- Settles O17: AB by its one place, SP by whether its address is granted. -/
theorem accessesArePlaced : Obligations.AccessesArePlaced := by
  unfold Obligations.AccessesArePlaced
  intro s sp n va z _ q k a w off core windowed
  have ha : (alignTo z va).toNat = a := alignTo_toNat z va
  have hz : 0 < z := Nat.two_pow_pos n
  have window {num : Nat} (h : num = if sp = true then 0x8B0 else 0x8A0) : s.inWindow q.sup num q.part off z = true ↔ windowed := by
    rw [h]
    exact inWindow_iff ..
  refine ⟨ha, fun hs hin hw => ?_, fun hs hout => ?_, fun hs h26 hin hw => ?_, fun hs hout => ?_⟩
  · subst hs
    have low : off = a := Nat.mod_eq_of_lt (by omega)
    rw [spot_ab ha, if_pos ⟨hin, low ▸ (window rfl).mpr hw⟩]
  · subst hs
    rw [spot_ab ha, if_neg]
    rintro ⟨hin, hw⟩
    have low : off = a := Nat.mod_eq_of_lt (by omega)
    exact hout.elim (by omega) fun hn => hn ((window rfl).mp (low ▸ hw))
  · subst hs
    have granted : s.spot true z va = if core = k then .own (core * 2 ^ 20 + off)
        else if s.pairSecond core then .bad 8 true else .other (core * 2 ^ 20 + off) :=
      spot_sp_granted ha rfl h26 hin ((window rfl).mpr hw)
    exact ⟨fun own => by rw [granted, if_pos own, own], fun other => by rw [granted, if_neg other]⟩
  · subst hs
    refine spot_sp_denied ha rfl fun ⟨h26, hin, hw⟩ => ?_
    exact hout.elim (by omega) fun h => h.elim (by omega) fun hn => hn ((window rfl).mp hw)

end Sys2Proof.Scope
end

section
/-! The runs of Ladles (R54, R103, R256, R298 to R300, R343, R466). -/

namespace Sys2Proof.Scope

open Sys2Proof.Machine Sys2Proof.Safety Sys2Proof.Laws

/-! ## LAD.RUN, LAD.STOP and LAD.STAT (R298 to R300) -/

/-- A start of a run that LAD.RUN takes: a word of the span (R298). -/
theorem runStart_iff (v : Word) : (bits v 0 2 != 0 || bits v 18 46 != 0) = false ↔ v.toNat % 4 = 0 ∧ v.toNat < 2 ^ 18 := by
  have := v.isLt
  simp only [bits, natBits, Bool.or_eq_false_iff, bne_eq_false_iff_eq]
  omega

/-- A slot that consumes its sources and whose feature is there runs when it is ready. -/
theorem consuming_present {s : State} {g : Guard} {l : List SReg} {pre : Option TrapKind} (hp : pre = none) (h : Ready s g l) (f : State) :
    s.consuming g l pre f = .next f := by
  rw [hp]
  exact consuming_ready h f

section
variable {s : State} {g : Guard} {j : Bool} {l : Nat} (hf : s.needLad j = none) (hl : s.ladOf j = l)
include hf hl

theorem exec_ladRun {a b d : SReg} (h : Ready s g [a, b, d]) : exec (.ladRun g j a b d) s = .next (
    if (bits (s.rs a) 0 2 != 0 || bits (s.rs a) 18 46 != 0) = true then s.raise .illegal 0#64
    else if (decide (4 ≤ (s.ladle l).runs.length) || s.fenced (586 + l)) = true then s.stallFor 4
    else (s.commitRelease 1).updLadle l fun y =>
      { y with runs := y.runs ++ [⟨s.who, s.rs a, s.rs b, s.rs d, s.issue.serial0⟩] }) := by
  subst hl
  exact consuming_present hf h _

theorem exec_ladStop (h : Ready s g []) {t : State}
    (ht : t = s.updLadle l fun y => { y with runs := y.runs.filter fun r => r.ctx != s.who }) :
    exec (.ladStop g j) s = .next (if (s.ladle l).serving = some s.who then t.endRun l else t) := by
  have kept : (t.ladle l).serving = (s.ladle l).serving := by rw [ht, ladle_updLadle, if_pos rfl]
  rw [← kept, ht]
  subst hl
  exact consuming_present hf h _

theorem exec_ladStat {d : SReg} (h : Ready s g []) : exec (.ladStat g d j) s
    = .next (s.hold 2 (.scal d.toNat (s.ladStat (s.ownerOf s.who) l) false) none) := by
  subst hl
  exact consuming_present hf h _

end

/-- A run that has ended serves nobody. -/
theorem endRun_serving (s : State) (l : Nat) : ((s.endRun l).ladle l).serving = none :=
  congrArg Ladle.serving ((ladle_updLadle s l l fun y => { y with serving := none, stopping := false, snaps := [], ckpt := none }).trans
    (if_pos rfl))

/-! ## LADLE_RUN_START (R54, R298, R343) -/

/-- Must a queued run wait: its context does not run, or a release of its acceptance is outstanding (R298, R343)? -/
def runHeld (s : State) (r : LadRun) : Bool :=
  (s.ctx r.ctx).st != .running || (s.ctx r.ctx).exiting ||
    (s.ops.any fun o => o.agent == r.ctx && o.kind == .release && decide (o.bun ≤ r.bun))

theorem runHeld_iff (s : State) (r : LadRun) : runHeld s r = true ↔ ¬ ((s.ctx r.ctx).st = .running ∧ (s.ctx r.ctx).exiting = false) ∨
    ∃ o ∈ s.ops, o.agent = r.ctx ∧ o.kind = .release ∧ o.bun ≤ r.bun := by
  simp [runHeld, imp_iff_not_or, and_assoc]

theorem exec_ladleRunStart_waits {s : State} {l : Nat} (h : (s.ladle l).serving ≠ none ∨ s.fenced (586 + l) = true ∨
      ∀ r rest, (s.ladle l).runs = r :: rest → runHeld s r = true) : exec (.ladleRunStart l) s = .next s := by
  refine congrArg Host.Outcome.next ?_
  dsimp only
  split
  · rfl
  next free =>
    simp only [Bool.or_eq_true, not_or, Bool.not_eq_true, Option.isSome_eq_false_iff, Option.isNone_iff_eq_none] at free
    split
    · rfl
    next r rest hr =>
      rcases h with h | h | h
      · exact absurd free.1.1 h
      · rw [free.2] at h
        exact absurd h (by decide)
      · exact if_pos (h r rest hr)

/-- The state as Ladle `l` begins a queued run (R298). -/
def runStarted (s : State) (l : Nat) (r : LadRun) : State :=
  (s.setCtx (2048 + l) ((s.ctx r.ctx).ladleStart r)).updLadle l fun d =>
    { d with serving := some r.ctx, stopping := false, runs := d.runs.erase r, ckpt := some ((s.ctx r.ctx).ladleStart r),
             ckBundle := d.bundle, snaps := [], faults := SMap.put (0, 0#64) d.faults r.ctx (0, 0#64) }

theorem exec_ladleRunStart_starts {s : State} {l : Nat} (hl : l < 1024) (hs : (s.ladle l).serving = none) (hf : s.fenced (586 + l) = false)
    {r : LadRun} {rest : List LadRun} (hr : (s.ladle l).runs = r :: rest) (hh : runHeld s r = false) :
    exec (.ladleRunStart l) s = .next (runStarted s l r) := by
  change execLadleRunStart l s = _
  simp only [execLadleRunStart, hs, hf, hr]
  rw [if_neg (by simp; omega)]
  exact congrArg Host.Outcome.next (if_neg (Bool.eq_false_iff.mp hh))

@[simp] theorem ladles_setCtx (s : State) (a : Nat) (c : Ctx) : (s.setCtx a c).ladles = s.ladles := by
  unfold State.setCtx
  split <;> rfl

@[simp] theorem ladle_setCtx (s : State) (a l : Nat) (c : Ctx) : (s.setCtx a c).ladle l = s.ladle l :=
  congrArg (SMap.at Ladle.idle · l) (ladles_setCtx s a c)

/-- The state of a Ladle, and its record, as its oldest run begins. -/
theorem runStarted_spec {s : State} {l : Nat} {r : LadRun} {rest : List LadRun} (hr : (s.ladle l).runs = r :: rest) :
    (runStarted s l r).ctx (2048 + l) = (s.ctx r.ctx).ladleStart r ∧ ((runStarted s l r).ladle l).serving = some r.ctx ∧
    ((runStarted s l r).ladle l).ckpt = some ((s.ctx r.ctx).ladleStart r) ∧ ((runStarted s l r).ladle l).runs = rest := by
  have record := ladle_updLadle (s.setCtx (2048 + l) ((s.ctx r.ctx).ladleStart r)) l l fun d =>
    { d with serving := some r.ctx, stopping := false, runs := d.runs.erase r, ckpt := some ((s.ctx r.ctx).ladleStart r),
             ckBundle := d.bundle, snaps := [], faults := SMap.put (0, 0#64) d.faults r.ctx (0, 0#64) }
  rw [if_pos rfl, ladle_setCtx] at record
  refine ⟨ctx_setCtx_same .., congrArg Ladle.serving record, congrArg Ladle.ckpt record, (congrArg Ladle.runs record).trans ?_⟩
  rw [hr]
  exact List.erase_cons_head ..

/-! ## LADLE_BUNDLE_ISSUE (R255, R256, R466) -/

theorem exec_ladleBundleIssue_idle {s : State} {l : Nat} (h : (s.ladle l).serving = none) : exec (.ladleBundleIssue l) s = .next s := by
  change execLadleBundleIssue l s = _
  simp only [execLadleBundleIssue, h]

theorem exec_ladleBundleIssue_stopped {s : State} {l x : Nat} (h : (s.ladle l).serving = some x)
    (hx : ¬ ((s.ctx x).st = .running ∧ (s.ctx x).exiting = false)) : exec (.ladleBundleIssue l) s = .next s := by
  change execLadleBundleIssue l s = _
  simp only [execLadleBundleIssue, h]
  rw [if_pos]
  simp only [Bool.or_eq_true, bne_iff_ne, ne_eq]
  by_cases hr : (s.ctx x).st = .running
  · exact .inl (.inr (by simpa using fun he => hx ⟨hr, he⟩))
  · exact .inl (.inl hr)

/-- What an attempt of Ladle `l` to issue makes of the state (R256, R466). -/
def ladleIssues (t : State) (l : Nat) : Attempt → State
  | .stall _ _ => t
  | .stop p => t.noticeFetch.stopping.takeStop p
  | .uncorr => (t.countUE (10 + coreOf t.who) 1 0#64).stopping.takeTrap .uncorr 15 0#64
  | .redone u => u
  | .commit u b => u.noticeFetch.commitLadle l b

theorem exec_ladleBundleIssue_runs {s : State} {l x : Nat} (hl : l < 1024) (h : (s.ladle l).serving = some x) (hr : (s.ctx x).st = .running)
    (he : (s.ctx x).exiting = false) :
    exec (.ladleBundleIssue l) s = .next (ladleIssues (s.focus (2048 + l)) l (s.focus (2048 + l)).attempt).issued := by
  change execLadleBundleIssue l s = _
  simp only [execLadleBundleIssue, h]
  rw [if_neg (by simp [hr, he]; omega)]
  cases (s.focus (2048 + l)).attempt <;> rfl

theorem takeTrap_ladle {s : State} {l : Nat} (h : s.who = 2048 + l) (k : TrapKind) (pos : Nat) (info : Word) :
    s.takeTrap k pos info = s.ladleTrap l k := by
  unfold State.takeTrap
  rw [if_pos (by simp [isLadle, h]), h, Nat.add_sub_cancel_left]

theorem who_countUE (s : State) (r n : Nat) (a : Word) : (s.countUE r n a).who = s.who := (noticed_countUE s r n a).who

theorem who_noticeFetch (s : State) : s.noticeFetch.who = s.who := by
  unfold State.noticeFetch
  dsimp only
  split
  · rfl
  · obtain ⟨⟨_, _, _, h, -⟩, -, -⟩ := finds_notice s .imem (coreOf s.who * 2 ^ 18 + s.c.f.pc.toNat)
      (4 * min (1 + maskCount (Header.of (s.imemWord (coreOf s.who) s.c.f.pc.toNat)).pmask)
        (((s.ctx (s.ownerOf s.who)).y.spanSize - s.offset) / 4))
    rw [h]
    rfl

/-- Settles O26: the instructions by their feature, the start of a run by its queue's head, a bundle by its attempt. -/
theorem ladlesRun : Obligations.LadlesRun := by
  unfold Obligations.LadlesRun
  refine ⟨fun s g j a b d => ?_, fun s l hl _ => ?_⟩
  · intro feat l y pc kept
    have hfeat : s.needLad j = s.needFeat feat := by cases j <;> rfl
    refine ⟨fun hf => ?_, fun k hf hx => ?_⟩
    · rw [← hfeat] at hf
      refine ⟨fun h => ?_, fun h => ?_⟩
      · have run := exec_ladRun hf (l := l) rfl h
        refine ⟨fun h4 h18 hroom hfen hrel => ?_, fun h4 h18 hfull => ?_, fun hbad => ?_⟩
        · rw [run, if_neg (Bool.eq_false_iff.mp ((runStart_iff _).mpr ⟨h4, h18⟩)), if_neg (by simpa [hfen] using hroom),
            State.commitRelease, releaseStall_unheld hrel]
        · rw [run, if_neg (Bool.eq_false_iff.mp ((runStart_iff _).mpr ⟨h4, h18⟩)), if_pos (by simpa using hfull)]
        · rw [run, if_pos]
          by_contra hok
          obtain ⟨h4, h18⟩ := (runStart_iff _).mp (Bool.eq_false_iff.mpr hok)
          exact hbad.elim (absurd h4) fun h => absurd h18 (Nat.not_lt.mpr h)
      · have stop := exec_ladStop hf (l := l) rfl h (t := kept) rfl
        exact ⟨fun hn => by rw [stop, if_neg hn], fun hs => ⟨by rw [stop, if_pos hs], endRun_serving kept l⟩, exec_ladStat hf (l := l) rfl h⟩
    · rw [← hfeat] at hf
      have absent (srcs : List SReg) (f : State) : s.consuming g srcs (s.needLad j) f = .next (s.raise k 0#64) := by
        rw [hf]
        exact consuming_absent hx srcs k f
      exact ⟨absent _ _, absent _ _, absent _ _⟩
  · intro y ok t held
    have hheld (r : LadRun) : runHeld s r = true ↔ ¬ ok r.ctx ∨ held r := runHeld_iff s r
    have who : t.who = 2048 + l := who_focus s _
    have issues {x : Nat} (hx : y.serving = some x) (h : ok x) : exec (.ladleBundleIssue l) s = .next (ladleIssues t l t.attempt).issued :=
      exec_ladleBundleIssue_runs hl hx h.1 h.2
    refine ⟨fun h => exec_ladleRunStart_waits (h.imp_right (.imp_right fun h r rest hr => (hheld r).mpr (h r rest hr))),
      fun hs hf r rest hr hok hh => ?_, exec_ladleBundleIssue_idle, fun x hx hn => exec_ladleBundleIssue_stopped hx hn,
      fun x hx hok => ⟨fun w b ha => ?_, fun k pos info ha => ?_, fun ha => ?_, fun w b ha => ?_⟩⟩
    · have free : runHeld s r = false := Bool.eq_false_iff.mpr fun h => ((hheld r).mp h).elim (· hok) hh
      obtain ⟨hc, hserving, hckpt, hruns⟩ := runStarted_spec hr
      exact ⟨_, exec_ladleRunStart_starts hl hs hf hr free, hserving, by rw [hc]; rfl, by rw [hc]; rfl, by rw [hc]; rfl, by rw [hc]; rfl,
        by rw [hc, hckpt], hruns⟩
    · rw [issues hx hok, ha]
      rfl
    · rw [issues hx hok, ha]
      exact congrArg (fun u : State => Host.Outcome.next u.issued)
        (takeTrap_ladle (s := t.noticeFetch.stopping) ((who_noticeFetch t).trans who) k pos info)
    · have core : coreOf t.who = l / 2 := by
        rw [who, coreOf, if_neg (by omega), Nat.add_sub_cancel_left]
      rw [issues hx hok, ha, ← core]
      exact congrArg (fun u : State => Host.Outcome.next u.issued) (takeTrap_ladle (s := (t.countUE (10 + coreOf t.who) 1 0#64).stopping)
        ((who_countUE t _ _ _).trans who) .uncorr 15 0#64)
    · rw [issues hx hok, ha]
      rfl

end Sys2Proof.Scope
end

section
/-! Split levels, attestation, sensors and charges (R75, R127, R129, R407, R434, R461, R462, R464). -/

namespace Sys2Proof.Scope

open Sys2Proof.Machine Sys2Proof.Safety Sys2Proof.Laws

/-! ## What a partition's record leaves of the contexts (R275) -/

theorem ctx_congr {s t : State} (hw : t.who = s.who) (hc : t.c = s.c) (hp : t.parked = s.parked) (x : Nat) : t.ctx x = s.ctx x := by
  rw [State.ctx, State.ctx, hw, hc, hp]

theorem ctx_setReg (s : State) (i n : Nat) (v : Word) (x : Nat) : (s.setReg i n v).ctx x = s.ctx x := ctx_congr rfl rfl rfl x

theorem core_setReg (s : State) (i n : Nat) (v : Word) (k : Nat) : (s.setReg i n v).core k = s.core k := by
  rw [State.core, State.core, setReg_cores]

theorem ctx_foldl {α : Type} {f : State → α → State} {x : Nat} {l : List α} (hf : ∀ t, ∀ a ∈ l, (f t a).ctx x = t.ctx x) (s : State) :
    (l.foldl f s).ctx x = s.ctx x :=
  List.foldlRecOn (motive := fun (t : State) => t.ctx x = s.ctx x) l f rfl fun t h a ha => (hf t a ha).trans h

theorem Finds.ctx {m : MemKind} {s t : State} (h : Finds m s t) (x : Nat) : t.ctx x = s.ctx x := by
  obtain ⟨⟨p, q, e, rfl, -⟩, -, -⟩ := h
  cases m <;> rfl

theorem ctx_resolve {s t : State} {va : Word} {part : Nat} {sup write : Bool} {r : Except AFault (Nat × Nat)}
    (h : s.resolve va part sup write = (t, r)) (x : Nat) : t.ctx x = s.ctx x := by
  have tables (d p o : Nat) : (s.noticeTables none d p o).ctx x = s.ctx x := by
    unfold State.noticeTables
    dsimp only
    split
    · rfl
    · exact (finds_foldl (fun t a => finds_notice t .hbm _ 8) _ s).ctx x
  have resolved : (s.resolveAt none va part sup write).1.ctx x = s.ctx x := by
    unfold State.resolveAt
    dsimp only
    split
    · rfl
    · split
      · exact tables _ _ _
      · exact tables _ _ _
  rw [show s.resolveAt none va part sup write = (t, r) from h] at resolved
  exact resolved

theorem ctx_writeHbm (s : State) (g die pa : Nat) (bs : List Byte) (p : Bool) (x : Nat) : (s.writeHbm g die pa bs p).ctx x = s.ctx x := by
  cases h : s.pageMoving die pa bs.length
  · obtain ⟨_, _, _, _, written, -⟩ := writeHbmNow_frame s g die pa bs p
    rw [writeHbm_now h, written]
    rfl
  · rw [writeHbm_held h]
    rfl

/-- A record on a partition's ring wakes no supervisor: every context stays as it is. -/
theorem ctx_post (s : State) {i : Nat} (hi : i < 32) (rec : List Byte) (x : Nat) : (s.post i rec).ctx x = s.ctx x := by
  unfold State.post
  dsimp only
  split
  · rfl
  · split
    · rfl
    · split
      next t _ h => exact ctx_resolve h x
      next t die pa h =>
        rw [if_neg (by simp; omega)]
        exact (ctx_writeHbm t 0 die pa rec false x).trans (ctx_resolve h x)

/-! ## A level that comes into force (R127, R407) -/

/-- Updates of several agents reach each of them once. -/
theorem ctx_upds {f : Ctx → Ctx} {l : List Nat} (hl : l.Nodup) (s : State) (x : Nat) :
    (l.foldl (fun t a => t.upd a f) s).ctx x = if x ∈ l then f (s.ctx x) else s.ctx x := by
  induction l generalizing s with
  | nil => rfl
  | cons a l ih =>
    obtain ⟨ha, hl⟩ := List.nodup_cons.mp hl
    rw [List.foldl_cons, ih hl, ctx_upd]
    by_cases hx : x = a
    · subst hx
      simp [ha]
    · simp [hx]

/-- What a context learns of a change of its core's level from `old` to `new` (R407). -/
def toldLevel (new old : BitVec 2) (c : Ctx) : Ctx :=
  { c with e := { c.e with thr := true, thrEvent := if c.st != .free && c.e.thrn then some (new, old) else c.e.thrEvent } }

/-- The core at its new level, with its contexts told. -/
def levelTold (s : State) (k : Nat) : State :=
  ((List.range 4).map fun j => 4 * k + j).foldl (fun t x => t.upd x (toldLevel (s.levelOf k) (s.core k).lvl))
    (s.updCore k fun c => { c with lvl := s.levelOf k })

theorem ctx_levelTold (s : State) (k : Nat) {j : Nat} (hj : j < 4) :
    (levelTold s k).ctx (4 * k + j) = toldLevel (s.levelOf k) (s.core k).lvl (s.ctx (4 * k + j)) := by
  have once : ((List.range 4).map fun j => 4 * k + j).Nodup := List.nodup_range.map fun _ _ h => Nat.add_left_cancel h
  rw [levelTold, ctx_upds once, if_pos (List.mem_map.mpr ⟨j, List.mem_range.mpr hj, rfl⟩)]
  rfl

theorem setLevel_same {s : State} {k : Nat} (h : s.levelOf k = (s.core k).lvl) (cause : Nat) : s.setLevel k cause = s := if_pos h

/-- A new level is told to the contexts, and posted to the partitions that run on the core. -/
theorem setLevel_new {s : State} {k : Nat} (h : s.levelOf k ≠ (s.core k).lvl) (cause : Nat) : ∃ (parts : List Nat) (rec : Nat → List Byte),
    (∀ n ∈ parts, n < 16) ∧ s.setLevel k cause = (parts.foldl (fun t n => t.post (16 + n) (rec n)) (levelTold s k)).ticked :=
  ⟨_, _, fun _ hn => List.mem_range.mp (List.mem_filter.mp hn).1, if_neg h⟩

theorem setLevel_ctx {s : State} {k : Nat} (h : s.levelOf k ≠ (s.core k).lvl) (cause : Nat) {j : Nat} (hj : j < 4) :
    (s.setLevel k cause).ctx (4 * k + j) = toldLevel (s.levelOf k) (s.core k).lvl (s.ctx (4 * k + j)) := by
  obtain ⟨parts, rec, hp, posted⟩ := setLevel_new h cause
  rw [posted, ← ctx_levelTold s k hj]
  exact ctx_foldl (fun t n hn => ctx_post t (by have := hp n hn; omega) (rec n) _) _

/-- The level in force is the one of R127. -/
theorem setLevel_lvl (s : State) (k cause : Nat) : ((s.setLevel k cause).core k).lvl = s.levelOf k := by
  by_cases h : s.levelOf k = (s.core k).lvl
  · rw [setLevel_same h, h]
  · obtain ⟨parts, rec, -, posted⟩ := setLevel_new h cause
    have told : Accessed (s.updCore k fun c => { c with lvl := s.levelOf k }) (levelTold s k) := accessed_foldl (fun t x => accessed_upd t x _) _ _
    have all := (told.trans (accessed_foldl (fun t n => accessed_post t (16 + n) (rec n)) parts _)).trans (accessed_ticked _)
    rw [posted]
    refine (congrArg CoreSt.lvl (all.cores k)).trans ?_
    rw [core_updCore, if_pos rfl]

/-! ## ISSCFG and SPLIT_LEVEL_STEP (R127, R129, R464) -/

/-- FLOOR is among the fields that a write of ISSCFG keeps (R125). -/
theorem floor_kept (v : Word) : (v &&& 0xFFFF0003#64).extractLsb' 0 2 = v.extractLsb' 0 2 := by
  rw [BitVec.extractLsb'_and, show (0xFFFF0003#64 : Word).extractLsb' 0 2 = BitVec.allOnes 2 by decide, BitVec.and_allOnes]

theorem levelOf_setFloor (s : State) (k : Nat) (v : Word) : (s.setReg k 0x800 (v &&& 0xFFFF0003#64)).levelOf k =
    if (s.core k).thr.toNat < (v.extractLsb' 0 2).toNat then v.extractLsb' 0 2 else (s.core k).thr := by
  simp only [State.levelOf, reg_setReg_same, floor_kept, core_setReg, BitVec.lt_def]

theorem exec_isscfgWrite {s : State} {x k : Nat} (hx : s.isSup x = true) (hk : coreOf x = k) (v : Word) :
    exec (.isscfgWrite x v) s = .next ((s.setReg k 0x800 (v &&& 0xFFFF0003#64)).setLevel k 4) := by
  subst hk
  exact congrArg Host.Outcome.next (if_pos hx)

/-- Is a limit of the core exceeded: its estimate above IMAX as a power, or the temperature above TMAX (R464)? -/
def overLimit (s : State) (k : Nat) : Bool :=
  (bits (s.reg (dieOf k) 0xA0A) 32 16 != 0 &&
    decide (bits (s.reg (dieOf k) 0xA0A) 32 16 * nominalMilliVolts (s.core k).opcur / 100 < (s.core k).power.toNat)) ||
  decide (bits (s.reg (dieOf k) 0xA0A) 16 8 < bits (s.reg (dieOf k) 0xA0B) 0 8)

/-- Are both limits of the core kept with a tenth to spare (R464)? -/
def underLimits (s : State) (k : Nat) : Bool :=
  (bits (s.reg (dieOf k) 0xA0A) 32 16 == 0 ||
    decide (10 * (s.core k).power.toNat < 9 * (bits (s.reg (dieOf k) 0xA0A) 32 16 * nominalMilliVolts (s.core k).opcur / 100))) &&
  decide (10 * bits (s.reg (dieOf k) 0xA0B) 0 8 < 9 * bits (s.reg (dieOf k) 0xA0A) 16 8)

/-- A step that is taken brings the new throttle level into force. -/
theorem steppedLevel_spec (s : State) (k cause : Nat) (l : BitVec 2) {t : State}
    (ht : t = (s.ticked.updCore k fun c => { c with thr := l }).setLevel k cause) :
    (t.core k).thr = l ∧ (t.core k).lvl = if l.toNat < ((s.reg k 0x800).extractLsb' 0 2).toNat then (s.reg k 0x800).extractLsb' 0 2 else l := by
  have core : ((s.ticked.updCore k fun c => { c with thr := l }).core k).thr = l :=
    congrArg CoreSt.thr ((core_updCore s.ticked k k fun c => { c with thr := l }).trans (if_pos rfl))
  subst ht
  refine ⟨(setLevel_frame _ k cause).2.trans core, (setLevel_lvl _ k cause).trans ?_⟩
  rw [State.levelOf, core]
  rfl

/-- One step up while a limit is exceeded. -/
theorem exec_splitLevelStep_up (s : State) (k : Nat) : ∃ cause, exec (.splitLevelStep k true) s
    = .next (if (overLimit s k && (s.core k).thr != 3#2) = true
      then (s.ticked.updCore k fun c => { c with thr := (s.core k).thr + 1#2 }).setLevel k cause else s.ticked) := ⟨_, rfl⟩

/-- One step down once both limits are kept. -/
theorem exec_splitLevelStep_down (s : State) (k : Nat) : exec (.splitLevelStep k false) s
    = .next (if (underLimits s k && (s.core k).thr != 0#2) = true
      then (s.ticked.updCore k fun c => { c with thr := (s.core k).thr - 1#2 }).setLevel k 0 else s.ticked) := rfl

theorem ne_three_iff (l : BitVec 2) : l ≠ 3#2 ↔ l.toNat < 3 := by bv_omega

theorem ne_zero_iff (l : BitVec 2) : l ≠ 0#2 ↔ 0 < l.toNat := by bv_omega

/-! ## Attestation (R461, R462) -/

/-- Attestation that is over, with its ERR. -/
def attEnds (s : State) (e : Nat) : State := s.updBoot fun b => { b with attBusy := false, attErr := e }

section
variable {s : State} (hb : s.svc.boot.attBusy = true)
include hb

theorem exec_attestationComplete_noKey (hk : hasIdentity s.svc.boot.flash = false) : exec .attestationComplete s = .next (attEnds s 1) := by
  change execAttestationComplete s = _
  simp [execAttestationComplete, hb, hk, attEnds]

theorem exec_attestationComplete_unread (hk : hasIdentity s.svc.boot.flash = true) {t : State} (h : s.attRead (s.reg 0 0xA10) = (t, none)) :
    exec .attestationComplete s = .next (attEnds t 2) := by
  change execAttestationComplete s = _
  simp [execAttestationComplete, hb, hk, h, attEnds]

theorem exec_attestationComplete_signed (hk : hasIdentity s.svc.boot.flash = true) {t w : State} {n : List Byte}
    (h : s.attRead (s.reg 0 0xA10) = (t, some n))
    (hw : t.attWrite (s.reg 0 0xA10 + 64#64) (cut 64 9 (attReport s.svc.boot.flash s.svc.boot s.tick n)) = (w, true)) :
    exec .attestationComplete s = .next (attEnds w.ticked 0) := by
  change execAttestationComplete s = _
  simp [execAttestationComplete, hb, hk, h, hw, attEnds]

end

/-! ## The charge of a slot's owner (R434) -/

theorem chargeSlot_none {s : State} {k : Nat} (h : (s.core k).owner = 0 ∨ 5 ≤ (s.core k).owner ∨ (s.core k).power.toNat = 0) :
    s.chargeSlot k = s := by
  have nobody : (if (s.core k).power = 0#64 then none else s.slotOwner k) = none := by
    by_cases hp : (s.core k).power = 0#64
    · exact if_pos hp
    · have hn : (s.core k).power.toNat ≠ 0 := fun h0 => hp (BitVec.eq_of_toNat_eq h0)
      rw [if_neg hp]
      exact if_neg (by omega)
  rw [State.chargeSlot, nobody]

theorem chargeSlot_owner {s : State} {k x : Nat} (h1 : 1 ≤ (s.core k).owner) (h4 : (s.core k).owner ≤ 4) (hp : (s.core k).power.toNat ≠ 0)
    (hx : x = 4 * k + (s.core k).owner - 1) : s.chargeSlot k = (s.upd x fun c => { c with y := { c.y with
      energy := c.y.energy +
        toWord (((s.core k).power.toNat * Config.slotNanos s.tick + Config.energyRest s.tick % 1000000) / 1000000) } }).ticked := by
  have owner : (if (s.core k).power = 0#64 then none else s.slotOwner k) = some x := by
    rw [if_neg fun h => hp (by rw [h]; rfl), hx]
    exact if_pos ⟨h1, h4⟩
  rw [State.chargeSlot, owner]
  rfl

/-- Settles O32: a write of ISSCFG and a step by the level that they bring into force, attestation by how it ends, an estimate by
the slot's owner. -/
theorem powerAndSensors : Obligations.PowerAndSensors := by
  unfold Obligations.PowerAndSensors
  refine ⟨fun s x k v up _ => ?_, fun s d k x => ?_⟩
  · intro level cfg temp tmax limit power tooHot under thr
    refine ⟨fun hx hs hk => ?_, ?_⟩
    · have inForce : (s.setReg k 0x800 (v &&& 0xFFFF0003#64)).levelOf k = level thr (v.extractLsb' 0 2) := levelOf_setFloor s k v
      have before : ((s.setReg k 0x800 (v &&& 0xFFFF0003#64)).core k).lvl = (s.core k).lvl := congrArg CoreSt.lvl (core_setReg ..)
      obtain ⟨regs, throttle⟩ := setLevel_frame (s.setReg k 0x800 (v &&& 0xFFFF0003#64)) k 4
      refine ⟨_, exec_isscfgWrite ((isSup_iff s x).mpr ⟨hx, hs⟩) hk v, (reg_congr regs k 0x800).trans (reg_setReg_same ..),
        throttle.trans (congrArg CoreSt.thr (core_setReg ..)), (setLevel_lvl ..).trans inForce, fun j hj hn => ?_,
        fun he => setLevel_same (by rw [inForce, before, he]) 4⟩
      have told := setLevel_ctx (cause := 4) (by rwa [inForce, before, ne_comm]) hj
      rw [told, inForce, before, ctx_setReg]
      refine ⟨rfl, fun hf ht => if_pos ?_⟩
      simp [hf, ht]
    · have exceeded : (overLimit s k && thr != 3#2) = true ↔ tooHot ∧ thr.toNat < 3 := by
        rw [Bool.and_eq_true, bne_iff_ne, ne_three_iff]
        refine and_congr_left fun _ => ?_
        change ((bits cfg 32 16 != 0 && decide (limit < power)) || decide (tmax < temp)) = true ↔ _
        simp [tooHot]
      have kept : (underLimits s k && thr != 0#2) = true ↔ under ∧ 0 < thr.toNat := by
        rw [Bool.and_eq_true, bne_iff_ne, ne_zero_iff]
        refine and_congr_left fun _ => ?_
        change ((bits cfg 32 16 == 0 || decide (10 * power < 9 * limit)) && decide (10 * temp < 9 * tmax)) = true ↔ _
        simp [under]
      cases up with
      | true =>
        obtain ⟨cause, step⟩ := exec_splitLevelStep_up s k
        refine ⟨_, step, ?_⟩
        by_cases h : tooHot ∧ thr.toNat < 3
        · obtain ⟨hthr, hlvl⟩ := steppedLevel_spec s k cause (thr + 1#2) rfl
          rw [if_pos (exceeded.mpr h), if_pos rfl, if_pos h, hlvl, hthr]
          refine ⟨?_, fun _ => rfl⟩
          have := h.2
          bv_omega
        · rw [if_neg (mt exceeded.mp h), if_pos rfl, if_neg h]
          exact ⟨rfl, fun hn => absurd rfl hn⟩
      | false =>
        refine ⟨_, exec_splitLevelStep_down s k, ?_⟩
        by_cases h : under ∧ 0 < thr.toNat
        · obtain ⟨hthr, hlvl⟩ := steppedLevel_spec s k 0 (thr - 1#2) rfl
          rw [if_pos (kept.mpr h), if_neg Bool.false_ne_true, if_pos h, hlvl, hthr]
          refine ⟨?_, fun _ => rfl⟩
          have := h.2
          bv_omega
        · rw [if_neg (mt kept.mp h), if_neg Bool.false_ne_true, if_neg h]
          exact ⟨rfl, fun hn => absurd rfl hn⟩
  · intro b ends u
    refine ⟨fun hb => congrArg Host.Outcome.next (if_pos (by rw [hb]; rfl)), exec_attestationComplete_noKey,
      fun hb hk => ⟨fun t h => exec_attestationComplete_unread hb hk h, fun t n w h hw => exec_attestationComplete_signed hb hk h hw⟩, rfl, ?_⟩
    intro est charge
    have estimate : exec (.powerEstimateUpdate k) s
        = .next ((s.chargeSlot k).updCore k fun c => { c with power := Config.powerEstimate s.tick }).ticked := rfl
    exact ⟨fun h => by rw [estimate, chargeSlot_none h], fun h1 h4 hp hx => by rw [estimate, chargeSlot_owner h1 h4 hp hx]⟩

end Sys2Proof.Scope
end

section
/-! Changes of the Pantry, operating points, grace, and the error counters (R56, R57, R60, R61, R77, R264, R417, R418). -/

namespace Sys2Proof.Scope

open Sys2Proof.Machine Sys2Proof.Safety Sys2Proof.Laws

/-! ## PANTRY_COMMIT (R57) -/

theorem hasDup_eq_true {l : List Nat} (h : ¬ l.Nodup) : hasDup l = true := by
  induction l with
  | nil => exact absurd List.nodup_nil h
  | cons x l ih =>
    rw [List.nodup_cons, Classical.not_and_iff_not_or_not, Classical.not_not] at h
    rw [hasDup, Bool.or_eq_true, List.contains_iff_mem]
    exact h.imp_right ih

/-- The Pantry as a commit is rejected with an ERR (R57). -/
def commitErr (s : State) (e : Nat) : State := s.updPantry fun p => { p with err := e }

/-- What becomes of a commit's records: one is bad, two name one unit, a unit is hardware-fenced, or they join the queue. -/
def commitJudged (t : State) : Option (List (Nat × PanRec)) → State
  | none => commitErr t 1
  | some rs =>
    if hasDup (rs.map (·.1)) = true then commitErr t 3
    else if (rs.any fun r => SMap.at false t.svc.pantry.hwf r.1) = true then commitErr t 2
    else t.queueChange ⟨rs, false⟩

/-- What becomes of a commit of `n` records as they are read. -/
def commitRead (n : Nat) : State × Option (List Byte) → State
  | (t, none) => commitErr t 1
  | (t, some bs) => commitJudged t (stagedRecs (cut 16 n bs))

theorem exec_pantryCommit_ignored {s : State} {x : Nat} {v : Word} (h : (s.ctx x).y.sup = false ∨ bits v 32 11 = 0 ∨ 1655 < bits v 32 11 ∨
      ∃ c ∈ s.svc.pantry.queue, c.hw = false) : exec (.pantryCommit x v) s = .next s := by
  refine congrArg Host.Outcome.next ?_
  rcases h with h | h
  · exact if_neg (by simp [h])
  · have ignored : s.pantryWrite v = s := if_pos (by simpa using h)
    rw [ignored]
    exact ite_self s

/-- A commit that is not ignored reads its records, and is judged by them as a whole. -/
theorem exec_pantryCommit_reads {s : State} {x : Nat} {v : Word} (hx : (s.ctx x).y.sup = true) (h1 : 1 ≤ bits v 32 11) (hn : bits v 32 11 ≤ 1655)
    (hq : ∀ c ∈ s.svc.pantry.queue, c.hw = true) : exec (.pantryCommit x v) s
      = .next (commitRead (bits v 32 11) (s.readLines pantryReq (s.reg 0 0x810) ((bits v 32 11 + 3) / 4))) := by
  have idle : (s.svc.pantry.queue.any fun c => !c.hw) = false := by simpa using hq
  change execPantryCommit x v s = _
  simp only [execPantryCommit, State.pantryWrite, idle]
  rw [if_pos hx, if_neg (by simp; omega), show ceilDiv (bits v 32 11) 4 = (bits v 32 11 + 3) / 4 from rfl]
  rcases s.readLines pantryReq (s.reg 0 0x810) ((bits v 32 11 + 3) / 4) with ⟨t, _ | bs⟩
  · rfl
  · simp only [commitRead]
    cases stagedRecs (cut 16 (bits v 32 11) bs) <;> rfl

/-! ## PANTRY_PUBLISH, OP_SETTLE_COMPLETE and GRACE_EXPIRY (R56, R60, R77) -/

theorem exec_pantryPublish_waits {s : State} (h : s.svc.pantry.queue = [] ∨ s.capsSettled = false) : exec .pantryPublish s = .next s := by
  refine congrArg Host.Outcome.next ?_
  split
  · rfl
  next queue =>
    refine if_neg (Bool.eq_false_iff.mp (h.resolve_left fun empty => ?_))
    rw [empty] at queue
    cases queue

/-- A core domain that rises waits for its octet (R77). -/
theorem exec_opSettleComplete_core {s : State} {m : Nat} (hm : m < 512) {p : BitVec 3} (hp : (s.core m).settling = some p) :
    exec (.opSettleComplete m) s = .next (
      if (s.core m).opcur.toNat < p.toNat ∧ (s.octet (octetOf m)).op.toNat < min p.toNat (s.capOf (522 + octetOf m)) then s
      else (s.updCore m fun c => { c with opcur := p, settling := none }).retarget m) := by
  change execOpSettleComplete m s = _
  simp only [execOpSettleComplete, hm, hp, if_true, decide_eq_true_eq]

theorem exec_opSettleComplete_octet {s : State} {m : Nat} {p : BitVec 3} (hp : (s.octet m).settling = some p) :
    exec (.opSettleComplete (512 + m)) s
      = .next (({ s with octets := SMap.put Octet.reset s.octets m { s.octet m with op := p, settling := none } }).retargetOctet m) := by
  change execOpSettleComplete (512 + m) s = _
  simp only [execOpSettleComplete, Nat.add_sub_cancel_left, hp]
  rw [if_neg (by omega)]

/-- An octet that would fall stays while a core of a Griddle owner is above its point (R77). -/
theorem retargetOctet_above {s : State} {m : Nat} (hf : s.octetPoint m < (s.octet m).op.toNat)
    (ha : ∃ j < 8, s.hasGrdOwner (8 * m + j) = true ∧ s.octetPoint m < (s.core (8 * m + j)).opcur.toNat) : s.retargetOctet m = s := by
  have above : ((List.range 8).any fun i => s.hasGrdOwner (8 * m + i) && decide (s.octetPoint m < (s.core (8 * m + i)).opcur.toNat)) = true := by
    obtain ⟨j, hj, hg, hp⟩ := ha
    exact List.any_eq_true.mpr ⟨j, List.mem_range.mpr hj, by simp [hg, hp]⟩
  exact if_pos (by simp [above, hf])

theorem exec_graceExpiry_acknowledged {s : State} {x : Nat} (hv : (s.ctx x).y.panv = s.svc.pantry.ver) : exec (.graceExpiry x) s = .next s :=
  congrArg Host.Outcome.next (if_neg (by simp [State.panPending, hv]))

/-! ## Error counters (R264, R417, R418) -/

/-- The errors of a record are to be reported (R418). -/
def ueDue (s : State) (r : Nat) : Bool := decide (s.ueThreshold r ≤ (s.errs r).ue) && !(s.errs r).ueTold

/-- The corrected errors of a record are to be reported, against the threshold that ERRCFG gives (R418). -/
def ceDue (s : State) (r : Nat) : Bool :=
  decide (bits (s.errcfg r) 0 16 ≠ 0 ∧ bits (s.errcfg r) 0 16 ≤ (s.errs r).ce) && !(s.errs r).ceTold

/-- A record's errors have it fenced by the hardware (R418). -/
def fenceDue (s : State) (r : Nat) : Bool := (s.errs r).ue == 16 && !SMap.at false s.svc.pantry.hwf r

/-- The state with an ERRLIM record of the grounds, which are not reported again (R418). -/
def errsTold (s : State) (r : Nat) : State :=
  (s.postErrlim r (packFields [(2, boolNat (fenceDue s r)), (1, boolNat (ceDue s r)), (0, boolNat (ueDue s r))])).updErrs r fun e =>
    { e with ueTold := e.ueTold || ueDue s r, ceTold := e.ceTold || ceDue s r }

/-- The hardware fences a unit: the fence is queued as a change (R56, R418). -/
def hwFenced (t : State) (r : Nat) : State :=
  (t.updPantry fun p => { p with hwf := SMap.put false p.hwf r true }).queueChange ⟨[(r, { t.pan r with state := 2 })], true⟩

theorem hwFenced_eq (t : State) (r : Nat) : hwFenced t r = (t.updPantry fun p =>
    { p with hwf := SMap.put false p.hwf r true, queue := p.queue ++ [⟨[(r, { t.pan r with state := 2 })], true⟩] }).retargetAll := by
  rw [hwFenced, State.queueChange]
  exact congrArg State.retargetAll rfl

theorem exec_errorThreshold (s : State) (r : Nat) : exec (.errorThreshold r) s = .next (
    if 1655 ≤ r ∨ (!ueDue s r && !ceDue s r && !fenceDue s r) = true then s
    else if fenceDue s r = true then hwFenced (errsTold s r) r else errsTold s r) := by
  change execErrorThreshold r s = _
  rw [execErrorThreshold]
  rfl

theorem packFields_errlim (hw ce ue : Bool) : packFields [(2, boolNat hw), (1, boolNat ce), (0, boolNat ue)] =
    (if hw = true then 4 else 0) + (if ce = true then 2 else 0) + if ue = true then 1 else 0 := by
  cases hw <;> cases ce <;> cases ue <;> rfl

/-- Settles O40: a commit by its records, a domain by what it waits for, a record's counts by the grounds to report them. -/
theorem pantryChangesAndErrors : Obligations.PantryChangesAndErrors := by
  unfold Obligations.PantryChangesAndErrors
  refine ⟨fun s x m v => ?_, fun s r k => ?_⟩
  · intro n err commit ver
    refine ⟨exec_pantryCommit_ignored, fun hx h1 hn hq => ?_, exec_pantryPublish_waits, fun ch rest hq hs => exec_pantryPublish_settled hq hs,
      fun hm p hp => ?_, fun h => retargetOctet_above h.1 h.2, fun p hp => exec_opSettleComplete_octet hp, ?_⟩
    · have reads : commit = _ := exec_pantryCommit_reads hx h1 hn hq
      refine ⟨fun t hr => by rw [reads, hr]; rfl, fun t bs hr => ⟨fun hs => ?_, fun rs hs => ?_⟩⟩
      · rw [reads, hr, commitRead, hs]
        rfl
      · have judged : commit = .next (commitJudged t (some rs)) := by rw [reads, hr, commitRead, hs]
        refine ⟨fun hd => ?_, fun hd hw => ?_, fun hd hw => ?_⟩
        · rw [judged, commitJudged, if_pos (hasDup_eq_true hd)]
          rfl
        · rw [judged, commitJudged, if_neg (by simp [hasDup_eq_false hd]), if_pos (List.any_eq_true.mpr hw)]
          rfl
        · rw [judged, commitJudged, if_neg (by simp [hasDup_eq_false hd]), if_neg (by simpa using hw)]
          rfl
    · intro waits
      rw [exec_opSettleComplete_core hm hp]
      exact ⟨fun hw => congrArg Host.Outcome.next (if_pos hw), fun hw => congrArg Host.Outcome.next (if_neg hw)⟩
    · rintro _ rfl hr he hs ht
      exact ⟨exec_graceExpiry_suspends hr he hs ht, exec_graceExpiry_acknowledged⟩
  · intro e cfg lim ue ce hw
    have hue : ueDue s r = decide ue := by
      change (decide (lim ≤ e.ue) && !e.ueTold) = _
      simp [ue]
    have hce : ceDue s r = decide ce := by
      change (decide (bits cfg 0 16 ≠ 0 ∧ bits cfg 0 16 ≤ e.ce) && !e.ceTold) = _
      simp [ce, Bool.and_assoc]
    have hhw : fenceDue s r = decide hw := by
      change (e.ue == 16 && !SMap.at false s.svc.pantry.hwf r) = _
      simp [hw, Bool.beq_eq_decide_eq]
    have told : errsTold s r = (s.postErrlim r ((if hw then 4 else 0) + (if ce then 2 else 0) + if ue then 1 else 0)).updErrs r
        fun e => { e with ueTold := e.ueTold || decide ue, ceTold := e.ceTold || decide ce } := by
      simp only [errsTold, packFields_errlim, hue, hce, hhw, decide_eq_true_eq]
    have quiet : (!ueDue s r && !ceDue s r && !fenceDue s r) = true ↔ ¬ ue ∧ ¬ ce ∧ ¬ hw := by
      simp only [hue, hce, hhw, Bool.and_eq_true, Bool.not_eq_true', decide_eq_false_iff_not, and_assoc]
    have reported (hr : r < 1655) (h : ue ∨ ce ∨ hw) : exec (.errorThreshold r) s
        = .next (if fenceDue s r = true then hwFenced (errsTold s r) r else errsTold s r) := by
      rw [exec_errorThreshold, if_neg]
      rintro (hn | hq)
      · omega
      · obtain ⟨hu, hc, hf⟩ := quiet.mp hq
        exact h.elim hu fun h => h.elim hc hf
    refine ⟨fun hk => congrArg Host.Outcome.next (if_neg (by omega)), fun hk => congrArg Host.Outcome.next (if_pos hk), rfl, fun h => ?_,
      fun hr h => ⟨errsTold s r, told, fun hn => ?_, fun hy => ?_⟩⟩
    · rw [exec_errorThreshold, if_pos (h.imp_right quiet.mpr)]
    · rw [reported hr h, if_neg (by simpa [hhw] using hn)]
    · rw [reported hr h, if_pos (by simpa [hhw] using hy), hwFenced_eq]

end Sys2Proof.Scope
end

section
/-! Decoding and encoding of slot words are inverse (R86, R94, R99, R100, R102). -/

namespace Sys2Proof.Scope

open Sys2Proof.Machine Sys2Proof.Safety Sys2Proof.Laws

/-! ## Encode of decode -/

/-- What the decoder answers for opcode `c` and operands `o` is well formed and encodes to them. -/
def EncodesTo (c : BitVec 8) (o : BitVec 23) (d : Except DecodeError Instr) : Prop :=
  ∀ i, d = .ok i → i.wf = true ∧ encode i = some (slotWord c o)

@[simp] theorem encodesTo_error {c : BitVec 8} {o : BitVec 23} {e : DecodeError} : EncodesTo c o (.error e) :=
  fun _ h => nomatch h

@[simp] theorem encodesTo_checked (c : BitVec 8) (o : BitVec 23) (i : Instr) :
    EncodesTo c o (checked i) ↔ (i.wf = true → encode i = some (slotWord c o)) := by
  unfold EncodesTo checked
  split <;> simp_all

@[simp] theorem encodesTo_ite (c : BitVec 8) (o : BitVec 23) (p : Prop) [Decidable p] (x y : Except DecodeError Instr) :
    EncodesTo c o (if p then x else y) ↔ (p → EncodesTo c o x) ∧ (¬ p → EncodesTo c o y) := by
  split <;> simp [*]

/-- Two fields side by side are a word when each is the word's field at its place. `no_index` lets `simp` find the lemma where
the width is a numeral. -/
theorem append_eq_iff {m n : Nat} (a : BitVec m) (b : BitVec n) (x : BitVec (m + n)) :
    @Eq (no_index (BitVec (m + n))) (@HAppend.hAppend _ _ (no_index (BitVec (m + n))) _ a b) x ↔
      a = x.extractLsb' n m ∧ b = x.extractLsb' 0 n := by
  constructor
  · rintro rfl
    exact ⟨BitVec.extractLsb'_append_eq_left.symm, BitVec.extractLsb'_append_eq_right.symm⟩
  · rintro ⟨rfl, rfl⟩
    exact BitVec.extractLsb'_append_extractLsb'

/-- A field of a field is a field. -/
theorem extract_extract {w : Nat} (x : BitVec w) {k len n m : Nat} (h : k + len ≤ m) :
    (x.extractLsb' n m).extractLsb' k len = x.extractLsb' (n + k) len := by
  refine BitVec.eq_of_getLsbD_eq fun i hi => ?_
  simp only [BitVec.getLsbD_extractLsb', hi, show k + i < m by omega, decide_true, Bool.true_and, Nat.add_assoc]

theorem ofBool_field (a : BitVec 1) : BitVec.ofBool (a == 1#1) = a := by
  revert a
  decide

theorem slotWord_inj (c : BitVec 8) (o o' : BitVec 23) : slotWord c o = slotWord c o' ↔ o = o' := by
  refine ⟨fun h => ?_, congrArg _⟩
  simpa using congrArg operandsOf h

/-! One lemma for each class: where a row of the decoder answers an instruction, the fields that it found reserved hold what the
encoder writes there, and every other field is an operand that the encoder writes back. -/

theorem encodesTo_class0 (r : Nat) (o : BitVec 23) : EncodesTo (BitVec.ofNat 8 (32 * 0 + r)) o (decodeClass0 r o) := by
  unfold decodeClass0
  split
  all_goals simp only [encodesTo_ite, encodesTo_checked, encodesTo_error, implies_true, encode, Option.some.injEq]
  all_goals simp +contextual [-BitVec.reduceAppend, slotWord_inj, append_eq_iff, FormS3.enc, FormS3.of, FormS3.guard,
    ofBool_field, extract_extract]

theorem encodesTo_class1 (r : Nat) (o : BitVec 23) : EncodesTo (BitVec.ofNat 8 (32 * 1 + r)) o (decodeClass1 r o) := by
  unfold decodeClass1
  split
  all_goals simp only [encodesTo_ite, encodesTo_checked, encodesTo_error, implies_true, encode, Option.some.injEq]
  all_goals simp +contextual [-BitVec.reduceAppend, slotWord_inj, append_eq_iff, FormSI.enc, FormSL.enc, FormSI.of, FormSL.of,
    extract_extract]

theorem encodesTo_class2 (r : Nat) (o : BitVec 23) : EncodesTo (BitVec.ofNat 8 (32 * 2 + r)) o (decodeClass2 r o) := by
  unfold decodeClass2
  split
  all_goals simp only [encodesTo_ite, encodesTo_checked, encodesTo_error, implies_true, encode, Option.some.injEq]
  all_goals simp +contextual [-BitVec.reduceAppend, slotWord_inj, append_eq_iff, FormS3.enc, FormSI.enc, FormSL.enc, FormB.enc,
    FormS3.of, FormSI.of, FormSL.of, FormB.of, FormS3.guard, FormB.guard, ofBool_field, extract_extract]

theorem encodesTo_class3 (r : Nat) (o : BitVec 23) : EncodesTo (BitVec.ofNat 8 (32 * 3 + r)) o (decodeClass3 r o) := by
  unfold decodeClass3
  split
  all_goals simp only [encodesTo_ite, encodesTo_checked, encodesTo_error, implies_true, encode, Option.some.injEq]
  all_goals simp +contextual [-BitVec.reduceAppend, slotWord_inj, append_eq_iff, FormV3.enc, FormV3.of, extract_extract]

theorem encodesTo_class4 (r : Nat) (o : BitVec 23) : EncodesTo (BitVec.ofNat 8 (32 * 4 + r)) o (decodeClass4 r o) := by
  unfold decodeClass4
  split
  all_goals simp only [encodesTo_ite, encodesTo_checked, encodesTo_error, implies_true, encode, Option.some.injEq]
  all_goals simp +contextual [-BitVec.reduceAppend, slotWord_inj, append_eq_iff, FormV3.enc, FormVI.enc, FormVC.enc, FormV3.of,
    FormVI.of, FormVC.of, ofBool_field, extract_extract]

theorem encodesTo_class5 (r : Nat) (o : BitVec 23) : EncodesTo (BitVec.ofNat 8 (32 * 5 + r)) o (decodeClass5 r o) := by
  unfold decodeClass5
  split
  all_goals simp only [encodesTo_ite, encodesTo_checked, encodesTo_error, implies_true, encode, Option.some.injEq]
  all_goals simp +contextual [-BitVec.reduceAppend, slotWord_inj, append_eq_iff, FormV3.enc, FormS3.enc, FormV3.of, FormS3.of,
    FormS3.guard, ofBool_field, extract_extract]

theorem encodesTo_class6 (r : Nat) (o : BitVec 23) : EncodesTo (BitVec.ofNat 8 (32 * 6 + r)) o (decodeClass6 r o) := by
  unfold decodeClass6
  split
  all_goals simp only [encodesTo_ite, encodesTo_checked, encodesTo_error, implies_true, encode, Option.some.injEq]
  all_goals simp +contextual [-BitVec.reduceAppend, slotWord_inj, append_eq_iff, FormMI.enc, FormMR.enc, FormMI.of, FormMR.of,
    FormMI.guard, FormMR.guard, ofBool_field, extract_extract]

theorem encodesTo_class7 (r : Nat) (o : BitVec 23) : EncodesTo (BitVec.ofNat 8 (32 * 7 + r)) o (decodeClass7 r o) := by
  unfold decodeClass7
  split
  all_goals simp only [encodesTo_ite, encodesTo_checked, encodesTo_error, implies_true, encode, Option.some.injEq]
  all_goals simp +contextual [-BitVec.reduceAppend, slotWord_inj, append_eq_iff, FormE.enc, FormE.of, FormE.guard,
    ofBool_field, extract_extract]

/-- The opcode is its class and its row (R86). -/
theorem opc_eq (c : BitVec 8) : c = BitVec.ofNat 8 (32 * (c.extractLsb' 5 3).toNat + (c.extractLsb' 0 5).toNat) := by
  revert c
  decide

/-- What the row of a class answers is what the opcode answers. -/
theorem encodesTo_of_class {c : BitVec 8} {n : Nat} {o : BitVec 23} {d : Except DecodeError Instr}
    (h : (c.extractLsb' 5 3).toNat = n) (hd : EncodesTo (BitVec.ofNat 8 (32 * n + (c.extractLsb' 0 5).toNat)) o d) : EncodesTo c o d := by
  subst h
  rwa [← opc_eq] at hd

theorem encodesTo_decodeSlot (w : Word32) : EncodesTo (opcOf w) (operandsOf w) (decodeSlot w) := by
  have hlt := ((opcOf w).extractLsb' 5 3).isLt
  simp only [decodeSlot]
  split
  next h => exact encodesTo_of_class h (encodesTo_class0 _ _)
  next h => exact encodesTo_of_class h (encodesTo_class1 _ _)
  next h => exact encodesTo_of_class h (encodesTo_class2 _ _)
  next h => exact encodesTo_of_class h (encodesTo_class3 _ _)
  next h => exact encodesTo_of_class h (encodesTo_class4 _ _)
  next h => exact encodesTo_of_class h (encodesTo_class5 _ _)
  next h => exact encodesTo_of_class h (encodesTo_class6 _ _)
  next =>
    have h : ((opcOf w).extractLsb' 5 3).toNat = 7 := by
      simp_all only [imp_false]
      omega
    exact encodesTo_of_class h (encodesTo_class7 _ _)

/-- A slot word is its opcode and its operands, but for its stop bit (R86). -/
theorem slotWord_fields (w : Word32) : slotWord (opcOf w) (operandsOf w) = w &&& 0x7FFFFFFF#32 := by
  have hc (x : BitVec 8) : x &&& 255#8 = x := BitVec.and_allOnes
  have ho (x : BitVec 23) : x &&& 8388607#23 = x := BitVec.and_allOnes
  simp [slotWord, opcOf, operandsOf, append_eq_iff, extract_extract, BitVec.extractLsb'_and, hc, ho]

/-- Settles O52, by what each row of the decoder answers. -/
theorem encodingInvertsDecoding : Obligations.EncodingInvertsDecoding := by
  intro w i h
  rw [← slotWord_fields]
  exact encodesTo_decodeSlot w i h

/-! ## Decode of encode -/

/-- The word of every well-formed instruction decodes to it, constructor by constructor (R94, R99). -/
theorem roundTrip : ∀ i : Instr, RoundTrip.Statement i
  | .add .. => RoundTrip.add _ _ _ _ | .sub .. => RoundTrip.sub _ _ _ _ | .and .. => RoundTrip.and _ _ _ _ | .or .. => RoundTrip.or _ _ _ _
  | .xor .. => RoundTrip.xor _ _ _ _ | .shl .. => RoundTrip.shl _ _ _ _ | .shr .. => RoundTrip.shr _ _ _ _
  | .sar .. => RoundTrip.sar _ _ _ _ | .mul .. => RoundTrip.mul _ _ _ _ | .mulh .. => RoundTrip.mulh _ _ _ _
  | .mulhn .. => RoundTrip.mulhn _ _ _ _ | .div .. => RoundTrip.div _ _ _ _ | .divn .. => RoundTrip.divn _ _ _ _
  | .rem .. => RoundTrip.rem _ _ _ _ | .remn .. => RoundTrip.remn _ _ _ _ | .min .. => RoundTrip.min _ _ _ _
  | .max .. => RoundTrip.max _ _ _ _ | .minn .. => RoundTrip.minn _ _ _ _ | .maxn .. => RoundTrip.maxn _ _ _ _
  | .sel .. => RoundTrip.sel _ _ _ _ _ | .clz .. => RoundTrip.clz _ _ _ | .ctz .. => RoundTrip.ctz _ _ _ | .popc .. => RoundTrip.popc _ _ _
  | .cmpCc .. => RoundTrip.cmpCc _ _ _ _ _ | .pand .. => RoundTrip.pand _ _ _ _ | .por .. => RoundTrip.por _ _ _ _
  | .pxor .. => RoundTrip.pxor _ _ _ _ | .pnot .. => RoundTrip.pnot _ _ _ | .movpPs .. => RoundTrip.movpPs _ _ _ _
  | .movpSp .. => RoundTrip.movpSp _ _ _ _ | .movpBc .. => RoundTrip.movpBc _ _ _ | .addi .. => RoundTrip.addi _ _ _
  | .andi .. => RoundTrip.andi _ _ _ | .ori .. => RoundTrip.ori _ _ _ | .xori .. => RoundTrip.xori _ _ _ | .shli .. => RoundTrip.shli _ _ _
  | .shri .. => RoundTrip.shri _ _ _ | .sari .. => RoundTrip.sari _ _ _ | .movi .. => RoundTrip.movi _ _ | .shi .. => RoundTrip.shi _ _
  | .br .. => RoundTrip.br _ _ | .brl .. => RoundTrip.brl _ _ | .brs .. => RoundTrip.brs _ _ _ | .loop .. => RoundTrip.loop _ _ _
  | .loopi .. => RoundTrip.loopi _ _ | .ppt => RoundTrip.ppt | .yield => RoundTrip.yield | .exit => RoundTrip.exit
  | .tstamp .. => RoundTrip.tstamp _ _ | .tstampSet .. => RoundTrip.tstampSet _ _ _ | .sread .. => RoundTrip.sread _ _
  | .swrite .. => RoundTrip.swrite _ _ | .trap .. => RoundTrip.trap _ | .svc .. => RoundTrip.svc _ | .eret => RoundTrip.eret
  | .fcrSet .. => RoundTrip.fcrSet _ _ _ | .fcrGet .. => RoundTrip.fcrGet _ _ | .panAck .. => RoundTrip.panAck _ _
  | .panRead .. => RoundTrip.panRead _ _ _ _ | .poisTest .. => RoundTrip.poisTest _ _ _ _ | .poisClr .. => RoundTrip.poisClr _ _ _
  | .poisSet .. => RoundTrip.poisSet _ _ _ | .preemptStop .. => RoundTrip.preemptStop _ _ _ _
  | .preemptResume .. => RoundTrip.preemptResume _ _ _ _ | .preemptState .. => RoundTrip.preemptState _ _ _ _
  | .ctxSave .. => RoundTrip.ctxSave _ _ _ _ | .ctxLoad .. => RoundTrip.ctxLoad _ _ _ _ | .halt => RoundTrip.halt
  | .vadd .. => RoundTrip.vadd _ _ _ _ _ | .vsub .. => RoundTrip.vsub _ _ _ _ _ | .vmul .. => RoundTrip.vmul _ _ _ _ _
  | .vmulh .. => RoundTrip.vmulh _ _ _ _ _ | .vmin .. => RoundTrip.vmin _ _ _ _ _ | .vmax .. => RoundTrip.vmax _ _ _ _ _
  | .vand .. => RoundTrip.vand _ _ _ _ _ | .vor .. => RoundTrip.vor _ _ _ _ _ | .vxor .. => RoundTrip.vxor _ _ _ _ _
  | .vnot .. => RoundTrip.vnot _ _ _ _ | .vshl .. => RoundTrip.vshl _ _ _ _ _ | .vshr .. => RoundTrip.vshr _ _ _ _ _
  | .vsar .. => RoundTrip.vsar _ _ _ _ _ | .vcmpCc .. => RoundTrip.vcmpCc _ _ _ _ _ _ | .vadds .. => RoundTrip.vadds _ _ _ _ _
  | .vsubs .. => RoundTrip.vsubs _ _ _ _ _ | .fadd .. => RoundTrip.fadd _ _ _ _ _ | .fsub .. => RoundTrip.fsub _ _ _ _ _
  | .fmul .. => RoundTrip.fmul _ _ _ _ _ | .fma .. => RoundTrip.fma _ _ _ _ _ | .fms .. => RoundTrip.fms _ _ _ _ _
  | .fnma .. => RoundTrip.fnma _ _ _ _ _ | .fnms .. => RoundTrip.fnms _ _ _ _ _ | .fmin .. => RoundTrip.fmin _ _ _ _ _
  | .fmax .. => RoundTrip.fmax _ _ _ _ _ | .fabs .. => RoundTrip.fabs _ _ _ _ | .fneg .. => RoundTrip.fneg _ _ _ _
  | .fcmpCc .. => RoundTrip.fcmpCc _ _ _ _ _ _ | .fclass .. => RoundTrip.fclass _ _ _ _ | .frnd .. => RoundTrip.frnd _ _ _ _
  | .fscale .. => RoundTrip.fscale _ _ _ _ _ | .vsel .. => RoundTrip.vsel _ _ _ _ _ | .vmov .. => RoundTrip.vmov _ _ _ _
  | .vbcast .. => RoundTrip.vbcast _ _ _ _ | .vimm .. => RoundTrip.vimm _ _ _ | .vext .. => RoundTrip.vext _ _ _ _
  | .vins .. => RoundTrip.vins _ _ _ _ | .vperm .. => RoundTrip.vperm _ _ _ _ _ | .vslideUp .. => RoundTrip.vslideUp _ _ _ _ _
  | .vslideDn .. => RoundTrip.vslideDn _ _ _ _ _ | .vrot .. => RoundTrip.vrot _ _ _ _ _ | .vzip .. => RoundTrip.vzip _ _ _ _ _
  | .vunzip .. => RoundTrip.vunzip _ _ _ _ _ | .vtrn .. => RoundTrip.vtrn _ _ _ _ _ | .vradd .. => RoundTrip.vradd _ _ _ _
  | .vrmin .. => RoundTrip.vrmin _ _ _ _ | .vrmax .. => RoundTrip.vrmax _ _ _ _ | .vscanAdd .. => RoundTrip.vscanAdd _ _ _ _
  | .vdot4 .. => RoundTrip.vdot4 _ _ _ _ _ | .vhash .. => RoundTrip.vhash _ _ _ _ _ | .pcnt .. => RoundTrip.pcnt _ _ _ _
  | .pfirst .. => RoundTrip.pfirst _ _ _ _ | .vshli .. => RoundTrip.vshli _ _ _ _ | .vshri .. => RoundTrip.vshri _ _ _ _
  | .vsari .. => RoundTrip.vsari _ _ _ _ | .cvt .. => RoundTrip.cvt _ _ _ _ _ _ _ | .mxpack .. => RoundTrip.mxpack _ _ _ _ _ _ _
  | .mxunpack .. => RoundTrip.mxunpack _ _ _ _ _ _ | .b16pack .. => RoundTrip.b16pack _ _ _ _ | .fradd .. => RoundTrip.fradd _ _ _ _
  | .frmin .. => RoundTrip.frmin _ _ _ _ | .frmax .. => RoundTrip.frmax _ _ _ _ | .sfEval .. => RoundTrip.sfEval _ _ _ _ _
  | .sfEvalx .. => RoundTrip.sfEvalx _ _ _ _ _ _ | .sftLoad .. => RoundTrip.sftLoad _ _ _ _ | .sftBind .. => RoundTrip.sftBind _ _ _ _
  | .sftBindOff .. => RoundTrip.sftBindOff _ _ _ | .sftInfo .. => RoundTrip.sftInfo _ _ _ _ | .sftChk .. => RoundTrip.sftChk _ _ _
  | .ld .. => RoundTrip.ld _ _ _ _ _ _ | .st .. => RoundTrip.st _ _ _ _ _ _ | .vld .. => RoundTrip.vld _ _ _ _ _
  | .vst .. => RoundTrip.vst _ _ _ _ _ | .vlds .. => RoundTrip.vlds _ _ _ _ _ _ | .vgather .. => RoundTrip.vgather _ _ _ _ _ _
  | .vscatter .. => RoundTrip.vscatter _ _ _ _ _ _ | .gld .. => RoundTrip.gld _ _ _ _ _ | .gst .. => RoundTrip.gst _ _ _ _ _
  | .chpop .. => RoundTrip.chpop _ _ _ | .chpopDrop .. => RoundTrip.chpopDrop _ _ | .chpush .. => RoundTrip.chpush _ _ _
  | .chpushAb .. => RoundTrip.chpushAb _ _ _ | .chpushSp .. => RoundTrip.chpushSp _ _ _ | .chpeek .. => RoundTrip.chpeek _ _ _ _
  | .chstat .. => RoundTrip.chstat _ _ _ | .ldAcq .. => RoundTrip.ldAcq _ _ _ _ _ _ _ | .stRel .. => RoundTrip.stRel _ _ _ _ _ _ _ _
  | .aadd .. => RoundTrip.aadd _ _ _ _ _ _ _ | .aand .. => RoundTrip.aand _ _ _ _ _ _ _ | .aor .. => RoundTrip.aor _ _ _ _ _ _ _
  | .axor .. => RoundTrip.axor _ _ _ _ _ _ _ | .amin .. => RoundTrip.amin _ _ _ _ _ _ _ | .amax .. => RoundTrip.amax _ _ _ _ _ _ _
  | .axch .. => RoundTrip.axch _ _ _ _ _ _ _ | .acas .. => RoundTrip.acas _ _ _ _ _ _ _ | .adecp .. => RoundTrip.adecp _ _ _ _ _ _
  | .amxacc .. => RoundTrip.amxacc _ _ _ _ _ _ | .fence .. => RoundTrip.fence _ _ _ | .waitv .. => RoundTrip.waitv _ _ _ _ _
  | .notify .. => RoundTrip.notify _ _ _ _ | .synAdd .. => RoundTrip.synAdd _ _ _ _ | .synWait .. => RoundTrip.synWait _ _ _ _
  | .synGet .. => RoundTrip.synGet _ _ _ | .bar .. => RoundTrip.bar _ _ _ | .copy .. => RoundTrip.copy _ _ _ _ _ _
  | .copyw .. => RoundTrip.copyw _ _ _ _ _ _ | .ladRun .. => RoundTrip.ladRun _ _ _ _ _ | .ladStop .. => RoundTrip.ladStop _ _
  | .ladStat .. => RoundTrip.ladStat _ _ _ | .pref .. => RoundTrip.pref _ _ _ _ | .rowcpy .. => RoundTrip.rowcpy _ _ _ _ _ _
  | .rowinit .. => RoundTrip.rowinit _ _ _ _ _ _ | .grdLease .. => RoundTrip.grdLease _ | .grdFree .. => RoundTrip.grdFree _
  | .grdWload .. => RoundTrip.grdWload _ _ | .grdScl .. => RoundTrip.grdScl _ _ | .grdSclAll .. => RoundTrip.grdSclAll _ _
  | .grdMul .. => RoundTrip.grdMul _ _ _ _ _ _ | .grdZero .. => RoundTrip.grdZero _ _ | .grdDrain .. => RoundTrip.grdDrain _ _ _ _ _
  | .grdChk .. => RoundTrip.grdChk _ _ _ | .grdSave .. => RoundTrip.grdSave _ _ _ _ _ | .grdRest .. => RoundTrip.grdRest _ _ _ _ _
  | .grdStat .. => RoundTrip.grdStat _ _ _ _ | .send .. => RoundTrip.send _ _ _ _ _ _ | .sendv .. => RoundTrip.sendv _ _ _ _ _
  | .rld .. => RoundTrip.rld _ _ _ | .rred .. => RoundTrip.rred _ _ _ _ _ | .recv .. => RoundTrip.recv _ _ _ _
  | .mldr .. => RoundTrip.mldr _ _ _ _ | .fabStat .. => RoundTrip.fabStat _ _ _ | .bundleIssue .. => RoundTrip.bundleIssue _
  | .issueSlotChange .. => RoundTrip.issueSlotChange _ | .quantumExpiry .. => RoundTrip.quantumExpiry _
  | .elasticResultArrival .. => RoundTrip.elasticResultArrival _ | .accessPerformed .. => RoundTrip.accessPerformed _
  | .ladleRunStart .. => RoundTrip.ladleRunStart _ | .ladleBundleIssue .. => RoundTrip.ladleBundleIssue _
  | .channelElementArrival .. => RoundTrip.channelElementArrival _ | .copyComplete .. => RoundTrip.copyComplete _
  | .rowOperationComplete .. => RoundTrip.rowOperationComplete _ | .griddleCommandComplete .. => RoundTrip.griddleCommandComplete _
  | .leaseGrant .. => RoundTrip.leaseGrant _ | .leaseBudgetExpiry .. => RoundTrip.leaseBudgetExpiry _ | .kick .. => RoundTrip.kick _ _
  | .kickStart .. => RoundTrip.kickStart _ | .placement .. => RoundTrip.placement _ | .agelimExpiry .. => RoundTrip.agelimExpiry _ _
  | .memberExit .. => RoundTrip.memberExit _ | .nodeRetire .. => RoundTrip.nodeRetire _ | .replayComplete .. => RoundTrip.replayComplete _
  | .qgraphWrite .. => RoundTrip.qgraphWrite _ _ | .qcbaseWrite .. => RoundTrip.qcbaseWrite _ _
  | .qcsizeWrite .. => RoundTrip.qcsizeWrite _ _ | .hostMemRead .. => RoundTrip.hostMemRead _ _
  | .hostMemWrite .. => RoundTrip.hostMemWrite _ _ | .pctlRst .. => RoundTrip.pctlRst _ | .prst .. => RoundTrip.prst _ _
  | .partitionResetComplete .. => RoundTrip.partitionResetComplete _ | .qsetWrite .. => RoundTrip.qsetWrite _ _
  | .lregWrite .. => RoundTrip.lregWrite _ _ _ | .pantryCommit .. => RoundTrip.pantryCommit _ _ | .pantryPublish => RoundTrip.pantryPublish
  | .opSettleComplete .. => RoundTrip.opSettleComplete _ | .graceExpiry .. => RoundTrip.graceExpiry _
  | .pcfgWrite .. => RoundTrip.pcfgWrite _ _ _ | .cresWrite .. => RoundTrip.cresWrite _ _ _ | .replace .. => RoundTrip.replace _ _
  | .replaceComplete .. => RoundTrip.replaceComplete _ | .isscfgWrite .. => RoundTrip.isscfgWrite _ _
  | .splitLevelStep .. => RoundTrip.splitLevelStep _ _ | .tempstatUpdate .. => RoundTrip.tempstatUpdate _
  | .chcfgWrite .. => RoundTrip.chcfgWrite _ _ _ | .spcfgWrite .. => RoundTrip.spcfgWrite _ _ | .tlbinv .. => RoundTrip.tlbinv _ _
  | .tlbinvComplete .. => RoundTrip.tlbinvComplete _ | .ringRegisterWrite .. => RoundTrip.ringRegisterWrite _ _ _
  | .ringHeadWrite .. => RoundTrip.ringHeadWrite _ _ _ | .synobjWrite .. => RoundTrip.synobjWrite _ _
  | .hangTimeout .. => RoundTrip.hangTimeout _ | .preemptDeadline .. => RoundTrip.preemptDeadline _
  | .preemptionComplete .. => RoundTrip.preemptionComplete _ | .uncorr .. => RoundTrip.uncorr _
  | .lockstepMismatch .. => RoundTrip.lockstepMismatch _ | .rollreq .. => RoundTrip.rollreq _ _
  | .gangRollback .. => RoundTrip.gangRollback _ | .rollbackRestart .. => RoundTrip.rollbackRestart _
  | .nodekill .. => RoundTrip.nodekill _ _ | .errorThreshold .. => RoundTrip.errorThreshold _
  | .errorWindowExpiry .. => RoundTrip.errorWindowExpiry _ | .hbmLaneDrift .. => RoundTrip.hbmLaneDrift _
  | .migrationStart .. => RoundTrip.migrationStart _ _ | .migrationComplete .. => RoundTrip.migrationComplete _
  | .powerEstimateUpdate .. => RoundTrip.powerEstimateUpdate _ | .pcSample .. => RoundTrip.pcSample _
  | .fabidWrite .. => RoundTrip.fabidWrite _ _ | .tabload .. => RoundTrip.tabload _ _ | .tabloadComplete => RoundTrip.tabloadComplete
  | .fabgrpJoin .. => RoundTrip.fabgrpJoin _ _ | .packetDepart .. => RoundTrip.packetDepart _ _
  | .fabricWrite .. => RoundTrip.fabricWrite _ _ | .fabricRead .. => RoundTrip.fabricRead _ _
  | .fabricAtomic .. => RoundTrip.fabricAtomic _ _ | .fabricReduce .. => RoundTrip.fabricReduce _ _ | .ack .. => RoundTrip.ack _ _
  | .nack .. => RoundTrip.nack _ _ | .data .. => RoundTrip.data _ _ | .result .. => RoundTrip.result _ _ | .lsu .. => RoundTrip.lsu _
  | .linkDead .. => RoundTrip.linkDead _ | .linkRetry .. => RoundTrip.linkRetry _ | .drainRoundExpiry .. => RoundTrip.drainRoundExpiry _
  | .linkTrain .. => RoundTrip.linkTrain _ _ | .linkDown .. => RoundTrip.linkDown _ _
  | .linkTrainingComplete .. => RoundTrip.linkTrainingComplete _ _ _ _ _ | .packageReset => RoundTrip.packageReset
  | .bootVerify => RoundTrip.bootVerify | .bist .. => RoundTrip.bist _ | .marchTimeout => RoundTrip.marchTimeout
  | .bootPantry => RoundTrip.bootPantry | .repadd .. => RoundTrip.repadd _ _ | .bootsumWrite .. => RoundTrip.bootsumWrite _ _
  | .testcfgWrite .. => RoundTrip.testcfgWrite _ _ | .attestationStart .. => RoundTrip.attestationStart _ _
  | .attestationComplete => RoundTrip.attestationComplete | .epcWrite .. => RoundTrip.epcWrite _ _
  | .lcntWrite .. => RoundTrip.lcntWrite _ _ _ | .fcrWrite .. => RoundTrip.fcrWrite _ _ | .registerWrite .. => RoundTrip.registerWrite _ _
  | .frameBoundary => RoundTrip.frameBoundary | .memTrainingComplete .. => RoundTrip.memTrainingComplete _ _

theorem encode_isSome (i : Instr) : (encode i).isSome = i.opc.isSome := by
  cases i <;> rfl

/-- Settles O51, by the round trip of every instruction; the stop bit changes nothing. -/
theorem decodingInvertsEncoding : Obligations.DecodingInvertsEncoding := by
  refine ⟨fun i w hw he => ?_, encode_isSome⟩
  obtain ⟨hd, hc, hs⟩ := roundTrip i hw w he
  exact ⟨hd, (decodeSlot_stop w).trans hd, hc, hs⟩

/-! ## Words of the spec's examples -/

/-- Settles O50: the decoder answers each word's instruction. -/
theorem wordsOfTheExamples : Obligations.WordsOfTheExamples := by
  unfold Obligations.WordsOfTheExamples
  decide

end Sys2Proof.Scope
end

section
/-! Constants and nullified slots (R95, R102, R114, R133). -/

namespace Sys2Proof.Scope

open Sys2Proof.Machine Sys2Proof.Safety Sys2Proof.Laws

/-! ## Slots that are nullified -/

/-- What `State.guarded` answers for a nullified slot. -/
theorem next_guarded_nullified {s : State} {g : Guard} (h : Nullified s g) (x y : State) :
    (.next (if s.guardPois g then x else if s.guardTest g then y else s) : Out) = .next s := by
  simp [h.1, h.2]

/-- What `State.consuming` answers for a nullified slot. -/
theorem next_consuming_nullified {s : State} {g : Guard} (h : Nullified s g) (x : State) :
    (.next (if !s.guardPois g && !s.guardTest g then s else x) : Out) = .next s := by
  simp [h.1, h.2]

/-- A nullified slot does nothing: the instructions of the first list poison their results under a poisoned guard, the others
consume their guard (R95, R134). -/
theorem exec_nullified {i : Instr} {g : Guard} {s : State} (hg : guardOf i = some g) (h : Nullified s g) : exec i s = .next s := by
  cases i <;> simp only [guardOf, Option.some.injEq, reduceCtorEq] at hg
  all_goals subst hg
  case add | sub | and | or | xor | shl | shr | sar | mul | mulh | mulhn | div | divn | rem | remn | min | max | minn |
      maxn | sel | clz | ctz | popc | cmpCc | pand | por | pxor | pnot | movpPs | movpSp | movpBc | poisTest |
      poisClr | poisSet | sftBindOff | sftInfo | ld | vld | vlds | vgather | gld | chpeek | ldAcq =>
    exact next_guarded_nullified h _ _
  all_goals exact next_consuming_nullified h _

/-! ## The constants s0 and p0 -/

/-- An operation for s0 has no destination; the operations before it stand (R114, R133). -/
theorem issueOp_s0_ops (s : State) (kind : OpKind) (gp acq : Bool) (rel : Option Nat) :
    ∃ o : Op, o.dest = none ∧ (s.issueOp kind (some (.s 0)) gp acq rel).ops = s.ops ++ [o] := by
  have stall (t : State) (n : Nat) : (t.stallFor n).ops = t.ops := rfl
  have far (t : State) : (t.farStall kind).ops = t.ops := by
    unfold State.farStall
    split <;> simp [stall]
  have release (c : Nat) : (s.releaseStall c).ops = s.ops := by
    unfold State.releaseStall
    split <;> simp [stall]
  cases rel with
  | none =>
    refine ⟨_, ?_, congrArg (· ++ [_]) (far s)⟩
    rfl
  | some c =>
    refine ⟨_, ?_, congrArg (· ++ [_]) ((far _).trans (release c))⟩
    rfl

theorem tokened_s0 {s : State} (h : ∀ o ∈ s.ops, o.dest ≠ some (.s 0)) (a : Nat) : s.tokened a (.s 0) = false := by
  simp only [State.tokened, List.any_eq_false, Bool.and_eq_true, beq_iff_eq]
  rintro o ho ⟨⟨_, hd⟩, _⟩
  exact h o ho hd

/-- Settles O4: the constants by the definitions of the registers, the slots by `exec_nullified`. -/
theorem constantsAndNullifiedSlots : Obligations.ConstantsAndNullifiedSlots := by
  unfold Obligations.ConstantsAndNullifiedSlots
  refine ⟨⟨fun s => ⟨rfl, rfl, rfl, rfl⟩, fun c v q p => ⟨rfl, rfl, rfl, rfl⟩, ?_, ?_⟩, fun i g s => exec_nullified,
    fun s => ⟨executes_p0 s, nullified_p0 s⟩⟩
  · rintro s _ kind gp acq rel a h rfl
    obtain ⟨o, hd, ho⟩ := issueOp_s0_ops s kind gp acq rel
    refine tokened_s0 (fun p hp => ?_) a
    rw [ho, List.mem_append, List.mem_singleton] at hp
    obtain hp | rfl := hp
    · exact h p hp
    · simp [hd]
  · intro g cc c2 a b pa pb pg t x y f
    simp [Instr.wf]

end Sys2Proof.Scope
end

section
/-! The checks of a bundle that is next to issue (R84, R85, R88, R90, R102 to R104). -/

namespace Sys2Proof.Scope

open Sys2Proof.Machine Sys2Proof.Safety Sys2Proof.Laws

/-! ## The parts of the checks -/

theorem ownerOf_context {s : State} {x : Nat} (h : x < 2048) : s.ownerOf x = x := by
  simp [State.ownerOf, isLadle, Nat.not_le.mpr h]

theorem ctx_who (s : State) : s.ctx s.who = s.c := by simp [State.ctx]

/-- Exactly the last slot word has its stop bit set (R85). -/
theorem stopBitsOk_iff (n : Nat) (f : Nat → Word32) :
    stopBitsOk ((List.range n).map f) = true ↔ ∀ i, i < n → stopOf (f i) = decide (i + 1 = n) := by
  simp only [stopBitsOk, List.all_eq_true, beq_iff_eq, List.length_map, List.length_range, Prod.forall, List.mem_zipIdx_iff_getElem?,
    List.getElem?_map, Option.map_eq_some_iff]
  constructor
  · intro h i hi
    exact h _ _ ⟨i, by simp [hi], rfl⟩
  · rintro h _ i ⟨j, hj, rfl⟩
    obtain ⟨hi, rfl⟩ := List.getElem?_eq_some_iff.mp hj
    simpa using h i (by simpa using hi)

theorem headerBad_iff (h : Header) (f : Flow) : headerBad h f = true ↔
    (h.pmask &&& h.dmask ≠ 0#8) ∨ ∃ i, i < 8 ∧ maskHas h.dmask i = true ∧ ((f.position i).valid = false ∨
      (i = 0 ∧ (opcOf (f.position 0).held).extractLsb' 5 3 = 2#3)) := by
  simp only [headerBad, Bool.or_eq_true, bne_iff_ne, List.any_eq_true, List.mem_range, Bool.and_eq_true, Bool.not_eq_true', beq_iff_eq]
  refine or_congr_right (exists_congr fun i => and_congr_right fun _ => and_congr_right fun _ => or_congr_right ?_)
  exact and_congr_right fun hi => by rw [hi]

/-- A mask's words are those of its positions. -/
theorem maskCount_eq : ∀ m : Byte, maskCount m = ((List.range 8).filter (maskHas m)).length := by decide

/-- The words of a mask's lower positions are fewer than its words. -/
theorem count_lt_maskCount {m : Byte} {i : Nat} (h : maskHas m i = true) :
    ((List.range i).filter (maskHas m)).length < maskCount m := by
  have hi : i < 8 := by
    simp only [maskHas, Bool.and_eq_true, decide_eq_true_eq] at h
    exact h.1
  have below : ((List.range (i + 1)).filter (maskHas m)).length ≤ maskCount m := by
    rw [maskCount_eq]
    exact ((List.range_sublist.mpr (by omega)).filter _).length_le
  rw [List.range_succ, List.filter_append, List.length_append] at below
  simp [h] at below
  omega

/-- What a position of the bundle holds: its slot word, or what it held before (R86, R88). -/
theorem headerPosition_held {h : Header} {str : SMap Word} {f : Nat → Word32} {p : Position} {i : Nat}
    (hi : maskHas h.pmask i = true ∨ maskHas h.dmask i = true) :
    (headerPosition h str ((List.range (maskCount h.pmask)).map f) p i).held
      = if maskHas h.pmask i then f ((List.range i).filter (maskHas h.pmask)).length else p.held := by
  unfold headerPosition
  split
  next hp => simp [List.getD, count_lt_maskCount hp]
  next hp =>
    rw [if_pos (hi.resolve_left hp)]
    split <;> rfl

/-! ## One slot (R102, step 6) -/

section
variable {s : State} (hw : s.who < 2048) {pos : Nat} {v : Word32}
include hw

theorem isLadle_context : isLadle s.who = false := by simp [isLadle, Nat.not_le.mpr hw]

omit hw in
theorem checkSlot_badPosition (hp : positionOk (opcOf v) pos = false) : s.checkSlot pos v = .error .bundle := by
  simp [State.checkSlot, hp]

theorem checkSlot_undecoded (hp : positionOk (opcOf v) pos = true) {e : DecodeError} (hd : decodeSlot v = .error e) :
    s.checkSlot pos v = .error .illegal := by
  simp [State.checkSlot, hp, hd, isLadle_context hw]

theorem checkSlot_absent (hp : positionOk (opcOf v) pos = true) {i : Instr} (hd : decodeSlot v = .ok i) {g : Nat}
    (hf : featureOf (opcOf v) = some g) (hg : s.hasFeat g = false) : s.checkSlot pos v = .error .feature := by
  simp [State.checkSlot, hp, hd, hf, hg, isLadle_context hw]

/-- A slot in its place whose word decodes and whose group is there is refused only by its privilege (R104). -/
theorem checkSlot_present (hp : positionOk (opcOf v) pos = true) {i : Instr} (hd : decodeSlot v = .ok i)
    (hf : ∀ g, featureOf (opcOf v) = some g → s.hasFeat g = true) :
    s.checkSlot pos v = if supOpc (opcOf v) && !s.c.y.sup then .error .priv else .ok i := by
  cases h : featureOf (opcOf v) with
  | none => simp [State.checkSlot, hp, hd, h, isLadle_context hw]
  | some g => simp [State.checkSlot, hp, hd, h, hf g h, isLadle_context hw]

end

/-! ## The slots in canonical order -/

section
variable {s : State} {p : Nat → Position}

/-- The first position whose check fails decides. -/
theorem checkSlots_error {k : TrapKind} {i : Nat} (hi : s.checkSlot i (p i).held = .error k) :
    ∀ l : List Nat, l.Pairwise (· < ·) → i ∈ l → (∀ j ∈ l, j < i → ∃ m, s.checkSlot j (p j).held = .ok m) →
      s.checkSlots p l = .error (.trap k i 0#64)
  | [], _, hm, _ => by cases hm
  | j :: l, hl, hm, hb => by
    obtain ⟨hj, hl⟩ := List.pairwise_cons.mp hl
    obtain rfl | hm := List.mem_cons.mp hm
    · simp [State.checkSlots, hi]
    · obtain ⟨m, hok⟩ := hb j (List.mem_cons_self ..) (hj i hm)
      simp [State.checkSlots, hok, checkSlots_error hi l hl hm fun q hq => hb q (List.mem_cons_of_mem _ hq)]

/-- When every position passes, the slots are those of the positions. -/
theorem checkSlots_ok : ∀ l : List Nat, (∀ i ∈ l, ∃ m, s.checkSlot i (p i).held = .ok m) →
    ∃ b, s.checkSlots p l = .ok b ∧ ∀ e ∈ b, e.pos ∈ l ∧ e.word = (p e.pos).held ∧ s.checkSlot e.pos e.word = .ok e.instr
  | [], _ => ⟨[], rfl, by simp⟩
  | i :: l, h => by
    obtain ⟨m, hm⟩ := h i (List.mem_cons_self ..)
    obtain ⟨b, hb, hs⟩ := checkSlots_ok l fun j hj => h j (List.mem_cons_of_mem _ hj)
    refine ⟨_, by simp only [State.checkSlots, hm, hb]; rfl, fun e he => ?_⟩
    obtain rfl | he := List.mem_cons.mp he
    · exact ⟨List.mem_cons_self .., rfl, hm⟩
    · obtain ⟨h1, h2⟩ := hs e he
      exact ⟨List.mem_cons_of_mem _ h1, h2⟩

end

/-! ## The bundle -/

/-- Word `n` of the bundle that is next to issue. -/
def bundleWord (s : State) (n : Nat) : Word32 := s.imemWord (coreOf s.who) (s.c.f.pc.toNat + 4 * n)

/-- Its header (R82). -/
def bundleHeader (s : State) : Header := Header.of (bundleWord s 0)

/-- The number of its slot words (R85). -/
def wordCount (s : State) : Nat := maskCount (bundleHeader s).pmask

/-- Its positions as its header leaves them (R88). -/
def bundlePosition (s : State) (i : Nat) : Position :=
  headerPosition (bundleHeader s) s.c.y.str ((List.range (wordCount s)).map fun i => bundleWord s (i + 1)) (s.c.f.position i) i

/-- The positions that execute, in canonical order (R102). -/
def executing (s : State) : List Nat :=
  (List.range 8).filter fun i => maskHas (bundleHeader s).pmask i || maskHas (bundleHeader s).dmask i

/-- The bundle with its executing slots (R88, R109). -/
def bundleWith (s : State) (l : List SlotIn) : Bundle :=
  ⟨bundleHeader s, (List.range 8).foldl (fun m i => SMap.put Position.zero m i (bundlePosition s i)) [], l,
    s.c.f.pc + toWord (4 * (1 + wordCount s))⟩

/-- What the checks of its slots answer (R102, step 6). -/
def slotsChecked (s : State) : Except Stop Bundle :=
  match s.checkSlots (bundlePosition s) (executing s) with
  | .error e => .error e
  | .ok l => .ok (bundleWith s l)

/-- The checks of the bundle before those of its slots: a failing one raises BUNDLE (R78, R82, R85, R90). -/
def Framed (s : State) : Prop :=
  s.c.y.inSpan s.offset 1 = true ∧ (bundleHeader s).ver.toNat < 2 ∧ s.c.y.inSpan s.offset (1 + wordCount s) = true ∧
    stopBitsOk ((List.range (wordCount s)).map fun i => bundleWord s (i + 1)) = true ∧ headerBad (bundleHeader s) s.c.f = false

/-- A reserved field of the header is set (R84). -/
def ReservedSet (h : Header) : Prop := h.rsv ≠ 0#4 ∨ (h.opv = false ∧ h.opp ≠ 0#3)

section
variable {s : State} (hw : s.who < 2048)
include hw

theorem decodeBundle_eq : s.decodeBundle =
    if !s.c.y.inSpan s.offset 1 then .error (.trap .bundle 8 0#64)
    else if 2 ≤ (bundleHeader s).ver.toNat then .error (.trap .bundle 8 0#64)
    else if !s.c.y.inSpan s.offset (1 + wordCount s) || !stopBitsOk ((List.range (wordCount s)).map fun i => bundleWord s (i + 1)) then
      .error (.trap .bundle 8 0#64)
    else if headerBad (bundleHeader s) s.c.f then .error (.trap .bundle 8 0#64)
    else if (bundleHeader s).rsv != 0#4 || (!(bundleHeader s).opv && (bundleHeader s).opp != 0#3) then .error (.trap .illegal 8 0#64)
    else slotsChecked s := by
  unfold State.decodeBundle
  rw [ownerOf_context hw, ctx_who]
  rfl

theorem decodeBundle_unframed (h : ¬ Framed s) : s.decodeBundle = .error (.trap .bundle 8 0#64) := by
  rw [decodeBundle_eq hw]
  split
  · rfl
  split
  · rfl
  split
  · rfl
  split
  · rfl
  refine absurd ⟨?_, ?_, ?_, ?_, ?_⟩ h <;> simp_all

theorem decodeBundle_framed (h : Framed s) : s.decodeBundle =
    if (bundleHeader s).rsv != 0#4 || (!(bundleHeader s).opv && (bundleHeader s).opp != 0#3) then .error (.trap .illegal 8 0#64)
    else slotsChecked s := by
  obtain ⟨h1, h2, h3, h4, h5⟩ := h
  simp [decodeBundle_eq hw, h1, h3, h4, h5, Nat.not_le.mpr h2]

theorem decodeBundle_reserved (h : Framed s) (hr : ReservedSet (bundleHeader s)) :
    s.decodeBundle = .error (.trap .illegal 8 0#64) := by
  rw [decodeBundle_framed hw h, if_pos (by simpa [ReservedSet] using hr)]

theorem decodeBundle_slots (h : Framed s) (hr : ¬ ReservedSet (bundleHeader s)) : s.decodeBundle = slotsChecked s := by
  rw [decodeBundle_framed hw h, if_neg (by simpa [ReservedSet] using hr)]

theorem decodeBundle_firstBad (h : Framed s) (hr : ¬ ReservedSet (bundleHeader s)) {i : Nat} {k : TrapKind} (hi : i ∈ executing s)
    (hb : ∀ j ∈ executing s, j < i → ∃ m, s.checkSlot j (bundlePosition s j).held = .ok m)
    (hk : s.checkSlot i (bundlePosition s i).held = .error k) : s.decodeBundle = .error (.trap k i 0#64) := by
  have hs : (executing s).Pairwise (· < ·) := List.pairwise_lt_range.filter _
  rw [decodeBundle_slots hw h hr, slotsChecked, checkSlots_error hk _ hs hi hb]

theorem decodeBundle_allGood (h : Framed s) (hr : ¬ ReservedSet (bundleHeader s))
    (ha : ∀ i ∈ executing s, ∃ m, s.checkSlot i (bundlePosition s i).held = .ok m) : ∃ l, s.decodeBundle = .ok (bundleWith s l) ∧
      ∀ e ∈ l, e.pos ∈ executing s ∧ e.word = (bundlePosition s e.pos).held ∧ s.checkSlot e.pos e.word = .ok e.instr := by
  obtain ⟨l, hl, hs⟩ := checkSlots_ok _ ha
  exact ⟨l, by rw [decodeBundle_slots hw h hr, slotsChecked, hl], hs⟩

end

theorem bundlePosition_held {s : State} {i : Nat}
    (hi : maskHas (bundleHeader s).pmask i = true ∨ maskHas (bundleHeader s).dmask i = true) :
    (bundlePosition s i).held = if maskHas (bundleHeader s).pmask i then
      bundleWord s (1 + ((List.range i).filter (maskHas (bundleHeader s).pmask)).length) else (s.c.f.position i).held := by
  rw [bundlePosition, wordCount, headerPosition_held hi, Nat.add_comm]

theorem mem_executing {s : State} {i : Nat} : i ∈ executing s ↔
    i < 8 ∧ (maskHas (bundleHeader s).pmask i = true ∨ maskHas (bundleHeader s).dmask i = true) := by
  simp [executing]

theorem inSpan_mono {y : Sys} {o m n : Nat} (h : y.inSpan o n = true) (hm : m ≤ n) : y.inSpan o m = true := by
  simp only [Sys.inSpan, decide_eq_true_eq] at *
  omega

/-- Settles O49: the checks of the frame, then the slots in canonical order. -/
theorem bundlesAreChecked : Obligations.BundlesAreChecked := by
  intro s hw pc w h n fits stops mine r90 rsv held is
  obtain ⟨hW, hH, hN⟩ : w = bundleWord s ∧ h = bundleHeader s ∧ n = wordCount s := ⟨rfl, rfl, rfl⟩
  clear_value n h w
  subst hW hH hN
  have hheld (i : Nat) (hi : mine i) : (bundlePosition s i).held = held i := bundlePosition_held hi.2
  have hstops : stopBitsOk ((List.range (wordCount s)).map fun i => bundleWord s (i + 1)) = true ↔ stops := stopBitsOk_iff ..
  have hr90 : headerBad (bundleHeader s) s.c.f = true ↔ r90 := headerBad_iff ..
  have framed : Framed s ↔ fits 1 ∧ (bundleHeader s).ver.toNat < 2 ∧ fits (1 + wordCount s) ∧ stops ∧ ¬ r90 := by
    rw [← hstops, ← hr90, Bool.not_eq_true]
    rfl
  have unframed (hn : ¬ (fits 1 ∧ (bundleHeader s).ver.toNat < 2 ∧ fits (1 + wordCount s) ∧ stops ∧ ¬ r90)) : is .bundle 8 :=
    decodeBundle_unframed hw (framed.not.mpr hn)
  refine ⟨fun hf => unframed fun ⟨h1, _⟩ => hf h1, fun _ hv => unframed fun ⟨_, h2, _⟩ => Nat.not_le.mpr h2 hv,
    fun _ _ hs => unframed fun ⟨_, _, h3, h4, _⟩ => hs.elim (· h3) (· h4), fun hf hv hs => ?_, fun pos v => ?_⟩
  · have hf1 : fits 1 := inSpan_mono hf (by omega)
    refine ⟨fun hb => unframed fun ⟨_, _, _, _, h5⟩ => h5 hb, fun hb hr => ?_, fun hb hr => ?_⟩
    · exact decodeBundle_reserved hw (framed.mpr ⟨hf1, hv, hf, hs, hb⟩) hr
    · have hF := framed.mpr ⟨hf1, hv, hf, hs, hb⟩
      refine ⟨fun i k hi hj hk => ?_, fun ha => ?_⟩
      · refine decodeBundle_firstBad hw hF hr (mem_executing.mpr hi) (fun j hm hlt => ?_) (by rwa [hheld i hi])
        rw [hheld j (mem_executing.mp hm)]
        exact hj j hlt (mem_executing.mp hm)
      · obtain ⟨l, hl, hs⟩ := decodeBundle_allGood hw hF hr fun i hi => by
          rw [hheld i (mem_executing.mp hi)]
          exact ha i (mem_executing.mp hi)
        refine ⟨_, hl, rfl, rfl, fun e he => ?_⟩
        obtain ⟨hm, hword, hc⟩ := hs e he
        exact ⟨mem_executing.mp hm, hword.trans (hheld _ (mem_executing.mp hm)), hc⟩
  · refine ⟨checkSlot_badPosition, fun hp => ⟨fun e => checkSlot_undecoded hw hp, fun i hd => ⟨fun g => checkSlot_absent hw hp hd,
      fun hg => ?_⟩⟩⟩
    rw [checkSlot_present hw hp hd hg]
    refine ⟨fun h1 h2 h3 => if_pos (by simp [supOpc, h1, h2, h3]), fun h1 => if_neg ?_⟩
    simp only [supOpc, Bool.and_eq_true, decide_eq_true_eq, Bool.not_eq_true']
    rintro ⟨⟨h2, h3⟩, h4⟩
    obtain h1 | h1 | h1 := h1
    · omega
    · omega
    · simp [h1] at h4

end Sys2Proof.Scope
end

section
/-! System instructions (R104, R134, R148, R152, R154, R155, R158, R159). -/

namespace Sys2Proof.Scope

open Sys2Proof.Machine Sys2Proof.Safety Sys2Proof.Laws

theorem bits_zero (v : Word) (n : Nat) : bits v 0 n = v.toNat % 2 ^ n := by
  simp [bits, natBits]

/-! ## SREAD and SWRITE: the checks in their order (R148) -/

section
variable {s : State} {d a : SReg} {num : BitVec 12}

theorem exec_sread_open (h : SysReg.open s.c.y.sup num.toNat = true) :
    exec (.sread d num) s = .next (s.hold 2 (.scal d.toNat (s.sysRead s.who num.toNat) false) none).ticked := by
  change Host.Outcome.next (if !SysReg.open s.c.y.sup num.toNat then _ else _) = _
  rw [h]
  rfl

theorem exec_sread_closed (h : SysReg.open s.c.y.sup num.toNat = false) : exec (.sread d num) s = .next (s.raise .priv 0#64) := by
  change Host.Outcome.next (if !SysReg.open s.c.y.sup num.toNat then _ else _) = _
  rw [h]
  rfl

theorem exec_swrite_closed (h : SysReg.open s.c.y.sup num.toNat = false) : exec (.swrite num a) s = .next (s.raise .priv 0#64) := by
  change execSwrite num a s = _
  simp [execSwrite, h]

theorem exec_swrite_poisoned (h : SysReg.open s.c.y.sup num.toNat = true) (hp : s.ps a = true) :
    exec (.swrite num a) s = .next (s.raise .poison 0#64) := by
  change execSwrite num a s = _
  simp [execSwrite, h, hp]

theorem exec_swrite_bad (h : SysReg.open s.c.y.sup num.toNat = true) (hp : s.ps a = false)
    (hb : s.swriteBad s.who num.toNat (s.rs a) = true) : exec (.swrite num a) s = .next (s.raise .illegal 0#64) := by
  change execSwrite num a s = _
  simp [execSwrite, h, hp, hb]

/-- A write that passes its checks lands, FCR's by every field; EPC is ignored outside handler mode (R152, R153). -/
theorem exec_swrite_good (h : SysReg.open s.c.y.sup num.toNat = true) (hp : s.ps a = false)
    (hb : s.swriteBad s.who num.toNat (s.rs a) = false) : exec (.swrite num a) s = .next (
      if num = 0x002#12 then s.hold 4 (.fcr 0xFF0F#64 (s.rs a)) none
      else if num = 0x019#12 ∧ s.c.e.hm = false then s
      else s.hold 1 (.sys num.toNat (s.rs a)) none) := by
  have hfcr : num.toNat = 2 ↔ num = 0x002#12 := (BitVec.toNat_inj (y := 0x002#12))
  have hepc : num.toNat = 0x19 ↔ num = 0x019#12 := (BitVec.toNat_inj (y := 0x019#12))
  change execSwrite num a s = _
  simp only [execSwrite, h, hp, hb, hfcr, hepc]
  rfl

end

/-! ## Operations of supervisors (R104, R158, R159) -/

section
variable {s : State} {g : Guard} {d a b : SReg}

/-- An instruction of supervisors is a tenant's PRIV, before its sources are looked at. -/
theorem consuming_tenant (h : Ready s g [a, b]) (ht : s.c.y.sup = false) (f : State) :
    s.consuming g [a, b] s.supOnly f = .next (s.raise .priv 0#64) := by
  rw [show s.supOnly = some .priv by simp [State.supOnly, ht]]
  exact consuming_absent (executes_of_ready h) _ _ _

theorem consuming_supervisor (h : Ready s g [a, b]) (ht : s.c.y.sup = true) (f : State) :
    s.consuming g [a, b] s.supOnly f = .next f := by
  rw [show s.supOnly = none by simp [State.supOnly, ht]]
  exact consuming_ready h _

theorem preemptInstr_supervisor (h : Ready s g [a, b]) (ht : s.c.y.sup = true) (mode : Nat) : s.preemptInstr g d a b mode
    = .next ((s.issueOp (.preempt mode ((s.rs a).toNat % 2048) ((s.rs b).toNat % 2 ^ 20) ((s.rs a).getLsbD 11)) (some (.s d.toNat))
        false false none).block .op) := by
  rw [State.preemptInstr, consuming_supervisor h ht, bits_zero, bits_zero]
  rfl

theorem exec_ctxSave (h : Ready s g [a, b]) (ht : s.c.y.sup = true) : exec (.ctxSave g d a b) s = .next (
    if (s.rs b).toNat % 256 ≠ 0 then s.raise .illegal 0#64
    else (s.issueOp (.ctxSave ((s.rs a).toNat % 2048) (s.rs b)) (some (.s d.toNat)) false false none).block .op) := by
  refine (consuming_supervisor h ht _).trans ?_
  simp only [bits_zero, bne_iff_ne]
  rfl

theorem exec_ctxLoad (h : Ready s g [a, b]) (ht : s.c.y.sup = true) : exec (.ctxLoad g d a b) s = .next (
    if (s.rs b).toNat % 256 ≠ 0 then s.raise .illegal 0#64
    else (s.issueOp (.ctxLoad ((s.rs a).toNat % 2048) (s.rs b)) (some (.s d.toNat)) false false none).block .op) := by
  refine (consuming_supervisor h ht _).trans ?_
  simp only [bits_zero, bne_iff_ne]
  rfl

end

/-- Settles O9: SREAD and SWRITE by their checks, the operations by who issues them. -/
theorem systemInstructions : Obligations.SystemInstructions := by
  unfold Obligations.SystemInstructions
  refine ⟨fun s d a num => ⟨exec_sread_open, fun h => ⟨exec_sread_closed h, exec_swrite_closed h⟩, exec_swrite_poisoned,
    fun h hp => ⟨exec_swrite_bad h hp, fun hb => ?_⟩⟩, fun s g d a b sel => ⟨fun h => consuming_ready h _, fun h => consuming_ready h _,
    fun h ht => ?_, fun h ht => ?_⟩⟩
  · rw [exec_swrite_good h hp hb]
    refine ⟨fun hn => by rw [if_pos hn], fun hn hm => ?_, fun hn hm => by rw [if_neg hn, if_neg hm]⟩
    rw [if_neg (by simp [hn]), if_pos ⟨hn, hm⟩]
  · refine ⟨preemptInstr_supervisor h ht 0, preemptInstr_supervisor h ht 1, preemptInstr_supervisor h ht 2, fun hb => ?_, fun hb => ?_⟩
    · rw [exec_ctxSave h ht, exec_ctxLoad h ht, if_neg (by simpa using hb), if_neg (by simpa using hb)]
      exact ⟨rfl, rfl⟩
    · rw [exec_ctxSave h ht, exec_ctxLoad h ht, if_pos hb, if_pos hb]
      exact ⟨rfl, rfl⟩
  · have priv (f : State) := consuming_tenant h ht f
    exact ⟨priv _, priv _, priv _, priv _, priv _⟩

end Sys2Proof.Scope
end

section
/-! Griddle instructions and the commands they queue (R103, R307 to R314, R325 to R335). -/

namespace Sys2Proof.Scope

open Sys2Proof.Machine Sys2Proof.Safety Sys2Proof.Laws

/-! ## Words (R325) -/

theorem geoWord_spec {w : Word} (h1 : bits w 52 12 = 0) (h2 : bits w 26 6 = 0) : geoWord w = some (bits w 0 26, bits w 32 20) := by
  simp [geoWord, h1, h2]

theorem bitAt_small {w : Word} {n i : Nat} (h : w.toNat < 2 ^ n) (hi : n ≤ i) : bitAt w i = false :=
  Nat.testBit_lt_two_pow (h.trans_le (Nat.pow_le_pow_right (by omega) hi))

/-- A word below 2^n has zeros in every field from bit n up. -/
theorem bits_small {w : Word} {n i l : Nat} (h : w.toNat < 2 ^ n) (hi : n ≤ i) : bits w i l = 0 := by
  have h0 : w.toNat / 2 ^ i = 0 := Nat.div_eq_of_lt (h.trans_le (Nat.pow_le_pow_right (by omega) hi))
  simp [bits, natBits, h0]

theorem ownOffset_spec {sp : Bool} {k v : Nat} (h : v / 2 ^ 20 = if sp then k % 64 else 0) :
    ownOffset sp k v = some (v % 2 ^ 20) := by
  cases sp
  · have hv : v < 2 ^ 20 := by simpa [Nat.div_eq_zero_iff] using h
    exact (if_pos hv).trans (congrArg some (Nat.mod_eq_of_lt hv).symm)
  · exact if_pos h

theorem elTy_isSome {n : Nat} : (ElTy.of n).isNone = false ↔ n ≤ 6 := by
  constructor
  · intro h
    by_contra hn
    match n, hn with
    | n + 7, _ => simp [ElTy.of] at h
  · intro h
    interval_cases n <;> rfl

theorem tileSteps_eq (n : Nat) : tileSteps n = if n = 2 ∨ n = 3 then 32 else if n = 4 then 24 else if n = 6 then 72 else 40 := by
  unfold tileSteps
  split <;> simp_all

/-! ## What becomes of a command (R307, R309, R314) -/

section
variable {s : State} {k steps : Nat} {i : Instr} {a b d : Word} {tags : List TagRange}

theorem grdAccept_none (hl : (s.griddle k).lease = .none) (hf : s.fenced (522 + octetOf k) = false) :
    s.grdAccept k false steps i a b d tags = s.raise .illegal 0#64 := by
  simp [State.grdAccept, hl, hf]

theorem grdAccept_expired (hl : (s.griddle k).lease = .expired) (hf : s.fenced (522 + octetOf k) = false) :
    s.grdAccept k false steps i a b d tags = (s.stallFor 4).iss fun i => { i with wantsLease := true } := by
  simp [State.grdAccept, hl, hf]

theorem grdAccept_full (hl : (s.griddle k).lease = .held) (hf : s.fenced (522 + octetOf k) = false)
    (hq : s.queueFull (.griddle (octetOf k)) = true) : s.grdAccept k false steps i a b d tags = s.stallFor 4 := by
  simp [State.grdAccept, hl, hf, hq]

theorem grdAccept_target (hf : s.fenced (522 + octetOf k) = false) :
    s.grdAccept k true steps i a b d tags = s.accept (.griddle (octetOf k)) k i a b d 0#64 0 tags := by
  simp [State.grdAccept, hf]

/-- The state after the release of a command with rel or SYNV. -/
def withRelease (s : State) (needs : Bool) (scope : Nat) : State :=
  if needs then s.iss fun i => { i with rels := i.rels ++ [scope] } else s

variable {n : Bool} {c : Nat}

@[simp] theorem withRelease_griddle : (withRelease s n c).griddle = s.griddle := by cases n <;> rfl
@[simp] theorem withRelease_queueFull : (withRelease s n c).queueFull = s.queueFull := by cases n <;> rfl
@[simp] theorem withRelease_fenced : (withRelease s n c).fenced = s.fenced := by cases n <;> rfl

theorem grdRelease_spec {rel : Bool} (h : (rel || bitAt d 59) = true → Unheld s (bits d 48 3)) :
    s.grdRelease rel d = withRelease s (rel || bitAt d 59) (bits d 48 3) := cmdRelease_unheld h

/-- A command with its release that a held lease accepts. -/
theorem withRelease_grdAccept (hl : (s.griddle k).lease = .held) (hq : s.queueFull (.griddle (octetOf k)) = false)
    (hf : s.fenced (522 + octetOf k) = false) :
    (withRelease s n c).grdAccept k false steps i a b d tags
      = ((withRelease s n c).accept (.griddle (octetOf k)) k i a b d 0#64 0 tags).updGriddle k fun g =>
        { g with budCmds := g.budCmds - 1, budSteps := g.budSteps - steps } :=
  grdAccept_spec (by simpa using hl) (by simpa using hq) (by simpa using hf)

end

/-! ## The core on which a command acts (R314) -/

section
variable {s : State} {w : Word}

theorem grdTarget_own (h : bitAt w 47 = false) : s.grdTarget w = .ok (coreOf s.who, false) := by
  simp [State.grdTarget, h]

theorem grdTarget_tenant (h : bitAt w 47 = true) (hs : s.c.y.sup = false) : s.grdTarget w = .error .priv := by
  simp [State.grdTarget, h, hs]

/-- A supervisor's target whose owner does not run. -/
theorem grdTarget_idle (h : bitAt w 47 = true) (hs : s.c.y.sup = true)
    (hi : ∀ j, j < 4 → (s.ctx (4 * (clusterOf (coreOf s.who) * 64 + bits w 40 6) + j)).grdOwner = true →
      (s.ctx (4 * (clusterOf (coreOf s.who) * 64 + bits w 40 6) + j)).st ≠ .running) :
    s.grdTarget w = .ok (clusterOf (coreOf s.who) * 64 + bits w 40 6, true) := by
  unfold State.grdTarget
  simp only [h, hs, Bool.not_true, Bool.false_eq_true, if_false]
  rw [if_neg]
  simpa using hi

end

/-! ## The lease as a bundle commits (R307, R309, R327) -/

theorem leaseCommit_freed {s : State} (h : s.issue.freesLease = true) :
    (s.leaseCommit.griddle (coreOf s.who)).lease = .none ∧ (s.leaseCommit.griddle (coreOf s.who)).requesting = false := by
  simp [State.leaseCommit, State.budgetExpire, State.freeLease, h, griddle_updGriddle]

theorem leaseCommit_kept {s : State} (h : s.issue.freesLease = false) :
    (s.leaseCommit.griddle (coreOf s.who)).lease
      = if (s.griddle (coreOf s.who)).lease = .held ∧ ((s.griddle (coreOf s.who)).budCmds = 0 ∨ (s.griddle (coreOf s.who)).budSteps = 0)
        then .expired else (s.griddle (coreOf s.who)).lease := by
  simp only [State.leaseCommit, State.budgetExpire, h, Bool.false_eq_true, if_false, Bool.and_eq_true, beq_iff_eq, decide_eq_true_eq]
  split
  · simp [griddle_updGriddle]
  · rfl

/-! ## Instructions that take no release (R327 to R329, R331, R333, R335) -/

section
variable {s : State} {g : Guard} {a b d : SReg} (hb : s.needB16 = none)
include hb

theorem exec_grdLease (h : Ready s g []) : exec (.grdLease g) s = .next (((if (s.griddle (coreOf s.who)).lease = .held
    then s.iss fun i => { i with freesLease := true } else s).issueOp .lease none false false none).block .lease) := by
  refine (consuming_present hb h _).trans ?_
  simp

theorem exec_grdFree (h : Ready s g []) : exec (.grdFree g) s = .next (s.iss fun i => { i with freesLease := true }) :=
  consuming_present hb h _

theorem exec_grdWload (h : Ready s g [a]) (hf : fmtB s.c.y.fcr ≤ 6) (hx : (s.rs a).toNat < 2 ^ 21) (h4 : (s.rs a).toNat % 4 = 0) :
    exec (.grdWload g a) s = .next (s.grdAccept (coreOf s.who) false (tileSteps (fmtB s.c.y.fcr)) (.grdWload g a) (s.rs a) 0#64 0#64 []) := by
  refine (consuming_present hb h _).trans ?_
  have hlow : bits (s.rs a) 0 2 = 0 := by simpa [bits, natBits] using h4
  simp [bits_small hx (Nat.le_refl 21), hlow, elTy_isSome.mpr hf]

theorem exec_grdScl (h : Ready s g [a]) (h64 : (s.rs a).toNat % 64 = 0) (hx : (s.rs a).toNat + 128 ≤ 2 ^ 20) :
    exec (.grdScl g a) s = .next (s.grdAccept (coreOf s.who) false 1 (.grdScl g a) (s.rs a) 0#64 0#64
      [⟨false, false, coreOf s.who * 2 ^ 20 + (s.rs a).toNat, 128, 0, 1⟩]) := by
  refine (consuming_present hb h _).trans ?_
  rw [if_neg (by omega)]

theorem exec_grdSclAll (h : Ready s g [b]) :
    exec (.grdSclAll g b) s = .next (s.grdAccept (coreOf s.who) false 1 (.grdSclAll g b) 0#64 (s.rs b) 0#64 []) :=
  consuming_present hb h _

theorem exec_grdZero {k r m : Nat} {t : Bool} (h : Ready s g [d]) (ht : s.grdTarget (s.rs d) = .ok (k, t))
    (hr : rowWord (s.rs d) = some (r, m)) (h48 : bits (s.rs d) 48 16 = 0) (h46 : bitAt (s.rs d) 46 = false)
    (h16 : bits (s.rs d) 16 24 = 0) :
    exec (.grdZero g d) s = .next (s.grdAccept k t m (.grdZero g d) 0#64 0#64 (s.rs d) []) := by
  refine (consuming_present hb h _).trans ?_
  simp [ht, hr, h48, h46, h16]

theorem exec_grdZero_tenant (h : Ready s g [d]) (h47 : bitAt (s.rs d) 47 = true) (hs : s.c.y.sup = false) :
    exec (.grdZero g d) s = .next (s.raise .priv 0#64) := by
  refine (consuming_present hb h _).trans ?_
  simp [grdTarget_tenant h47 hs]

/-- GRD.CHK: its command, then the operation that holds its result. -/
theorem exec_grdChk {r m : Nat} (h : Ready s g [a]) (hr : rowWord (s.rs a) = some (r, m)) (h16 : bits (s.rs a) 16 48 = 0)
    (hc : Clear s) (hl : (s.griddle (coreOf s.who)).lease = .held)
    (hq : s.queueFull (.griddle (octetOf (coreOf s.who))) = false) (hf : s.fenced (522 + octetOf (coreOf s.who)) = false) :
    exec (.grdChk g d a) s = .next ((s.grdAccept (coreOf s.who) false m (.grdChk g d a) (s.rs a) 0#64 0#64 []).issueOp
      (.grdChk s.serial) (some (.s d.toNat)) false false none) := by
  refine (consuming_present hb h _).trans ?_
  have hissue : (s.grdAccept (coreOf s.who) false m (.grdChk g d a) (s.rs a) 0#64 0#64 []).issue = s.issue := by
    rw [grdAccept_spec hl hq hf, State.accept, hq]; rfl
  have hserial : (s.grdAccept (coreOf s.who) false m (.grdChk g d a) (s.rs a) 0#64 0#64 []).serial - 1 = s.serial := by
    rw [grdAccept_spec hl hq hf, State.accept, hq]; rfl
  simp [hr, h16, hissue, hserial, hc.1, hc.2]

theorem exec_grdStat_own {clr : Bool} (h : Ready s g [a]) (h48 : bits (s.rs a) 48 16 = 0) (h46 : bitAt (s.rs a) 46 = false)
    (h0 : bits (s.rs a) 0 40 = 0) (h47 : bitAt (s.rs a) 47 = false) :
    exec (.grdStat g clr d a) s = .next (s.issueOp (.grdStat (coreOf s.who) clr false) (some (.s d.toNat)) false false none) := by
  refine (consuming_present hb h _).trans ?_
  simp [h48, h46, h0, h47]

theorem exec_grdStat_target {k : Nat} {clr : Bool} (h : Ready s g [a]) (h48 : bits (s.rs a) 48 16 = 0)
    (h46 : bitAt (s.rs a) 46 = false) (h0 : bits (s.rs a) 0 40 = 0) (h47 : bitAt (s.rs a) 47 = true) (hs : s.c.y.sup = true)
    (ht : s.grdTarget (s.rs a) = .ok (k, true)) :
    exec (.grdStat g clr d a) s = .next (s.issueOp (.grdStat k clr true) (some (.s d.toNat)) false false none) := by
  refine (consuming_present hb h _).trans ?_
  simp [h48, h46, h0, h47, hs, ht]

theorem exec_grdStat_tenant {clr : Bool} (h : Ready s g [a]) (h47 : bitAt (s.rs a) 47 = true) (hs : s.c.y.sup = false) :
    exec (.grdStat g clr d a) s = .next (s.raise .priv 0#64) := by
  refine (consuming_present hb h _).trans ?_
  simp [h47, hs]

end

/-! ## Products, drains and transfers (R330, R332, R334) -/

/-- The low bits of a field. -/
theorem bits_mod (w : Word) (i : Nat) {m n : Nat} (h : m ≤ n) : bits w i n % 2 ^ m = bits w i m :=
  Nat.mod_mod_of_dvd _ (Nat.pow_dvd_pow 2 h)

theorem bits_offset (w : Word) : bits w 0 26 % 2 ^ 20 = bits w 0 20 := bits_mod w 0 (by decide)

theorem bits_slice (w : Word) : bits w 0 26 / 2 ^ 20 = bits w 20 6 := by
  simp only [bits, natBits]
  omega

theorem drainWidth_eq {n : Nat} (h : n ∈ [2, 8, 9, 10, 11, 12]) :
    drainWidth n = (if n = 2 ∨ n = 8 then 4 else if n = 9 ∨ n = 10 then 2 else 1) ∧ drainWidth n ≠ 0 := by
  simp only [List.mem_cons, List.not_mem_nil, or_false] at h
  rcases h with rfl | rfl | rfl | rfl | rfl | rfl <;> decide

theorem saveBytes_eq (n m : Nat) : saveBytes n m = if n = 0 then 1024 * m else if n = 1 then 512 * m else if n = 2 then 2048 else 2 ^ 21 := by
  match n with
  | 0 | 1 | 2 => rfl
  | n + 3 => rfl

theorem saveSteps_eq (n m : Nat) : saveSteps n m = if n = 0 then 4 * m else if n = 1 then 2 * m else if n = 2 then 8 else 8192 := by
  match n with
  | 0 | 1 | 2 => rfl
  | n + 3 => rfl

theorem saveBytes_whole {n : Nat} (h : 2 ≤ n) (m m' : Nat) : saveBytes n m = saveBytes n m' := by
  match n, h with
  | 2, _ => rfl
  | n + 3, _ => rfl

theorem saveSteps_whole {n : Nat} (h : 2 ≤ n) (m m' : Nat) : saveSteps n m = saveSteps n m' := by
  match n, h with
  | 2, _ => rfl
  | n + 3, _ => rfl

/-- The words of a transfer that keep every limit of GRD.SAVE and GRD.REST on a core (R334). -/
structure TransferWords (w : Word) (va k m size : Nat) : Prop where
  spc : bits w 62 2 ≤ 2
  reserved : bitAt w 46 = false
  clear : bits w 16 24 = 0
  whole : 2 ≤ bits w 60 2 → bits w 0 16 = 0
  rows : bits w 60 2 ≤ 1 → ∃ r, rowWord w = some (r, m)
  line : va % 64 = 0
  far : bits w 62 2 = 0 → va < 2 ^ 60
  near : bits w 62 2 ≠ 0 → va % 2 ^ 20 + size ≤ 2 ^ 20 ∧ va / 2 ^ 20 = if bits w 62 2 = 2 then k % 64 else 0

section
variable {s : State} {g : Guard} {acq rel : Bool} {a b d : SReg} (hb : s.needB16 = none)
include hb

section
variable {r m : Nat} {ty : ElTy} (h : Ready s g [a, b, d]) (hr : rowWord (s.rs d) = some (r, m)) (hta : ElTy.of (fmtA s.c.y.fcr) = some ty)
  (hfb : fmtB s.c.y.fcr ≤ 6) (h6 : fmtA s.c.y.fcr = 6 ↔ fmtB s.c.y.fcr = 6) (h32 : bits (s.rs d) 32 6 = 0)
  (hy52 : bits (s.rs b) 52 12 = 0) (hy26 : bits (s.rs b) 26 6 = 0)
  (hys : bits (s.rs b) 0 26 + (m - 1) * bits (s.rs b) 32 20 + (bits (s.rs d) 16 16 + 1) ≤ 2 ^ 20)
include h hr hta hfb h6 h32 hy52 hy26 hys

/-- GRD.MUL with its rows in AB. -/
theorem exec_grdMul_ab (hch : bitAt (s.rs d) 63 = false) (hx52 : bits (s.rs a) 52 12 = 0) (hx26 : bits (s.rs a) 26 6 = 0)
    (hx0 : bits (s.rs a) 0 3 = 0) (hx32 : bits (s.rs a) 32 3 = 0)
    (hxs : bits (s.rs a) 0 26 + (m - 1) * bits (s.rs a) 32 20 + (bits (s.rs d) 16 16 + 1) * ty.runBytes ≤ 2 ^ 20) :
    exec (.grdMul g acq rel a b d) s = .next ((s.grdRelease rel (s.rs d)).grdAccept (coreOf s.who) false
      (mulSteps ((s.freshAhead (coreOf s.who)).1 && (s.freshAhead (coreOf s.who)).2 == fmtB s.c.y.fcr)
        (fmtA s.c.y.fcr) (fmtB s.c.y.fcr) m (bits (s.rs d) 16 16 + 1)) (.grdMul g acq rel a b d) (s.rs a) (s.rs b) (s.rs d)
      [⟨false, false, coreOf s.who * 2 ^ 20 + bits (s.rs b) 0 26, bits (s.rs d) 16 16 + 1, bits (s.rs b) 32 20, m⟩,
        ⟨false, false, coreOf s.who * 2 ^ 20 + bits (s.rs a) 0 26, (bits (s.rs d) 16 16 + 1) * ty.runBytes, bits (s.rs a) 32 20, m⟩]) := by
  refine (consuming_present hb h _).trans ?_
  obtain ⟨tb, htb⟩ := Option.isSome_iff_exists.mp (by simpa using elTy_isSome.mpr hfb)
  have hx0' : bits (s.rs a) 0 26 % 8 = 0 := (bits_mod _ 0 (m := 3) (by decide)).trans hx0
  have hx32' : bits (s.rs a) 32 20 % 8 = 0 := (bits_mod _ 32 (m := 3) (by decide)).trans hx32
  simp only [hr, geoWord_spec hx52 hx26, geoWord_spec hy52 hy26, hta, htb, hch]
  rw [if_neg (by simpa [h6, h32, hx0', hx32'] using ⟨hys, hxs⟩)]
  rfl

/-- GRD.MUL with its rows from a channel. -/
theorem exec_grdMul_channel (hch : bitAt (s.rs d) 63 = true) (hx : s.rs a = 0#64) (hen : (s.c.chan (bits (s.rs d) 60 3)).en = true)
    (hcfg : bitAt (s.c.chan (bits (s.rs d) 60 3)).cfg 58 = true) :
    exec (.grdMul g acq rel a b d) s = .next ((s.grdRelease rel (s.rs d)).grdAccept (coreOf s.who) false
      (mulSteps ((s.freshAhead (coreOf s.who)).1 && (s.freshAhead (coreOf s.who)).2 == fmtB s.c.y.fcr)
        (fmtA s.c.y.fcr) (fmtB s.c.y.fcr) m (bits (s.rs d) 16 16 + 1)) (.grdMul g acq rel a b d) (s.rs a) (s.rs b) (s.rs d)
      [⟨false, false, coreOf s.who * 2 ^ 20 + bits (s.rs b) 0 26, bits (s.rs d) 16 16 + 1, bits (s.rs b) 32 20, m⟩]) := by
  refine (consuming_present hb h _).trans ?_
  obtain ⟨tb, htb⟩ := Option.isSome_iff_exists.mp (by simpa using elTy_isSome.mpr hfb)
  have hgeo : geoWord (s.rs a) = some (0, 0) := by rw [hx]; rfl
  simp only [hr, hgeo, geoWord_spec hy52 hy26, hta, htb, hch]
  rw [if_neg (by simpa [h6, h32, hx, hen, hcfg] using hys)]
  rfl

end

theorem exec_grdDrain {r m : Nat} (h : Ready s g [a, d]) (hr : rowWord (s.rs d) = some (r, m))
    (hspc : bits (s.rs d) 62 2 = 1 ∨ bits (s.rs d) 62 2 = 2) (hdty : bits (s.rs d) 34 4 ∈ [2, 8, 9, 10, 11, 12])
    (h60 : bitAt (s.rs d) 60 = false) (h16 : bits (s.rs d) 16 14 = 0)
    (h31 : bitAt (s.rs d) 31 = true → bits (s.rs d) 32 2 = 0 ∧ bitAt (s.rs d) 30 = false)
    (h30 : bitAt (s.rs d) 30 = true → bits (s.rs d) 34 4 = 11 ∨ bits (s.rs d) 34 4 = 12) (hx52 : bits (s.rs a) 52 12 = 0)
    (hx26 : bits (s.rs a) 26 6 = 0) (hx20 : bits (s.rs a) 20 6 = if bits (s.rs d) 62 2 = 2 then coreOf s.who % 64 else 0)
    (hx0 : bits (s.rs a) 0 6 = 0) (hx32 : bits (s.rs a) 32 6 = 0)
    (hxs : bits (s.rs a) 0 20 + (m - 1) * bits (s.rs a) 32 20 + 128 * drainWidth (bits (s.rs d) 34 4) ≤ 2 ^ 20) :
    exec (.grdDrain g acq rel a d) s = .next ((s.grdRelease rel (s.rs d)).grdAccept (coreOf s.who) false
      (ceilDiv (m * drainWidth (bits (s.rs d) 34 4)) 2) (.grdDrain g acq rel a d) (s.rs a) 0#64 (s.rs d)
      [⟨true, bits (s.rs d) 62 2 == 2, coreOf s.who * 2 ^ 20 + bits (s.rs a) 0 20, 128 * drainWidth (bits (s.rs d) 34 4),
        bits (s.rs a) 32 20, m⟩]) := by
  refine (consuming_present hb h _).trans ?_
  have hoff : ownOffset (bits (s.rs d) 62 2 == 2) (coreOf s.who) (bits (s.rs a) 0 26) = some (bits (s.rs a) 0 20) := by
    rw [ownOffset_spec (by rw [bits_slice, hx20]; simp), bits_offset]
  have hx0' : bits (s.rs a) 0 26 % 64 = 0 := (bits_mod _ 0 (m := 6) (by decide)).trans hx0
  have hx32' : bits (s.rs a) 32 20 % 64 = 0 := (bits_mod _ 32 (m := 6) (by decide)).trans hx32
  have hspc' : ¬ (bits (s.rs d) 62 2 = 0 ∨ bits (s.rs d) 62 2 = 3) := by omega
  have hwidth := (drainWidth_eq hdty).2
  simp only [hr, geoWord_spec hx52 hx26, hoff]
  rw [if_neg]
  simp only [hspc', h60, h16, hwidth, hx0', hx32', Bool.or_eq_true, Bool.and_eq_true, decide_eq_true_eq, bne_iff_ne, not_or]
  refine ⟨⟨⟨⟨⟨⟨⟨⟨by simp, by simp⟩, by simp⟩, by simp⟩, ?_⟩, ?_⟩, by simp⟩, by simp⟩, by omega⟩
  · rintro ⟨hr31, h⟩
    simp [h31 hr31] at h
  · rintro ⟨hr30, h⟩
    have := h30 hr30
    omega

/-- The shared path of GRD.SAVE and GRD.REST. -/
theorem saveInstr_spec {i : Instr} {save target : Bool} {k m size steps : Nat} (h : Ready s g [a, d])
    (hsize : saveBytes (bits (s.rs d) 60 2) m = size) (hsteps : saveSteps (bits (s.rs d) 60 2) m = steps)
    (ht : s.grdTarget (s.rs d) = .ok (k, target)) (hw : TransferWords (s.rs d) (s.rs a).toNat k m size) :
    s.saveInstr g i rel save a d = .next ((s.grdRelease rel (s.rs d)).grdAccept k target steps i
      (s.rs a) 0#64 (s.rs d) (if bits (s.rs d) 62 2 = 0 then [] else [⟨save, bits (s.rs d) 62 2 == 2,
        k * 2 ^ 20 + (s.rs a).toNat % 2 ^ 20, size, 0, 1⟩])) := by
  subst hsize hsteps
  refine (consuming_present hb h _).trans ?_
  obtain ⟨r, m', hrow, hbytes, hsteps⟩ : ∃ r m', (if bits (s.rs d) 60 2 ≤ 1 then rowWord (s.rs d) else some (0, 1)) = some (r, m') ∧
      saveBytes (bits (s.rs d) 60 2) m' = saveBytes (bits (s.rs d) 60 2) m ∧
      saveSteps (bits (s.rs d) 60 2) m' = saveSteps (bits (s.rs d) 60 2) m := by
    by_cases hm : bits (s.rs d) 60 2 ≤ 1
    · obtain ⟨r, hr⟩ := hw.rows hm
      exact ⟨r, m, by rw [if_pos hm, hr], rfl, rfl⟩
    · exact ⟨0, 1, if_neg hm, saveBytes_whole (by omega) .., saveSteps_whole (by omega) ..⟩
  have hspc : ¬ bits (s.rs d) 62 2 = 3 := by have := hw.spc; omega
  simp only [ht, hrow, hbytes, hsteps]
  by_cases h0 : bits (s.rs d) 62 2 = 0
  · rw [if_neg]
    · simp [h0]
    · simpa [h0, hw.reserved, hw.clear, hw.line] using ⟨hw.whole, hw.far h0⟩
  · obtain ⟨hin, hslice⟩ := hw.near h0
    have hoff : ownOffset (bits (s.rs d) 62 2 == 2) k (s.rs a).toNat = some ((s.rs a).toNat % 2 ^ 20) :=
      ownOffset_spec (by simpa using hslice)
    have htop : (s.rs a).toNat < 2 ^ 26 := by
      have : (s.rs a).toNat / 2 ^ 20 < 64 := by rw [hslice]; split <;> omega
      omega
    rw [if_neg]
    · simp [h0, hoff]
    · simpa [h0, hspc, hoff, hw.reserved, hw.clear, hw.line] using ⟨hw.whole, htop, hin⟩

end

/-! ## The obligation -/

/-- Every Griddle instruction of an issuer that lacks the B16 feature while it is needed raises FEATURE (R103, R326). -/
theorem griddle_absent {s : State} {e : TrapKind} (he : s.needB16 = some e) {g : Guard} (h : Executes s g) (clr acq rel : Bool)
    (a b d : SReg) :
    (∀ i ∈ [Instr.grdLease g, .grdFree g, .grdWload g a, .grdScl g a, .grdSclAll g b, .grdZero g d, .grdChk g d a, .grdStat g clr d a],
      exec i s = .next (s.raise e 0#64)) ∧
    (∀ i ∈ [Instr.grdMul g acq rel a b d, .grdDrain g acq rel a d, .grdSave g acq rel a d, .grdRest g acq rel a d],
      exec i s = .next (s.raise e 0#64)) := by
  have absent (l : List SReg) (f : State) : s.consuming g l s.needB16 f = .next (s.raise e 0#64) := by
    rw [he]
    exact consuming_absent h l e f
  constructor
  all_goals
    intro i hi
    simp only [List.mem_cons, List.not_mem_nil, or_false] at hi
  · rcases hi with rfl | rfl | rfl | rfl | rfl | rfl | rfl | rfl <;> exact absent _ _
  · rcases hi with rfl | rfl | rfl | rfl <;> exact absent _ _

/-- What GRD.WLOAD, GRD.SCL and GRD.SCL.ALL do without a lease, with an expired one, and before a full queue (R307, R309). -/
theorem griddle_unaccepted {s : State} {g : Guard} {a : SReg} (hb : s.needB16 = none) (h : Ready s g [a]) (hfb : fmtB s.c.y.fcr ≤ 6)
    (h64 : (s.rs a).toNat % 64 = 0) (hx : (s.rs a).toNat + 128 ≤ 2 ^ 20) (hf : s.fenced (522 + octetOf (coreOf s.who)) = false)
    {i : Instr} (hi : i ∈ [Instr.grdWload g a, .grdScl g a, .grdSclAll g a]) :
    ((s.griddle (coreOf s.who)).lease = .none → exec i s = .next (s.raise .illegal 0#64)) ∧
    ((s.griddle (coreOf s.who)).lease = .expired → exec i s = .next ((s.stallFor 4).iss fun i => { i with wantsLease := true })) ∧
    ((s.griddle (coreOf s.who)).lease = .held → s.queueFull (.griddle (octetOf (coreOf s.who))) = true →
      exec i s = .next (s.stallFor 4)) := by
  obtain ⟨steps, p, q, tags, hexec⟩ : ∃ steps p q tags,
      exec i s = .next (s.grdAccept (coreOf s.who) false steps i p q 0#64 tags) := by
    simp only [List.mem_cons, List.not_mem_nil, or_false] at hi
    rcases hi with rfl | rfl | rfl
    · exact ⟨_, _, _, _, exec_grdWload hb h hfb (by omega) (by omega)⟩
    · exact ⟨_, _, _, _, exec_grdScl hb h h64 hx⟩
    · exact ⟨_, _, _, _, exec_grdSclAll hb h⟩
  rw [hexec]
  exact ⟨fun hl => by rw [grdAccept_none hl hf], fun hl => by rw [grdAccept_expired hl hf], fun hl hq => by rw [grdAccept_full hl hf hq]⟩

/-- Settles O27: one lemma for each instruction says with which words it asks for acceptance; a held lease then takes the command,
and the target of a supervisor takes it without a lease. -/
theorem griddleCommandsAreQueued : Obligations.GriddleCommandsAreQueued := by
  unfold Obligations.GriddleCommandsAreQueued
  constructor
  · intro s g clr a b d k gr x y w fb unit open_ taken other idle frees given all
    refine ⟨rfl, fun e he h => (griddle_absent he h clr false false a b d).1, leaseCommit_freed, leaseCommit_kept, fun hb =>
      ⟨fun h => ⟨exec_grdLease hb h, exec_grdFree hb h⟩, fun h ho => ?_, fun h ho => ?_, fun h ho r m hr hw => ?_, fun h h48 h46 h0 => ?_,
        fun h r m hr h48 h46 h16 h47 hs hi hf => ?_, fun h h47 hs => ⟨exec_grdStat_tenant hb h h47 hs, exec_grdZero_tenant hb h h47 hs⟩,
        fun i hi h hfb h64 hx hf => griddle_unaccepted hb h hfb h64 hx hf hi⟩⟩
    · obtain ⟨hl, hq, hf⟩ := ho
      refine ⟨fun hfb hx h4 => ?_, fun h64 hx => ?_, fun r m hr h16 hc => ⟨_, rfl, ?_⟩⟩
      · rw [exec_grdWload hb h hfb hx h4, grdAccept_spec hl hq hf, tileSteps_eq]; rfl
      · rw [exec_grdScl hb h h64 hx, grdAccept_spec hl hq hf]
      · rw [exec_grdChk hb h hr h16 hc hl hq hf, grdAccept_spec hl hq hf]
    · obtain ⟨hl, hq, hf⟩ := ho
      rw [exec_grdSclAll hb h, grdAccept_spec hl hq hf]
    · obtain ⟨hl, hq, hf⟩ := ho
      rw [exec_grdZero hb h (grdTarget_own (bitAt_small hw (by decide))) hr (bits_small hw (by decide)) (bitAt_small hw (by decide))
        (bits_small hw (by decide)), grdAccept_spec hl hq hf]
    · exact ⟨fun h47 => exec_grdStat_own hb h h48 h46 h0 h47, fun h47 hs hi =>
        exec_grdStat_target hb h h48 h46 h0 h47 hs (grdTarget_idle h47 hs hi)⟩
    · rw [exec_grdZero hb h (grdTarget_idle h47 hs hi) hr h48 h46 h16, grdAccept_target hf]
  · intro s g acq rel a b d m r k x y w fa fb unit base taken kb h mode spc dty size far steps row line scales array
    have hsize : saveBytes mode m = size := saveBytes_eq ..
    have hsteps : saveSteps mode m = steps := saveSteps_eq ..
    refine ⟨fun e he hx => (griddle_absent he hx false acq rel a b d).2, fun hb hrel hrdy hspc h47 hs hi hf h46 h16 hwhole hrows hline
      hfar hnear => ?_, fun hb hl hq hf hrel h0 h8 hrm h15 h7 => ?_⟩
    · have hwords : TransferWords w x.toNat far m size := ⟨hspc, h46, h16, hwhole, fun hm => by
        obtain ⟨h0, h8, hrm, h15, h7⟩ := hrows hm
        exact ⟨r, rowWord_spec h0 h8 hrm h15 h7⟩, hline, hfar, hnear⟩
      have hbase := grdRelease_spec hrel
      have taken_far (i : Instr) (st tags) : (s.grdRelease rel w).grdAccept far true st i x 0#64 w tags
          = base.accept (.griddle (octetOf far)) far i x 0#64 w 0#64 0 tags := by
        rw [hbase]
        exact grdAccept_target (by simpa using hf)
      constructor
      · exact (saveInstr_spec hb hrdy hsize hsteps (grdTarget_idle h47 hs hi) hwords).trans (congrArg _ (taken_far ..))
      · exact (saveInstr_spec hb hrdy hsize hsteps (grdTarget_idle h47 hs hi) hwords).trans (congrArg _ (taken_far ..))
    · have hrow : rowWord w = some (r, m) := rowWord_spec h0 h8 hrm h15 h7
      have takes (i : Instr) (p q : Word) (st : Nat) (tags : List TagRange) :
          .next ((s.grdRelease rel w).grdAccept k false st i p q w tags) = taken i p q st tags := by
        rw [grdRelease_spec hrel, withRelease_grdAccept hl hq hf]
        rfl
      refine ⟨fun ty hrdy hta hfb h6 h32 hy52 hy26 hys => ⟨fun hch hx52 hx26 hx0 hx32 hxs => ?_, fun hch hx hen hcfg => ?_⟩,
        fun hrdy hspc hdty h60 h16 h31 h30 hx52 hx26 hx20 hx0 hx32 hxs => ?_,
        fun hrdy hspc h47 h46 h16 hwhole hline hfar hnear => ?_⟩
      · exact (exec_grdMul_ab hb hrdy hrow hta hfb h6 h32 hy52 hy26 hys hch hx52 hx26 hx0 hx32 hxs).trans (takes ..)
      · exact (exec_grdMul_channel hb hrdy hrow hta hfb h6 h32 hy52 hy26 hys hch hx hen hcfg).trans (takes ..)
      · have hwidth := (drainWidth_eq hdty).1
        have hwide : row = 128 * drainWidth dty := by rw [hwidth]
        have hexec := exec_grdDrain (acq := acq) (rel := rel) hb hrdy hrow hspc hdty h60 h16 h31 h30 hx52 hx26 hx20 hx0 hx32 (hwide ▸ hxs)
        refine (hexec.trans (takes ..)).trans ?_
        rw [hwide, Nat.mul_div_cancel_left _ (by decide)]
      · have hwords : TransferWords w x.toNat k m size := ⟨hspc, h46, h16, hwhole, fun _ => ⟨r, hrow⟩, hline, hfar, hnear⟩
        exact ⟨(saveInstr_spec hb hrdy hsize hsteps (grdTarget_own h47) hwords).trans (takes ..),
          (saveInstr_spec hb hrdy hsize hsteps (grdTarget_own h47) hwords).trans (takes ..)⟩

end Sys2Proof.Scope
end

section
/-! A step of the machine runs the instructions of its bundle (R79, R80, R87, R102, R116). -/

namespace Sys2Proof.Scope

open Sys2Proof.Machine Sys2Proof.Safety Sys2Proof.Laws

/-! ## A bundle of one slot word (R85 to R88) -/

section
variable {m : Byte} {p : Nat} (hp : p < 8) (hm : ∀ n, n < 8 → maskHas m n = decide (n = p))
include hp hm

theorem filter_lone : (List.range 8).filter (maskHas m) = [p] := by
  rw [List.filter_congr (q := fun n => decide (n = p)) fun n hn => hm n (List.mem_range.mp hn)]
  interval_cases p <;> rfl

theorem maskCount_lone : maskCount m = 1 := by
  rw [maskCount_eq, filter_lone hp hm]
  rfl

/-- No slot word comes before the only one. -/
theorem filter_below_lone : (List.range p).filter (maskHas m) = [] := by
  refine List.filter_eq_nil_iff.mpr fun n hn => ?_
  have hn := List.mem_range.mp hn
  rw [hm n (by omega)]
  simpa using Nat.ne_of_lt hn

end

theorem maskHas_zero (n : Nat) : maskHas 0#8 n = false := by simp [maskHas]

/-- A slot that passes its checks holds the instruction that its word decodes to. -/
theorem decodeSlot_of_checkSlot {s : State} {pos : Nat} {v : Word32} {i : Instr} (h : s.checkSlot pos v = .ok i) : decodeSlot v = .ok i := by
  cases hd : decodeSlot v with
  | error e =>
    simp only [State.checkSlot, hd] at h
    split_ifs at h
  | ok j =>
    simp only [State.checkSlot, hd] at h
    split_ifs at h
    all_goals exact congrArg _ (Except.ok.inj h)

section
variable {s : State} {p : Nat} {i : Instr} (hw : s.who < 2048) (hspan : s.c.y.inSpan s.offset 2 = true)
  (hver : (bundleHeader s).ver.toNat < 2) (hm : ∀ n, n < 8 → maskHas (bundleHeader s).pmask n = decide (n = p)) (hp : p < 8)
  (hd : (bundleHeader s).dmask = 0#8)

theorem bundlePosition_lone (hm : ∀ n, n < 8 → maskHas (bundleHeader s).pmask n = decide (n = p)) (hp : p < 8) :
    bundlePosition s p = ⟨bundleWord s 1, true, 0#64⟩ := by
  have hone : wordCount s = 1 := maskCount_lone hp hm
  have hhas : maskHas (bundleHeader s).pmask p = true := by simp [hm p hp]
  rw [bundlePosition, headerPosition, if_pos hhas, filter_below_lone hp hm, hone]
  rfl

include hspan hver hm hp hd in
theorem framed_lone (hstop : stopOf (bundleWord s 1) = true) : Framed s := by
  have hone : wordCount s = 1 := maskCount_lone hp hm
  refine ⟨inSpan_mono hspan (by decide), hver, by rwa [hone], ?_, ?_⟩
  · rw [hone, stopBitsOk_iff]
    intro i hi
    obtain rfl : i = 0 := by omega
    exact hstop
  · rw [← Bool.not_eq_true, headerBad_iff]
    simp [hd, maskHas_zero]

include hw hspan hver hm hp hd in
/-- The bundle of a lone slot word holds its instruction. -/
theorem decodeBundle_lone (hrsv : ¬ ReservedSet (bundleHeader s)) (hstop : stopOf (bundleWord s 1) = true)
    (hc : s.checkSlot p (bundleWord s 1) = .ok i) : s.decodeBundle = .ok (bundleWith s [⟨p, bundleWord s 1, 0#64, i⟩]) := by
  have hexec : executing s = [p] := by
    simpa [executing, hd, maskHas_zero] using filter_lone hp hm
  rw [decodeBundle_slots hw (framed_lone hspan hver hm hp hd hstop) hrsv, slotsChecked, hexec]
  simp [State.checkSlots, bundlePosition_lone hm hp, hc]

end

/-! ## The slots in canonical order (R111, R116) -/

/-- The state before a slot runs: its position, its word and its offset stand in the record of the issue. -/
def slotBegun (s : State) (e : SlotIn) : State := s.iss fun i => { i with pos := e.pos, word := e.word, doff := e.doff, stop := none }

/-- One slot more of a bundle that runs. -/
def ranSlot (r : Ran) (e : SlotIn) : Ran :=
  ⟨(r.s.runSlot e).1, r.stop.orElse fun _ => (r.s.runSlot e).2,
    r.held ++ [(e, if (r.s.runSlot e).2.isSome then r.s.wouldHold e else (r.s.runSlot e).1.c.f.pend.drop r.s.c.f.pend.length)]⟩

theorem runSlots_eq (s : State) (l : List SlotIn) : s.runSlots l = l.foldl ranSlot ⟨s, none, []⟩ := rfl

theorem runSlot_next {s v : State} {e : SlotIn} (ho : (encode e.instr).isSome = true) (hx : exec e.instr (slotBegun s e) = .next v)
    (hv : v.issue.stop = none) : s.runSlot e = (v, none) := by
  have hs : slotExec e.instr (slotBegun s e) = .next v := by rw [slotExec_eq _ _ (encode_isSome e.instr ▸ ho), hx]
  unfold State.runSlot
  rw [slotBegun] at hs
  simp only [hs, hv]

/-- Slots that all go on without a stop leave the last of their states, and no stop. -/
theorem foldl_ranSlot : ∀ (l : List SlotIn) (ss : List State) (s u : State) (held : List (SlotIn × List Held)),
    ss.length = l.length + 1 → ss.head? = some s → ss.getLast? = some u → (∀ e ∈ l, (encode e.instr).isSome = true) →
    (∀ n e a b, l[n]? = some e → ss[n]? = some a → ss[n + 1]? = some b → exec e.instr (slotBegun a e) = .next b ∧ b.issue.stop = none) →
    ∃ held', l.foldl ranSlot ⟨s, none, held⟩ = ⟨u, none, held'⟩
  | [], ss, s, u, held, hn, hh, hu, _, _ => by
    obtain ⟨a, rfl⟩ := List.length_eq_one_iff.mp hn
    obtain rfl : a = s := Option.some.inj hh
    obtain rfl : a = u := Option.some.inj hu
    exact ⟨held, rfl⟩
  | e :: l, [], _, _, _, hn, _, _, _, _ => by cases hn
  | e :: l, [_], _, _, _, hn, _, _, _, _ => by simp at hn
  | e :: l, a :: b :: ss, s, u, held, hn, hh, hu, ho, hx => by
    obtain rfl : a = s := Option.some.inj hh
    obtain ⟨hexec, hstop⟩ := hx 0 e a b rfl rfl rfl
    have hrun : a.runSlot e = (b, none) := runSlot_next (ho e (List.mem_cons_self ..)) hexec hstop
    rw [List.foldl_cons, ranSlot]
    simp only [hrun]
    exact foldl_ranSlot l (b :: ss) b u _ (by simpa using hn) rfl (by simpa using hu)
      (fun d hd => ho d (List.mem_cons_of_mem _ hd)) fun n d v w hd hv hw => hx (n + 1) d v w hd hv hw

/-! ## The attempt and the step (R115, R116, R400) -/

/-- A bundle that no condition of R115 holds and whose slots run without a stop or a trap commits (R116). -/
theorem attempt_commit {s u : State} {b : Bundle} {held : List (SlotIn × List Held)} (hq : s.c.f.blocked = []) (hf : s.fetchBad = false)
    (hb : s.decodeBundle = .ok b) (ht : s.tokenStall b.slots = none) (ha : s.acquireStall b.slots = none) (hc : s.c.y.chk = false)
    (hr : (s.beginBundle b).runSlots b.slots = ⟨u, none, held⟩) (hs : u.issue.stall = none) (hk : u.skidStall = none)
    (hbank : bitAt (s.reg (coreOf s.who) 0x8D0) 0 = true ∨ u.bankTrap = none) (hh : u.heldTrap = none) : s.attempt = .commit u b := by
  have hbank : (if bitAt (s.reg (coreOf s.who) 0x8D0) 0 then none else u.bankTrap.map fun v => Stop.trap .bank 7 v) = none := by
    rcases hbank with h | h <;> simp [h]
  unfold State.attempt
  simp only [hq, List.find?_nil, hf, hb, State.blockStall, List.head?_nil, Option.map_none, Option.orElse_none, ht, ha, hr, hs, hk, hc, hbank,
    hh, Bool.false_and, Bool.false_eq_true, if_false]

/-- Settles O48: the attempt of the slot's owner is the commit of its bundle. -/
theorem stepRunsDecodedInstruction : Obligations.StepRunsDecodedInstruction := by
  intro s x rest hagenda hrun howner s0 t w pc fetched h hyield hevent hblocked hfetch
  have hwho : w.who = x := by
    change t.who = x
    rw [show t = s0.focus x from rfl, focus_frame]
  have hx : w.who < 2048 := by
    rw [hwho]
    simp only [State.runnable, Bool.and_eq_true, decide_eq_true_eq] at hrun
    exact hrun.1.1.1.1
  constructor
  · have hword : fetched = bundleWord w :=
      congrArg (fun k n => w.imemWord (coreOf k) (w.c.f.pc.toNat + 4 * n)) hwho.symm
    have hheader : h = Header.of (fetched 0) := rfl
    have hpc : pc = w.c.f.pc := rfl
    clear_value h fetched pc w
    subst hpc hheader hword
    intro p i hspan hver hm hp hd hrsv hop hstop hc
    refine ⟨decodeSlot_of_checkSlot hc, _, decodeBundle_lone hx hspan hver hm hp hd ?_ hstop hc, rfl, rfl, ?_⟩
    · rintro (h | ⟨h1, h2⟩)
      · exact h hrsv
      · exact hop.elim (fun h => Bool.noConfusion (h1.symm.trans h)) h2
    · have hone : wordCount w = 1 := maskCount_lone hp hm
      change w.c.f.pc + toWord (4 * (1 + wordCount w)) = w.c.f.pc + 8#64
      rw [hone]
      rfl
  · intro b hb henc htoken hacq hchk ss hlen hhead hslots u hlast hstall hskid hbank hheld
    obtain ⟨held, hran⟩ := foldl_ranSlot b.slots ss (w.beginBundle b) u [] hlen hhead hlast henc hslots
    have hcommit : w.attempt = .commit u b :=
      attempt_commit hblocked hfetch hb htoken hacq hchk ((runSlots_eq ..).trans hran) hstall hskid (by rwa [hwho]) hheld
    have hstep : step s = exec (.bundleIssue x) s0 := by
      rw [step, hagenda]
      rfl
    rw [hstep, exec_bundleIssue_issues (s := s0) hrun howner hyield, issueNext_commit hevent rfl hcommit]

end Sys2Proof.Scope
end

section
/-! Results of the scalar register instructions (R131, R134, R135). -/

namespace Sys2Proof.Scope

open Sys2Proof.Machine Sys2Proof.Safety Sys2Proof.Laws

/-! ## Shift amounts and high halves of products -/

theorem shift_amount (y : Word) : (y.extractLsb' 0 6).toNat = y.toNat % 64 := by
  simp [BitVec.extractLsb'_toNat]

/-- Bits 64 to 127 of an integer that is cut to 128 bits. -/
theorem extract_high_ofInt (p : Int) : (BitVec.ofInt 128 p).extractLsb' 64 64 = intWord (p / 2 ^ 64) := by
  have hdiv : p % 2 ^ 128 / 2 ^ 64 = p / 2 ^ 64 % 2 ^ 64 := by omega
  have hpos : 0 ≤ p % 2 ^ 128 := by omega
  apply BitVec.eq_of_toNat_eq
  rw [intWord, BitVec.extractLsb'_toNat, BitVec.toNat_ofInt, BitVec.toNat_ofInt, Nat.shiftRight_eq_div_pow]
  omega

theorem mulHigh_eq (x y : Word) : mulHigh x y = (x.signExtend 128 * y.signExtend 128).extractLsb' 64 64 := by
  rw [BitVec.signExtend, BitVec.signExtend, ← BitVec.ofInt_mul, extract_high_ofInt, mulHigh]

theorem mulHighN_eq (x y : Word) : mulHighN x y = (x.setWidth 128 * y.setWidth 128).extractLsb' 64 64 := by
  apply BitVec.eq_of_toNat_eq
  have hx := x.isLt
  have hy := y.isLt
  have hlt : x.toNat * y.toNat < 2 ^ 128 := (Nat.mul_lt_mul'' hx hy).trans_eq (by norm_num)
  have hx' : x.toNat % 2 ^ 128 = x.toNat := Nat.mod_eq_of_lt (by omega)
  have hy' : y.toNat % 2 ^ 128 = y.toNat := Nat.mod_eq_of_lt (by omega)
  rw [mulHighN, toWord, BitVec.toNat_ofNat, BitVec.extractLsb'_toNat, BitVec.toNat_mul, BitVec.toNat_setWidth, BitVec.toNat_setWidth,
    hx', hy', Nat.mod_eq_of_lt hlt, Nat.shiftRight_eq_div_pow]

/-- The low half of a product does not depend on what lies above its operands. -/
theorem mul_low (x y : Word) : x * y = (x.setWidth 128 * y.setWidth 128).extractLsb' 0 64 := by
  apply BitVec.eq_of_toNat_eq
  rw [BitVec.extractLsb'_toNat, BitVec.toNat_mul, BitVec.toNat_mul, BitVec.toNat_setWidth, BitVec.toNat_setWidth, Nat.shiftRight_zero,
    Nat.mod_mod_of_dvd _ (by norm_num : 2 ^ 64 ∣ 2 ^ 128)]
  conv_rhs => rw [Nat.mul_mod, Nat.mod_mod_of_dvd _ (by norm_num : 2 ^ 64 ∣ 2 ^ 128), Nat.mod_mod_of_dvd _ (by norm_num : 2 ^ 64 ∣ 2 ^ 128), ← Nat.mul_mod]

/-! ## The lesser and the greater operand -/

/-- Where equal numbers make no difference, the strict test picks as the weak one does. -/
theorem ite_lt_eq_ite_le {α β : Type} [LinearOrder β] {m n : β} {u v : α} (h : m = n → u = v) :
    (if m < n then u else v) = if m ≤ n then u else v := by
  rcases lt_trichotomy m n with hlt | heq | hgt
  · rw [if_pos hlt, if_pos hlt.le]
  · rw [h heq, ite_self, ite_self]
  · rw [if_neg hgt.asymm, if_neg hgt.not_ge]

/-- Settles O1: the shapes say when and with which poison, the facts above which value. -/
theorem scalarRegisterResults : Obligations.ScalarRegisterResults := by
  intro s g d a b k h x y p2 p1 res
  have two (n : Nat) (f : Word → Word → Word) {v : Word} (hv : f x y = v) : s.alu2 g n d a b f = res n v p2 :=
    (alu2_executes h n d a b f).trans (congrArg (fun v => res n v p2) hv)
  have one (f : Word → Word) {v : Word} (hv : f x = v) : s.alu1 g d a f = res 1 v p1 :=
    (alu1_executes h d a f).trans (congrArg (fun v => res 1 v p1) hv)
  refine ⟨two 1 (· + ·) rfl, two 1 (· - ·) rfl, two 1 (· &&& ·) rfl, two 1 (· ||| ·) rfl, two 1 (· ^^^ ·) rfl,
    two 1 (fun x y => x <<< (y.toNat % 64)) ?_, two 1 (fun x y => x >>> (y.toNat % 64)) ?_,
    two 1 (fun x y => x.sshiftRight (y.toNat % 64)) ?_, two 3 (· * ·) (mul_low x y), two 3 mulHigh (mulHigh_eq x y),
    two 3 mulHighN (mulHighN_eq x y), two 1 (fun x y => if x.slt y then x else y) ?_, two 1 (fun x y => if x.slt y then y else x) ?_,
    two 1 (fun x y => if x.ult y then x else y) ?_, two 1 (fun x y => if x.ult y then y else x) ?_,
    guarded_executes h fun gp => s.holdS 1 d (if (s.rp k).getLsbD 0 then x else y) (gp || s.ps a || s.ps b || s.pp k),
    ⟨_, one (fun x => toWord (leadingZeros x.toNat 64)) rfl, leadingZeros_spec x.toNat 64⟩,
    ⟨_, one (fun x => toWord (trailingZeros x.toNat 0 64)) rfl, by simpa only [Nat.zero_add, BitVec.testBit_toNat] using trailingZeros_spec x.toNat 64 0⟩,
    one (fun x => toWord (oneBits x.toNat 64)) (congrArg toWord (oneBits_spec x.toNat 64))⟩
  · simp only [BitVec.shiftLeft_eq', shift_amount]
  · simp only [BitVec.ushiftRight_eq', shift_amount]
  · simp only [shift_amount]
  · simpa [BitVec.slt] using ite_lt_eq_ite_le fun h => BitVec.eq_of_toInt_eq h
  · simpa [BitVec.slt] using ite_lt_eq_ite_le fun h => (BitVec.eq_of_toInt_eq h).symm
  · simpa [BitVec.ult] using ite_lt_eq_ite_le fun h => BitVec.eq_of_toNat_eq h
  · simpa [BitVec.ult] using ite_lt_eq_ite_le fun h => (BitVec.eq_of_toNat_eq h).symm

end Sys2Proof.Scope
end

section
/-! Elastic operations at their issue (R114, R115, R342, R379). -/

namespace Sys2Proof.Scope

open Sys2Proof.Machine Sys2Proof.Safety Sys2Proof.Laws

/-! ## The parts of an issue -/

/-- What carries the token: s0 carries none. -/
def tokenOf : Option Res → Option Res
  | some (.s 0) => none
  | d => d

theorem tokenOf_other {d : Option Res} (h : d ≠ some (.s 0)) : tokenOf d = d := by
  unfold tokenOf
  split
  · exact absurd rfl h
  · rfl

/-- The operation that the executing slot issues. -/
def issuedOp (s : State) (kind : OpKind) (dest : Option Res) (gp acq : Bool) (rel : Option Nat) : Op :=
  ⟨s.serial, s.who, s.ownerOf s.who, kind, tokenOf dest, gp, acq, rel, s.issue.pos, s.issueCycle,
    s.issue.pc - toWord (s.ctx (s.ownerOf s.who)).y.spanBase, s.c.e.hm, .issued, [], !isLadle s.who,
    if isLadle s.who then (s.ladle (s.who - 2048)).bundle else 0, s.issue.serial0, []⟩

/-- The state with one more operation, which counts for its bundle. -/
def queued (t : State) (o : Op) : State :=
  { t with ops := t.ops ++ [o], serial := t.serial + 1, issue := { t.issue with elastic := t.issue.elastic + 1 } }

/-- The state in which a release of a scope has been held back, if it is (R342). -/
def releaseHeld (s : State) : Option Nat → State
  | some c => s.releaseStall c
  | none => s

theorem issueOp_eq (s : State) (kind : OpKind) (dest : Option Res) (gp acq : Bool) (rel : Option Nat) :
    s.issueOp kind dest gp acq rel = queued ((releaseHeld s rel).farStall kind) (issuedOp s kind dest gp acq rel) := by
  rfl

/-- With an entry of the fabric free, or without an address of another package, the fabric holds nothing back (R379). -/
theorem farStall_free {s : State} {kind : OpKind} (h : s.fab.entries.length < 1024 ∨ ∀ va, Loc.glob va ∉ kind.locs) :
    s.farStall kind = s := by
  unfold State.farStall
  rw [if_neg]
  simp only [Bool.and_eq_true, decide_eq_true_eq, List.any_eq_true]
  rintro ⟨hfull, l, hl, hglob⟩
  rcases h with h | h
  · omega
  · cases l with
    | glob va => exact h va hl
    | _ => cases hglob

/-- A release that nothing holds back stalls nothing (R342). -/
theorem releaseHeld_free {s : State} {rel : Option Nat} (h : ∀ c, rel = some c → Unheld s c) : releaseHeld s rel = s := by
  cases rel with
  | none => rfl
  | some c => exact releaseStall_unheld (h c rfl)

/-- An operation that nothing holds back is queued. -/
theorem issueOp_queued {s : State} {kind : OpKind} {dest : Option Res} {gp acq : Bool} {rel : Option Nat}
    (hf : s.fab.entries.length < 1024 ∨ ∀ va, Loc.glob va ∉ kind.locs) (hr : ∀ c, rel = some c → Unheld s c) :
    s.issueOp kind dest gp acq rel = queued s (issuedOp s kind dest gp acq rel) := by
  rw [issueOp_eq, releaseHeld_free hr, farStall_free hf]

/-- The destination of an operation carries a token from its issue on (R114). -/
theorem tokened_queued {s : State} {o : Op} {r : Res} (ha : o.agent = s.who) (hm : o.hm = s.c.e.hm) (hr : o.dest = some r) :
    (queued s o).tokened s.who r = true := by
  refine List.any_eq_true.mpr ⟨o, List.mem_append_right _ (List.mem_singleton_self o), ?_⟩
  have hc : (queued s o).ctx s.who = s.c := ctx_who s
  simp [ha, hm, hr, hc]

/-- Settles O8: the operation is `issuedOp`, queued where nothing holds it back. -/
theorem elasticOperationsAreQueued : Obligations.ElasticOperationsAreQueued := by
  intro s kind dest gp acq rel hf hr
  have hissue := issueOp_queued (dest := dest) (gp := gp) (acq := acq) hf hr
  refine ⟨issuedOp s kind dest gp acq rel, rfl, rfl, rfl, rfl, rfl, rfl, rfl, rfl, rfl, rfl, rfl, rfl, rfl, fun h => h ▸ rfl,
    tokenOf_other, hissue, fun r hdest => ?_, fun w => ?_⟩
  · rw [hissue]
    exact tokened_queued rfl rfl hdest
  · rw [hissue]
    exact ⟨_, rfl, congrArg w (Nat.add_sub_cancel s.serial 1), rfl, rfl, rfl, rfl⟩

end Sys2Proof.Scope
end

section
/-! FENCE, WAITV, NOTIFY, the sync objects and BAR at their issue (R115, R343, R353, R360, R361, R364 to R366). -/

namespace Sys2Proof.Scope

open Sys2Proof.Machine Sys2Proof.Safety Sys2Proof.Laws

/-! ## Sync objects (R364, R365) -/

section
variable {s : State} {g : Guard} {b : SReg} {l : List SReg} (h : Ready s g (b :: l)) (f : Nat → State)
include h

/-- A number that has eight bits and is mapped goes on. -/
theorem syncInstr_mapped (hv : (s.rs b).toNat < 256)
    (hm : isLadle s.who = true ∨ s.syncObj (clusterOf (coreOf s.who)) (s.reqOf s.who).part (s.rs b).toNat ≠ none) :
    s.syncInstr g b l f = .next (f (s.rs b).toNat) := by
  unfold State.syncInstr
  dsimp only
  rw [consuming_ready h, if_neg (by omega), if_neg]
  rw [Bool.and_eq_true, Bool.not_eq_true', Option.isNone_iff_eq_none]
  rintro ⟨hl, hnone⟩
  exact hm.elim (fun ht => Bool.noConfusion (ht.symm.trans hl)) fun hs => hs hnone

/-- A number of more than eight bits is ILLEGAL. -/
theorem syncInstr_illegal (hv : 256 ≤ (s.rs b).toNat) : s.syncInstr g b l f = .next (s.raise .illegal 0#64) := by
  unfold State.syncInstr
  dsimp only
  rw [consuming_ready h, if_pos hv]

/-- An unmapped number suspends the context at the bundle. -/
theorem syncInstr_unmapped (hv : (s.rs b).toNat < 256)
    (hm : ¬ (isLadle s.who = true ∨ s.syncObj (clusterOf (coreOf s.who)) (s.reqOf s.who).part (s.rs b).toNat ≠ none)) :
    s.syncInstr g b l f = .next (s.stopWith (.access s.issue.pos 0 11 0 (unmappedAddr (clusterOf (coreOf s.who)) (s.rs b).toNat))) := by
  obtain ⟨hl, hnone⟩ := not_or.mp hm
  unfold State.syncInstr
  dsimp only
  rw [consuming_ready h, if_neg (by omega), if_pos]
  rw [Bool.and_eq_true, Bool.not_eq_true', Option.isNone_iff_eq_none]
  exact ⟨Bool.eq_false_iff.mpr hl, not_not.mp hnone⟩

end

section
variable (s : State) (g : Guard) (d b c : SReg)

theorem exec_synAdd : exec (.synAdd g d b c) s = s.syncInstr g b [c] fun v =>
    s.issueOp (.synAdd v ((s.rs c).setWidth 32)) (some (.s d.toNat)) false false (some 3) := rfl

theorem exec_synWait : exec (.synWait g d b c) s = s.syncInstr g b [c] fun v =>
    (s.issueOp (.synWait v ((s.rs c).setWidth 32)) (some (.s d.toNat)) false true none).block .sync := rfl

theorem exec_synGet : exec (.synGet g d b) s = s.syncInstr g b [] fun v =>
    s.issueOp (.synGet v) (some (.s d.toNat)) false true none := rfl

end

/-! ## The scope of a barrier (R366) -/

/-- Do two cores lie in one octet, cluster or die: in one part of the package that a scope names? Every scope from PKG on holds
all cores. -/
def SameSpan (sc p q : Nat) : Prop :=
  match sc with
  | 2 => octetOf p = octetOf q
  | 3 => clusterOf p = clusterOf q
  | 4 => dieOf p = dieOf q
  | _ => True

/-- The cores of the contexts of a list that have one. -/
def liveCores (xs : List Nat) : List Nat := (xs.filter fun x => decide (x < 2048)).map coreOf

/-- Do the cores of all live contexts of a list lie in one part of the package? -/
def agree (f : Nat → Nat) (xs : List Nat) : Bool :=
  match xs.filter fun x => decide (x < 2048) with
  | [] => true
  | x :: r => r.all fun y => f (coreOf y) == f (coreOf x)

/-- They do exactly when any two do. -/
theorem agree_iff (f : Nat → Nat) (xs : List Nat) : agree f xs = true ↔ ∀ p ∈ liveCores xs, ∀ q ∈ liveCores xs, f p = f q := by
  simp only [liveCores, List.forall_mem_map]
  unfold agree
  cases xs.filter fun x => decide (x < 2048) with
  | nil => simp
  | cons x r =>
    simp only [List.all_eq_true, beq_iff_eq]
    constructor
    · intro h
      have first : ∀ p ∈ x :: r, f (coreOf p) = f (coreOf x) := fun p hp => (List.mem_cons.mp hp).elim (fun e => e ▸ rfl) (h p)
      exact fun p hp q hq => (first p hp).trans (first q hq).symm
    · exact fun h y hy => h y (List.mem_cons_of_mem _ hy) x (List.mem_cons_self ..)

theorem spanScope_eq (xs : List Nat) : spanScope xs =
    if agree octetOf xs then 2 else if agree clusterOf xs then 3 else if agree dieOf xs then 4 else 5 := rfl

/-- The scope of a barrier is the narrowest one that holds the cores of its set. -/
theorem spanScope_spec (xs : List Nat) :
    2 ≤ spanScope xs ∧ spanScope xs ≤ 5 ∧ (∀ p ∈ liveCores xs, ∀ q ∈ liveCores xs, SameSpan (spanScope xs) p q) ∧
      ∀ k, 2 ≤ k → k < spanScope xs → ¬ ∀ p ∈ liveCores xs, ∀ q ∈ liveCores xs, SameSpan k p q := by
  have oct := agree_iff octetOf xs
  have clu := agree_iff clusterOf xs
  have die := agree_iff dieOf xs
  rw [spanScope_eq]
  split
  next h2 => exact ⟨by decide, by decide, oct.mp h2, fun k h h' => by omega⟩
  next h2 =>
    have n2 := mt oct.mpr h2
    split
    next h3 =>
      refine ⟨by decide, by decide, clu.mp h3, fun k h h' => ?_⟩
      obtain rfl : k = 2 := by omega
      exact n2
    next h3 =>
      have n3 := mt clu.mpr h3
      split
      next h4 =>
        refine ⟨by decide, by decide, die.mp h4, fun k h h' => ?_⟩
        obtain rfl | rfl : k = 2 ∨ k = 3 := by omega
        · exact n2
        · exact n3
      next h4 =>
        refine ⟨by decide, by decide, fun _ _ _ _ => trivial, fun k h h' => ?_⟩
        obtain rfl | rfl | rfl : k = 2 ∨ k = 3 ∨ k = 4 := by omega
        · exact n2
        · exact n3
        · exact mt die.mpr h4

/-- A member belongs to the barrier set of a rank when the set is the whole gang, or its rank lies in the same run. -/
theorem barSet_contains {gg : Gang} {m : Nat × Nat} (hm : m ∈ gg.members) (grp : Bool) (rank : Nat) :
    (gg.barSet grp rank).contains m.1 = decide (grp = false ∨ m.1 / gg.group = rank / gg.group) := by
  have hr : m.1 ∈ gg.members.map (·.1) := List.mem_map_of_mem hm
  cases grp
  · simpa [Gang.barSet] using ⟨m.2, hm⟩
  · rw [Bool.eq_iff_iff, List.contains_iff_mem]
    simp only [Gang.barSet, if_true, List.mem_filter, hr, true_and, beq_iff_eq, Bool.true_eq_false, false_or, decide_eq_true_eq]

/-! ## BAR (R366) -/

/-- The members that a BAR of a rank waits for. -/
def barMembers (gg : Gang) (grp : Bool) (rank : Nat) : List Nat :=
  (gg.members.filter fun m => (gg.barSet grp rank).contains m.1).map (·.2)

theorem liveCores_barMembers (gg : Gang) (grp : Bool) (rank : Nat) : liveCores (barMembers gg grp rank) =
    (gg.members.filter fun m => (grp = false ∨ m.1 / gg.group = rank / gg.group) ∧ m.2 < 2048).map fun m => coreOf m.2 := by
  rw [liveCores, barMembers, List.filter_map, List.filter_filter, List.map_map]
  refine congrArg _ (List.filter_congr fun m hm => ?_)
  rw [barSet_contains hm, Bool.and_comm]
  simp

section
variable {s : State} {g : Guard} {grp : Bool} {d : SReg} (h : Ready s g [])
include h

theorem exec_bar_handler (hm : s.c.e.hm = true) : exec (.bar g grp d) s = .next (s.raise .illegal 0#64) := by
  change execBar g grp d s = _
  rw [execBar, consuming_ready h]
  cases hg : s.gang s.c.y.gang <;> simp [hm]

theorem exec_bar_alone (hm : s.c.e.hm = false) (hg : s.gang s.c.y.gang = none) : exec (.bar g false d) s =
    .next (((s.sys fun y => { y with barWhole := s.c.y.barWhole + 1#32 }).issueOp (.bar false (s.c.y.barWhole + 1#32))
      (some (.s d.toNat)) false true none).block fun id => .bar id false (s.c.y.barWhole + 1#32)) := by
  change execBar g false d s = _
  rw [execBar, consuming_ready h, hg]
  simp [hm]

theorem exec_bar_aloneGroup (hg : s.gang s.c.y.gang = none) : exec (.bar g true d) s = .next (s.raise .illegal 0#64) := by
  change execBar g true d s = _
  rw [execBar, consuming_ready h, hg]
  simp

theorem exec_bar_noGroups {gg : Gang} (hg : s.gang s.c.y.gang = some gg) (hn : gg.group = 0) :
    exec (.bar g true d) s = .next (s.raise .illegal 0#64) := by
  change execBar g true d s = _
  rw [execBar, consuming_ready h, hg]
  simp [hn]

/-- A member of a gang takes the next generation of its set. -/
theorem exec_bar_gang {gg : Gang} {rank : Nat} (hm : s.c.e.hm = false) (hg : s.gang s.c.y.gang = some gg)
    (hr : gg.rankOf s.who = some rank) (ha : s.issue.redo = none) (hn : grp = false ∨ gg.group ≠ 0) :
    let n := (if grp then s.c.y.barGrp else s.c.y.barWhole) + 1#32
    exec (.bar g grp d) s = .next ((((s.sys fun y => if grp then { y with barGrp := n } else { y with barWhole := n }).issueOp
      (.bar grp n) (some (.s d.toNat)) false true (some (spanScope (barMembers gg grp rank)))).block fun id => .bar id grp n)) := by
  intro n
  have hgroup : (grp && gg.group == 0) = false := by rcases hn with hn | hn <;> simp [hn]
  have hagain : s.barAgain = none := by rw [State.barAgain, ha]; rfl
  change execBar g grp d s = _
  rw [execBar, consuming_ready h, hg]
  simp only [hm, hgroup, hr, hagain, Bool.false_or, Bool.false_eq_true, if_false, Option.getD_some, Option.getD_none]
  rfl

end

/-- Settles O24: the sync objects by their checks, BAR by whether a gang stands. -/
theorem fencesAndWaits : Obligations.FencesAndWaits := by
  intro s g scope dw all grp d b c dest z v part cl mapped low fenced
  refine ⟨fun h => consuming_ready h _, fun h => ⟨consuming_ready h _, fun hv hm => ?_, fun hv => ?_, fun hv hm => ?_⟩,
    fun h => ⟨consuming_ready h _, fun hv hm => ?_, fun hv hm => ?_, fun hv => ?_⟩,
    fun h => ⟨exec_bar_handler h, fun hm hg => ⟨exec_bar_alone h hm hg, exec_bar_aloneGroup h hg⟩, fun gg rank hm hg hr ha => ⟨?_, fun hn => ?_⟩⟩⟩
  · rw [exec_synAdd, exec_synWait]
    exact ⟨syncInstr_mapped h _ hv hm, syncInstr_mapped h _ hv hm⟩
  · rw [exec_synAdd, exec_synWait]
    exact ⟨syncInstr_illegal h _ hv, syncInstr_illegal h _ hv⟩
  · simp only [List.forall_mem_cons, List.not_mem_nil, false_imp_iff, implies_true, and_true, exec_synAdd, exec_synWait]
    exact ⟨syncInstr_unmapped h _ hv hm, syncInstr_unmapped h _ hv hm⟩
  · rw [exec_synGet]
    exact syncInstr_mapped h _ hv hm
  · rw [exec_synGet]
    exact syncInstr_unmapped h _ hv hm
  · rw [exec_synGet]
    exact syncInstr_illegal h _ hv
  · rintro rfl hn
    exact exec_bar_noGroups h hg hn
  · intro n t cores holds
    have hcores : liveCores (barMembers gg grp rank) = cores := liveCores_barMembers gg grp rank
    obtain ⟨h2, h5, hholds, hnarrow⟩ := spanScope_spec (barMembers gg grp rank)
    rw [hcores] at hholds hnarrow
    exact ⟨_, h2, h5, hholds, hnarrow, exec_bar_gang h hm hg hr ha hn⟩

end Sys2Proof.Scope
end

section
/-! Logical time and the landings of held register results at a commit (R109, R111, R114, R133). -/

namespace Sys2Proof.Scope

open Sys2Proof.Machine Sys2Proof.Safety Sys2Proof.Laws

/-! ## Register files by register -/

/-- The landing writes one register or predicate. -/
def ToRegister (l : Landing) : Prop := (∃ r v p, l = .scal r v p) ∨ (∃ r v p, l = .pred r v p) ∨ (∃ r v p, l = .vec r v p)

/-- The register that a landing writes tells which landing it is. -/
theorem landing_of_res {l : Landing} (hl : ToRegister l) (n : Nat) : (l.res = some (.s n) → ∃ v p, l = .scal n v p) ∧
    (l.res = some (.p n) → ∃ v p, l = .pred n v p) ∧ (l.res = some (.v n) → ∃ v p, l = .vec n v p) := by
  obtain ⟨m, v, p, rfl⟩ | ⟨m, v, p, rfl⟩ | ⟨m, v, p, rfl⟩ := hl
  · by_cases hm : m = 0
    · simp [Landing.res, hm]
    · simp [Landing.res, hm, eq_comm]
  · simp [Landing.res, eq_comm]
  · simp [Landing.res, eq_comm]

/-- The register file shows what a landing wrote; s0 and p0 take nothing (R133). -/
def Shows (r : Regs) : Landing → Prop
  | .scal n v p => n ≠ 0 → r.readS n = v ∧ r.poisS n = p
  | .pred n v p => n ≠ 0 → r.readP n = v ∧ r.poisP n = p
  | .vec n v p => r.readV n = ⟨v, p⟩
  | _ => True

/-- A register holds the same in two register files. -/
def SameIn (r r' : Regs) : Res → Prop
  | .s n => r'.readS n = r.readS n ∧ r'.poisS n = r.poisS n
  | .p n => r'.readP n = r.readP n ∧ r'.poisP n = r.poisP n
  | .v n => r'.readV n = r.readV n

theorem SameIn.refl (r : Regs) (x : Res) : SameIn r r x := by cases x <;> simp [SameIn]

theorem SameIn.trans {r r' r'' : Regs} {x : Res} (h : SameIn r r' x) (g : SameIn r' r'' x) : SameIn r r'' x := by
  cases x with
  | s n => exact ⟨g.1.trans h.1, g.2.trans h.2⟩
  | p n => exact ⟨g.1.trans h.1, g.2.trans h.2⟩
  | v n => exact Eq.trans g h

/-- A landing shows in the register file. -/
theorem shows_land (c : Ctx) (l : Landing) : Shows (c.land l).r l := by
  cases l with
  | scal n v p => intro hn; simp [Ctx.land, readS_writeS, poisS_writeS, hn]
  | pred n v p => intro hn; simp [Ctx.land, readP_writeP, poisP_writeP, hn]
  | vec n v p => simp [Shows, Ctx.land, readV_writeV]
  | _ => trivial

/-- It goes on showing while its register stays as it is. -/
theorem Shows.same {r r' : Regs} {l : Landing} (h : Shows r l) (hs : ∀ x, l.res = some x → SameIn r r' x) : Shows r' l := by
  cases l with
  | scal n v p =>
    intro hn
    obtain ⟨hv, hp⟩ := hs (.s n) (if_neg hn)
    exact ⟨hv.trans (h hn).1, hp.trans (h hn).2⟩
  | pred n v p =>
    intro hn
    obtain ⟨hv, hp⟩ := hs (.p n) rfl
    exact ⟨hv.trans (h hn).1, hp.trans (h hn).2⟩
  | vec n v p => exact Eq.trans (hs (.v n) rfl) h
  | _ => trivial

/-- A landing leaves every register but its own. -/
theorem sameIn_land (c : Ctx) {l : Landing} (hl : ToRegister l) {x : Res} (hx : l.res ≠ some x) : SameIn c.r (c.land l).r x := by
  obtain ⟨n, v, p, rfl⟩ | ⟨n, v, p, rfl⟩ | ⟨n, v, p, rfl⟩ := hl
  · by_cases hn : n = 0
    · subst hn
      exact .refl c.r x
    · cases x with
      | s m =>
        have hm : m ≠ n := fun e => hx (by rw [e]; exact if_neg hn)
        simp [SameIn, Ctx.land, readS_writeS, poisS_writeS, hm]
      | p m => simp [SameIn, Ctx.land, Regs.writeS, hn, Regs.readP, Regs.poisP]
      | v m => simp [SameIn, Ctx.land]
  · by_cases hn : n = 0
    · subst hn
      exact .refl c.r x
    · cases x with
      | s m => simp [SameIn, Ctx.land, Regs.writeP, hn, Regs.readS, Regs.poisS]
      | p m =>
        have hm : m ≠ n := fun e => hx (by rw [e]; rfl)
        simp [SameIn, Ctx.land, readP_writeP, poisP_writeP, hm]
      | v m => simp [SameIn, Ctx.land]
  · cases x with
    | s m => exact ⟨rfl, rfl⟩
    | p m => exact ⟨rfl, rfl⟩
    | v m =>
      have hm : m ≠ n := fun e => hx (by rw [e]; rfl)
      simp [SameIn, Ctx.land, readV_writeV, hm]

/-! ## Landings at one cycle -/

/-- The results of a list have landed in an agent: memory, the other agents, logical time and what is still held stay, each
register that one result alone writes shows it, and each register that none writes is as it was. -/
structure Landed (l : List Held) (s t : State) : Prop where
  frame : ∃ r ring, t = { s with c := { s.c with r := r, f := { s.c.f with ring := ring } } }
  shows : ∀ h ∈ l, (∀ g ∈ l, g ≠ h → g.land.res ≠ h.land.res) → Shows t.c.r h.land
  same : ∀ x, (∀ h ∈ l, h.land.res ≠ some x) → SameIn s.c.r t.c.r x

/-- A result for a register lands in the register file, and enters the ring. -/
theorem landHeld_register (s : State) {h : Held} (hr : ToRegister h.land) : ∃ ring,
    s.landHeld h = { s with c := { s.c with r := (s.c.land h.land).r, f := { s.c.f with ring := ring } } } := by
  obtain ⟨cyc, pos, l, entry⟩ := h
  obtain ⟨n, v, p, rfl⟩ | ⟨n, v, p, rfl⟩ | ⟨n, v, p, rfl⟩ : ToRegister l := hr
  all_goals
    unfold State.landHeld
    dsimp only
    split <;> exact ⟨_, rfl⟩

theorem landed_nil (s : State) : Landed [] s s :=
  ⟨⟨s.c.r, s.c.f.ring, rfl⟩, fun _ h => absurd h List.not_mem_nil, fun x _ => .refl s.c.r x⟩

/-- One more result lands. -/
theorem Landed.snoc {l : List Held} {s t : State} {h : Held} (ht : Landed l s t) (hr : ToRegister h.land) :
    Landed (l ++ [h]) s (t.landHeld h) := by
  obtain ⟨ring', hland⟩ := landHeld_register t hr
  have hregs : (t.landHeld h).c.r = (t.c.land h.land).r := by rw [hland]
  refine ⟨?_, fun g hg alone => ?_, fun x hx => ?_⟩
  · obtain ⟨r, ring, rfl⟩ := ht.frame
    exact ⟨_, ring', hland⟩
  · rw [hregs]
    by_cases hgh : g = h
    · exact hgh ▸ shows_land t.c h.land
    · have hgl : g ∈ l := (List.mem_append.mp hg).resolve_right (by simpa using hgh)
      have shown : Shows t.c.r g.land := ht.shows g hgl fun k hk => alone k (List.mem_append_left _ hk)
      have other := alone h (List.mem_append_right _ (List.mem_singleton_self h)) (Ne.symm hgh)
      exact shown.same fun x hx => sameIn_land t.c hr (hx ▸ other)
  · rw [hregs]
    exact (ht.same x fun g hg => hx g (List.mem_append_left _ hg)).trans
      (sameIn_land t.c hr (hx h (List.mem_append_right _ (List.mem_singleton_self h))))

theorem landed_foldl (s : State) (l : List Held) (hl : ∀ h ∈ l, ToRegister h.land) : Landed l s (l.foldl State.landHeld s) := by
  induction l using List.reverseRecOn with
  | nil => exact landed_nil s
  | append_singleton l h ih =>
    rw [List.foldl_append, List.foldl_cons, List.foldl_nil]
    exact (ih fun g hg => hl g (List.mem_append_left _ hg)).snoc (hl h (List.mem_append_right _ (List.mem_singleton_self h)))

/-! ## Logical cycles (R109) -/

/-- The result lands in one of the next `n` cycles. -/
def DueIn (n : Nat) (now : Word) (h : Held) : Prop := ∃ k : Nat, 1 ≤ k ∧ k ≤ n ∧ h.cyc = now + toWord k

theorem toWord_succ (k : Nat) : toWord (k + 1) = 1#64 + toWord k := by
  rw [toWord, toWord, Nat.add_comm, BitVec.ofNat_add]

theorem dueIn_zero (now : Word) (h : Held) : ¬ DueIn 0 now h := fun ⟨_, h1, h0, _⟩ => absurd (h1.trans h0) (by decide)

/-- A result is due in the next cycle, or after it. -/
theorem dueIn_succ (n : Nat) (now : Word) (h : Held) : DueIn (n + 1) now h ↔ h.cyc = now + 1#64 ∨ DueIn n (now + 1#64) h := by
  constructor
  · rintro ⟨k, h1, hn, hc⟩
    obtain ⟨k, rfl⟩ : ∃ j, k = j + 1 := ⟨k - 1, by omega⟩
    rw [toWord_succ, ← BitVec.add_assoc] at hc
    rcases Nat.eq_zero_or_pos k with rfl | hk
    · exact .inl (by simpa [toWord] using hc)
    · exact .inr ⟨k, hk, by omega, hc⟩
  · rintro (hc | ⟨k, h1, hn, hc⟩)
    · exact ⟨1, le_rfl, by omega, hc⟩
    · exact ⟨k + 1, by omega, by omega, by rw [toWord_succ, ← BitVec.add_assoc]; exact hc⟩

/-- `n` logical cycles have passed for the issuing agent, which holds results for registers alone. -/
structure Advances (n : Nat) (s t : State) : Prop where
  mode : t.c.e.hm = s.c.e.hm
  lcc : t.c.f.lcc = if s.c.e.hm then s.c.f.lcc else s.c.f.lcc + toWord n
  hcc : t.c.f.hcc = if s.c.e.hm then s.c.f.hcc + toWord n else s.c.f.hcc
  pend : ∀ h, h ∈ t.c.f.pend ↔ h ∈ s.c.f.pend ∧ ¬ DueIn n s.c.now h
  shows : ∀ h ∈ s.c.f.pend, DueIn n s.c.now h → (∀ g ∈ s.c.f.pend, g ≠ h → g.land.res ≠ h.land.res) → Shows t.c.r h.land
  same : ∀ x, (∀ h ∈ s.c.f.pend, DueIn n s.c.now h → h.land.res ≠ some x) → SameIn s.c.r t.c.r x
  memory : SameMemory s t

theorem Advances.now {n : Nat} {s t : State} (h : Advances n s t) : t.c.now = s.c.now + toWord n := by
  unfold Ctx.now
  rw [h.mode, h.lcc, h.hcc]
  cases s.c.e.hm <;> rfl

theorem sameMemory_refl (s : State) : SameMemory s s := fun _ => ⟨rfl, rfl, rfl, rfl, rfl⟩

theorem sameMemory_trans {s t u : State} (h : SameMemory s t) (g : SameMemory t u) : SameMemory s u := fun a => by
  obtain ⟨hab, hsp, ht, hi, hh⟩ := h a
  obtain ⟨gab, gsp, gt, gi, gh⟩ := g a
  exact ⟨gab.trans hab, gsp.trans hsp, gt.trans ht, gi.trans hi, gh.trans hh⟩

theorem advances_zero (s : State) : Advances 0 s s where
  mode := rfl
  lcc := by simp [toWord]
  hcc := by simp [toWord]
  pend h := by simp [dueIn_zero]
  shows h _ hd := absurd hd (dueIn_zero _ h)
  same x _ := .refl s.c.r x
  memory := sameMemory_refl s

/-- One cycle: what is due at it lands. -/
theorem advances_cycle {s : State} (hs : ∀ h ∈ s.c.f.pend, ToRegister h.land) : Advances 1 s s.cycle := by
  have due (h : Held) : DueIn 1 s.c.now h ↔ h.cyc = s.c.now + 1#64 := by
    rw [dueIn_succ]
    exact or_iff_left (dueIn_zero _ h)
  have landed := landed_foldl ((s.sys fun y => y.settleTabs s.c.e.hm).flow fun f =>
    { f with lcc := if s.c.e.hm then f.lcc else s.c.now + 1#64, hcc := if s.c.e.hm then s.c.now + 1#64 else f.hcc,
             ring := ringShift f.ring, pend := f.pend.filter fun h => h.cyc != s.c.now + 1#64 })
    (s.c.f.pend.filter fun h => h.cyc == s.c.now + 1#64) fun h hh => hs h (List.mem_filter.mp hh).1
  change Landed _ _ s.cycle at landed
  obtain ⟨⟨r, ring, hframe⟩, hshows, hsame⟩ := landed
  simp only [List.mem_filter, beq_iff_eq, and_imp] at hshows hsame
  refine ⟨by rw [hframe]; rfl, ?_, ?_, fun h => ?_, fun h hh hd alone => ?_, fun x hx => ?_, ?_⟩
  · rw [hframe]
    cases hm : s.c.e.hm <;> simp [State.flow, State.sys, Ctx.now, hm, toWord]
  · rw [hframe]
    cases hm : s.c.e.hm <;> simp [State.flow, State.sys, Ctx.now, hm, toWord]
  · rw [hframe, due]
    simp [State.flow, State.sys]
  · exact hshows h hh ((due h).mp hd) fun g hg _ => alone g hg
  · exact hsame x fun h hh hc => hx h hh ((due h).mpr hc)
  · rw [hframe]
    exact sameMemory_refl s

theorem Advances.succ {n : Nat} {s t u : State} (h : Advances 1 s t) (g : Advances n t u) : Advances (n + 1) s u := by
  have hnow : t.c.now = s.c.now + 1#64 := h.now
  have gpend := g.pend
  have gshows := g.shows
  have gsame := g.same
  have hpend := h.pend
  have hshows := h.shows
  have hsame := h.same
  have one (k : Held) : DueIn 1 s.c.now k ↔ k.cyc = s.c.now + 1#64 := by
    rw [dueIn_succ]
    exact or_iff_left (dueIn_zero _ k)
  simp only [one] at hpend hshows hsame
  simp only [hnow] at gpend gshows gsame
  refine ⟨g.mode.trans h.mode, ?_, ?_, fun k => ?_, fun k hk hd alone => ?_, fun x hx => ?_, sameMemory_trans h.memory g.memory⟩
  · rw [g.lcc, h.mode, h.lcc, toWord_succ n]
    cases s.c.e.hm <;> simp [toWord, BitVec.add_assoc]
  · rw [g.hcc, h.mode, h.hcc, toWord_succ n]
    cases s.c.e.hm <;> simp [toWord, BitVec.add_assoc]
  · rw [gpend, hpend, dueIn_succ, not_or, and_assoc]
  · have alone' : ∀ g ∈ t.c.f.pend, g ≠ k → g.land.res ≠ k.land.res := fun g hg => alone g ((hpend g).mp hg).1
    by_cases hc : k.cyc = s.c.now + 1#64
    · refine (hshows k hk hc alone).same fun x hx => gsame x fun g hg _ => ?_
      have hne : g ≠ k := fun e => ((hpend g).mp hg).2 (e ▸ hc)
      exact hx ▸ alone' g hg hne
    · have hlater := ((dueIn_succ n _ k).mp hd).resolve_left hc
      exact gshows k ((hpend k).mpr ⟨hk, hc⟩) hlater alone'
  · refine (hsame x fun k hk hc => hx k hk ((dueIn_succ n _ k).mpr (.inl hc))).trans (gsame x fun k hk hd => ?_)
    exact hx k ((hpend k).mp hk).1 ((dueIn_succ n _ k).mpr (.inr hd))

theorem advances_cycles (n : Nat) {s : State} (hs : ∀ h ∈ s.c.f.pend, ToRegister h.land) : Advances n s (s.cycles n) := by
  induction n generalizing s with
  | zero => exact advances_zero s
  | succ n ih =>
    have hone := advances_cycle hs
    exact hone.succ (ih fun h hh => hs h ((hone.pend h).mp hh).1)

/-! ## What a commit does around its cycles -/

/-- The agent's registers, held results, logical time and mode stand, with the operations and the memories. -/
structure SameWork (s t : State) : Prop where
  who : t.who = s.who
  issue : t.issue = s.issue
  ops : t.ops = s.ops
  r : t.c.r = s.c.r
  e : t.c.e = s.c.e
  pend : t.c.f.pend = s.c.f.pend
  lcc : t.c.f.lcc = s.c.f.lcc
  hcc : t.c.f.hcc = s.c.f.hcc
  memory : t.ab = s.ab ∧ t.sp = s.sp ∧ t.tmem = s.tmem ∧ t.imem = s.imem ∧ t.hbm = s.hbm

theorem SameWork.refl (s : State) : SameWork s s := ⟨rfl, rfl, rfl, rfl, rfl, rfl, rfl, rfl, rfl, rfl, rfl, rfl, rfl⟩

theorem SameWork.trans {s t u : State} (h : SameWork s t) (g : SameWork t u) : SameWork s u := by
  obtain ⟨hab, hsp, htm, him, hhb⟩ := h.memory
  obtain ⟨gab, gsp, gtm, gim, ghb⟩ := g.memory
  exact ⟨g.who.trans h.who, g.issue.trans h.issue, g.ops.trans h.ops, g.r.trans h.r, g.e.trans h.e, g.pend.trans h.pend,
    g.lcc.trans h.lcc, g.hcc.trans h.hcc, gab.trans hab, gsp.trans hsp, gtm.trans htm, gim.trans him, ghb.trans hhb⟩

theorem SameWork.sameMemory {s t : State} (h : SameWork s t) : SameMemory s t := fun a => by
  obtain ⟨hab, hsp, htm, him, hhb⟩ := h.memory
  rw [hab, hsp, htm, him, hhb]
  exact ⟨rfl, rfl, rfl, rfl, rfl⟩

theorem sameWork_sys (s : State) (f : Sys → Sys) : SameWork s (s.sys f) := ⟨rfl, rfl, rfl, rfl, rfl, rfl, rfl, rfl, rfl, rfl, rfl, rfl, rfl⟩

theorem sameWork_pops (s : State) (l : List Nat) :
    SameWork s (l.foldl (fun (t : State) n => { t with c := t.c.updChan n Chan.pop }) s) :=
  List.foldlRecOn _ _ (.refl s) fun _ h _ _ => h.trans ⟨rfl, rfl, rfl, rfl, rfl, rfl, rfl, rfl, rfl, rfl, rfl, rfl, rfl⟩

theorem sameWork_retarget (s : State) (k : Nat) : SameWork s (s.retarget k) := by
  obtain ⟨cs, os, h⟩ := retarget_frame s k
  rw [h]
  exact ⟨rfl, rfl, rfl, rfl, rfl, rfl, rfl, rfl, rfl, rfl, rfl, rfl, rfl⟩

theorem sameWork_leaseCommit (s : State) : SameWork s s.leaseCommit := by
  unfold State.leaseCommit State.budgetExpire
  dsimp only
  split <;> split <;> exact ⟨rfl, rfl, rfl, rfl, rfl, rfl, rfl, rfl, rfl, rfl, rfl, rfl, rfl⟩

theorem sameWork_nextPc (s : State) : SameWork s s.nextPc := by
  unfold State.nextPc
  dsimp only
  split <;> exact ⟨rfl, rfl, rfl, rfl, rfl, rfl, rfl, rfl, rfl, rfl, rfl, rfl, rfl⟩

/-- Where no elastic operation of the bundle has a destination, no held result loses its register (R114). -/
theorem tokensTake_none {s : State} (h : ∀ o ∈ s.ops, o.agent = s.who → o.bun = s.issue.serial0 → o.dest = none) : s.tokensTake = s := by
  unfold State.tokensTake
  dsimp only
  rw [if_pos]
  rw [List.isEmpty_iff, List.filterMap_eq_nil_iff]
  intro o ho
  simp only [List.mem_filter, Bool.and_eq_true, beq_iff_eq] at ho
  exact h o ho.1 ho.2.1 ho.2.2

/-- A release that a bundle makes changes no agent's state and no memory. -/
theorem releaseFor_leaves (s : State) (a scope : Nat) (cyc : Word) (bun : Nat) (waits : Bool) :
    (s.releaseFor a scope cyc bun waits).c = s.c ∧ SameMemory s (s.releaseFor a scope cyc bun waits) := by
  unfold State.releaseFor
  split
  · exact ⟨rfl, sameMemory_refl s⟩
  · split <;> exact ⟨rfl, sameMemory_refl s⟩

theorem commitReleases_leaves (s : State) (i : Issue) (cyc : Word) :
    (s.commitReleases i cyc).c = s.c ∧ SameMemory s (s.commitReleases i cyc) := by
  refine List.foldlRecOn (motive := fun t : State => t.c = s.c ∧ SameMemory s t) _ _ ⟨rfl, sameMemory_refl s⟩ fun t ht c _ => ?_
  obtain ⟨hc, hmem⟩ := releaseFor_leaves t t.who c cyc i.serial0 _
  exact ⟨hc.trans ht.1, sameMemory_trans ht.2 hmem⟩

/-- The cycles of a bundle (R109): one, its ADV', and one for a taken branch. -/
def bundleCycles (s : State) (b : Bundle) : Nat :=
  1 + (if b.h.ver = 1#2 then 16 * b.h.adv.toNat else b.h.adv.toNat) + boolNat s.issue.target.isSome

/-- A commit without elastic destinations advances the agent by the bundle's cycles. -/
theorem advances_commitBundle {s : State} (b : Bundle) (hs : ∀ h ∈ s.c.f.pend, ToRegister h.land)
    (ho : ∀ o ∈ s.ops, o.agent = s.who → o.bun = s.issue.serial0 → o.dest = none) : Advances (bundleCycles s b) s (s.commitBundle b) := by
  have pops : SameWork s (s.issue.pops.foldl (fun (t : State) n => { t with c := t.c.updChan n Chan.pop })
      (s.flow fun f => { f with pos := b.pos })) :=
    SameWork.trans (t := s.flow fun f => { f with pos := b.pos }) ⟨rfl, rfl, rfl, rfl, rfl, rfl, rfl, rfl, rfl, rfl, rfl, rfl, rfl⟩
      (sameWork_pops _ _)
  have point {t : State} (h : SameWork s t) : SameWork s (if b.h.opv && !isLadle s.who then
      (t.sys fun y => { y with opReq := b.h.opp }).retarget (coreOf s.who) else t) := by
    split
    · exact (h.trans (sameWork_sys _ _)).trans (sameWork_retarget _ _)
    · exact h
  have ppt {t : State} (h : SameWork s t) : SameWork s (if s.issue.after = .ppt then t.pointCtx else t) := by
    split
    · exact h.trans ⟨rfl, rfl, rfl, rfl, rfl, rfl, rfl, rfl, rfl, rfl, rfl, rfl, rfl⟩
    · exact h
  have tokens {t : State} (h : SameWork s t) : SameWork s t.tokensTake := by
    rw [tokensTake_none (by rw [h.ops, h.who, h.issue]; exact ho)]
    exact h
  have before := (((tokens (ppt (point pops))).trans (sameWork_leaseCommit _)).trans (sameWork_nextPc _)).trans
    (sameWork_sys _ fun y => { y with tokWait := false, hung := false })
  have cycles := advances_cycles (bundleCycles s b) fun h hh => hs h (by rwa [before.pend] at hh)
  have now : ∀ {t : State}, SameWork s t → t.c.now = s.c.now := fun h => by rw [Ctx.now, Ctx.now, h.e, h.lcc, h.hcc]
  obtain ⟨hc, hmem⟩ := commitReleases_leaves (State.cycles _ (bundleCycles s b)) s.issue s.c.f.lcc
  obtain ⟨mode, lcc, hcc, pend, shows, same, memory⟩ := cycles
  rw [before.e] at mode
  rw [before.e, before.lcc] at lcc
  rw [before.e, before.hcc] at hcc
  rw [before.pend, now before] at pend shows same
  rw [before.r] at same
  exact ⟨hc ▸ mode, hc ▸ lcc, hc ▸ hcc, hc ▸ pend, hc ▸ shows, hc ▸ same, sameMemory_trans (sameMemory_trans before.sameMemory memory) hmem⟩

/-- Settles O56: a commit advances its agent by the bundle's cycles, and each register shows the result that lands on it. -/
theorem logicalTimeAdvances : Obligations.LogicalTimeAdvances := by
  intro s b hs ho a t due alone
  obtain ⟨-, lcc, hcc, pend, shows, same, memory⟩ := advances_commitBundle b hs ho
  have ha : bundleCycles s b = a := by
    change 1 + _ + boolNat _ = 1 + _ + _
    cases s.issue.target <;> rfl
  rw [ha] at lcc hcc pend shows same
  refine ⟨fun hm => ?_, fun hm => ?_, pend, fun h hh hd hal => ?_, fun r hr => same (.s r) ?_, fun r hr => same (.p r) ?_,
    fun r hr => same (.v r) ?_, memory⟩
  · exact ⟨by rw [lcc, hm]; rfl, by rw [hcc, hm]; rfl⟩
  · exact ⟨by rw [hcc, hm]; rfl, by rw [lcc, hm]; rfl⟩
  · have shown : Shows t.c.r h.land := shows h hh hd hal
    refine ⟨fun r v p hl => ?_, fun r v p hl => ?_, fun r v p hl => ?_⟩ <;> rw [hl] at shown <;> exact shown
  · intro h hh hd hres
    obtain ⟨v, p, hl⟩ := (landing_of_res (hs h hh) r).1 hres
    exact hr h hh hd v p hl
  · intro h hh hd hres
    obtain ⟨v, p, hl⟩ := (landing_of_res (hs h hh) r).2.1 hres
    exact hr h hh hd v p hl
  · intro h hh hd hres
    obtain ⟨v, p, hl⟩ := (landing_of_res (hs h hh) r).2.2 hres
    exact hr h hh hd v p hl

end Sys2Proof.Scope
end

section
/-! The frame of classes 000 to 101: what the issue of an instruction leaves alone (R111, R134, R148, R466). -/

namespace Sys2Proof.Scope

open Sys2Proof.Machine Sys2Proof.Safety Sys2Proof.Laws

/-! ## What a slot may change -/

/-- A slot adds held results, waits and operations, records things for its bundle and finds errors; the rest stays. -/
structure Leaves (s t : State) : Prop where
  frame : t = { s with
    ab := { s.ab with pois := t.ab.pois }, sp := { s.sp with pois := t.sp.pois }, tmem := { s.tmem with pois := t.tmem.pois },
    spSeen := t.spSeen, svc := { s.svc with errs := t.svc.errs },
    c := { s.c with f := { s.c.f with pend := t.c.f.pend, blocked := t.c.f.blocked } },
    issue := t.issue, tick := t.tick, clock := t.clock, serial := t.serial, ops := t.ops }
  lost : ∀ sp u, (t.bankAS sp).lost 6 u = (s.bankAS sp).lost 6 u
  tmem : ∀ u, t.tmem.lost 4 u = s.tmem.lost 4 u
  pend : s.c.f.pend <+: t.c.f.pend
  ops : s.ops <+: t.ops

theorem Leaves.trans {s t u : State} (h : Leaves s t) (g : Leaves t u) : Leaves s u := by
  refine ⟨?_, fun sp x => (g.lost sp x).trans (h.lost sp x), fun x => (g.tmem x).trans (h.tmem x), h.pend.trans g.pend,
    h.ops.trans g.ops⟩
  have h1 := h.frame
  have g1 := g.frame
  rw [h1] at g1
  exact g1

theorem leaves_noticed {s t : State} (h : Noticed s t) : Leaves s t := by
  have hf := h.frame
  refine ⟨?_, h.lost, h.tmem, ?_, ?_⟩
  · rw [hf]
  · rw [h.c]
  · rw [h.ops]

theorem leaves_iss (s : State) (f : Issue → Issue) : Leaves s (s.iss f) :=
  ⟨rfl, fun _ _ => rfl, fun _ => rfl, List.prefix_rfl, List.prefix_rfl⟩

/-- The statement's form of it: the errors first, then what the slot adds. -/
theorem Leaves.added {s t : State} (h : Leaves s t) : ∃ hs os waits r, Noticed s r ∧ t = { r with
    c := { s.c with f := { s.c.f with pend := s.c.f.pend ++ hs, blocked := waits } },
    issue := t.issue, tick := t.tick, clock := t.clock, serial := t.serial, ops := s.ops ++ os } := by
  obtain ⟨hs, hpend⟩ := h.pend
  obtain ⟨os, hops⟩ := h.ops
  have hf := h.frame
  refine ⟨hs, os, t.c.f.blocked, { s with
    ab := { s.ab with pois := t.ab.pois }, sp := { s.sp with pois := t.sp.pois }, tmem := { s.tmem with pois := t.tmem.pois },
    spSeen := t.spSeen, svc := { s.svc with errs := t.svc.errs } }, ⟨rfl, fun sp u => ?_, fun u => ?_⟩, ?_⟩
  · have hl := h.lost sp u
    rw [hf] at hl
    exact hl
  · have hl := h.tmem u
    rw [hf] at hl
    exact hl
  · rw [hpend, hops]
    exact hf

/-- Unless it stops its bundle, a slot leaves the state alone. -/
def Quiet (s t : State) : Prop := t.issue.stop = none → s.issue.stop = none ∧ Leaves s t

theorem Quiet.refl (s : State) : Quiet s s := fun h => ⟨h, leaves_noticed (.refl s)⟩

theorem Quiet.trans {s t u : State} (h : Quiet s t) (g : Quiet t u) : Quiet s u := fun hu =>
  have ⟨ht, gl⟩ := g hu
  have ⟨hs, hl⟩ := h ht
  ⟨hs, hl.trans gl⟩

section
variable (s : State)

theorem quiet_noticed {t : State} (h : Noticed s t) : Quiet s t := fun ht => ⟨h.issue ▸ ht, leaves_noticed h⟩

theorem quiet_iss {f : Issue → Issue} (h : ∀ i, (f i).stop = i.stop := by intro; rfl) : Quiet s (s.iss f) := fun ht =>
  ⟨(h s.issue).symm.trans ht, leaves_iss s f⟩

theorem quiet_raise (k : TrapKind) (v : Word) : Quiet s (s.raise k v) := by
  intro ht
  cases hs : s.issue.stop with
  | none => rw [raise_spec hs] at ht; cases ht
  | some p => rw [raise_later (by rw [hs]; rfl), hs] at ht; cases ht

theorem quiet_stallFor (n : Nat) : Quiet s (s.stallFor n) := quiet_iss s

theorem quiet_hold {n : Nat} {l : Landing} {ring : Option PVec} : Quiet s (s.hold n l ring) := fun ht =>
  ⟨ht, rfl, fun _ _ => rfl, fun _ => rfl, List.prefix_append .., List.prefix_rfl⟩

theorem quiet_block {w : Nat → Wait} : Quiet s (s.block w) := fun ht =>
  ⟨ht, rfl, fun _ _ => rfl, fun _ => rfl, List.prefix_rfl, List.prefix_rfl⟩

theorem quiet_ticked : Quiet s s.ticked := fun ht =>
  ⟨ht, rfl, fun _ _ => rfl, fun _ => rfl, List.prefix_rfl, List.prefix_rfl⟩

theorem quiet_queued (o : Op) : Quiet s (queued s o) := fun ht =>
  ⟨ht, rfl, fun _ _ => rfl, fun _ => rfl, List.prefix_rfl, List.prefix_append ..⟩

theorem quiet_releaseHeld (rel : Option Nat) : Quiet s (releaseHeld s rel) := by
  cases rel with
  | none => exact .refl s
  | some c =>
    show Quiet s (s.releaseStall c)
    unfold State.releaseStall
    split
    · exact quiet_stallFor s 6
    · exact .refl s

theorem quiet_farStall (kind : OpKind) : Quiet s (s.farStall kind) := by
  unfold State.farStall
  split
  · exact quiet_stallFor s 5
  · exact .refl s

theorem quiet_issueOp {kind : OpKind} {dest : Option Res} {gp acq : Bool} {rel : Option Nat} :
    Quiet s (s.issueOp kind dest gp acq rel) := by
  rw [issueOp_eq]
  exact ((quiet_releaseHeld s rel).trans (quiet_farStall _ kind)).trans (quiet_queued _ _)

theorem quiet_notice_tmem (k n : Nat) : Quiet s (s.notice .tmem k n) := quiet_noticed s (noticed_notice s (by simp) k n)

theorem quiet_ite {p : Prop} [Decidable p] {t u : State} (ht : Quiet s t) (hu : Quiet s u) : Quiet s (if p then t else u) := by
  split <;> assumption

/-! ## Channel heads -/

theorem quiet_touchHead (n : Nat) : Quiet s (s.touchHead n) :=
  quiet_ite s (quiet_raise s _ _) (quiet_ite s (quiet_stallFor s _)
    ((quiet_noticed s (noticed_noticeAS s _ _ _)).trans (quiet_iss _)))

theorem quiet_touchOp (a : VOp) : Quiet s (s.touchOp a) := by
  unfold State.touchOp
  split
  · exact quiet_touchHead s _
  · exact .refl s

end

theorem quiet_touchOps (as : List VOp) : ∀ s : State, Quiet s (as.foldl State.touchOp s) := by
  induction as with
  | nil => exact .refl
  | cons a as ih => exact fun s => (quiet_touchOp s a).trans (ih _)

/-! ## Outcomes of a slot -/

/-- Every next state is quiet. -/
def Calm (s : State) (o : Out) : Prop := ∀ t, o = .next t → Quiet s t

theorem Quiet.calm {s t : State} (h : Quiet s t) : Calm s (.next t) := by
  intro u hu
  injection hu with hu
  exact hu ▸ h

section
variable (s : State) {g : Guard}

theorem calm_guarded {f : Bool → State} (h : ∀ p, Quiet s (f p)) : Calm s (s.guarded g f) :=
  (quiet_ite s (h true) (quiet_ite s (h false) (.refl s))).calm

theorem calm_consuming {srcs : List SReg} {pre : Option TrapKind} {u : State} (h : Quiet s u) : Calm s (s.consuming g srcs pre u) := by
  refine (quiet_ite s (.refl s) ?_).calm
  cases pre with
  | some k => exact quiet_raise s k _
  | none => exact quiet_ite s (quiet_raise s _ _) h

theorem calm_withHeads {as : List VOp} {f : State → State} (h : ∀ u, Quiet u (f u)) : Calm s (s.withHeads as f) := by
  have ht := quiet_touchOps as s
  exact (quiet_ite s ht (ht.trans (h _))).calm

/-! ## Shapes of instructions -/

theorem calm_alu1 {d a f} : Calm s (s.alu1 g d a f) := calm_guarded s fun _ => quiet_hold s

theorem calm_alu2 {n d a b f} : Calm s (s.alu2 g n d a b f) := calm_guarded s fun _ => quiet_hold s

theorem calm_aluImm {d a f} : Calm s (s.aluImm d a f) := (quiet_hold s).calm

theorem calm_pred2 {d a b f} : Calm s (s.pred2 g d a b f) := calm_guarded s fun _ => quiet_hold s

theorem calm_after {a : After} : Calm s (.next (s.iss fun i => { i with after := a })) := (quiet_iss s).calm

theorem quiet_armLoop (n : Nat) (v : Word) : Quiet s (s.armLoop n v) :=
  quiet_ite s (quiet_raise s _ _) (quiet_iss s)

theorem calm_vmerge {n rule whole pg w d srcs scalars f} : Calm s (s.vmerge n rule whole pg w d srcs scalars f) :=
  calm_withHeads s fun u => quiet_hold u

theorem calm_vwhole {n rule guards d srcs v} : Calm s (s.vwhole n rule guards d srcs v) :=
  calm_withHeads s fun u => quiet_hold u

theorem calm_vpred {n pg w pd srcs f} : Calm s (s.vpred n pg w pd srcs f) := calm_withHeads s fun u => quiet_hold u

theorem calm_vpair {pg w d a b f h} : Calm s (s.vpair pg w d a b f h) :=
  calm_withHeads s fun u => (quiet_hold u).trans (quiet_hold _)

theorem calm_preempt {d a b mode} : Calm s (s.preemptInstr g d a b mode) :=
  calm_consuming s ((quiet_issueOp s).trans (quiet_block _))

/-! ## Piecewise functions -/

theorem quiet_noticeSegs (h : SegHeader) (a : Int) (cs : List Nat) : Quiet s (s.noticeSegs h a cs) := by
  unfold State.noticeSegs
  generalize coreOf s.who = k
  induction cs generalizing s with
  | nil => exact .refl s
  | cons c cs ih =>
    rw [List.foldl_cons]
    refine Quiet.trans ?_ (ih _)
    split
    · exact quiet_notice_tmem s _ _
    · exact .refl s

theorem calm_sfInstr {n pg t d a k pair} : Calm s (s.sfInstr n pg t d a k pair) := by
  refine calm_withHeads s fun u => ?_
  dsimp only
  split
  · exact quiet_raise u _ _
  · exact quiet_raise u _ _
  · split
    · exact quiet_raise u _ _
    · exact quiet_raise u _ _
    · exact (quiet_noticeSegs u _ _ _).trans (quiet_hold _)

theorem quiet_tabRange {a : Int} {n : Nat} {u : State} (h : Quiet s u) : Quiet s (s.tabRange a n u) := by
  refine quiet_ite s (quiet_stallFor s _) ?_
  split
  · exact quiet_raise s _ _
  · exact h

theorem quiet_sftGate {a : Int} {n : Nat} {u : State} (h : Quiet s u) : Quiet s (s.sftGate a n u) := by
  unfold State.sftGate
  split
  · exact quiet_raise s _ _
  · exact h

theorem quiet_bindSlot {k : Nat} {t : TabSlot} {d : SReg} {status : Nat} {gp : Bool} : Quiet s (s.bindSlot k t d status gp) :=
  (quiet_hold s).trans (quiet_hold _)

/-! ## Instructions of a shape of their own -/

theorem calm_brs {d a : SReg} : Calm s (execBrs g d a s) :=
  calm_consuming s (quiet_ite s (quiet_raise s _ _) ((quiet_iss s).trans (quiet_hold _)))

theorem calm_sread {d : SReg} {num : BitVec 12} : Calm s (execSread d num s) :=
  (quiet_ite s (quiet_raise s _ _) ((quiet_hold s).trans (quiet_ticked _))).calm

theorem calm_swrite {num : BitVec 12} {a : SReg} : Calm s (execSwrite num a s) :=
  (quiet_ite s (quiet_raise s _ _) (quiet_ite s (quiet_raise s _ _) (quiet_ite s (quiet_raise s _ _)
    (quiet_ite s (quiet_hold s) (quiet_ite s (.refl s) (quiet_hold s)))))).calm

theorem calm_halt : Calm s (execHalt s) := by
  refine Quiet.calm ?_
  split
  · exact quiet_raise s _ _
  · exact quiet_iss s

theorem calm_sftBind {d a : SReg} {k : BitVec 2} : Calm s (execSftBind g d a k s) :=
  calm_consuming s (quiet_ite s (quiet_raise s _ _) (quiet_tabRange s (quiet_tabRange s (quiet_sftGate s
    (quiet_ite s ((quiet_notice_tmem s _ _).trans (quiet_bindSlot _))
      ((quiet_notice_tmem s _ _).trans (quiet_bindSlot _)))))))

theorem calm_sftChk {d a : SReg} : Calm s (execSftChk g d a s) :=
  calm_consuming s (quiet_ite s (quiet_raise s _ _) (quiet_tabRange s (quiet_tabRange s (quiet_sftGate s
    ((quiet_notice_tmem s _ _).trans (quiet_issueOp _))))))

end

/-! ## Every instruction of the classes -/

/-- Every instruction of classes 000 to 101 but SFT.LOAD is calm. -/
theorem calm_exec (s : State) {i : Instr} (hlow : i.opc.elim 0xC0 BitVec.toNat < 0xC0)
    (hload : ∀ g d a b, i ≠ .sftLoad g d a b) : Calm s (exec i s) := by
  cases i <;> dsimp only [exec]
  case add | sub | and | or | xor | shl | shr | sar | mul | mulh | mulhn | div | divn | rem | remn | min | max | minn | maxn =>
    exact calm_alu2 s
  case clz | ctz | popc => exact calm_alu1 s
  case addi | andi | ori | xori | shli | shri | sari => exact calm_aluImm s
  case pand | por | pxor => exact calm_pred2 s
  case sel | cmpCc | pnot | movpPs | movpSp | movpBc | poisTest | poisClr | poisSet | sftInfo =>
    exact calm_guarded s fun _ => quiet_hold s
  case movi | shi | vins | pcnt | pfirst => exact (quiet_hold s).calm
  case br => exact calm_consuming s (quiet_iss s)
  case brl => exact calm_consuming s ((quiet_iss s).trans (quiet_hold _))
  case brs => exact calm_brs s
  case loop => exact calm_consuming s (quiet_armLoop s _ _)
  case loopi => exact (quiet_armLoop s _ _).calm
  case ppt | yield | trap | svc => exact calm_after s
  case exit => exact (quiet_ite s (quiet_raise s _ _) (quiet_iss s)).calm
  case eret => exact (quiet_ite s (quiet_iss s) (quiet_raise s _ _)).calm
  case halt => exact calm_halt s
  case tstamp | fcrSet | fcrGet => exact calm_consuming s (quiet_hold s)
  case tstampSet => exact calm_consuming s ((quiet_hold s).trans (quiet_hold _))
  case sread => exact calm_sread s
  case swrite => exact calm_swrite s
  case panAck | panRead => exact calm_consuming s (quiet_issueOp s)
  case preemptStop | preemptResume | preemptState => exact calm_preempt s
  case ctxSave | ctxLoad =>
    exact calm_consuming s (quiet_ite s (quiet_raise s _ _) ((quiet_issueOp s).trans (quiet_block _)))
  case vadd | vsub | vmul | vmulh | vmin | vmax | vand | vor | vxor | vnot | vshl | vshr | vsar | vadds | vsubs | vhash =>
    exact calm_vmerge s
  case fadd | fsub | fmul | fma | fms | fnma | fnms | fmin | fmax | fabs | fneg | fclass | frnd | fscale => exact calm_vmerge s
  case vmov | vbcast | vperm | vslideUp | vslideDn | vrot | vscanAdd | vdot4 => exact calm_vmerge s
  case vcmpCc | fcmpCc => exact calm_vpred s
  case vsel | vimm | vshli | vshri | vsari | cvt | mxpack | mxunpack | b16pack => exact calm_vwhole s
  case vradd | vrmin | vrmax | fradd | frmin | frmax => exact calm_vwhole s
  case vzip | vunzip | vtrn => exact calm_vpair s
  case vext => exact calm_withHeads s fun u => quiet_hold u
  case sfEval | sfEvalx => exact calm_sfInstr s
  case sftBind => exact calm_sftBind s
  case sftBindOff => exact calm_guarded s fun _ => quiet_bindSlot s
  case sftChk => exact calm_sftChk s
  case sftLoad => exact absurd rfl (hload _ _ _ _)
  all_goals simp [Instr.opc] at hlow

/-- Settles O58: each instruction of the classes is calm. -/
theorem slotsLeaveStateAlone : Obligations.SlotsLeaveStateAlone := fun s t _ _ ho hlow hload _ hexec hstop =>
  (calm_exec s (by rw [ho]; exact hlow) hload t hexec hstop).2.added

end Sys2Proof.Scope
end

section
/-! A load of no bytes as it is performed (R283, R339). -/

namespace Sys2Proof.Scope

open Sys2Proof.Machine Sys2Proof.Safety Sys2Proof.Laws

/-- A scalar load of no bytes of AB, issued by context 0; no instruction issues one. -/
def emptyLoad : Op :=
  { id := 0, agent := 0, owner := 0, kind := .read [some (.ab 0)] 0 false 1, dest := some (.s 1), gp := false, acq := false, rel := none,
    pos := 0, cyc := 0#64, pc := 0#64, hm := false, phase := .issued, result := [], ready := true, bundle := 0, bun := 0, units := [] }

/-- The load is the only operation; AB holds no error. -/
def emptyLoadState : State := { State.reset with ops := [emptyLoad] }

/-- The results that wait for their arrival in an outcome. -/
def resultsOf : Out → List (List Landing)
  | .next t => t.ops.map Op.result
  | _ => []

/-- Its one unit reads nothing, which the operation's record of units keeps as no unit: the load ends as if no unit had been
read, and its zero is poisoned. -/
theorem emptyLoad_performed : resultsOf (exec (.accessPerformed emptyLoad.id) emptyLoadState) = [[.scal 1 0#64 true]] := by decide +kernel

/-- The bytes that it names are none, and none of them is poisoned. -/
theorem emptyLoad_named : (emptyLoadState.noticeAS false 0 0).ops = [emptyLoad] ∧
    emptyLoadState.ab.readZ 6 0 0 = [] ∧ emptyLoadState.ab.anyPoison 6 0 0 = false := by decide +kernel

/-- Nothing is ordered before it. -/
theorem emptyLoad_only {p : Op} (h : p ∈ emptyLoadState.ops) : p.id = emptyLoad.id := by
  rw [List.mem_singleton.mp h]

/-- Refutes O36: a scalar load of AB of no bytes finds no poisoned byte, yet it lands a poisoned result. -/
theorem not_elasticOperationsAreCarriedOut : ¬ Obligations.ElasticOperationsAreCarriedOut := by
  intro h
  obtain ⟨-, -, due, -⟩ := h emptyLoadState emptyLoad rfl
  obtain ⟨loads, -⟩ := due rfl (fun p hp later => later.2.1 (emptyLoad_only hp)) (by simp [emptyLoad])
  have runs := loads 0 0 1 rfl rfl
  obtain ⟨hops, hread, hclean⟩ := emptyLoad_named
  rw [hread, hclean] at runs
  have lands := (congrArg resultsOf runs).symm.trans emptyLoad_performed
  simp [resultsOf, emptyLoad, updWhere, hops] at lands

end Sys2Proof.Scope
end

section
/-! Division (R131, R136). -/

namespace Sys2Proof.Scope

open Sys2Proof.Machine Sys2Proof.Safety Sys2Proof.Laws

theorem divS_eq {x y : Word} (h : y ≠ 0#64) : divS x y = x.sdiv y := by
  rw [divS, if_neg h]
  exact BitVec.eq_of_toInt_eq ((BitVec.toInt_ofInt ..).trans (BitVec.toInt_sdiv ..).symm)

theorem remS_eq (x y : Word) : remS x y = x.srem y := by
  by_cases h : y = 0#64
  · rw [remS, if_pos h, h, BitVec.srem_zero]
  · rw [remS, if_neg h, intWord, ← BitVec.toInt_srem, BitVec.ofInt_toInt]

theorem divN_eq {x y : Word} (h : y ≠ 0#64) : divN x y = x / y := by
  rw [divN, if_neg h, toWord, ← BitVec.toNat_udiv, BitVec.ofNat_toNat, BitVec.setWidth_eq]

theorem remN_eq (x y : Word) : remN x y = x % y := by
  by_cases h : y = 0#64
  · rw [remN, if_pos h, h, BitVec.umod_zero]
  · rw [remN, if_neg h, toWord, ← BitVec.toNat_umod, BitVec.ofNat_toNat, BitVec.setWidth_eq]

/-- Settles O2: outside the edges the quotients and remainders are those of the library's division of words. -/
theorem scalarDivision : Obligations.ScalarDivision := by
  refine ⟨fun s g d a b h => ?_, by decide, by decide, by decide⟩
  intro x y p
  refine ⟨divS x y, remS x y, divN x y, remN x y, alu2_executes h .., alu2_executes h .., alu2_executes h .., alu2_executes h ..,
    fun hy => ⟨if_pos hy, if_pos hy, if_pos hy, if_pos hy⟩, ?_, fun hy hedge => ?_, fun hy => ?_⟩
  · rintro ⟨hx, hy⟩
    rw [hx, hy]
    decide
  · rw [divS_eq hy, remS_eq]
    exact ⟨BitVec.toInt_sdiv_of_ne_or_ne x y (not_and_or.mp hedge), BitVec.toInt_srem x y⟩
  · rw [divN_eq hy, remN_eq]
    exact ⟨BitVec.toNat_udiv, BitVec.toNat_umod⟩

end Sys2Proof.Scope
end

section
/-! Branches (R141). -/

namespace Sys2Proof.Scope

open Sys2Proof.Machine Sys2Proof.Safety Sys2Proof.Laws

/-- A branch offset in words. -/
theorem branchOffset_eq (off : BitVec 19) : off.signExtend 64 <<< 2 = BitVec.ofInt 64 (4 * off.toInt) := by
  rw [BitVec.shiftLeft_eq_mul_twoPow, BitVec.mul_comm, BitVec.ofInt_mul]
  rfl

/-- BRS goes to the span offset in its register, or finds it ILLEGAL. -/
theorem exec_brs {s : State} {g : Guard} {a : SReg} (h : Ready s g [a]) (d : SReg) : exec (.brs g d a) s = .next (
    if (bits (s.rs a) 0 2 != 0 || bits (s.rs a) 18 46 != 0) = true then s.raise .illegal 0#64
    else (s.iss fun i => { i with target := some (s.base + s.rs a) }).hold 1 (.scal d.toNat (s.issue.next - s.base) false) none) :=
  consuming_ready h _

/-- Settles O5: BR and BRL by their offset, BRS by whether its register holds a word of the span. -/
theorem branchesAreTaken : Obligations.BranchesAreTaken := by
  intro s g d a off to_ link
  refine ⟨fun h => ?_, fun h h4 h18 => ?_, fun h hbad => ?_⟩
  · rw [← branchOffset_eq]
    exact ⟨consuming_ready h _, consuming_ready h _⟩
  · rw [exec_brs h, (runStart_iff _).mpr ⟨h4, h18⟩]
    rfl
  · rw [exec_brs h, if_pos]
    rw [← Bool.not_eq_false, runStart_iff]
    omega

end Sys2Proof.Scope
end

section
/-! Loops: arming at the issue, the levels that a bundle ends at its commit (R141 to R143). -/

namespace Sys2Proof.Scope

open Sys2Proof.Machine Sys2Proof.Safety Sys2Proof.Laws

/-! ## LOOP and LOOPI (R142) -/

theorem armLoop_unfit {s : State} {n : Nat}
    (h : ¬ (bits (s.c.loopEntry n) 62 2 = 1 ∧ s.issue.next = s.base + toWord (4 * bits (s.c.loopEntry n) 0 16))) (count : Word) :
    s.armLoop n count = s.raise .illegal 0#64 := by
  refine if_pos ?_
  rw [Bool.or_eq_true, bne_iff_ne, bne_iff_ne]
  exact not_and_or.mp h

/-! ## The order of the levels that end together (R143) -/

/-- Level `m` lies inside level `n`, or stands before it: START descending, then the level descending. -/
def Inside (start : Nat → Nat) (m n : Nat) : Prop := start n < start m ∨ (start n = start m ∧ n < m)

theorem Inside.trans {start : Nat → Nat} {l m n : Nat} (h : Inside start l m) (g : Inside start m n) : Inside start l n := by
  unfold Inside at *
  omega

theorem Inside.ne {start : Nat → Nat} {m n : Nat} (h : Inside start m n) : m ≠ n := by
  unfold Inside at h
  rintro rfl
  omega

theorem inside_of_not {start : Nat → Nat} {m n : Nat} (h : ¬ Inside start n m) (hne : n ≠ m) : Inside start m n := by
  unfold Inside at *
  omega

theorem insertLevel_perm (start : Nat → Nat) (n : Nat) (l : List Nat) : (insertLevel start n l).Perm (n :: l) := by
  induction l with
  | nil => exact .refl _
  | cons m r ih =>
    unfold insertLevel
    split
    · exact .refl _
    · exact (ih.cons m).trans (.swap n m r)

theorem insertLevel_pairwise {start : Nat → Nat} {n : Nat} {l : List Nat} (hl : l.Pairwise (Inside start)) (hn : n ∉ l) :
    (insertLevel start n l).Pairwise (Inside start) := by
  induction l with
  | nil => exact List.pairwise_singleton _ n
  | cons m r ih =>
    obtain ⟨hm, hr⟩ := List.pairwise_cons.mp hl
    obtain ⟨hne, hnr⟩ := not_or.mp (mt List.mem_cons.mpr hn)
    unfold insertLevel
    split
    next h =>
      have first : Inside start n m := h
      exact hl.cons (List.forall_mem_cons.mpr ⟨first, fun x hx => first.trans (hm x hx)⟩)
    next h =>
      refine (ih hr hnr).cons fun x hx => ?_
      exact List.forall_mem_cons.mpr ⟨inside_of_not h hne, hm⟩ x ((insertLevel_perm start n r).mem_iff.mp hx)

/-- Inserting the levels one by one keeps them, each in its place. -/
theorem foldr_insertLevel (start : Nat → Nat) {l : List Nat} (hl : l.Nodup) :
    (l.foldr (insertLevel start) []).Perm l ∧ (l.foldr (insertLevel start) []).Pairwise (Inside start) := by
  induction l with
  | nil => exact ⟨.refl _, .nil⟩
  | cons n r ih =>
    obtain ⟨hn, hr⟩ := List.nodup_cons.mp hl
    obtain ⟨hperm, hsorted⟩ := ih hr
    exact ⟨(insertLevel_perm ..).trans (hperm.cons n), insertLevel_pairwise hsorted (mt hperm.mem_iff.mp hn)⟩

/-- The armed levels that end at a word, and their order. -/
theorem endsAt_spec (c : Ctx) (o : Nat) :
    (∀ n, n ∈ c.endsAt o ↔ n < 4 ∧ c.lcntOf n ≠ 0#64 ∧ bits (c.loopEntry n) 62 2 = 1 ∧ c.loopEnd n = o) ∧
      (c.endsAt o).Pairwise (Inside c.loopStart) := by
  obtain ⟨hperm, hsorted⟩ := foldr_insertLevel c.loopStart (List.Nodup.filter _ (List.nodup_range (n := 4)))
  refine ⟨fun n => hperm.mem_iff.trans ?_, hsorted⟩
  simp [and_assoc]

/-! ## Counting down (R143) -/

/-- Levels on their last trip are disarmed until one with trips left is counted down. -/
theorem loopStep_spec (cnt : SMap Word) {l : List Nat} (hl : l.Nodup) (h0 : ∀ n ∈ l, SMap.at 0#64 cnt n ≠ 0#64) :
    ∃ done rest, l = done ++ rest ∧ (loopStep cnt l).2 = rest.head? ∧
      (∀ n ∈ done, SMap.at 0#64 cnt n = 1#64 ∧ SMap.at 0#64 (loopStep cnt l).1 n = 0#64) ∧
      (∀ n, rest.head? = some n → 1#64 < SMap.at 0#64 cnt n ∧ SMap.at 0#64 (loopStep cnt l).1 n = SMap.at 0#64 cnt n - 1#64) ∧
      ∀ n, n ∉ done → rest.head? ≠ some n → SMap.at 0#64 (loopStep cnt l).1 n = SMap.at 0#64 cnt n := by
  induction l generalizing cnt with
  | nil => exact ⟨[], [], rfl, rfl, by simp, by simp, fun _ _ _ => rfl⟩
  | cons m r ih =>
    obtain ⟨hm, hr⟩ := List.nodup_cons.mp hl
    unfold loopStep
    dsimp only
    split
    next hmore =>
      refine ⟨[], m :: r, rfl, rfl, by simp, fun n hn => ?_, fun n _ hn => ?_⟩
      · obtain rfl : m = n := Option.some.inj hn
        exact ⟨hmore, get_set_same ..⟩
      · exact get_set_other _ _ fun e => hn (e ▸ rfl)
    next hlast =>
      have hone : SMap.at 0#64 cnt m = 1#64 := by
        have := h0 m List.mem_cons_self
        bv_omega
      have other {n : Nat} (hn : n ≠ m) : SMap.at 0#64 (SMap.put 0#64 cnt m 0#64) n = SMap.at 0#64 cnt n := get_set_other _ _ hn
      have later {n : Nat} (hn : n ∈ r) : n ≠ m := fun e => hm (e ▸ hn)
      obtain ⟨done, rest, rfl, hlevel, hdone, hhead, hframe⟩ := ih (SMap.put 0#64 cnt m 0#64) hr fun n hn => by
        rw [other (later hn)]
        exact h0 n (List.mem_cons_of_mem _ hn)
      have head {n : Nat} (hn : rest.head? = some n) : n ≠ m := later (List.mem_append_right _ (List.mem_of_mem_head? hn))
      refine ⟨m :: done, rest, rfl, hlevel, List.forall_mem_cons.mpr ⟨⟨hone, ?_⟩, fun n hn => ?_⟩, fun n hn => ?_, fun n hn hn' => ?_⟩
      · rw [hframe m (fun h => later (List.mem_append_left _ h) rfl) fun h => head h rfl]
        exact get_set_same ..
      · obtain ⟨h1, hz⟩ := hdone n hn
        exact ⟨(other (later (List.mem_append_left _ hn))).symm.trans h1, hz⟩
      · rw [← other (head hn)]
        exact hhead n hn
      · obtain ⟨hne, hnd⟩ := not_or.mp (mt List.mem_cons.mpr hn)
        rw [hframe n hnd hn', other hne]

/-! ## The bundle that follows (R141 to R143) -/

/-- The counts once the bundle's LOOP or LOOPI has armed its level. -/
def armedCounts (s : State) : SMap Word := s.issue.arm.elim s.c.f.lcnt fun a => SMap.put 0#64 s.c.f.lcnt a.1 a.2

/-- The bundle that follows when no body is entered again: the sequential successor, or what lies behind a loop of no trips. -/
def bundleAfter (s : State) : Word := s.issue.arm.elim s.issue.next fun a => if a.2 = 0#64 then s.afterLoop a.1 else s.issue.next

/-- The state with its PC and its counts set. -/
def goingTo (s : State) (pc : Word) (cnt : SMap Word) : State := s.flow fun f => { f with pc := pc, lcnt := cnt }

theorem nextPc_taken {s : State} {v : Word} (h : s.issue.target = some v) : s.nextPc = goingTo s v (armedCounts s) := by
  simp only [State.nextPc, armedCounts, h]
  cases s.issue.arm <;> rfl

theorem nextPc_untaken {s : State} (h : s.issue.target = none) {r : SMap Word × Option Nat}
    (hr : r = loopStep (armedCounts s) ((goingTo s s.c.f.pc (armedCounts s)).c.endsAt ((s.issue.pc - s.base).toNat / 4))) :
    s.nextPc = goingTo s (match r.2 with | some n => s.base + toWord (4 * s.c.loopStart n) | none => bundleAfter s) r.1 := by
  subst hr
  simp only [State.nextPc, armedCounts, bundleAfter, h]
  cases s.issue.arm <;> rfl

/-- Settles O6. -/
theorem loopsRun : Obligations.LoopsRun := by
  refine ⟨fun s g n a count => ?_, fun s => ?_⟩
  · intro e fits armed
    refine ⟨fun hf => ⟨fun h => ?_, ?_⟩, fun h hp => consuming_poisoned h (by simpa using hp) _, fun hf => ⟨fun h => ?_, ?_⟩⟩
    · exact (consuming_ready h _).trans (congrArg _ (armLoop_fits hf.1 hf.2 _))
    · exact congrArg _ (armLoop_fits hf.1 hf.2 _)
    · exact (consuming_ready h _).trans (congrArg _ (armLoop_unfit hf _))
    · exact congrArg _ (armLoop_unfit hf _)
  · intro t c word count header follows
    have counts (n : Nat) : SMap.at 0#64 (armedCounts s) n = count n := by
      unfold armedCounts
      cases harm : s.issue.arm with
      | none => simp only [count, harm]; rfl
      | some a => simp only [count, harm]; exact get_set ..
    have after : bundleAfter s = follows := by
      unfold bundleAfter
      cases harm : s.issue.arm with
      | none => simp only [follows, harm]; rfl
      | some a => simp only [follows, harm]; rfl
    refine ⟨fun v hv => ?_, fun hv => ?_⟩
    · have ht : t = goingTo s v (armedCounts s) := nextPc_taken hv
      rw [ht]
      exact ⟨rfl, counts⟩
    · obtain ⟨mem, sorted⟩ := endsAt_spec (goingTo s s.c.f.pc (armedCounts s)).c word
      obtain ⟨done, rest, hsplit, hlevel, hdone, hhead, hframe⟩ := loopStep_spec (armedCounts s) (sorted.imp Inside.ne) fun n hn => ((mem n).mp hn).2.1
      have ht := nextPc_untaken hv rfl
      rw [hsplit] at mem sorted
      rw [hlevel] at ht
      simp only [counts] at hdone hhead hframe
      have now : ∀ n, t.c.lcntOf n = SMap.at 0#64 (loopStep (armedCounts s) ((goingTo s s.c.f.pc (armedCounts s)).c.endsAt word)).1 n :=
        fun n => congrArg (fun u : State => u.c.lcntOf n) ht
      have pc := congrArg (fun u : State => u.c.f.pc) ht
      simp only [now]
      refine ⟨done, rest, fun n => (mem n).trans ?_, sorted, hdone, ?_, hframe⟩
      · rw [← counts]
        rfl
      · cases rest with
        | nil => exact pc.trans after
        | cons n r =>
          obtain ⟨hmore, hless⟩ := hhead n rfl
          exact ⟨hmore, hless, pc⟩

end Sys2Proof.Scope
end

section
/-! Compares, predicate instructions, predicate moves and immediates (R134, R137 to R139). -/

namespace Sys2Proof.Scope

open Sys2Proof.Machine Sys2Proof.Safety Sys2Proof.Laws

/-! ## Fields of a number -/

/-- The replaced field shows the low bits of the new value, every other bit the old one. -/
theorem testBit_setBits (v lo n x i : Nat) :
    (setBits v lo n x).testBit i = if lo ≤ i ∧ i < lo + n then x.testBit (i - lo) else v.testBit i := by
  obtain ⟨high, field, low, hfield, hlow, hv⟩ : ∃ high field low, field < 2 ^ n ∧ low < 2 ^ lo ∧ v = 2 ^ lo * (2 ^ n * high + field) + low :=
    ⟨v / 2 ^ lo / 2 ^ n, v / 2 ^ lo % 2 ^ n, v % 2 ^ lo, Nat.mod_lt _ (Nat.two_pow_pos n), Nat.mod_lt _ (Nat.two_pow_pos lo), by
      rw [Nat.div_add_mod, Nat.div_add_mod]⟩
  have old : natBits v lo n = field := by
    rw [natBits, hv, Nat.mul_add_div (Nat.two_pow_pos lo), Nat.div_eq_of_lt hlow, Nat.add_zero, Nat.mul_add_mod, Nat.mod_eq_of_lt hfield]
  have new : setBits v lo n x = 2 ^ lo * (2 ^ n * high + x % 2 ^ n) + low := by
    rw [setBits, old, hv, Nat.mul_add, Nat.mul_add, Nat.mul_comm field, Nat.mul_comm (x % 2 ^ n)]
    omega
  rw [new, hv, Nat.testBit_two_pow_mul_add _ hlow, Nat.testBit_two_pow_mul_add _ hlow,
    Nat.testBit_two_pow_mul_add _ (Nat.mod_lt x (Nat.two_pow_pos n)), Nat.testBit_two_pow_mul_add _ hfield, Nat.testBit_mod_two_pow]
  grind

theorem shiftLeft_or_low (v : Word) (i : BitVec 18) : ((v <<< 18) ||| i.setWidth 64).toNat = v.toNat * 2 ^ 18 % 2 ^ 64 + i.toNat := by
  have hi := i.isLt
  have hv : v.toNat * 2 ^ 18 % 2 ^ 64 = 2 ^ 18 * (v.toNat % 2 ^ 46) := by omega
  rw [BitVec.toNat_or, BitVec.toNat_shiftLeft, Nat.shiftLeft_eq, BitVec.toNat_setWidth, Nat.mod_eq_of_lt (by omega : i.toNat < 2 ^ 64), hv,
    Nat.two_pow_add_eq_or_of_lt hi]

theorem sshiftRight_toInt (v : Word) (n : Nat) : (v.sshiftRight n).toInt = v.toInt / 2 ^ n := by
  rw [BitVec.toInt_sshiftRight, Int.shiftRight_eq_div_pow]
  norm_cast

/-- 64 bits of a predicate as a register value. -/
theorem toWord_natBits (v : Pred) (i : Nat) : toWord (natBits v.toNat i 64) = v.extractLsb' i 64 := by
  apply BitVec.eq_of_toNat_eq
  rw [toWord, natBits, BitVec.toNat_ofNat, Nat.mod_mod, BitVec.extractLsb'_toNat, Nat.shiftRight_eq_div_pow]

/-! ## CMP.cc (R137) -/

theorem exec_cmpCc {s : State} {g : Guard} (h : Executes s g) (cc : BitVec 4) (pd : PReg) (a b : SReg) {t : Bool}
    (ht : condition cc.toNat (s.rs a) (s.rs b) = t) : exec (.cmpCc g cc pd a b) s
      = .next (s.hold 1 (.pred pd.toNat (if t then BitVec.allOnes 256 else 0#256) (s.guardPois g || s.ps a || s.ps b)) none) :=
  ht ▸ guarded_executes h fun gp => s.holdP 1 pd (allBits (condition cc.toNat (s.rs a) (s.rs b))) (gp || s.ps a || s.ps b)

/-- A predicate with a field replaced: the field, and what stays. -/
theorem replaced_field (p : Pred) (x : Word) (q : BitVec 2) :
    (BitVec.ofNat 256 (setBits p.toNat (64 * q.toNat) 64 x.toNat)).extractLsb' (64 * q.toNat) 64 = x ∧
      ∀ i, i < 256 → i / 64 ≠ q.toNat → (BitVec.ofNat 256 (setBits p.toNat (64 * q.toNat) 64 x.toNat)).getLsbD i = p.getLsbD i := by
  have hq := q.isLt
  have bit (i : Nat) : (BitVec.ofNat 256 (setBits p.toNat (64 * q.toNat) 64 x.toNat)).getLsbD i =
      (decide (i < 256) && if 64 * q.toNat ≤ i ∧ i < 64 * q.toNat + 64 then x.getLsbD (i - 64 * q.toNat) else p.getLsbD i) := by
    rw [BitVec.getLsbD_ofNat, testBit_setBits, BitVec.testBit_toNat, BitVec.testBit_toNat]
  refine ⟨BitVec.eq_of_getLsbD_eq fun i hi => ?_, fun i hi hne => ?_⟩
  · rw [BitVec.getLsbD_extractLsb', bit, if_pos (by omega), Nat.add_sub_cancel_left, decide_eq_true hi, decide_eq_true (by omega)]
    rfl
  · rw [bit, if_neg (by omega), decide_eq_true hi]
    rfl

/-- Settles O3: each shape gives its result, the facts above the values that are not plain. -/
theorem predicateAndImmediateResults : Obligations.PredicateAndImmediateResults := by
  refine ⟨fun s g d a b pd pa pb q h => ?_, fun s d a i13 i18 n => ?_⟩
  · intro x y gp cmp res
    obtain ⟨field, others⟩ := replaced_field (s.rp pd) x q
    refine ⟨⟨exec_cmpCc h _ pd a b ?_, exec_cmpCc h _ pd a b ?_, exec_cmpCc h _ pd a b ?_, exec_cmpCc h _ pd a b ?_, exec_cmpCc h _ pd a b ?_,
      exec_cmpCc h _ pd a b ?_, exec_cmpCc h _ pd a b ?_, exec_cmpCc h _ pd a b ?_⟩, fun cc hcc => ?_, pred2_executes h .., pred2_executes h ..,
      pred2_executes h .., guarded_executes h fun gp => s.holdP 1 pd (~~~ s.rp pa) (gp || s.pp pa), ?_,
      ⟨_, guarded_executes h fun gp => s.holdP 1 pd (BitVec.ofNat 256 (setBits (s.rp pd).toNat (64 * q.toNat) 64 x.toNat)) (gp || s.ps a || s.pp pd),
        field, others⟩, guarded_executes h fun gp => s.holdP 1 pd (allBits (x.getLsbD 0)) (gp || s.ps a)⟩
    · exact beq_eq_decide ..
    · exact (congrArg _ (beq_eq_decide ..)).trans (decide_not ..).symm
    · rfl
    · exact (decide_not ..).symm.trans (decide_eq_decide.mpr Int.not_lt)
    · rfl
    · exact (decide_not ..).symm.trans (decide_eq_decide.mpr Nat.not_lt)
    · exact (congrArg _ (beq_eq_decide ..)).trans (decide_not ..).symm
    · exact beq_eq_decide ..
    · simp only [Instr.wf, decide_eq_false (Nat.not_lt.mpr hcc), Bool.false_and]
    · rw [← toWord_natBits]
      exact guarded_executes h fun gp => s.holdS 1 d (toWord (natBits (s.rp pa).toNat (64 * q.toNat) 64)) (gp || s.pp pa)
  · intro x res
    exact ⟨rfl, rfl, rfl, rfl, rfl, rfl, ⟨_, rfl, sshiftRight_toInt x n.toNat⟩, rfl, ⟨_, rfl, shiftLeft_or_low _ i18⟩⟩

end Sys2Proof.Scope
end

section
/-! Atomics and AMXACC at their issue, and what an atomic writes (R134, R272, R338, R356 to R358). -/

namespace Sys2Proof.Scope

open Sys2Proof.Machine Sys2Proof.Safety Sys2Proof.Laws

/-! ## The scope of a location (R338) -/

theorem locScope_eq (s : State) (sp : Bool) (va : Word) : s.locScope sp va =
    if sp then 3 else if s.ownPackage va = false then 6 else if bits va 50 1 = dieOf (coreOf s.who) then 4 else 5 := by
  cases h : s.ownPackage va <;> simp [State.locScope, h]

/-! ## Atomics of global memory (R272, R357) -/

section
variable {s : State} {z : Nat} {d : SReg} {va a : Word} {acq : Bool} {rel : Option Nat} {kind : Loc → OpKind} (ha : a = alignTo z va)
include ha

/-- An address of another package is left to the fabric. -/
theorem atomGlob_far (h0 : bits a 60 4 = 0) (ho : s.ownPackage a = false) :
    s.atomGlob z d va acq rel kind = s.issueOp (kind (.glob a)) (some (.s d.toNat)) false acq rel := by
  subst ha
  exact if_pos ⟨h0, ho⟩

/-- An address of this package is translated with write rights. -/
theorem atomGlob_own (h : bits a 60 4 ≠ 0 ∨ s.ownPackage a = true) {u : State} {die pa : Nat}
    (hr : s.resolveFor (s.reqOf s.who) a true = (u, .ok (die, pa))) :
    s.atomGlob z d va acq rel kind = u.issueOp (kind (.phys die pa a)) (some (.s d.toNat)) false acq rel := by
  subst ha
  unfold State.atomGlob
  dsimp only
  rw [if_neg fun hf => h.elim (fun h => h hf.1) fun h => Bool.noConfusion (h.symm.trans hf.2), hr]

/-- A page that forbids the write suspends a context, and fails a Ladle's access. -/
theorem atomGlob_fault (h : bits a 60 4 ≠ 0 ∨ s.ownPackage a = true) {u : State} {f : AFault}
    (hr : s.resolveFor (s.reqOf s.who) a true = (u, .error f)) :
    s.atomGlob z d va acq rel kind = if isLadle s.who
      then ((u.globFault (s.reqOf s.who) f a true).countFail (s.reqOf s.who).ctx 1 31).issueOp (.read [none] z false d.toNat) (some (.s d.toNat)) false acq rel
      else u.stopWith (.access u.issue.pos 0 f.code (accessFlags (s.reqOf s.who) a f.level true) (a &&& toWord (2 ^ 60 - 1))) := by
  subst ha
  unfold State.atomGlob
  dsimp only
  rw [if_neg fun hf => h.elim (fun h => h hf.1) fun h => Bool.noConfusion (h.symm.trans hf.2), hr]

end

/-! ## AADD to ADECP (R356, R357) -/

/-- Issuing an operation finds no race. -/
theorem noRace_issueOp {s : State} (h : NoRace s) (kind : OpKind) (dest : Option Res) (gp acq : Bool) (rel : Option Nat) :
    NoRace (s.issueOp kind dest gp acq rel) := by
  have held : NoRace (releaseHeld s rel) := by
    cases rel with
    | none => exact h
    | some c =>
      unfold releaseHeld State.releaseStall
      dsimp only
      split <;> exact h
  have far : NoRace ((releaseHeld s rel).farStall kind) := by
    unfold State.farStall
    split <;> exact held
  rw [issueOp_eq]
  exact far

section
variable {s : State} {g : Guard} {f : AtomOp} {ord : BitVec 2} {dw : Bool} {d b : SReg} {srcs : List SReg} {v w : Word} {z : Nat}
  (hz : z = if dw then 8 else 4)
include hz

theorem atomic_sp (h : Ready s g (b :: srcs)) (hf : s.needFeat 0 = none) (hr : NoRace s) {k : Nat}
    (hk : s.spot true z (s.rs b) = .own k ∨ s.spot true z (s.rs b) = .other k) (free : RaceFree s true true false k z) :
    s.atomic g f ord true dw d b srcs v w = .next (s.issueOp (.atom f (.sp k) z v w) (some (.s d.toNat)) false (ord.getLsbD 0)
      (if ord.getLsbD 1 then some 3 else none)) := by
  subst hz
  have ends {t : State} (ht : t = s) : ((t.raceCheck true true false k (if dw then 8 else 4)).issueOp
      (.atom f (.sp k) (if dw then 8 else 4) v w) (some (.s d.toNat)) false (ord.getLsbD 0) (if ord.getLsbD 1 then some 3 else none)).raiseRaces
      = s.issueOp (.atom f (.sp k) (if dw then 8 else 4) v w) (some (.s d.toNat)) false (ord.getLsbD 0) (if ord.getLsbD 1 then some 3 else none) := by
    rw [ht, raceCheck_free free, raiseRaces_none (noRace_issueOp hr ..)]
  refine (consuming_present hf h _).trans (congrArg _ ?_)
  rcases hk with hk | hk
  · simp only [hk]
    exact ends rfl
  · simp only [hk]
    exact ends rfl

/-- An address outside the window gives poisoned zero, with a record. -/
theorem atomic_denied (h : Ready s g (b :: srcs)) (hf : s.needFeat 0 = none) {k : Nat} {far : Bool} (hk : s.spot true z (s.rs b) = .bad k far) :
    s.atomic g f ord true dw d b srcs v w = .next ((s.postAccess (s.reqOf s.who) k 4 (onDieAddr true z (s.rs b))).issueOp
      (.read [none] z false d.toNat) (some (.s d.toNat)) false (ord.getLsbD 0) (if ord.getLsbD 1 then some 3 else none)) := by
  subst hz
  refine (consuming_present hf h _).trans (congrArg _ ?_)
  simp only [hk]
  rfl

theorem atomic_glob (h : Ready s g (b :: srcs)) (hf : s.needFeat 11 = none) {rel : Option Nat}
    (hrel : rel = if ord.getLsbD 1 then some (s.locScope false (s.rs b)) else none) :
    s.atomic g f ord false dw d b srcs v w = .next (s.atomGlob z d (s.rs b) (ord.getLsbD 0) rel fun l => .atom f l z v w) := by
  subst hz hrel
  exact consuming_present hf h _

end

/-! ## What an atomic writes (R356) -/

/-- The signed value of a unit of 4 or 8 bytes. -/
theorem signedOf_unit {z : Nat} (hz : z = 4 ∨ z = 8) (x : Nat) :
    signedOf (8 * z) x = if x < 2 ^ (8 * z) / 2 then (x : Int) else (x : Int) - ((2 ^ (8 * z) : Nat) : Int) := by
  rcases hz with rfl | rfl <;> rfl

theorem atomNew_min (z o v w : Nat) : ∃ x, atomNew .min z o v w = some x ∧ (x = o ∨ x = v) ∧
    signedOf (8 * z) x = min (signedOf (8 * z) o) (signedOf (8 * z) v) := by
  refine ⟨_, rfl, ?_⟩
  split
  next h => exact ⟨.inl rfl, (min_eq_left h.le).symm⟩
  next h => exact ⟨.inr rfl, (min_eq_right (not_lt.mp h)).symm⟩

theorem atomNew_max (z o v w : Nat) : ∃ x, atomNew .max z o v w = some x ∧ (x = o ∨ x = v) ∧
    signedOf (8 * z) x = max (signedOf (8 * z) o) (signedOf (8 * z) v) := by
  refine ⟨_, rfl, ?_⟩
  split
  next h => exact ⟨.inr rfl, (max_eq_right h.le).symm⟩
  next h => exact ⟨.inl rfl, (max_eq_left (not_lt.mp h)).symm⟩

/-! ## AMXACC (R358) -/

/-- An address that is a multiple of its line is its own line. -/
theorem alignTo_line {a : Word} (h : a.toNat % 64 = 0) : alignTo 64 a = a := by
  have ha := a.isLt
  refine BitVec.eq_of_toNat_eq ?_
  change (a.toNat / 64 * 64) % 2 ^ 64 = a.toNat
  omega

theorem exec_amxacc {s : State} {g : Guard} {b : SReg} (h : Ready s g [b]) (ord et : BitVec 2) (d : SReg) (c : VReg) :
    exec (.amxacc g ord et d b c) s = .next (
      if (s.c.r.readV c.toNat).p.getLsbD 0 = true then s.raise .poison 0#64
      else if (s.rs b).toNat % 64 ≠ 0 then s.raise .illegal 0#64
      else s.atomGlob 64 d (s.rs b) (ord.getLsbD 0) (if ord.getLsbD 1 then some (s.locScope false (s.rs b)) else none)
        fun l => .amxacc l et.toNat ((vecBytes (s.c.r.readV c.toNat).v).take 64)) := by
  refine (consuming_ready h _).trans ?_
  simp only [bits_zero, bne_iff_ne]
  rfl

/-- Settles O23: the atomics by where their address lies, AMXACC by its checks. -/
theorem globalUpdates : Obligations.GlobalUpdates := by
  refine ⟨fun s g ord sp dw d b c hr => ?_, fun z o v w hz _ _ => ?_, fun s g ord et d b c h => ?_⟩
  · intro x y z forms acq rel dest feat e he
    have shape : ∀ e ∈ forms, exec e.1 s = s.atomic g e.2.1 ord sp dw d b e.2.2.1 e.2.2.2.1 e.2.2.2.2 := by
      simp only [forms, List.forall_mem_cons]
      exact ⟨rfl, rfl, rfl, rfl, rfl, rfl, rfl, rfl, rfl, fun _ h => absurd h List.not_mem_nil⟩
    have hrel : rel = if ord.getLsbD 1 then some (s.locScope sp x) else none := by rw [locScope_eq]
    rw [shape e he]
    refine ⟨fun k hx hk => ?_, fun h hf => ⟨?_, ?_, ?_⟩⟩
    · unfold State.atomic
      rw [show s.needFeat (if sp then 0 else 11) = some k from hk]
      exact consuming_absent hx _ _ _
    · rintro rfl k hk free
      exact atomic_sp rfl h hf hr hk free
    · rintro rfl k far hk
      exact atomic_denied rfl h hf hk
    · rintro rfl a q rfl rfl
      rw [atomic_glob rfl h hf hrel]
      exact ⟨fun h0 ho => congrArg _ (atomGlob_far rfl h0 ho), fun u die pa ho hp => congrArg _ (atomGlob_own rfl ho hp),
        fun u f ho hp => congrArg _ (atomGlob_fault rfl ho hp)⟩
  · intro M sg
    have signed : ∀ x, signedOf (8 * z) x = sg x := signedOf_unit hz
    have least := atomNew_min z o v w
    have greatest := atomNew_max z o v w
    simp only [signed] at least greatest
    refine ⟨rfl, rfl, rfl, rfl, least, greatest, rfl, fun h => if_pos h, fun h => if_neg h, fun h => if_pos ?_, fun h => if_neg ?_⟩
    · rwa [signed]
    · rw [signed]
      exact not_lt.mpr h
  · intro v a q rel op i
    have hrel : rel = if ord.getLsbD 1 then some (s.locScope false a) else none := by rw [locScope_eq]; rfl
    have run : exec i s = _ := exec_amxacc h ord et d c
    rw [← hrel] at run
    refine ⟨fun hp => ?_, fun hp => ⟨fun ha => ?_, fun ha h0 ho => ?_, fun u die pa ha ho hr => ?_, fun u f ha ho hr => ?_⟩⟩
    · rw [run, if_pos hp]
    all_goals rw [run, if_neg (by rw [show (s.c.r.readV c.toNat).p.getLsbD 0 = false from hp]; exact Bool.false_ne_true)]
    · rw [if_pos ha]
    all_goals rw [if_neg (not_not.mpr ha)]
    · exact congrArg _ (atomGlob_far (alignTo_line ha).symm h0 ho)
    · exact congrArg _ (atomGlob_own (alignTo_line ha).symm ho hr)
    · exact congrArg _ (atomGlob_fault (alignTo_line ha).symm ho hr)

end Sys2Proof.Scope
end

section
/-! What stops of other contexts leave of a suspended one (R160, R275, R343, R401, R404, R410). -/

namespace Sys2Proof.Scope

open Sys2Proof.Machine Sys2Proof.Safety Sys2Proof.Laws

/-! ## The contexts that a record of supervisors wakes (R160) -/

/-- A map with every value changed by its key. -/
theorem get_mapValues {α : Type} {d : Nat → α} {f : Nat → α → α} {k : Nat} (hd : f k (d k) = d k) (m : SMap α) :
    SMap.get d (m.map fun e => (e.1, f e.1 e.2)) k = f k (SMap.get d m k) := by
  induction m with
  | nil => exact hd.symm
  | cons e m ih =>
    obtain ⟨a, v⟩ := e
    simp only [List.map_cons, SMap.get]
    split
    next h => rw [h]
    next => exact ih

/-- What a die's supervisor record makes of agent `a`: a HALTED context of the die runs. -/
def awake (die a : Nat) (c : Ctx) : Ctx := if c.st = .halted ∧ a < 2048 ∧ dieOf (coreOf a) = die then { c with st := .running } else c

theorem awake_of_ne {die a : Nat} {c : Ctx} (h : c.st ≠ .halted) : awake die a c = c := if_neg fun hc => h hc.1

theorem ctx_wakeHalted (s : State) (die x : Nat) : (s.wakeHalted die).ctx x = awake die x (s.ctx x) := by
  have woken : State.ctx { s with c := awake die s.who s.c, parked := s.parked.map fun e => (e.1, awake die e.1 e.2) } x = awake die x (s.ctx x) := by
    unfold State.ctx
    by_cases hx : s.who = x
    · rw [if_pos hx, if_pos hx, ← hx]
    · rw [if_neg hx, if_neg hx]
      exact get_mapValues (awake_of_ne (by decide)) s.parked
  rw [← woken]
  exact ctx_foldl (fun t e _ => ctx_retarget t _ x) _

/-! ## A context that stays suspended -/

/-- The context, if it is suspended, still is. -/
def KeepsSuspended (x : Nat) (s t : State) : Prop := (s.ctx x).st = .suspended → (t.ctx x).st = .suspended

theorem KeepsSuspended.trans {x : Nat} {s t u : State} (h : KeepsSuspended x s t) (g : KeepsSuspended x t u) : KeepsSuspended x s u :=
  fun hs => g (h hs)

theorem KeepsSuspended.after {x : Nat} {s t u : State} (g : KeepsSuspended x t u) (h : KeepsSuspended x s t) : KeepsSuspended x s u := h.trans g

theorem keepsSuspended_of_ctx {x : Nat} {s t : State} (h : t.ctx x = s.ctx x) : KeepsSuspended x s t := fun hs => h ▸ hs

theorem keepsSuspended_foldl {α : Type} {x : Nat} {f : State → α → State} {l : List α} (hf : ∀ t, ∀ a ∈ l, KeepsSuspended x t (f t a))
    (s : State) :
    KeepsSuspended x s (l.foldl f s) :=
  List.foldlRecOn (motive := fun t => KeepsSuspended x s t) l f id fun t h a ha => h.trans (hf t a ha)

section
variable {x : Nat} (s : State)

/-- An update that suspends, or that leaves the state as it is, resumes nothing. -/
theorem keepsSuspended_upd (a : Nat) {f : Ctx → Ctx} (hf : ∀ c : Ctx, c.st = .suspended → (f c).st = .suspended) :
    KeepsSuspended x s (s.upd a f) := by
  intro hs
  rw [ctx_upd]
  split
  next h => exact hf _ (h ▸ hs)
  next => exact hs

theorem keepsSuspended_post (i : Nat) (rec : List Byte) : KeepsSuspended x s (s.post i rec) := by
  have written {t : State} {va : Word} {part : Nat} {sup write : Bool} {r : Except AFault (Nat × Nat)}
      (h : s.resolve va part sup write = (t, r)) : KeepsSuspended x s t := keepsSuspended_of_ctx (ctx_resolve h x)
  unfold State.post
  dsimp only
  split
  · exact id
  · split
    · exact id
    · split
      next t _ h => exact fun hs => (written h : KeepsSuspended x s t) hs
      next t die pa h =>
        refine (written h).trans (KeepsSuspended.trans (keepsSuspended_of_ctx (ctx_writeHbm t 0 die pa rec false x)) ?_)
        split
        · intro hs
          rw [ctx_wakeHalted, awake_of_ne]
          · exact hs
          · exact fun hh => CtxState.noConfusion (hs.symm.trans hh)
        · exact id

theorem keepsSuspended_postRing (i : Nat) (rec : List Byte) : KeepsSuspended x s (s.postRing i rec) := by
  unfold State.postRing State.postFault State.postCounted
  dsimp only
  split
  · exact keepsSuspended_post s i rec
  · split
    · exact keepsSuspended_post s i _
    · exact keepsSuspended_post s i _

theorem keepsSuspended_postSuspend (m reason kind pos : Nat) (einfo : Word) : KeepsSuspended x s (s.postSuspend m reason kind pos einfo) := by
  unfold State.postSuspend State.postSuspendAt State.postReleased
  dsimp only
  split
  · exact keepsSuspended_postRing s _ _
  · exact id

theorem keepsSuspended_leaveWait (m : Nat) : KeepsSuspended x s (s.leaveWait m) := by
  unfold State.leaveWait
  dsimp only
  split
  · exact id
  · refine (keepsSuspended_upd _ m ?_).after id
    exact fun _ h => h

theorem keepsSuspended_expireLease (m : Nat) (l : Lease) : KeepsSuspended x s (s.expireLease m l) := by
  unfold State.expireLease
  split <;> exact id

theorem keepsSuspended_releaseFor (a scope : Nat) (cyc : Word) (bun : Nat) (waits : Bool) :
    KeepsSuspended x s (s.releaseFor a scope cyc bun waits) := by
  unfold State.releaseFor
  split
  · exact id
  · split <;> exact id

theorem keepsSuspended_setCtx {a : Nat} (h : x ≠ a) (c : Ctx) : KeepsSuspended x s (s.setCtx a c) :=
  keepsSuspended_of_ctx ((ctx_setCtx s a x c).trans (if_neg h))

theorem keepsSuspended_updLadle (l : Nat) (f : Ladle → Ladle) : KeepsSuspended x s (s.updLadle l f) := id

theorem keepsSuspended_orders (ops : List Op) (cmds : List Cmd) : KeepsSuspended x s { s with ops, cmds } := id

theorem keepsSuspended_elems (elems : List Elem) : KeepsSuspended x s { s with elems } := id

/-- A Ladle's rewind sets back the Ladle and the channels of the context that it serves. -/
theorem keepsSuspended_rewindLadle (hx : x < 2048) (l : Nat) : KeepsSuspended x s (s.rewindLadle l) := by
  unfold State.rewindLadle
  dsimp only
  split
  · refine (keepsSuspended_updLadle _ _ _).after ((keepsSuspended_setCtx _ (by omega) _).after ?_)
    refine (keepsSuspended_orders _ _ _).after ((keepsSuspended_leaveWait _ _).after ?_)
    refine (keepsSuspended_foldl (fun u n _ => ?_) _).after (keepsSuspended_elems _ _)
    refine keepsSuspended_upd u _ ?_
    exact fun _ h => h
  · exact id

theorem keepsSuspended_stopCtx (hx : x < 2048) (m : Nat) : KeepsSuspended x s (s.stopCtx m .suspended) := by
  unfold State.stopCtx State.parkCtx
  dsimp only
  refine KeepsSuspended.trans ?_ (keepsSuspended_of_ctx (ctx_retarget _ _ x))
  refine KeepsSuspended.trans ?_ (keepsSuspended_upd _ m fun _ _ => rfl)
  refine KeepsSuspended.trans ?_ (keepsSuspended_foldl (fun t l _ => ?_) _)
  · refine KeepsSuspended.trans ?_ (keepsSuspended_releaseFor _ _ _ _ _ _)
    refine KeepsSuspended.trans ?_ (keepsSuspended_expireLease _ m _)
    exact (keepsSuspended_leaveWait _ m).after id
  · split
    · exact keepsSuspended_rewindLadle t hx l
    · exact id

end

/-- Route G suspends the member at fault, and the stops of the others do not resume it (R399). -/
theorem suspendGang_st {s : State} {x : Nat} (hx : x < 2048) (reason kind pos : Nat) (einfo : Word) :
    ((s.suspendGang x reason kind pos einfo).ctx x).st = .suspended := by
  unfold State.suspendGang
  exact keepsSuspended_foldl (fun t m _ => (keepsSuspended_postSuspend t m 5 0 15 0#64).trans (keepsSuspended_stopCtx _ hx m)) _ (stopCtx_st ..)

end Sys2Proof.Scope
end

section
/-! Traps taken, and what a context does after the commit of its bundle (R149 to R152, R160, R162, R399, R434). -/

namespace Sys2Proof.Scope

open Sys2Proof.Machine Sys2Proof.Safety Sys2Proof.Laws

/-! ## Traps (R149, R399) -/

section
variable {s : State} (hw : s.who < 2048)
include hw

theorem takeTrap_delivers {k : TrapKind} (hk : k ≠ .feature) (pos : Nat) (info : Word) : s.takeTrap k pos info = s.deliver k pos info s.c.pcOff := by
  unfold State.takeTrap
  rw [isLadle_context hw]
  cases k with
  | feature => exact absurd rfl hk
  | _ => rfl

theorem takeTrap_feature (pos : Nat) (info : Word) : s.takeTrap .feature pos info = s.suspendGang s.who 2 3 pos info := by
  unfold State.takeTrap
  rw [isLadle_context hw]
  rfl

end

/-! ## Leaving the slot (R123, R434) -/

/-- Giving up the slot changes a context's energy alone. -/
theorem freeSlot_ctx (s : State) (x : Nat) : ∃ e, (s.freeSlot x).ctx x = { s.ctx x with y := { (s.ctx x).y with energy := e } } := by
  by_cases ho : s.slotOwner (coreOf x) = some x
  · have charged : ∃ e, (s.chargeSlot (coreOf x)).ctx x = { s.ctx x with y := { (s.ctx x).y with energy := e } } := by
      unfold State.chargeSlot
      split
      next y hy =>
        have hyx : y = x := by
          split at hy
          · cases hy
          · exact Option.some_inj.mp (hy.symm.trans ho)
        subst hyx
        exact ⟨_, (ctx_upd ..).trans (if_pos rfl)⟩
      next => exact ⟨_, rfl⟩
    rw [freeSlot_owner ho]
    exact charged
  · exact ⟨_, congrArg (State.ctx · x) (if_neg ho : s.freeSlot x = s)⟩

/-- What EXIT makes of its own context (R146). -/
def exited (c : Ctx) : Ctx := { c with exiting := true, f := { c.f with pend := [] }, y := { c.y with stop := none } }

/-- The lease, the Ladles, the gang and the slot, which EXIT changes too, are not the context's own state (R146, R427). -/
theorem exitCtx_ctx (s : State) (x : Nat) : ∃ e, (s.exitCtx x).ctx x = { exited (s.ctx x) with y := { (exited (s.ctx x)).y with energy := e } } := by
  have lease (t : State) (l : Lease) : (t.expireLease x l).ctx x = t.ctx x := by
    unfold State.expireLease
    split <;> rfl
  have ladles (t : State) : ([2 * coreOf x, 2 * coreOf x + 1].foldl (fun t l =>
      let u := t.updLadle l fun d => { d with runs := d.runs.filter fun r => r.ctx != x }
      if (u.ladle l).serving = some x then u.endRun l else u) t).ctx x = t.ctx x := by
    refine ctx_foldl (fun u l _ => ?_) t
    dsimp only
    split <;> rfl
  have gang (t : State) : (match t.gang (t.ctx x).y.gang with
      | none => t
      | some g => match g.rankOf x with
        | none => t
        | some r => t.updGang g.id fun y => { y with exited := r :: y.exited }).ctx x = t.ctx x := by
    split
    · rfl
    · split <;> rfl
  obtain ⟨e, he⟩ := freeSlot_ctx _ x
  refine ⟨e, (ctx_retarget _ _ x).trans (he.trans (congrArg (fun c : Ctx => { c with y := { c.y with energy := e } }) ?_))⟩
  exact (gang _).trans ((ladles _).trans ((lease _ _).trans ((ctx_upd ..).trans (if_pos rfl))))

/-- HALT stops its context, which has left its slot (R160, R434). -/
theorem haltCtx_ctx (s : State) (x : Nat) : ∃ e, (s.haltCtx x).ctx x = { s.ctx x with st := .halted, y := { (s.ctx x).y with energy := e } } := by
  obtain ⟨e, he⟩ := freeSlot_ctx (s.upd x fun c => { c with st := .halted }) x
  refine ⟨e, (ctx_retarget _ _ x).trans (he.trans ?_)⟩
  rw [ctx_upd, if_pos rfl]

theorem returnCtx_idle {s : State} (h : s.c.f.pend = []) (b : Ctx) (hb : b = { s.c with
      e := { s.c.e with hm := false }, y := s.c.y.settleTabs true,
      f := { s.c.f with ring := s.c.f.saved.ring, pos := s.c.f.saved.pos, pend := s.c.f.saved.pend, blocked := s.c.f.saved.blocked,
                        saved := Saved.none, pc := s.base + s.c.e.epc.setWidth 64 } }) :
    s.returnCtx = { s with
      c := s.c.f.saved.arrived.foldl (fun x h => x.land h.land) b,
      ops := updWhere (fun o => o.agent == s.who) (fun o => { o with hm := false }) s.ops } := by
  subst hb
  unfold State.returnCtx
  rw [h]
  simp only [List.length_nil, State.landAll, List.foldl_map]

/-- Settles O55: a trap is delivered to the handler or suspends the gang, and the other points act on their own context. -/
theorem trapsAndReturns : Obligations.TrapsAndReturns := by
  intro s k pos info imm hw c off enters
  have entered (t : State) (kind : TrapKind) (p : Nat) (v : Word) (ht : t = { s with c := s.c.enterHandler kind p v s.c.pcOff }) :
      enters t kind.code p v := by
    subst ht
    exact ⟨rfl, rfl, rfl, rfl, rfl, rfl, rfl, rfl, fun _ => rfl, fun _ => rfl, rfl, rfl, rfl, rfl⟩
  refine ⟨?_, ?_, ?_, suspendGang_st hw .., rfl, ?_, returnCtx_idle, rfl, ?_, stopCtx_st .., ?_⟩
  · intro hk hh hv
    exact entered _ k pos info ((takeTrap_delivers hw hk pos info).trans (deliver_enters hh hv k pos info _))
  · intro hk
    subst hk
    exact takeTrap_feature hw pos info
  · intro hk hh
    exact (takeTrap_delivers hw hk pos info).trans (deliver_suspends hh k pos info _)
  · intro hh hv
    exact entered _ .trap 0 _ (deliver_enters hh hv .trap 0 _ _)
  · have halted := haltCtx_ctx s s.who
    rw [ctx_who] at halted
    exact halted
  · obtain ⟨e, he⟩ := exitCtx_ctx s s.who
    rw [ctx_who] at he
    have h : (s.afterCommit .exit).ctx s.who = _ := he
    rw [h]
    exact ⟨rfl, rfl, rfl⟩

end Sys2Proof.Scope
end

section
/-! Poisoned sources of the instructions that consume them (R134, R278). -/

namespace Sys2Proof.Scope

open Sys2Proof.Machine Sys2Proof.Safety Sys2Proof.Laws

/-- Once its group is present, a slot that consumes its sources raises POISON for a poisoned guard or source. -/
theorem consuming_poisoned_present {s : State} {g : Guard} {l : List SReg} {pre : Option TrapKind} (hx : Executes s g) (hpre : pre = none)
    (hp : s.guardPois g = true ∨ ∃ a ∈ l, s.ps a = true) (f : State) : s.consuming g l pre f = .next (s.raise .poison 0#64) := by
  rw [hpre]
  exact consuming_poisoned hx hp f

/-- Settles O10: each of the instructions passes its guard and its sources to `State.consuming`. -/
theorem poisonedSourcesTrap : Obligations.PoisonedSourcesTrap := by
  intro s g d a b c v x n w k o6 o2 off num p q j hx poison traps
  have plain {l : List SReg} {f : State} (h : s.guardPois g = true ∨ ∃ r ∈ l, s.ps r = true) : s.consuming g l none f = poison :=
    consuming_poisoned hx h f
  refine ⟨⟨plain, plain, plain, plain, plain, plain, plain, plain, plain, plain⟩, exec_swrite_poisoned, ?_,
    ⟨plain, plain, plain⟩, ?_, ?_, ?_, ?_, ?_, ?_, ?_, ?_, ?_, ?_⟩
  · intro hs
    have hpre : s.supOnly = none := by simp [State.supOnly, hs]
    have present {f : State} (h : s.guardPois g = true ∨ ∃ r ∈ [a, b], s.ps r = true) : s.consuming g [a, b] s.supOnly f = poison :=
      consuming_poisoned_present hx hpre h f
    exact ⟨present, present, present, present, present⟩
  · exact ⟨plain, plain, plain, plain, plain, plain, plain, plain, plain, plain, plain⟩
  · intro hf
    have present {l : List SReg} {f : State} (h : s.guardPois g = true ∨ ∃ r ∈ l, s.ps r = true) :
        s.consuming g l (s.needFeat (if p then 0 else 11)) f = poison := consuming_poisoned_present hx hf h f
    exact ⟨present, present, present, present, present, present, present, present, present⟩
  · exact ⟨plain, plain, plain, plain, plain, plain, plain, plain⟩
  · intro hf h
    exact consuming_poisoned_present hx (ite_eq_right_iff.mpr hf) h _
  · intro hf h
    exact consuming_poisoned_present hx (ite_eq_right_iff.mpr hf) h _
  · exact ⟨plain, plain, plain⟩
  · intro hj
    have present {l : List SReg} {f : State} (h : s.guardPois g = true ∨ ∃ r ∈ l, s.ps r = true) :
        s.consuming g l (s.needLad j) f = poison := consuming_poisoned_present hx hj h f
    exact ⟨present, present, present⟩
  · intro hb
    have present {l : List SReg} {f : State} (h : s.guardPois g = true ∨ ∃ r ∈ l, s.ps r = true) :
        s.consuming g l s.needB16 f = poison := consuming_poisoned_present hx hb h f
    exact ⟨present, present, present, present, present, present, present, present, present, present, present, present⟩
  · exact ⟨plain, plain, plain, plain, plain, plain, plain⟩
  · intro bad
    have fails {srcs : List SReg} {q : Prop} {f : State} [Decidable q] (h : Ready s g srcs) (hq : q) :
        s.consuming g srcs none (if q then s.raise .poison 0#64 else f) = poison :=
      (consuming_ready h _).trans (congrArg _ (if_pos hq))
    have marked {y : VReg} (h : bad y) : ((s.c.r.readV y.toNat).p != 0#4) = true := bne_iff_ne.mpr h
    refine ⟨fun h hv => ⟨fails h (marked hv), fails h (marked hv)⟩, fun h hv => fails h ?_, fun h hv => fails h (marked hv),
      fun h hv => fails h (marked hv), fun h hv => fails h hv⟩
    exact (Bool.or_eq_true _ _).mpr (hv.imp marked marked)

end Sys2Proof.Scope
end

section
/-! Points, yields and exits; timestamps, format and poison marks (R121, R144 to R147, R150 to R153, R156, R160, R434). -/

namespace Sys2Proof.Scope

open Sys2Proof.Machine Sys2Proof.Safety Sys2Proof.Laws

/-! ## The ring and a pending STOP across a commit (R144) -/

/-- A pending STOP stands, and where nothing was held or the ring was void, so it is still. -/
structure KeepsPoint (s t : State) : Prop where
  stop : t.c.y.stop = s.c.y.stop
  pend : s.c.f.pend = [] → t.c.f.pend = []
  ring : s.c.f.ring = [] → t.c.f.ring = []

theorem KeepsPoint.refl (s : State) : KeepsPoint s s := ⟨rfl, id, id⟩

theorem KeepsPoint.trans {s t u : State} (h : KeepsPoint s t) (g : KeepsPoint t u) : KeepsPoint s u :=
  ⟨g.stop.trans h.stop, fun hp => g.pend (h.pend hp), fun hr => g.ring (h.ring hr)⟩

theorem keepsPoint_pops (s : State) (l : List Nat) :
    KeepsPoint s (l.foldl (fun (t : State) n => { t with c := t.c.updChan n Chan.pop }) s) :=
  List.foldlRecOn _ _ (.refl s) fun _ h _ _ => h.trans ⟨rfl, id, id⟩

theorem keepsPoint_sys (s : State) (f : Sys → Sys) (hf : ∀ y, (f y).stop = y.stop) : KeepsPoint s (s.sys f) := ⟨hf s.c.y, id, id⟩

theorem keepsPoint_retarget (s : State) (k : Nat) : KeepsPoint s (s.retarget k) := by
  obtain ⟨cs, os, h⟩ := retarget_frame s k
  rw [h]
  exact ⟨rfl, id, id⟩

theorem keepsPoint_tokensTake (s : State) : KeepsPoint s s.tokensTake := by
  unfold State.tokensTake
  dsimp only
  split
  · exact .refl s
  · exact ⟨rfl, fun h => congrArg (List.map _) h, id⟩

theorem keepsPoint_leaseCommit (s : State) : KeepsPoint s s.leaseCommit := by
  unfold State.leaseCommit State.budgetExpire
  dsimp only
  split <;> split <;> exact ⟨rfl, id, id⟩

theorem keepsPoint_nextPc (s : State) : KeepsPoint s s.nextPc := by
  unfold State.nextPc
  dsimp only
  split <;> exact ⟨rfl, id, id⟩

/-- A cycle in which nothing is held lands nothing; a void ring shifts to a void ring. -/
theorem keepsPoint_cycle {s : State} (h : s.c.f.pend = []) : KeepsPoint s s.cycle := by
  unfold State.cycle
  dsimp only
  rw [h, List.filter_nil]
  exact ⟨rfl, fun _ => congrArg (List.filter _) h, fun hr => congrArg ringShift hr⟩

theorem keepsPoint_cycles {s : State} (h : s.c.f.pend = []) (n : Nat) : KeepsPoint s (s.cycles n) := by
  induction n generalizing s with
  | zero => exact .refl s
  | succ n ih => exact (keepsPoint_cycle h).trans (ih ((keepsPoint_cycle h).pend h))

/-- What PPT does at its commit stands between parts of the commit that leave the ring and a pending STOP alone. -/
theorem commitBundle_point {s : State} (h : s.c.f.pend = []) (b : Bundle) : ∃ u v : State, KeepsPoint s u ∧
    KeepsPoint (if s.issue.after = .ppt then u.pointCtx else u) v ∧ (s.commitBundle b).c = v.c := by
  have before : KeepsPoint s (s.issue.pops.foldl (fun (t : State) n => { t with c := t.c.updChan n Chan.pop })
      (s.flow fun f => { f with pos := b.pos })) :=
    KeepsPoint.trans (t := s.flow fun f => { f with pos := b.pos }) ⟨rfl, id, id⟩ (keepsPoint_pops _ _)
  have asked {t : State} (h : KeepsPoint s t) : KeepsPoint s (if b.h.opv && !isLadle s.who then
      (t.sys fun y => { y with opReq := b.h.opp }).retarget (coreOf s.who) else t) := by
    split
    · exact (h.trans (keepsPoint_sys t (fun y => { y with opReq := b.h.opp }) fun _ => rfl)).trans (keepsPoint_retarget _ _)
    · exact h
  have held {t : State} (h : t.c.f.pend = []) : (if s.issue.after = .ppt then t.pointCtx else t).c.f.pend = [] := by
    split <;> exact h
  have after (t : State) : KeepsPoint t (t.tokensTake.leaseCommit.nextPc.sys fun y => { y with tokWait := false, hung := false }) :=
    (((keepsPoint_tokensTake t).trans (keepsPoint_leaseCommit _)).trans (keepsPoint_nextPc _)).trans
      (keepsPoint_sys _ (fun y => { y with tokWait := false, hung := false }) fun _ => rfl)
  exact ⟨_, _, asked before, (after _).trans (keepsPoint_cycles ((after _).pend (held ((asked before).pend h))) _),
    (commitReleases_leaves _ _ _).1⟩

/-! ## Timestamps and masks (R147, R153) -/

theorem stampNow_word (s : State) : s.stampNow.setWidth 64 = toWord ((s.c.f.lcc.toNat + s.c.y.tsoff.toNat) % 2 ^ 32) := by
  apply BitVec.eq_of_toNat_eq
  simp [State.stampNow, toWord]

/-- The low half of a word. -/
theorem setWidth_low (w : Word) : (w.setWidth 32).setWidth 64 = toWord (w.toNat % 2 ^ 32) := by
  apply BitVec.eq_of_toNat_eq
  simp [toWord]

/-- The mask of FCR.SET covers the bits of the chosen fields (R183). -/
theorem getLsbD_fcrMask (f : BitVec 4) {i : Nat} (hi : i < 64) : (fcrMask f).getLsbD i =
    ((decide (i < 2) && f.getLsbD 0) || (decide (i = 2) && f.getLsbD 1) ||
      (decide (i = 3) && f.getLsbD 2) || (decide (8 ≤ i ∧ i < 16) && f.getLsbD 3)) := by
  have every : ∀ f : BitVec 4, ∀ i : Fin 64, (fcrMask f).getLsbD i =
    ((decide (i.val < 2) && f.getLsbD 0) || (decide (i.val = 2) && f.getLsbD 1) ||
      (decide (i.val = 3) && f.getLsbD 2) || (decide (8 ≤ i.val ∧ i.val < 16) && f.getLsbD 3)) := by decide
  exact every f ⟨i, hi⟩

/-- Settles O7: the points by their record of the bundle, the commit by its parts, and the rest by what a running guard gives. -/
theorem pointsStampAndFormat : Obligations.PointsStampAndFormat := by
  constructor
  · intro s imm at_
    refine ⟨⟨by decide, fun ho => if_neg ho, freeSlot_owner⟩, ?_, rfl, rfl, rfl, rfl, fun hm => ⟨?_, ?_⟩,
      fun hm => ⟨?_, ?_⟩, fun hs => ?_, fun hs => ?_⟩
    · rintro h b t rfl
      obtain ⟨u, v, hu, hv, hc⟩ := commitBundle_point h b
      rw [hc]
      refine ⟨fun hp => ?_, fun hp => ?_⟩
      · rw [if_pos hp] at hv
        have ring : v.c.f.ring = [] := hv.ring rfl
        refine ⟨fun q => ?_, hv.stop.trans (congrArg (Option.map _) hu.stop)⟩
        rw [Flow.readQ, ring]
        rfl
      · rw [if_neg hp] at hv
        exact hv.stop.trans hu.stop
    · exact congrArg _ (if_neg (by simp [hm]))
    · exact congrArg _ (if_neg (by simp [hm]))
    · exact congrArg _ (if_pos hm)
    · exact congrArg _ (if_pos hm)
    · change execHalt s = _
      rw [execHalt, show s.supOnly = none by simp [State.supOnly, hs]]
      rfl
    · change execHalt s = _
      rw [execHalt, show s.supOnly = some .priv by simp [State.supOnly, hs]]
  · intro s g d a fields kind x y scal
    refine ⟨fun h => ⟨?_, consuming_ready h _⟩, fun h => ⟨?_, fcrMask fields, consuming_ready h _, fun i hi => getLsbD_fcrMask fields hi⟩,
      fun _ _ _ => rfl, fun h => ⟨⟨s.c.r.poisBits kind.toNat x.toNat, ?_, ?_, ?_, ?_⟩, ?_, ?_⟩⟩
    · exact (consuming_ready h _).trans (by rw [stampNow_word]; rfl)
    · refine (consuming_ready h _).trans ?_
      rw [← setWidth_low]
      rfl
    · exact guarded_executes h fun gp => s.holdS 1 d (s.c.r.poisBits kind.toNat x.toNat) gp
    · rintro rfl
      rfl
    · rintro rfl
      rfl
    · rintro rfl
      rfl
    · exact guarded_executes h fun gp => s.hold 1 (.pois kind.toNat x.toNat gp) none
    · exact guarded_executes h fun _ => s.hold 1 (.pois kind.toNat x.toNat true) none

end Sys2Proof.Scope
end

section
/-! Pre-emptions, hang records and samples (R144, R158, R340, R343, R367, R368, R408, R409, R435, R436). -/

namespace Sys2Proof.Scope

open Sys2Proof.Machine Sys2Proof.Safety Sys2Proof.Laws

/-! ## Pre-emption (R158, R343, R408, R409) -/

/-- What a context's release at DIE scope follows: an earlier release or record of it, and its accesses of that scope other
than a WAITV's (R340, R343). -/
theorem unreleased_iff (s : State) (x : Nat) : s.unreleased x = true ↔ ∃ o ∈ s.ops, o.agent = x ∧ o.phase ≠ .performed ∧
    (∀ va z v, o.kind ≠ .waitv va z v) ∧
    (o.kind = .release ∨ (∃ r b, o.kind = .record r b) ∨ ∃ l ∈ o.kind.touches, s.scopeOfLoc (coreOf x) l ≤ 4) := by
  have follows (k : OpKind) (near : Bool) : (match k with
      | .waitv .. => false
      | .release | .record .. => true
      | _ => near) = true ↔ (∀ va z v, k ≠ .waitv va z v) ∧ (k = .release ∨ (∃ r b, k = .record r b) ∨ near = true) := by
    cases k <;> simp
  have near (o : Op) : s.inScope (coreOf x) 4 o = true ↔ ∃ l ∈ o.kind.touches, s.scopeOfLoc (coreOf x) l ≤ 4 := by simp [State.inScope]
  simp only [State.unreleased, List.any_eq_true, Bool.and_eq_true, beq_iff_eq, Bool.not_eq_true', Op.done, beq_eq_false_iff_ne]
  refine exists_congr fun o => and_congr_right fun _ => ?_
  rw [and_assoc, ← near]
  exact and_congr_right fun _ => and_congr_right fun _ => follows o.kind _

/-- Has a context a Griddle command that is not done (R408)? -/
def griddleBusy (s : State) (x : Nat) : Bool := s.cmds.any fun m => m.owner == x && (match m.unit with | .griddle _ => true | _ => false)

theorem griddleBusy_iff (s : State) (x : Nat) : griddleBusy s x = true ↔
    ∃ m ∈ s.cmds, m.owner = x ∧ ∃ o, m.unit = .griddle o := by
  have griddle (u : EngUnit) : (match u with | .griddle _ => true | _ => false) = true ↔ ∃ o, u = .griddle o := by cases u <;> simp
  simp only [griddleBusy, List.any_eq_true, Bool.and_eq_true, beq_iff_eq]
  exact exists_congr fun m => and_congr_right fun _ => and_congr_right fun _ => griddle m.unit

section
variable {s : State} {x : Nat}

theorem exec_preemptDeadline_none (h : (s.ctx x).y.stop = none) : exec (.preemptDeadline x) s = .next s := by
  change execPreemptDeadline x s = _
  rw [execPreemptDeadline, h]

theorem exec_preemptDeadline {q : StopReq} (h : (s.ctx x).y.stop = some q) : exec (.preemptDeadline x) s = .next (if q.atPpt = true then s
    else s.setCtx x { s.ctx x with y := { (s.ctx x).y with stop := some { q with forced := true } } }) := by
  change execPreemptDeadline x s = _
  rw [execPreemptDeadline, h]
  rfl

theorem exec_preemptionComplete_none (h : (s.ctx x).y.stop = none) : exec (.preemptionComplete x) s = .next s := by
  change execPreemptionComplete x s = _
  rw [execPreemptionComplete, h]

section
variable {q : StopReq} (h : (s.ctx x).y.stop = some q)
include h

theorem exec_preemptionComplete_early (hs : (s.ctx x).st ≠ .running ∨ (s.ctx x).exiting = true ∨ s.unreleased x = true) :
    exec (.preemptionComplete x) s = .next s := by
  change execPreemptionComplete x s = _
  simp only [execPreemptionComplete, h]
  rw [if_pos (by simpa [or_assoc] using hs)]

variable (hr : (s.ctx x).st = .running) (he : (s.ctx x).exiting = false) (hu : s.unreleased x = false)
include hr he hu

theorem exec_preemptionComplete_due : exec (.preemptionComplete x) s = .next (if q.atPpt = true then
      if griddleBusy s x = true then s
      else (s.setCtx x { s.ctx x with f := { (s.ctx x).f with ring := [] } }).stopCtx x .preempted
    else if q.forced = true then s.stopCtx x .preempted else s) := by
  change execPreemptionComplete x s = _
  simp only [execPreemptionComplete, h]
  rw [if_neg (by simp [hr, he, hu])]
  rfl

end

end

/-! ## Hang records (R367, R368) -/

theorem natLe_mod (v n : Nat) : natLe (v % 256 ^ n) n = natLe v n := by
  induction n generalizing v with
  | zero => rfl
  | succ n ih =>
    have low : BitVec.ofNat 8 (v % (256 * 256 ^ n)) = BitVec.ofNat 8 v := by
      apply BitVec.eq_of_toNat_eq
      simp
    rw [natLe, natLe, pow_succ', low, Nat.mod_mul_right_div_self, ih]

/-- The bytes of a field of a record whose fields stand in order. -/
theorem recordBytes_field {fs : List (Nat × Nat × Nat)} (hd : fs.Pairwise fun f g => f.1 + f.2.1 ≤ g.1) {o n v : Nat}
    (hf : (o, n, v) ∈ fs) (h : o + n ≤ 32) : ((recordBytes fs).drop o).take n = natLe v n := by
  rw [recordBytes, drop_natLe, take_natLe _ (by omega), ← natLe_mod, foldl_fields_read hd hf fun _ _ => by positivity, natLe_mod]

/-- The head record of a hang set. -/
def hangHead (s : State) (x : Nat) (w : Nat × Nat × Word) (chans : List Nat) : List Byte :=
  recordBytes [(0, 1, 0x20), (1, 1, (s.ctx x).y.part), (2, 2, x), (4, 1, w.1), (5, 1, w.2.1), (6, 2, 4 + chans.length),
    (8, 8, (s.ctx x).f.lcc.toNat), (16, 4, (s.ctx x).pcOff.toNat), (20, 4, (Config.stallMicros s.tick).toNat), (24, 8, w.2.2.toNat)]

theorem hangHead_field (s : State) (x : Nat) (w : Nat × Nat × Word) (chans : List Nat) {o n v : Nat}
    (hf : (o, n, v) ∈ [(0, 1, 0x20), (1, 1, (s.ctx x).y.part), (2, 2, x), (4, 1, w.1), (5, 1, w.2.1), (6, 2, 4 + chans.length),
      (24, 8, w.2.2.toNat)]) (h : o + n ≤ 32) : ((hangHead s x w chans).drop o).take n = natLe v n := by
  refine recordBytes_field (by simp) ?_ h
  simp only [List.mem_cons] at hf ⊢
  tauto

theorem hangHead_length (s : State) (x : Nat) (w : Nat × Nat × Word) (chans : List Nat) : (hangHead s x w chans).length = 32 :=
  natLe_length ..

theorem hangHead_start (s : State) (x : Nat) (w : Nat × Nat × Word) (chans : List Nat) : (hangHead s x w chans).take 8 =
    natLe 0x20 1 ++ natLe (s.ctx x).y.part 1 ++ natLe x 2 ++ natLe w.1 1 ++ natLe w.2.1 1 ++ natLe (4 + chans.length) 2 := by
  have field {o n v : Nat} := hangHead_field s x w chans (o := o) (n := n) (v := v)
  have kind : (hangHead s x w chans).take 1 = natLe 0x20 1 := field (o := 0) (by simp) (by omega)
  have part := field (o := 1) (n := 1) (v := (s.ctx x).y.part) (by simp) (by omega)
  have context := field (o := 2) (n := 2) (v := x) (by simp) (by omega)
  have reason := field (o := 4) (n := 1) (v := w.1) (by simp) (by omega)
  have position := field (o := 5) (n := 1) (v := w.2.1) (by simp) (by omega)
  have count := field (o := 6) (n := 2) (v := 4 + chans.length) (by simp) (by omega)
  rw [← kind, ← part, ← context, ← reason, ← position, ← count]
  simp only [← List.take_add]

theorem hangHead_detail (s : State) (x : Nat) (w : Nat × Nat × Word) (chans : List Nat) : (hangHead s x w chans).drop 24 = natLe w.2.2.toNat 8 := by
  have whole : ((hangHead s x w chans).drop 24).take 8 = (hangHead s x w chans).drop 24 :=
    List.take_of_length_le (by rw [List.length_drop, hangHead_length])
  rw [← whole]
  exact hangHead_field s x w chans (by simp) (by omega)

/-- The hang set of a context. -/
def hangSet (s : State) (x : Nat) (w : Nat × Nat × Word) (chans : List Nat) : List (List Byte) :=
  [hangHead s x w chans] ++ (List.range 4).map (s.hangQueueRec (s.ctx x).y.part x) ++
    chans.map (s.hangChanRec (s.ctx x).y.part x (if (s.ctx x).f.blocked.isEmpty then (s.focus x).popsNext else []))

theorem hangSet_length (s : State) (x : Nat) (w : Nat × Nat × Word) (chans : List Nat) : (hangSet s x w chans).length = 5 + chans.length := by
  simp [hangSet]
  omega

section
variable {s : State} {x : Nat}

theorem exec_hangTimeout_other (h : (s.ctx x).st ≠ .running ∨ (s.ctx x).exiting = true ∨ (s.ctx x).y.sup = true ∨ (s.ctx x).y.hung = true) :
    exec (.hangTimeout x) s = .next s := by
  change execHangTimeout x s = _
  refine congrArg _ (if_pos ?_)
  rcases h with h | h | h | h <;> simp [h]

variable (hx : x < 2048) (hr : (s.ctx x).st = .running) (he : (s.ctx x).exiting = false) (hs : (s.ctx x).y.sup = false)
  (hh : (s.ctx x).y.hung = false)
include hx hr he hs hh

theorem exec_hangTimeout_stall {w : Nat × Nat × Word} {l : Bool} (ha : (s.focus x).attempt = .stall w l) : exec (.hangTimeout x) s
    = .next ((s.postSet (s.ctx x).y.part (hangSet s x w ((List.range 8).filter fun n => ((s.ctx x).chan n).en))).ticked.upd x fun c =>
        { c with y := { c.y with hung := true } }) := by
  change execHangTimeout x s = _
  simp only [execHangTimeout, ha]
  exact congrArg _ (if_neg (by simp [hr, he, hs, hh]; omega))

theorem exec_hangTimeout_free (ha : ∀ w l, (s.focus x).attempt ≠ .stall w l) : exec (.hangTimeout x) s = .next s := by
  change execHangTimeout x s = _
  refine congrArg _ ((if_neg (by simp [hr, he, hs, hh]; omega)).trans ?_)
  split
  next h => exact absurd h (ha _ _)
  next => rfl

end

/-- Settles O44: a pre-emption by what waits for it, a hang by its set of records, a die's sample by its register. -/
theorem preemptionsAndRecords : Obligations.PreemptionsAndRecords := by
  constructor
  · intro s x c grd
    refine ⟨fun h => ⟨exec_preemptDeadline_none h, exec_preemptionComplete_none h⟩, fun q h => ⟨fun hp => ?_, fun hp => ?_, ?_⟩⟩
    · rw [exec_preemptDeadline h, if_pos hp]
    · rw [exec_preemptDeadline h, if_neg (by rw [hp]; decide)]
      obtain ⟨_, _⟩ := q
      cases hp
      rfl
    · intro later
      have hl : later ↔ s.unreleased x = true := (unreleased_iff s x).symm
      rw [hl]
      refine ⟨exec_preemptionComplete_early h, fun hr he hu => ?_⟩
      have due := exec_preemptionComplete_due h hr he (Bool.eq_false_iff.mpr hu)
      refine ⟨fun hp hg => ?_, fun hp hg => ?_, fun hp hf => ?_, fun hp hf => ?_⟩
      · rw [due, if_pos hp, if_pos ((griddleBusy_iff s x).mpr hg)]
      · rw [due, if_pos hp, if_neg (mt (griddleBusy_iff s x).mp hg)]
      · rw [due, hp, if_neg Bool.false_ne_true, if_pos hf]
      · rw [due, hp, hf, if_neg Bool.false_ne_true, if_neg Bool.false_ne_true]
  · intro s x d hx c chans r full
    refine ⟨exec_hangTimeout_other, fun hr he hs hh => ⟨fun w l ha => ⟨fun hf => ?_, fun hn hf => ?_⟩,
      exec_hangTimeout_free hx hr he hs hh⟩, ?_, ?_⟩
    · rw [exec_hangTimeout_stall hx hr he hs hh ha, State.postSet, hangSet_length, if_pos hf]
      rfl
    · have room : ¬ (r.logn = 0 ∨ 2 ^ r.logn < (r.tail - r.head).toNat + (5 + chans.length)) := by omega
      refine ⟨hangSet s x w chans, hangSet_length .., ?_, ?_, ?_⟩
      · exact hangHead_start ..
      · exact hangHead_detail ..
      · rw [exec_hangTimeout_stall hx hr he hs hh ha, State.postSet, hangSet_length, if_neg room]
    · intro h
      change execPcSample d s = _
      refine congrArg _ (if_neg fun hd => ?_)
      rcases h with h | h
      · omega
      · exact Bool.noConfusion (h.symm.trans hd.2)
    · exact exec_pcSample_on

end Sys2Proof.Scope
end

section
/-! The fabric instructions at their issue (R134, R385 to R393). -/

namespace Sys2Proof.Scope

open Sys2Proof.Machine Sys2Proof.Safety Sys2Proof.Laws

/-- With an open request entry free nothing stalls (R379). -/
theorem entryStall_free {s : State} (h : s.fab.entries.length < 1024) : s.entryStall = s := if_neg (by omega)

theorem vecBytes_elems (v : Vec) : vecBytes v = (List.range 256).map fun i => BitVec.ofNat 8 (elemOf v 1 i) := by
  simp only [vecBytes, elemOf, Nat.mul_one]

/-! ## Requests (R387 to R390) -/

section
variable {s : State} {g : Guard}

theorem sendInstr_free (h : s.fab.entries.length < 1024) (rel : Bool) (op : Byte) (t aux : Word) (bs : List Byte) (p : BitVec 4) (route : Word) :
    s.sendInstr rel op t aux bs p route = s.issueOp (.send op t aux bs p s.stampNow (bits route 59 5) (bits route 47 12)) none false false
      (if rel then some 6 else none) := by
  rw [State.sendInstr, entryStall_free h]

/-- Are the route word, the flag word and the route of a SEND well-formed (R387)? -/
def SendFine (s : State) (x f r : Word) : Prop :=
  bits r 0 47 = 0 ∧ s.badFlag f x = false ∧ s.badRoute r (fun e => slotUnicast e (bits x 51 9)) = false

variable {a b d : SReg}

theorem exec_send (h : Ready s g [a, b, d, d + 1#5]) (hf : SendFine s (s.rs a) (s.rs d) (s.rs (d + 1#5)))
    (ht : s.badTarget (s.rs a) [0, 1, 2] = false) (w : BitVec 2) (rel : Bool) : exec (.send g w rel a b d) s
      = .next (s.sendInstr rel 1#8 (alignTo (2 ^ w.toNat) (s.rs a)) (alignTo 8 (s.rs d)) (natLe (s.rs b).toNat (2 ^ w.toNat)) 0#4
          (s.rs (d + 1#5))) := by
  obtain ⟨hr, hflag, hroute⟩ := hf
  exact (consuming_ready h _).trans (congrArg _ (if_neg (by simp [hr, hflag, hroute, ht])))

theorem exec_sendv (h : Ready s g [a, d, d + 1#5]) (hf : SendFine s (s.rs a) (s.rs d) (s.rs (d + 1#5)))
    (ht : s.badTarget (s.rs a) [0, 1, 2, 3] = false) (rel : Bool) {v : VReg} (hv : (s.c.r.readV v.toNat).p = 0#4) : exec (.sendv g rel a v d) s
      = .next (s.sendInstr rel 1#8 (if bits (s.rs a) 60 4 = 3 then s.rs a else alignTo 256 (s.rs a)) (alignTo 8 (s.rs d))
          (vecBytes (s.c.r.readV v.toNat).v) 0#4 (s.rs (d + 1#5))) := by
  obtain ⟨hr, hflag, hroute⟩ := hf
  refine (consuming_ready h _).trans (congrArg _ ((if_neg (by simp [hv])).trans ((if_neg (by simp [hr, hflag, hroute, ht])).trans ?_)))
  rw [hv]

theorem exec_rred (h : Ready s g [a, d]) (rel : Bool) {v : VReg} (hv : (s.c.r.readV v.toNat).p = 0#4) (hz : bits (s.rs d) 0 35 = 0)
    (h5 : bits (s.rs d) 44 3 ≤ 5) (ht : s.badTarget (s.rs a) [2] = false) (hm : (s.rs a).toNat % 256 = 0)
    (hu : s.badRoute (s.rs d) (fun e => slotUnicast e (bits (s.rs a) 51 9)) = false) :
    exec (.rred g rel a v d) s = .next (s.sendInstr rel 4#8 (s.rs a) (s.rs d) (vecBytes (s.c.r.readV v.toNat).v) 0#4 (s.rs d)) := by
  have hlow : bits (s.rs a) 0 8 = 0 := (bits_zero ..).trans hm
  exact (consuming_ready h _).trans (congrArg _ ((if_neg (by simp [hv])).trans (if_neg (by simp [hz, ht, hlow, hu]; omega))))

theorem exec_rld (h : Ready s g [a, d]) (hz : bits (s.rs d) 0 6 = 0) (hb : ((s.ctx (s.ownerOf s.who)).chan (bits (s.rs d) 44 3)).badFab = false)
    (ht : s.badTarget (s.rs a) [0, 2] = false) (hu : s.badRoute (s.rs d) (fun e => slotUnicast e (bits (s.rs a) 51 9)) = false) :
    exec (.rld g a d) s = .next (s.entryStall.accept .fabric (coreOf s.who) (.rld g a d) (alignTo 256 (s.rs a)) (s.rs d)
      (s.stampNow.setWidth 64) 0#64 0 []) :=
  (consuming_ready h _).trans (congrArg _ (if_neg (by simp [ht, hz, hb, hu])))

/-- A well-formed contribution whose results the channel has room for reserves them (R393). -/
theorem exec_mldr {c : Word} (hc : c = s.rs b) (h : Ready s g [b]) (d : SReg) {v : VReg} {m : Nat} (hm : m = if bitAt c 43 then 1 else 2)
    (hv : (s.c.r.readV v.toNat).p = 0#4) (hz : bits c 0 25 = 0) (hb : (s.c.chan (bits c 44 3)).badFab = false)
    (hu : s.badRoute c (fun e => slotReduce e (bits c 25 10)) = false)
    (hcc : bitAt s.c.y.collcfg 63 = true → bits s.c.y.collcfg 32 10 = bits c 25 10)
    (hroom : ((s.c.chan (bits c 44 3)).res - (s.c.chan (bits c 44 3)).cons).toNat + m ≤ (s.c.chan (bits c 44 3)).size) :
    exec (.mldr g d v b) s = .next ((s.entryStall.reserveResults (bits c 44 3) s.stampNow m).1.issueOp
      (.mldr c (vecBytes (s.c.r.readV v.toNat).v) s.stampNow (s.entryStall.reserveResults (bits c 44 3) s.stampNow m).2)
      (some (.s d.toNat)) false false none) := by
  subst hc hm
  have group : (bitAt s.c.y.collcfg 63 && bits s.c.y.collcfg 32 10 != bits (s.rs b) 25 10) = false := by
    cases hp : bitAt s.c.y.collcfg 63
    · rfl
    · simp [hcc hp]
  exact (consuming_ready h _).trans (congrArg _ ((if_neg (by simp [hv])).trans
    ((if_neg (by rw [group]; simp [hz, hb, hu])).trans (if_neg (not_lt.mpr hroom)))))

end

/-! ## Results that an MLDR reserves (R393) -/

theorem reserveResults_length (s : State) (ch : Nat) (stamp : BitVec 32) (n : Nat) : (s.reserveResults ch stamp n).2.length = n := by
  induction n generalizing s with
  | zero => rfl
  | succ n ih => exact congrArg Nat.succ (ih _)

/-! ## The head that RECV checks (R391) -/

theorem headStamp_noticed {s t : State} (h : Noticed s t) (n : Nat) : t.headStamp n = s.headStamp n := by
  rw [h.frame]
  rfl

/-- The record of a pop of channel `n` for the bundle. -/
def notePop (n : Nat) (i : Issue) : Issue := { i with pops := if i.pops.contains n then i.pops else i.pops ++ [n] }

/-- Reading a head finds the errors of its lines and records the pop. -/
theorem noticed_readHead (s : State) (n : Nat) : Noticed (s.iss (notePop n)) (s.readHead n) := (noticed_noticeAS s _ _ _).iss (notePop n)

theorem readHead_shows (s : State) (n : Nat) : (s.readHead n).headOf n = s.headOf n ∧ (s.readHead n).headStamp n = s.headStamp n ∧
    (s.readHead n).issue.stop = s.issue.stop ∧ (s.readHead n).issue.stall = s.issue.stall := by
  have h := noticed_readHead s n
  exact ⟨h.headOf n, headStamp_noticed h n, (congrArg Issue.stop h.issue).trans rfl, (congrArg Issue.stall h.issue).trans rfl⟩

section
variable {s : State} {g : Guard} {a : SReg} {n : BitVec 3} (h : Ready s g [a]) (hc : Clear s) (hb : (s.c.chan n.toNat).badFab = false)
  (hk : bitAt (s.c.chan n.toNat).cfg 58 = false) (he : (s.c.chan n.toNat).prod ≠ (s.c.chan n.toNat).cons)
include h hc hb hk he

theorem exec_recv (v : VReg) : exec (.recv g v n a) s = .next (
    if s.headStamp n.toNat = (s.rs a).setWidth 32 then (s.readHead n.toNat).holdV 2 v (s.headOf n.toNat)
    else s.raise .tstamp ((s.headStamp n.toNat).setWidth 64 <<< 32 ||| ((s.rs a).setWidth 32).setWidth 64)) := by
  have hen : (s.c.chan n.toNat).en = true := by
    unfold Chan.badFab at hb
    simp at hb
    exact hb.1
  obtain ⟨head, stamp, stop, stall⟩ := readHead_shows s n.toNat
  refine (consuming_ready h _).trans (congrArg _ ((if_neg (by simp [hb])).trans ?_))
  rw [touchHead_ready hen hk he]
  dsimp only
  rw [stop, stall, hc.1, hc.2, stamp, head]
  rfl

end

/-- Settles O28: well-formed words pass each instruction's checks, and its last branch is what it issues. -/
theorem fabricInstructions : Obligations.FabricInstructions := by
  intro s g w rel a b d v n hfree z x f r data vecs scope unicast sent fine h want
  refine ⟨fun hr hf ht => ?_, fun hr hp hf ht => ?_, fun hr hp hz h5 ht hm hu => ?_, fun hr hz hb ht hu => ?_, ?_,
    fun hr hc hb hk he => ⟨fun hw => ?_, fun hw => ?_⟩, fun hr => ⟨fun u hu => ?_, fun hu => ?_⟩⟩
  · exact (exec_send hr hf ht w rel).trans (congrArg _ (sendInstr_free hfree ..))
  · rw [exec_sendv hr hf ht rel hp, vecBytes_elems]
    exact congrArg _ (sendInstr_free hfree ..)
  · rw [exec_rred hr rel hp hz h5 ht hm hu, vecBytes_elems]
    exact congrArg _ (sendInstr_free hfree ..)
  · rw [exec_rld hr hz hb ht hu, entryStall_free hfree]
  · rintro hr c ch m hc rfl hm hp hz hb hu hcc hroom
    refine ⟨_, _, rfl, reserveResults_length .., ?_⟩
    rw [exec_mldr hc hr d hm hp hz hb hu hcc hroom, entryStall_free hfree, vecBytes_elems]
  · rw [exec_recv hr hc hb hk he, if_pos hw]
  · rw [exec_recv hr hc hb hk he, if_neg hw]
  · refine (consuming_ready hr _).trans (congrArg _ ?_)
    rw [hu]
    rfl
  · refine (consuming_ready hr _).trans (congrArg _ ?_)
    rw [hu]

end Sys2Proof.Scope
end

section
/-! The lines of WB that GRD.SAVE and GRD.REST move, and a line with stuck bits (R254, R334, R460, R466). -/

namespace Sys2Proof.Scope

open Sys2Proof.Machine Sys2Proof.Safety Sys2Proof.Laws

/-- GRD.SAVE of the WB slice gives each line with its bytes and its poison (R334). -/
theorem saveLines_wb (g : Griddle) {d : Word} {l : Nat} (hd : bits d 60 2 = 3) (hl : l < 32768) :
    (g.saveLines d)[l]? = some (Mem.bytes g.wb.bytes (64 * l) 64, g.wb.poisoned 6 (64 * l)) := by
  simp [Griddle.saveLines, hd, hl]

/-- GRD.REST of a line of the WB slice is a write of that line and of nothing else (R334). -/
theorem restLine_wb (g : Griddle) {d : Word} (hd : bits d 60 2 = 3) (l : Nat) (bs : List Byte) (p : Bool) :
    g.restLine d l bs p = { g with wb := g.wb.writeP 6 (64 * l) bs p } := by
  simp [Griddle.restLine, hd]

/-- A WB slice as a reset leaves it, whose line 0 has two data bits of one correction word stuck at 1 (R450, R460). -/
def stuckWb : Bank := Bank.afresh { Bank.empty 3 with stuck := [(0, [(0, true), (1, true)])] }

/-- Zeros written over the whole line leave both stuck bits wrong, which is an uncorrectable error (R466). -/
theorem stuckWb_poisoned_writeP : (stuckWb.writeP 6 0 (Mem.bytes [] 0 64) false).poisoned 6 0 = true := by decide +kernel

/-- Refutes O42: the last clause takes any WB slice as the one that GRD.REST restores. It writes a clean line that GRD.SAVE has read
into a slice with two stuck bits in one word (R460); both are wrong after the write, so the line reads as poisoned (R254, R466) and
is not what GRD.SAVE has read. The clause lacks the condition that the restored slice has no stuck bits. -/
theorem not_griddleRuns : ¬ Obligations.GriddleRuns := by
  rintro ⟨-, -, -, -, -, -, -, -, -, -, images⟩
  have hd : bits 0x3000000000000000#64 60 2 = 3 := by decide
  obtain ⟨-, -, -, -, wb⟩ := images Griddle.zero { Griddle.zero with wb := stuckWb } 0x3000000000000000#64 0 0 1 _ _ (by decide)
    (saveLines_wb Griddle.zero hd (by decide))
  have given_back := (wb hd).2
  rw [restLine_wb _ hd] at given_back
  have clean : Griddle.zero.wb.poisoned 6 (64 * 0) = false := by decide
  rw [clean] at given_back
  exact Bool.false_ne_true (given_back.symm.trans stuckWb_poisoned_writeP)

end Sys2Proof.Scope
end

section
/-! What the shared shapes of the vector instructions issue, as the statements about vector results say it (R188 to R191). -/

namespace Sys2Proof.Scope

open Sys2Proof.Machine Sys2Proof.Safety Sys2Proof.Laws

theorem headsReady_mono {s : State} {as bs : List VOp} (h : HeadsReady s as) (hs : bs ⊆ as) : HeadsReady s bs :=
  fun a ha => h a (hs ha)

theorem headsReady_nil (s : State) : HeadsReady s [] := by simp [HeadsReady]

theorem headsReady_fst {s : State} {a b : VOp} (h : HeadsReady s [a, b]) : HeadsReady s [a] := headsReady_mono h (by simp)

/-- A choice between two numbers stays below a bound of both. -/
theorem ite_lt_of_lt {u v n : Nat} (p : Prop) [Decidable p] (hu : u < n) (hv : v < n) : (if p then u else v) < n := by
  split <;> assumption

theorem merged_congr {p : Pred} {w : Nat} {old v : Vec} {f g : Nat → Nat} (h : Merged p w old v f)
    (hfg : ∀ j, j < 256 / w → f j = g j) : Merged p w old v g := fun j hj => (hfg j hj) ▸ h j hj

section
variable {i : Instr} {s : State} {n w : Nat} {pg : PReg} {d : VReg} {as : List VOp} {sc : List SReg} {f g : Nat → Nat}

/-- A merging instruction with lane-wise poison (R189, R191): `P` says whether the old destination is a source of every element. -/
theorem merges_lane {whole : Bool} {P : Prop} (hc : Clear s) (hh : HeadsReady s as) (hw : Width w)
    (hx : exec i s = s.vmerge n .lane whole pg w d as sc f) (hP : whole = true ↔ P) (hf : ∀ j, f j < 2 ^ (8 * w)) :
    Merges i s n as pg w d (LanePoison s pg w d as sc P) f := by
  obtain ⟨v, q, hv, hm, hq⟩ := vmerge_lane (whole := whole) hc hh hw hf
  exact ⟨v, q, hx.trans hv, hm, propext hP ▸ hq⟩

/-- A merging instruction with cross-lane poison (R189, R191). -/
theorem merges_cross {whole : Bool} (hc : Clear s) (hh : HeadsReady s as) (hw : Width w)
    (hx : exec i s = s.vmerge n .cross whole pg w d as sc f) (hf : ∀ j, f j < 2 ^ (8 * w)) (hfg : ∀ j, j < 256 / w → f j = g j) :
    Merges i s n as pg w d (CrossPoison s [pg] [(s.c.r.readV d.toNat).p] as sc) g := by
  obtain ⟨v, q, hv, hm, hq⟩ := vmerge_cross (whole := whole) hc hh hw hf
  exact ⟨v, q, hx.trans hv, merged_congr hm hfg, hq⟩

/-- The elements `f 0`, …, `f (m - 1)`, packed, with nothing above them. -/
theorem packed_elems {m : Nat} (hm : m * w ≤ 256) :
    (∀ k, k < m → elemOf (vecOfElems w ((List.range m).map f)) w k = f k % 2 ^ (8 * w)) ∧
      ∀ b, m * w ≤ b → b < 256 → elemOf (vecOfElems w ((List.range m).map f)) 1 b = 0 :=
  ⟨elems_of_map hm f, fun b hb _ => byte_above_vecOfElems w _ b (by simpa using hb)⟩

/-- An instruction written whole with cross-lane poison (R189, R191). -/
theorem writes_cross {m : Nat} {gs : List PReg} (hc : Clear s) (hh : HeadsReady s as) (hm : m * w ≤ 256)
    (hx : exec i s = s.vwhole n .cross gs d as (vecOfElems w ((List.range m).map f)))
    (hfg : ∀ k, k < m → f k % 2 ^ (8 * w) = g k) :
    Writes i s n as w m d (CrossPoison s gs [] as []) g := by
  obtain ⟨q, hv, hq⟩ := vwhole_cross (n := n) (gs := gs) (d := d) hc hh
  obtain ⟨elems, above⟩ := packed_elems (f := f) hm
  exact ⟨_, q, hx.trans hv, fun k hk => (elems k hk).trans (hfg k hk), above, hq⟩

/-- An instruction written whole with lane-wise poison (R189, R191): `Q` holds of the groups that its sources poison. -/
theorem writes_lane {m : Nat} {gs : List PReg} {Q : BitVec 4 → Prop} (hc : Clear s) (hh : HeadsReady s as) (hm : m * w ≤ 256)
    (hx : exec i s = s.vwhole n .lane gs d as (vecOfElems w ((List.range m).map f)))
    (hfg : ∀ k, k < m → f k % 2 ^ (8 * w) = g k)
    (hQ : ∀ q : BitVec 4, (∀ k, k < 4 →
      (q.getLsbD k = true ↔ (∃ p ∈ gs, s.pp p = true) ∨ ∃ a ∈ as, (s.vop a).p.getLsbD k = true)) → Q q) :
    Writes i s n as w m d Q g := by
  obtain ⟨q, hv, hq⟩ := vwhole_lane (n := n) (gs := gs) (d := d) hc hh
  obtain ⟨elems, above⟩ := packed_elems (f := f) hm
  exact ⟨_, q, hx.trans hv, fun k hk => (elems k hk).trans (hfg k hk), above, hQ q hq⟩

/-- A reduction leaves its result in element 0 and zero above it (R208). -/
theorem reduces {x : Nat} {a : VOp} (hc : Clear s) (hh : HeadsReady s [a]) (hw : Width w) (hx : exec i s = s.vreduce n pg w d a x)
    (hlt : x < 2 ^ (8 * w)) : Writes i s n [a] w (256 / w) d (CrossPoison s [pg] [] [a] []) (fun j => if j = 0 then x else 0) := by
  obtain ⟨q, hv, hq⟩ := vwhole_cross (n := n) (gs := [pg]) (d := d) (v := vecOfElems w [x]) hc hh
  have hn : [x].length * w ≤ 256 := by rcases hw with rfl | rfl | rfl | rfl <;> norm_num
  refine ⟨_, q, hx.trans hv, fun k _ => ?_, fun b hb hlt => absurd (hw.full ▸ hb) (by omega), hq⟩
  rw [elemOf_vecOfElems w [x] k hn]
  cases k with
  | zero => exact Nat.mod_eq_of_lt hlt
  | succ k => simp

/-- A predicate result of a comparison (R190, R191). -/
theorem tests_of_vpred {pd : PReg} {f g : Nat → Bool} (hc : Clear s) (hh : HeadsReady s as) (hw : Width w)
    (hx : exec i s = s.vpred n pg w pd as f) (hfg : ∀ j, f j = g j) : Tests i s n as pg w pd g := by
  obtain ⟨v, bad, hv, hb⟩ := vpred_tests (n := n) (pg := pg) (pd := pd) (f := f) hc hh hw
  exact ⟨v, bad, hx.trans hv, by simpa only [hfg] using hb⟩

end

end Sys2Proof.Scope
end

section
/-! Elements as integers: wrapping, signs, clamping and shifts (R187, R194, R195). -/

namespace Sys2Proof.Scope

open Sys2Proof.Machine Sys2Proof.Safety Sys2Proof.Laws

/-- Wrapping takes the residue modulo 2^(8w). -/
theorem wrapEl_eq (w : Nat) (v : Int) : wrapEl w v = (v % ((2 ^ (8 * w) : Nat) : Int)).toNat := by
  rw [wrapEl]; push_cast; rfl

theorem wrapEl_lt (w : Nat) (v : Int) : wrapEl w v < 2 ^ (8 * w) := by
  rw [wrapEl_eq]
  have hpos : (0 : Int) < ((2 ^ (8 * w) : Nat) : Int) := by positivity
  have h0 := Int.emod_nonneg v hpos.ne'
  have h1 := Int.emod_lt_of_pos v hpos
  omega

theorem wrapEl_natCast (w v : Nat) : wrapEl w v = v % 2 ^ (8 * w) := by
  rw [wrapEl_eq, ← Int.natCast_mod, Int.toNat_natCast]

/-- Wrapping does not see multiples of 2^(8w). -/
theorem wrapEl_sub_pow (w : Nat) (v : Int) : wrapEl w (v - (2 : Int) ^ (8 * w)) = wrapEl w v := by
  rw [wrapEl, wrapEl, Int.sub_emod_right]

/-- An element keeps its code when it is read with a sign and wrapped again. -/
theorem wrapEl_signedOf {w x : Nat} (hx : x < 2 ^ (8 * w)) : wrapEl w (signedOf (8 * w) x) = x := by
  have h : wrapEl w (signedOf (8 * w) x) = wrapEl w x := by
    unfold signedOf
    split
    · rfl
    · exact wrapEl_sub_pow w x
  rw [h, wrapEl_natCast, Nat.mod_eq_of_lt hx]

theorem wrapEl_neg_one (w : Nat) : wrapEl w (-1) = 2 ^ (8 * w) - 1 := by
  have hpos := Nat.two_pow_pos (8 * w)
  have h : (-1 : Int) = ((2 ^ (8 * w) - 1 : Nat) : Int) - (2 : Int) ^ (8 * w) := by push_cast [Nat.one_le_two_pow]; ring
  rw [h, wrapEl_sub_pow, wrapEl_natCast, Nat.mod_eq_of_lt (by omega)]

theorem intOf_eq (t : BitVec 3) (x : Nat) : intOf t x = if t.toNat < 4 then signedOf (8 * intW t) x else (x : Int) := by
  simp only [intOf, intSigned, decide_eq_true_eq]

theorem tMin_eq (t : BitVec 3) : tMin t = if t.toNat < 4 then -(2 : Int) ^ (8 * intW t - 1) else 0 := by
  simp only [tMin, intSigned, decide_eq_true_eq]

theorem tMax_eq (t : BitVec 3) :
    tMax t = if t.toNat < 4 then (2 : Int) ^ (8 * intW t - 1) - 1 else (2 : Int) ^ (8 * intW t) - 1 := by
  simp only [tMax, intSigned, decide_eq_true_eq]

/-- An element keeps its code when it is read as an integer of its type and wrapped again. -/
theorem wrapEl_intOf {t : BitVec 3} {x : Nat} (hx : x < 2 ^ (8 * intW t)) : wrapEl (intW t) (intOf t x) = x := by
  rw [intOf_eq]
  split
  · exact wrapEl_signedOf hx
  · rw [wrapEl_natCast, Nat.mod_eq_of_lt hx]

theorem intOf_inj {t : BitVec 3} {x y : Nat} (hx : x < 2 ^ (8 * intW t)) (hy : y < 2 ^ (8 * intW t)) (h : intOf t x = intOf t y) :
    x = y := by
  rw [← wrapEl_intOf hx, h, wrapEl_intOf hy]

/-- A signed element lies from -2^(n - 1) to 2^(n - 1) - 1. -/
theorem signedOf_range {n x : Nat} (hn : 0 < n) (hx : x < 2 ^ n) :
    -(2 : Int) ^ (n - 1) ≤ signedOf n x ∧ signedOf n x ≤ (2 : Int) ^ (n - 1) - 1 := by
  have hp : (2 : Int) ^ n = 2 * 2 ^ (n - 1) := by rw [← pow_succ', Nat.sub_add_cancel hn]
  have hx' : (x : Int) < 2 ^ n := by exact_mod_cast hx
  unfold signedOf
  split
  case isTrue h =>
    have : (x : Int) < 2 ^ (n - 1) := by exact_mod_cast h
    have := Int.natCast_nonneg x
    constructor <;> linarith
  case isFalse h =>
    have : (2 : Int) ^ (n - 1) ≤ x := by exact_mod_cast Nat.not_lt.mp h
    constructor <;> linarith

/-- An arithmetic shift by the width or more leaves the sign alone (R194). -/
theorem sarEl_eq {w x c : Nat} (hw : 0 < w) (hx : x < 2 ^ (8 * w)) :
    sarEl w x c = if c < 8 * w then wrapEl w (signedOf (8 * w) x / (2 : Int) ^ c)
      else if signedOf (8 * w) x < 0 then 2 ^ (8 * w) - 1 else 0 := by
  unfold sarEl
  split
  case isTrue h => rw [Nat.min_eq_left h.le]
  case isFalse h =>
    rw [Nat.min_eq_right (Nat.not_lt.mp h)]
    obtain ⟨hlo, hhi⟩ := signedOf_range (by omega : 0 < 8 * w) hx
    have hp : (2 : Int) ^ (8 * w - 1) < 2 ^ (8 * w) := pow_lt_pow_right₀ (by norm_num) (by omega)
    split
    case isTrue hneg =>
      have hdiv : signedOf (8 * w) x / (2 : Int) ^ (8 * w) = -1 := by
        rw [Int.ediv_eq_iff_of_pos (by positivity)]
        constructor <;> linarith
      rw [hdiv, wrapEl_neg_one]
    case isFalse hpos => rw [Int.ediv_eq_zero_of_lt (by omega) (by linarith)]; simp [wrapEl]

end Sys2Proof.Scope
end

section
/-! Integer vector instructions (R194 to R196). -/

namespace Sys2Proof.Scope

open Sys2Proof.Machine Sys2Proof.Safety Sys2Proof.Laws

/-- A two-operand integer instruction merges what it computes of each pair of elements (R194, R195). -/
theorem vint_merges {i : Instr} {s : State} {n : Nat} {pg : PReg} {t : BitVec 3} {d : VReg} {a b : VOp} {op : Nat → Nat → Nat}
    {f : Nat → Nat} (hc : Clear s) (hh : HeadsReady s [a, b]) (hx : exec i s = s.vint n pg t d a b op)
    (hop : ∀ j, op (s.el a (intW t) j) (s.el b (intW t) j) = f j) (hf : ∀ j, f j < 2 ^ (8 * intW t)) :
    Merges i s n [a, b] pg (intW t) d (LanePoison s pg (intW t) d [a, b] [] False) f := by
  refine merges_lane (whole := false) hc hh (width_intW t) (hx.trans ?_) (by simp) hf
  simp only [State.vint, hop]

/-- The test of VCMP.cc, condition by condition (R196). -/
theorem vcmpTest_eq {cc : BitVec 2} {t : BitVec 3} (x y : Nat) : vcmpTest cc t x y =
    (decide (cc = 0#2 ∧ x = y) || decide (cc = 1#2 ∧ x ≠ y) || decide (cc = 2#2 ∧ intOf t x < intOf t y) ||
      decide (cc = 3#2 ∧ intOf t y ≤ intOf t x)) := by
  have hcc : cc = 0#2 ∨ cc = 1#2 ∨ cc = 2#2 ∨ cc = 3#2 := by revert cc; decide
  rw [Bool.eq_iff_iff]
  rcases hcc with rfl | rfl | rfl | rfl <;> simp [vcmpTest]

/-- Settles O11: the shape of an integer instruction merges the elements, the facts about elements say which. -/
theorem vectorIntegerResults : Obligations.VectorIntegerResults := by
  intro s pg pd t d a b cc hc hh w m x y X Y lo hi wrap ok
  have hx (j : Nat) : x j < m := el_lt s a w j
  have hy (j : Nat) : y j < m := el_lt s b w j
  have hm : 0 < m := Nat.two_pow_pos _
  have hmod (k : Nat) : k % m < m := Nat.mod_lt _ (Nat.two_pow_pos _)
  have hX (j : Nat) : intOf t (x j) = X j := intOf_eq t (x j)
  have hY (j : Nat) : intOf t (y j) = Y j := intOf_eq t (y j)
  have hwrap (v : Int) : wrapEl w v = wrap v := wrapEl_eq w v
  have hwlt (v : Int) : wrap v < m := hwrap v ▸ wrapEl_lt w v
  have hclamp (v : Int) : clampEl t v = wrap (max lo (min hi v)) := by
    rw [clampEl, tMin_eq, tMax_eq]; exact hwrap _
  have hpow : (2 : Int) ^ (8 * w) = (m : Int) := by simp [m]
  have int {i n f} (op) (hx : exec i s = s.vint n pg t d a b op) := vint_merges (f := f) hc hh hx
  refine ⟨int (fun x y => wrapEl w ((x : Int) + y)) rfl (fun j => ?vadd) fun _ => hmod _,
    int (fun x y => wrapEl w ((x : Int) - y)) rfl (fun _ => hwrap _) fun _ => hwlt _,
    int (fun x y => x * y % m) rfl (fun _ => rfl) fun _ => hmod _,
    int (fun x y => wrapEl w (intOf t x * intOf t y / (2 : Int) ^ (8 * w))) rfl (fun j => ?vmulh) fun _ => hwlt _,
    int (fun x y => if intOf t x < intOf t y then x else y) rfl (fun j => ?vmin) fun j => ite_lt_of_lt _ (hx j) (hy j),
    int (fun x y => if intOf t x < intOf t y then y else x) rfl (fun j => ?vmax) fun j => ite_lt_of_lt _ (hy j) (hx j),
    int (· &&& ·) rfl (fun _ => rfl) fun j => Nat.and_lt_two_pow _ (hy j),
    int (· ||| ·) rfl (fun _ => rfl) fun j => Nat.or_lt_two_pow (hx j) (hy j),
    int (· ^^^ ·) rfl (fun _ => rfl) fun j => Nat.xor_lt_two_pow (hx j) (hy j),
    int (shlEl w) rfl (fun _ => rfl) fun j => ite_lt_of_lt _ (hmod _) hm,
    int (shrEl w) rfl (fun _ => rfl) fun j => ite_lt_of_lt _ ((Nat.div_le_self _ _).trans_lt (hx j)) hm,
    int (sarEl w) rfl (fun j => ?vsar) fun j => ite_lt_of_lt _ (hwlt _) (ite_lt_of_lt _ (Nat.sub_lt hm Nat.one_pos) hm),
    int (fun x y => clampEl t (intOf t x + intOf t y)) rfl (fun j => ?vadds) fun _ => hwlt _,
    int (fun x y => clampEl t (intOf t x - intOf t y)) rfl (fun j => ?vsubs) fun _ => hwlt _,
    tests_of_vpred hc hh (width_intW t) rfl fun j => ?vcmp⟩
  case vadd => exact (congrArg (wrapEl w) (Int.natCast_add ..).symm).trans (wrapEl_natCast w _)
  case vmulh => rw [hX, hY, hpow]; exact hwrap _
  case vmin => rw [← hX, ← hY]; exact ite_lt_eq_ite_le (intOf_inj (hx j) (hy j))
  case vmax => rw [← hX, ← hY]; exact ite_lt_eq_ite_le fun h => (intOf_inj (hx j) (hy j) h).symm
  case vsar => exact (sarEl_eq (width_intW t).pos (hx j)).trans (by rw [hwrap])
  case vadds => rw [hX, hY]; exact hclamp _
  case vsubs => rw [hX, hY]; exact hclamp _
  case vcmp => rw [vcmpTest_eq, ← hX, ← hY]

end Sys2Proof.Scope
end

section
/-! Vector moves, immediates, selections, immediate shifts and single elements (R194, R203 to R205). -/

namespace Sys2Proof.Scope

open Sys2Proof.Machine Sys2Proof.Safety Sys2Proof.Laws

/-- A mask of lane groups is known by its four bits. -/
theorem groups_ext {q r : BitVec 4} (h : ∀ k, k < 4 → (q.getLsbD k = true ↔ r.getLsbD k = true)) : q = r :=
  BitVec.eq_of_getLsbD_eq fun k hk => Bool.eq_iff_iff.mpr (h k hk)

/-- An immediate shift writes every element shifted by a count below the width, with the poison of its operand (R204). -/
theorem vshimm_writes {i : Instr} {s : State} {t : BitVec 3} {d : VReg} {a : VOp} {c : BitVec 6} {op : Nat → Nat → Nat → Nat}
    {f : Nat → Nat} (hc : Clear s) (hh : HeadsReady s [a]) (hx : exec i s = s.vshimm t d a c op)
    (hop : ∀ j, op (intW t) (s.el a (intW t) j) c.toNat = f j) (hf : ∀ j, f j < 2 ^ (8 * intW t)) :
    Writes i s 1 [a] (intW t) (256 / intW t) d (fun q => q = (s.vop a).p) f := by
  refine writes_lane hc hh (width_intW t).full.le hx (fun j _ => ?_) fun q hq => groups_ext fun k hk => (hq k hk).trans (by simp)
  rw [hop, Nat.mod_eq_of_lt (hf j)]

/-- VIMM as a whole result whose elements are all the same (R203). -/
theorem exec_vimm (s : State) (t : BitVec 3) (d : VReg) (imm : BitVec 12) : exec (.vimm t d imm) s =
    s.vwhole 1 .lane [] d [] (vecOfElems (intW t) ((List.range (256 / intW t)).map fun _ => wrapEl (intW t) imm.toInt)) := by
  change execVimm t d imm s = _
  simp only [execVimm, List.map_const', List.length_range]

/-- VEXT reads one element as its type says (R205). -/
theorem extracts_vext {s : State} {a : VOp} (hc : Clear s) (hh : HeadsReady s [a]) (t : BitVec 3) (n m : SReg) :
    Extracts (.vext t n a m) s 2 [a] n
      (intWord (let e := s.el a (intW t) ((s.rs m).toNat % (256 / intW t))
        if t.toNat < 4 then signedOf (8 * intW t) e else (e : Int)))
      (s.ps m = true ∨ (s.vop a).p ≠ 0#4) := by
  refine ⟨s.ps m || (s.vop a).p != 0#4, ?_, by simp⟩
  change execVext t n a m s = _
  rw [execVext, withHeads_ready hc hh]
  simp only [reading_el, reading_rs, reading_ps, reading_vop, intOf_eq]
  rfl

/-- Settles O12: the merging moves, then what is written whole, then the single elements. -/
theorem vectorMoveResults : Obligations.VectorMoveResults := by
  intro s pg k t d a b n m imm c hc hh w M N x wrap old
  have hw : Width w := width_intW t
  have ha := headsReady_fst hh
  have hx (j : Nat) : x j < M := el_lt s a w j
  have hM : 0 < M := Nat.two_pow_pos _
  have hmod (k : Nat) : k % M < M := Nat.mod_lt _ hM
  have hwrap (v : Int) : wrapEl w v = wrap v := wrapEl_eq w v
  have hwlt (v : Int) : wrap v < M := hwrap v ▸ wrapEl_lt w v
  refine ⟨merges_lane (whole := false) hc ha hw rfl (by simp) fun j => by omega,
    merges_lane (whole := false) hc ha hw rfl (by simp) hx,
    merges_lane (whole := false) hc (headsReady_nil s) hw rfl (by simp) fun _ => hmod _,
    writes_lane (gs := []) hc (headsReady_nil s) hw.full.le (exec_vimm s t d imm) (fun _ _ => ?vimm)
      fun q hq => groups_ext fun g hg => (hq g hg).trans (by simp),
    writes_lane hc hh hw.full.le rfl (fun j _ => Nat.mod_eq_of_lt (ite_lt_of_lt _ (hx j) (el_lt s b w j)))
      fun q hq g hg => (hq g hg).trans (by simp),
    fun hlt => ⟨vshimm_writes (op := shlEl) hc ha rfl (fun _ => if_pos hlt) fun _ => hmod _,
      vshimm_writes (op := shrEl) hc ha rfl (fun _ => if_pos hlt) fun j => (Nat.div_le_self _ _).trans_lt (hx j),
      vshimm_writes (op := sarEl) hc ha rfl (fun j => ?vsari) fun _ => hwlt _⟩,
    extracts_vext hc ha t n m, ?vins⟩
  case vimm => exact (Nat.mod_eq_of_lt (wrapEl_lt w _)).trans (hwrap _)
  case vsari => exact (sarEl_eq hw.pos (hx j)).trans ((if_pos hlt).trans (hwrap _))
  case vins =>
    obtain ⟨elems, above⟩ := packed_elems (w := w)
      (f := fun i => if i = (s.rs m).toNat % N then (s.rs n).toNat % M else elemOf old.v w i) hw.full.le
    refine ⟨_, _, rfl, fun j hj => (elems j hj).trans (Nat.mod_eq_of_lt (ite_lt_of_lt _ (hmod _) (elemOf_lt _ w j))), above, ?_⟩
    exact crossPoison_vecPoison _ _ _ _ _ _ _ _ _ _ _ (by simp) (by simp [old])

end Sys2Proof.Scope
end

section
/-! Vector permutes, slides, rotations and pairs (R206, R207). -/

namespace Sys2Proof.Scope

open Sys2Proof.Machine Sys2Proof.Safety Sys2Proof.Laws

/-- A pair instruction merges both registers of its pair, each with its own old value (R207). -/
theorem vpair_merges {s : State} {pg : PReg} {w : Nat} {d : VReg} {a b : VOp} {f g f' g' : Nat → Nat} (hc : Clear s)
    (hh : HeadsReady s [a, b]) (hw : Width w) (hf : ∀ j, f j < 2 ^ (8 * w)) (hg : ∀ j, g j < 2 ^ (8 * w))
    (hff : ∀ j, f j = f' j) (hgg : ∀ j, g j = g' j) : ∃ u v q,
    s.vpair pg w d a b f g = .next (((reading s [a, b]).holdV 2 d ⟨u, q⟩).hold 2 (.vec (d.toNat + 1) v q) none) ∧
      Merged (s.rp pg) w (s.c.r.readV d.toNat).v u f' ∧ Merged (s.rp pg) w (s.c.r.readV (d.toNat + 1)).v v g' ∧
      CrossPoison s [pg] [(s.c.r.readV d.toNat).p, (s.c.r.readV (d.toNat + 1)).p] [a, b] [] q := by
  unfold State.vpair
  rw [withHeads_ready hc hh]
  simp only [reading_c, reading_vop, reading_rp, reading_pp]
  refine ⟨_, _, _, rfl, merged_congr (merged_vecOfElems hw _ _ f hf) fun j _ => hff j,
    merged_congr (merged_vecOfElems hw _ _ g hg) fun j _ => hgg j, crossPoison_vecPoison _ _ _ _ _ _ _ _ _ _ _ ?_ ?_⟩
  · simp
  · simp [or_assoc]

/-- Half the elements of a vector (R207). -/
theorem half_width {w : Nat} (hw : Width w) : 128 / w = 256 / w / 2 := by rcases hw with rfl | rfl | rfl | rfl <;> rfl

/-- Settles O13: what is moved is an element or zero, and each move says which. -/
theorem vectorPermuteResults : Obligations.VectorPermuteResults := by
  intro s pg t d a b n hc hh w N h k x y old shift pair
  have hw : Width w := width_intW t
  have ha := headsReady_fst hh
  have hx (j : Nat) : x j < 2 ^ (8 * w) := el_lt s a w j
  have hy (j : Nat) : y j < 2 ^ (8 * w) := el_lt s b w j
  have h0 : 0 < 2 ^ (8 * w) := Nat.two_pow_pos _
  have hhalf : 128 / w = h := half_width hw
  have zip (base j : Nat) : (if j % 2 = 0 then x (base + j / 2) else y (base + j / 2)) < 2 ^ (8 * w) := ite_lt_of_lt _ (hx _) (hy _)
  have unzip (odd j : Nat) : (if j < 128 / w then x (2 * j + odd) else y (2 * (j - 128 / w) + odd)) < 2 ^ (8 * w) :=
    ite_lt_of_lt _ (hx _) (hy _)
  have trn (odd j : Nat) : (if j % 2 = 0 then x (j + odd) else y (j - 1 + odd)) < 2 ^ (8 * w) := ite_lt_of_lt _ (hx _) (hy _)
  refine ⟨merges_cross (whole := true) hc hh hw rfl (fun j => hx _) fun _ _ => rfl,
    merges_cross (whole := true) hc ha hw rfl (fun j => ite_lt_of_lt _ (hx _) h0) fun _ _ => rfl,
    merges_cross (whole := true) hc ha hw rfl (fun j => ite_lt_of_lt _ (hx _) h0) fun _ _ => rfl,
    merges_cross (whole := true) hc ha hw rfl (fun j => hx _) fun _ _ => rfl,
    vpair_merges hc hh hw (zip 0) (zip (128 / w)) (fun j => ?zipLow) (fun j => ?zipHigh),
    vpair_merges hc hh hw (unzip 0) (unzip 1) (fun j => ?unzipLow) (fun j => ?unzipHigh),
    vpair_merges hc hh hw (trn 0) (trn 1) (fun j => ?trnLow) (fun j => ?trnHigh)⟩
  case zipLow => dsimp only; rw [Nat.zero_add]
  case zipHigh => dsimp only; rw [← hhalf]
  case unzipLow => dsimp only; rw [← hhalf]; rfl
  case unzipHigh => dsimp only; rw [← hhalf]
  case trnLow => rfl
  case trnHigh =>
    refine ite_congr rfl (fun _ => rfl) fun hodd => congrArg y ?_
    omega

end Sys2Proof.Scope
end

section
/-! Integer reductions, running sums, dot products, the hash and the counts of predicates (R208, R211 to R214). -/

namespace Sys2Proof.Scope

open Sys2Proof.Machine Sys2Proof.Safety Sys2Proof.Laws

/-! ## Least and greatest elements -/

/-- A running minimum from `z` is a lower bound, and is `z` or one of the values. -/
theorem foldl_min_spec {α β : Type} [LinearOrder β] (f : α → β) (l : List α) (z : β) :
    l.foldl (fun m x => min m (f x)) z ≤ z ∧ (∀ x ∈ l, l.foldl (fun m x => min m (f x)) z ≤ f x) ∧
      (l.foldl (fun m x => min m (f x)) z = z ∨ ∃ x ∈ l, l.foldl (fun m x => min m (f x)) z = f x) := by
  induction l generalizing z with
  | nil => simp
  | cons y l ih =>
    obtain ⟨hz, hl, hmem⟩ := ih (min z (f y))
    rw [List.foldl_cons]
    refine ⟨hz.trans (min_le_left _ _), fun x hx => ?_, ?_⟩
    · rcases List.mem_cons.mp hx with rfl | hx
      · exact hz.trans (min_le_right _ _)
      · exact hl x hx
    · rcases hmem with h | ⟨x, hx, h⟩
      · rcases min_choice z (f y) with hzy | hzy
        · exact .inl (h.trans hzy)
        · exact .inr ⟨y, List.mem_cons_self, h.trans hzy⟩
      · exact .inr ⟨x, List.mem_cons_of_mem _ hx, h⟩

/-- A running minimum that starts above every value is the least of them. -/
theorem foldl_min_least {α β : Type} [LinearOrder β] (f : α → β) {l : List α} {z : β} (hl : l ≠ [])
    (hz : ∀ x ∈ l, f x ≤ z) :
    ∃ x ∈ l, l.foldl (fun m x => min m (f x)) z = f x ∧ ∀ y ∈ l, f x ≤ f y := by
  obtain ⟨-, hlow, h | ⟨x, hx, h⟩⟩ := foldl_min_spec f l z
  · obtain ⟨x, hx⟩ := List.exists_mem_of_ne_nil l hl
    have hxz : f x = z := (hz x hx).antisymm (h ▸ hlow x hx)
    exact ⟨x, hx, h.trans hxz.symm, fun y hy => hxz ▸ h ▸ hlow y hy⟩
  · exact ⟨x, hx, h, fun y hy => h ▸ hlow y hy⟩

/-- A running maximum that starts below every value is the greatest of them. -/
theorem foldl_max_greatest {α β : Type} [LinearOrder β] (f : α → β) {l : List α} {z : β} (hl : l ≠ [])
    (hz : ∀ x ∈ l, z ≤ f x) :
    ∃ x ∈ l, l.foldl (fun m x => max m (f x)) z = f x ∧ ∀ y ∈ l, f y ≤ f x :=
  foldl_min_least (β := βᵒᵈ) f hl hz

/-! ## The ends of an integer type -/

theorem intOf_range {t : BitVec 3} {x : Nat} (hx : x < 2 ^ (8 * intW t)) : tMin t ≤ intOf t x ∧ intOf t x ≤ tMax t := by
  have hw := (width_intW t).pos
  rw [intOf_eq, tMin_eq, tMax_eq]
  split
  · exact signedOf_range (by omega) hx
  · have : (x : Int) < 2 ^ (8 * intW t) := by exact_mod_cast hx
    omega

/-- The weight of an element's sign bit is half of 2^(8w). -/
theorem half_pow {w : Nat} (hw : 0 < w) : 2 ^ (8 * w - 1) = 2 ^ (8 * w) / 2 := by
  rw [← Nat.pow_div (by omega : 1 ≤ 8 * w) two_pos, pow_one]

theorem wrapEl_tMax (t : BitVec 3) :
    wrapEl (intW t) (tMax t) = if t.toNat < 4 then 2 ^ (8 * intW t) / 2 - 1 else 2 ^ (8 * intW t) - 1 := by
  have hpos := Nat.two_pow_pos (8 * intW t)
  have cast (k : Nat) : (2 : Int) ^ k - 1 = ((2 ^ k - 1 : Nat) : Int) := by push_cast [Nat.one_le_two_pow]; rfl
  rw [tMax_eq, ← half_pow (width_intW t).pos]
  split
  · have hle : 2 ^ (8 * intW t - 1) ≤ 2 ^ (8 * intW t) := Nat.pow_le_pow_right two_pos (Nat.sub_le _ _)
    rw [cast, wrapEl_natCast, Nat.mod_eq_of_lt (by omega)]
  · rw [cast, wrapEl_natCast, Nat.mod_eq_of_lt (by omega)]

theorem wrapEl_tMin (t : BitVec 3) : wrapEl (intW t) (tMin t) = if t.toNat < 4 then 2 ^ (8 * intW t) / 2 else 0 := by
  have hw := (width_intW t).pos
  rw [tMin_eq, ← half_pow hw]
  split
  · have hp : (2 : Int) ^ (8 * intW t) = 2 * 2 ^ (8 * intW t - 1) := by rw [← pow_succ', Nat.sub_add_cancel (by omega)]
    have h : -(2 : Int) ^ (8 * intW t - 1) = ((2 ^ (8 * intW t - 1) : Nat) : Int) - 2 ^ (8 * intW t) := by push_cast; linarith
    rw [h, wrapEl_sub_pow, wrapEl_natCast, Nat.mod_eq_of_lt (Nat.pow_lt_pow_right one_lt_two (by omega))]
  · simp [wrapEl]

/-! ## The hash, the dot product and the counts -/

/-- vhash in words of 32 bits (R213). -/
theorem vhash_eq (x y : Nat) : vhash x y =
    (let h0 : BitVec 32 := BitVec.ofNat 32 x + BitVec.ofNat 32 y * 0x8B314E2D#32
     let h1 := (h0 ^^^ (h0 >>> 15)) * 0x3A9F5C71#32
     (h1 ^^^ (h1 >>> 13)).toNat) := by
  have add_mul (c : Nat) : (x + y * c) % 2 ^ 32 = (BitVec.ofNat 32 x + BitVec.ofNat 32 y * BitVec.ofNat 32 c).toNat := by
    rw [← BitVec.ofNat_mul, ← BitVec.ofNat_add, BitVec.toNat_ofNat]
  have fold (h : BitVec 32) (k : Nat) : h.toNat ^^^ (h.toNat / 2 ^ k) = (h ^^^ (h >>> k)).toNat := by
    rw [BitVec.toNat_xor, BitVec.toNat_ushiftRight, Nat.shiftRight_eq_div_pow]
  have mul (h : BitVec 32) (c : Nat) : h.toNat * c % 2 ^ 32 = (h * BitVec.ofNat 32 c).toNat := by
    rw [BitVec.toNat_mul, BitVec.toNat_ofNat, Nat.mul_mod_mod]
  simp only [vhash, add_mul, fold, mul]

theorem vhash_lt (x y : Nat) : vhash x y < 2 ^ 32 := by rw [vhash_eq]; exact BitVec.isLt _

/-- The active elements up to `i` (R211). -/
theorem filter_range_succ {N i : Nat} (hi : i < N) (p : Nat → Bool) :
    (List.range (i + 1)).filter p = ((List.range N).filter p).filter (decide <| · ≤ i) := by
  obtain ⟨k, rfl⟩ : ∃ k, N = i + 1 + k := ⟨N - (i + 1), by omega⟩
  have low : (List.range (i + 1 + k)).filter (decide <| · ≤ i) = List.range (i + 1) := by
    have first : (List.range (i + 1)).filter (decide <| · ≤ i) = List.range (i + 1) :=
      List.filter_eq_self.mpr fun j hj => decide_eq_true (Nat.le_of_lt_succ (List.mem_range.mp hj))
    rw [List.range_add, List.filter_append, first, List.filter_eq_nil_iff.mpr (by simp; omega), List.append_nil]
  rw [List.filter_comm, low]

/-- A scalar result that reads predicates alone (R190, R191, R214). -/
theorem extracts_vscal {i : Instr} {s : State} {n : Nat} {d : SReg} {v : Word} {bad : Bool} {P : Prop}
    (hx : exec i s = .next (s.vscal n d v bad)) (hP : bad = true ↔ P) : Extracts i s n [] d v P := ⟨bad, hx, hP⟩

/-- Settles O14: reductions by the least and the greatest of a list, the others by their elements. -/
theorem vectorReductionResults : Obligations.VectorReductionResults := by
  intro s pg pa t d a b n hc hh w M N on both val red old byte
  have hw : Width w := width_intW t
  have ha := headsReady_fst hh
  have hx (j : Nat) : s.el a w j < M := el_lt s a w j
  have hmod (k : Nat) : k % M < M := Nat.mod_lt _ (Nat.two_pow_pos _)
  have hval (e : Nat) : intOf t e = val e := intOf_eq t e
  have hels : s.activeEls pg a (intW t) = on.map (s.el a w) := rfl
  have hboth : s.bothActive pg pa w = both := List.filter_congr fun _ _ => Bool.and_comm _ _
  refine ⟨⟨_, ?vradd, reduces hc ha hw rfl (hmod _)⟩,
    ⟨_, ⟨fun hon => ?vrminNone, fun hon => ?vrmin⟩, reduces hc ha hw rfl (wrapEl_lt _ _)⟩,
    ⟨_, ⟨fun hon => ?vrmaxNone, fun hon => ?vrmax⟩, reduces hc ha hw rfl (wrapEl_lt _ _)⟩,
    merges_cross (whole := true) hc ha hw rfl (fun j => hmod _) fun j hj => ?vscan,
    fun ht => ⟨merges_lane (whole := true) hc hh (.inr (.inr (.inl rfl))) rfl (by simp) fun j => wrapEl_lt 4 _, ?vhash⟩,
    hboth ▸ extracts_vscal rfl (by simp), hboth ▸ extracts_vscal rfl (by simp)⟩
  case vradd => exact congrArg (· % M) List.sum_eq_foldl.symm
  case vrminNone => rw [hels, hon]; exact wrapEl_tMax t
  case vrmin =>
    obtain ⟨j, hj, hmin, hle⟩ := foldl_min_least (fun j => intOf t (s.el a w j)) hon fun j _ => (intOf_range (hx j)).2
    rw [hels, List.foldl_map, hmin, wrapEl_intOf (hx j)]
    exact ⟨⟨j, hj, rfl⟩, fun i hi => by simpa only [hval] using hle i hi⟩
  case vrmaxNone => rw [hels, hon]; exact wrapEl_tMin t
  case vrmax =>
    obtain ⟨j, hj, hmax, hge⟩ := foldl_max_greatest (fun j => intOf t (s.el a w j)) hon fun j _ => (intOf_range (hx j)).1
    rw [hels, List.foldl_map, hmax, wrapEl_intOf (hx j)]
    exact ⟨⟨j, hj, rfl⟩, fun i hi => by simpa only [hval] using hge i hi⟩
  case vscan => rw [filter_range_succ hj, List.sum_eq_foldl, List.foldl_map]
  case vhash =>
    have lane : intW t = 4 := by rcases ht with rfl | rfl <;> rfl
    have h := vint_merges (i := .vhash pg t d a b) (t := t) (op := vhash) hc hh rfl (fun _ => rfl) fun _ => by
      rw [lane]; exact vhash_lt _ _
    rw [lane] at h
    simpa only [vhash_eq] using h

end Sys2Proof.Scope
end

section
/-! Codes of floating formats: how large they are, and which are NaN (R164, R172 to R174, R197). -/

namespace Sys2Proof.Scope

open Sys2Proof.Machine Sys2Proof.Safety Sys2Proof.Laws

/-! ## The size of a code -/

/-- The magnitude codes that a format names lie below its sign bit (R164). -/
theorem largest_lt (f : FFmt) : f.largest < 2 ^ (f.width - 1) := by cases f <;> decide

theorem infCode_lt (f : FFmt) : f.infCode.getD 0 < 2 ^ (f.width - 1) := by cases f <;> decide

theorem nanCode_lt (f : FFmt) : f.nanCode.getD 0 < 2 ^ (f.width - 1) := by cases f <;> decide

theorem pow_width (f : FFmt) : 2 ^ f.width = 2 * 2 ^ (f.width - 1) := by cases f <;> rfl

theorem lt_pow_width {f : FFmt} {mag : Nat} (h : mag < 2 ^ (f.width - 1)) : mag < 2 ^ f.width := by
  rw [pow_width]; omega

theorem qnan_lt (f : FFmt) : f.qnan < 2 ^ f.width := lt_pow_width (nanCode_lt f)

theorem signed_lt {f : FFmt} {mag : Nat} (h : mag < 2 ^ (f.width - 1)) (neg : Bool) : f.signed neg mag < 2 ^ f.width := by
  rw [pow_width]
  cases neg <;> simp [FFmt.signed, boolNat] <;> omega

theorem flush_lt {f : FFmt} {ftz : Bool} {x : Nat} (h : x < 2 ^ f.width) : f.flush ftz x < 2 ^ f.width := by
  unfold FFmt.flush
  split
  · exact signed_lt (Nat.two_pow_pos _) _
  · exact h

theorem overflow_lt (f : FFmt) (neg : Bool) (mode : RMode) (ieee : Bool) : f.overflow neg mode ieee < 2 ^ f.width := by
  have hinf := infCode_lt f
  have hnan := nanCode_lt f
  refine iteInduction (motive := (· < 2 ^ f.width)) (fun _ => signed_lt (largest_lt f) neg) fun _ => ?_
  cases hi : f.infCode with
  | some c => exact signed_lt (by simpa [hi] using hinf) neg
  | none =>
    cases hn : f.nanCode with
    | some c => exact lt_pow_width (by simpa [hn] using hnan)
    | none => exact signed_lt (largest_lt f) neg

theorem round_lt (f : FFmt) (mode : RMode) (ieee neg : Bool) (m : Nat) (e : Int) : f.round mode ieee neg m e < 2 ^ f.width := by
  simp only [FFmt.round]
  split
  · exact signed_lt (Nat.two_pow_pos _) neg
  · split
    · exact overflow_lt f neg mode ieee
    · exact signed_lt ((Nat.not_lt.mp ‹_›).trans_lt (largest_lt f)) neg

/-- A result of a wide format fits its element (R172 to R174). -/
theorem encode_lt {f : FFmt} (hf : f.wide = true) (mode : RMode) (ieee ftz : Bool) (v : FVal) :
    f.encode mode ieee ftz v < 2 ^ f.width := by
  cases v with
  | nan => exact qnan_lt f
  | inf neg => simpa [FFmt.encode, hf] using signed_lt (infCode_lt f) neg
  | fin neg m e => exact flush_lt (round_lt f mode ieee neg m e)

/-! ## NaN -/

theorem isNan_iff (f : FFmt) (x : Nat) :
    f.isNan x = true ↔ f.infCode ≠ some (x % 2 ^ (f.width - 1)) ∧ f.largest < x % 2 ^ (f.width - 1) := by
  simp only [FFmt.isNan, FFmt.value]
  split_ifs <;> simp [*]

theorem isNan_iff_value (f : FFmt) (x : Nat) : f.isNan x = true ↔ f.value x = .nan := by
  unfold FFmt.isNan
  cases f.value x <;> simp

/-- A subnormal is no NaN (R164). -/
theorem isNan_of_subnormal {f : FFmt} {x : Nat} (h : f.subnormal x = true) : f.isNan x = false := by
  have hm : 2 ^ f.manBits ≤ f.largest + 1 := by cases f <;> decide
  simp only [FFmt.subnormal, decide_eq_true_eq] at h
  rw [← Bool.not_eq_true, isNan_iff]
  omega

/-- A zero is no NaN. -/
theorem isNan_zero (f : FFmt) (neg : Bool) : f.isNan (f.signed neg 0) = false := by cases f <;> cases neg <;> decide

/-- Flushing a subnormal does not make or lose a NaN (R174). -/
theorem isNan_flush (f : FFmt) (ftz : Bool) (x : Nat) : f.isNan (f.flush ftz x) = f.isNan x := by
  unfold FFmt.flush
  split
  case isTrue h => rw [isNan_zero, isNan_of_subnormal (by simp_all)]
  case isFalse => rfl

/-- An operand reads as NaN when its code is one, under FTZ too (R166, R174). -/
theorem operand_eq_nan (f : FFmt) (ftz : Bool) (x : Nat) : f.operand ftz x = .nan ↔ f.isNan x = true := by
  unfold FFmt.operand
  split
  case isTrue h => simp [isNan_of_subnormal (f := f) (x := x) (by simp_all)]
  case isFalse => exact (isNan_iff_value f x).symm

/-- The canonical NaN of a wide format is a NaN (R164). -/
theorem isNan_qnan {f : FFmt} (hf : f.wide = true) : f.isNan f.qnan = true := by
  revert hf; cases f <;> decide

/-! ## The formats of the FLT map -/

/-- The format of an operand's type and its width in bytes (R98, R187). -/
theorem fltFmt_eq (t : BitVec 3) : (if t = 0#3 then .f32 else if t = 1#3 then .bf16 else .f16 : FFmt) = fltFmt t := by
  revert t; decide

theorem fltFmt_bytes (t : BitVec 3) : (if t = 0#3 then 4 else 2) = (fltFmt t).bytes := by revert t; decide

theorem fltFmt_wide (t : BitVec 3) : (fltFmt t).wide = true := by revert t; decide

theorem fltFmt_width (t : BitVec 3) : (fltFmt t).width = 8 * (fltFmt t).bytes := by revert t; decide

theorem width_fltFmt (t : BitVec 3) : Width (fltFmt t).bytes := by revert t; unfold Width; decide

end Sys2Proof.Scope
end

section
/-! Floating values in order, the lesser and the greater of two codes, and the pairwise tree (R199, R209, R210). -/

namespace Sys2Proof.Scope

open Sys2Proof.Machine Sys2Proof.Safety Sys2Proof.Laws

/-! ## Values as extended real numbers -/

/-- The real number of a sign, a magnitude and an exponent. -/
noncomputable def realOf (neg : Bool) (m : Nat) (e : Int) : ℝ := (if neg then -(m : ℝ) else m) * 2 ^ e

/-- The extended real number of a floating value; 0 for NaN, which has none. -/
noncomputable def numOf : FVal → EReal
  | .nan => 0
  | .inf neg => if neg then ⊥ else ⊤
  | .fin neg m e => (realOf neg m e : EReal)

/-- A scaled numerator is the value over the common unit. -/
theorem scaled_eq {e e0 : Int} (h : e0 ≤ e) (neg : Bool) (m : Nat) : (scaled neg m e e0 : ℝ) = realOf neg m e * 2 ^ (-e0) := by
  have hpow : (2 : ℝ) ^ (e - e0).toNat = 2 ^ e * 2 ^ (-e0) := by
    rw [← zpow_natCast, Int.toNat_of_nonneg (by omega), sub_eq_add_neg, zpow_add₀ two_ne_zero]
  cases neg <;> simp [scaled, realOf, hpow, mul_assoc]

/-- Comparing the numerators over a common unit compares the values. -/
theorem scaled_lt_iff (na nb : Bool) (ma mb : Nat) (ea eb : Int) :
    scaled na ma ea (min ea eb) < scaled nb mb eb (min ea eb) ↔ realOf na ma ea < realOf nb mb eb := by
  have hpos : (0 : ℝ) < 2 ^ (-min ea eb) := by positivity
  rw [← Int.cast_lt (R := ℝ), scaled_eq (min_le_left _ _), scaled_eq (min_le_right _ _), mul_lt_mul_iff_left₀ hpos]

/-- The test of FVal.lt is the order of the numbers. -/
theorem lt_iff_numOf {x y : FVal} (hx : x ≠ .nan) (hy : y ≠ .nan) : x.lt y = true ↔ numOf x < numOf y := by
  cases x with
  | nan => exact absurd rfl hx
  | inf a =>
    cases y with
    | nan => exact absurd rfl hy
    | inf b => cases a <;> cases b <;> simp [FVal.lt, numOf]
    | fin nb mb eb => cases a <;> simp [FVal.lt, numOf]
  | fin na ma ea =>
    cases y with
    | nan => exact absurd rfl hy
    | inf b => cases b <;> simp [FVal.lt, numOf]
    | fin nb mb eb => simpa [FVal.lt, numOf] using scaled_lt_iff na nb ma mb ea eb

theorem lt_eq_false_iff_numOf {x y : FVal} (hx : x ≠ .nan) (hy : y ≠ .nan) : x.lt y = false ↔ numOf y ≤ numOf x := by
  rw [← Bool.not_eq_true, lt_iff_numOf hx hy, not_lt]

/-- Values that FVal.eq finds equal are not less than one another. -/
theorem lt_eq_false_of_eq {x y : FVal} (h : x.eq y = true) : y.lt x = false := by
  cases x with
  | nan => simp [FVal.eq] at h
  | inf a => cases y <;> cases a <;> simp_all [FVal.eq, FVal.lt]
  | fin na ma ea =>
    cases y with
    | fin nb mb eb => simp_all [FVal.eq, FVal.lt, min_comm]
    | _ => simp [FVal.eq] at h

/-! ## The lesser and the greater of two codes -/

/-- Code `x` stands before code `y`: not above it where the least is sought, not below it where the greatest is. -/
def Before (f : FFmt) (greater : Bool) (x y : Nat) : Prop :=
  if greater then numOf (f.value y) ≤ numOf (f.value x) else numOf (f.value x) ≤ numOf (f.value y)

theorem before_refl (f : FFmt) (greater : Bool) (x : Nat) : Before f greater x x := by simp [Before]

theorem before_trans {f : FFmt} {greater : Bool} {x y z : Nat} (h : Before f greater x y) (g : Before f greater y z) :
    Before f greater x z := by
  cases greater
  · exact le_trans (α := EReal) h g
  · exact le_trans (α := EReal) g h

/-- Two numbers: FFmt.pick chooses one of them, which stands before both. -/
theorem pick_spec {f : FFmt} (greater : Bool) {x y : Nat} (hx : f.isNan x = false) (hy : f.isNan y = false) :
    (f.pick greater x y = x ∨ f.pick greater x y = y) ∧ Before f greater (f.pick greater x y) x ∧
      Before f greater (f.pick greater x y) y := by
  have vx : f.value x ≠ .nan := fun h => by simp [(isNan_iff_value f x).mpr h] at hx
  have vy : f.value y ≠ .nan := fun h => by simp [(isNan_iff_value f y).mpr h] at hy
  simp only [FFmt.pick, hx, hy, Bool.or_self, Bool.false_eq_true, if_false]
  generalize hless : ((f.value x).lt (f.value y) || _) = less
  have order : if less then numOf (f.value x) ≤ numOf (f.value y) else numOf (f.value y) ≤ numOf (f.value x) := by
    cases less with
    | false =>
      have hlt : (f.value x).lt (f.value y) = false := (Bool.or_eq_false_iff.mp hless).1
      exact (lt_eq_false_iff_numOf vx vy).mp hlt
    | true =>
      rcases Bool.or_eq_true _ _ ▸ hless with hlt | heq
      · exact ((lt_iff_numOf vx vy).mp hlt).le
      · have heq' : (f.value x).eq (f.value y) = true := by simp_all
        exact (lt_eq_false_iff_numOf vy vx).mp (lt_eq_false_of_eq heq')
  cases less <;> cases greater <;> simp_all [Before]

/-- A NaN among two codes gives the canonical one (R199). -/
theorem pick_nan {f : FFmt} (greater : Bool) {x y : Nat} (h : f.isNan x = true ∨ f.isNan y = true) :
    f.pick greater x y = f.qnan := by
  simp [FFmt.pick, h]

theorem pick_lt {f : FFmt} (greater : Bool) {x y : Nat} (hx : x < 2 ^ f.width) (hy : y < 2 ^ f.width) :
    f.pick greater x y < 2 ^ f.width := by
  unfold FFmt.pick
  exact ite_lt_of_lt _ (qnan_lt f) (ite_lt_of_lt _ hy hx)

section
variable {f : FFmt} {greater : Bool}

/-- A fold of FFmt.pick stays within the bound of its codes. -/
theorem foldl_pick_lt {l : List Nat} {z : Nat} (hz : z < 2 ^ f.width) (hl : ∀ x ∈ l, x < 2 ^ f.width) :
    l.foldl (f.pick greater) z < 2 ^ f.width := by
  induction l generalizing z with
  | nil => exact hz
  | cons y l ih =>
    obtain ⟨hy, hl⟩ := List.forall_mem_cons.mp hl
    exact ih (pick_lt greater hz hy) hl

/-- A fold of FFmt.pick over numbers is one of them, and stands before each (R210). -/
theorem foldl_pick_spec {l : List Nat} {z : Nat} (hz : f.isNan z = false) (hl : ∀ x ∈ l, f.isNan x = false) :
    l.foldl (f.pick greater) z ∈ z :: l ∧ ∀ x ∈ z :: l, Before f greater (l.foldl (f.pick greater) z) x := by
  induction l generalizing z with
  | nil => simp [before_refl]
  | cons y l ih =>
    obtain ⟨hy, hl⟩ := List.forall_mem_cons.mp hl
    obtain ⟨hmem, hbz, hby⟩ := pick_spec greater hz hy
    have hnan : f.isNan (f.pick greater z y) = false := by rcases hmem with h | h <;> rwa [h]
    obtain ⟨ihmem, ihb⟩ := ih hnan hl
    obtain ⟨ihz, ihl⟩ := List.forall_mem_cons.mp ihb
    rw [List.foldl_cons]
    refine ⟨?_, List.forall_mem_cons.mpr ⟨before_trans ihz hbz, List.forall_mem_cons.mpr ⟨before_trans ihz hby, ihl⟩⟩⟩
    rcases List.mem_cons.mp ihmem with h | h
    · rw [h]
      rcases hmem with h | h <;> simp [h]
    · exact List.mem_cons_of_mem _ (List.mem_cons_of_mem _ h)

/-- A fold of FFmt.pick with a NaN in it is the canonical NaN (R210). -/
theorem foldl_pick_nan (hf : f.wide = true) {l : List Nat} {z : Nat} (h : z = f.qnan ∨ ∃ x ∈ l, f.isNan x = true) :
    l.foldl (f.pick greater) z = f.qnan := by
  induction l generalizing z with
  | nil => simpa using h
  | cons y l ih =>
    refine ih ?_
    rcases h with rfl | ⟨x, hx, hnan⟩
    · exact .inl (pick_nan greater (.inl (isNan_qnan hf)))
    · rcases List.mem_cons.mp hx with rfl | hx
      · exact .inl (pick_nan greater (.inr hnan))
      · exact .inr ⟨x, hx, hnan⟩

end

/-! ## The pairwise tree -/

/-- Two nodes of the tree together: their sum, or the one that is present (R209). -/
def joinNodes (add : Nat → Nat → Nat) (x y : Option Nat) : Option Nat :=
  match x, y with
  | some a, some b => some (add a b)
  | some a, none => some a
  | none, y => y

/-- The node over the 2^k leaves from `lo` on (R209). -/
def pairTree (add : Nat → Nat → Nat) (leaf : Nat → Option Nat) : Nat → Nat → Option Nat
  | lo, 0 => leaf lo
  | lo, k + 1 => joinNodes add (pairTree add leaf lo k) (pairTree add leaf (lo + 2 ^ k) k)

section
variable {add : Nat → Nat → Nat}

theorem treeLevel_cons (x y : Option Nat) (l : List (Option Nat)) :
    treeLevel add (x :: y :: l) = joinNodes add x y :: treeLevel add l := rfl

theorem treeSum_singleton (n : Nat) (x : Option Nat) : treeSum add n [x] = x := by
  induction n with
  | zero => rfl
  | succ n ih => exact ih

/-- One level joins the nodes two by two. -/
theorem treeLevel_map_range (c : Nat) (g : Nat → Option Nat) :
    treeLevel add ((List.range (2 * c)).map g) = (List.range c).map fun j => joinNodes add (g (2 * j)) (g (2 * j + 1)) := by
  induction c generalizing g with
  | zero => rfl
  | succ c ih =>
    rw [Nat.mul_succ, List.range_succ_eq_map, List.range_succ_eq_map, List.range_succ_eq_map]
    simp only [List.map_cons, List.map_map, treeLevel_cons]
    exact congrArg (joinNodes add (g 0) (g 1) :: ·) (ih fun j => g (j + 2))

/-- The levels above the nodes of height `m` make the tree over them; a level more leaves its top alone. -/
theorem treeSum_nodes (leaf : Nat → Option Nat) (k e m : Nat) :
    treeSum add (k + e) ((List.range (2 ^ k)).map fun j => pairTree add leaf (j * 2 ^ m) m) = pairTree add leaf 0 (m + k) := by
  induction k generalizing m with
  | zero => simpa using treeSum_singleton e _
  | succ k ih =>
    have nodes (j : Nat) : joinNodes add (pairTree add leaf (2 * j * 2 ^ m) m) (pairTree add leaf ((2 * j + 1) * 2 ^ m) m)
        = pairTree add leaf (j * 2 ^ (m + 1)) (m + 1) := by
      rw [pairTree, pow_succ]
      ring_nf
    rw [Nat.add_right_comm, treeSum, pow_succ', treeLevel_map_range, List.map_congr_left fun j _ => nodes j, ih,
      Nat.add_right_comm m 1 k]
    rfl

/-- FRADD's levels make the tree over all leaves (R209). -/
theorem treeSum_eq_pairTree (leaf : Nat → Option Nat) {k n : Nat} (h : k ≤ n) :
    treeSum add n ((List.range (2 ^ k)).map leaf) = pairTree add leaf 0 k := by
  obtain ⟨e, rfl⟩ := Nat.exists_eq_add_of_le h
  simpa [pairTree] using treeSum_nodes (add := add) leaf k e 0

/-- A function that joins as the tree does is the tree. -/
theorem eq_pairTree {leaf : Nat → Option Nat} {tree : Nat → Nat → Option Nat} (h0 : ∀ lo, tree lo 0 = leaf lo)
    (hs : ∀ lo k, tree lo (k + 1) = joinNodes add (tree lo k) (tree (lo + 2 ^ k) k)) (lo k : Nat) :
    tree lo k = pairTree add leaf lo k := by
  induction k generalizing lo with
  | zero => exact h0 lo
  | succ k ih => rw [hs, ih, ih, pairTree]

/-- A tree without leaves has no value. -/
theorem pairTree_none {leaf : Nat → Option Nat} (h : ∀ j, leaf j = none) (lo k : Nat) : pairTree add leaf lo k = none := by
  induction k generalizing lo with
  | zero => exact h lo
  | succ k ih => rw [pairTree, ih, ih, joinNodes]

/-- The nodes stay within a bound of the leaves and the sums. -/
theorem pairTree_lt {leaf : Nat → Option Nat} {B : Nat} (hadd : ∀ x y, add x y < B) (hleaf : ∀ j, ∀ x ∈ leaf j, x < B)
    (lo k : Nat) :
    ∀ x ∈ pairTree add leaf lo k, x < B := by
  induction k generalizing lo with
  | zero => exact hleaf lo
  | succ k ih =>
    have hx := ih lo
    have hy := ih (lo + 2 ^ k)
    rw [pairTree]
    cases hl : pairTree add leaf lo k <;> cases hr : pairTree add leaf (lo + 2 ^ k) k <;> simp_all [joinNodes]

end

end Sys2Proof.Scope
end

section
/-! Floating vector instructions and reductions (R197 to R202, R209, R210). -/

namespace Sys2Proof.Scope

open Sys2Proof.Machine Sys2Proof.Safety Sys2Proof.Laws

theorem merges_congr {i : Instr} {s : State} {n w : Nat} {as : List VOp} {pg : PReg} {d : VReg} {Q : BitVec 4 → Prop}
    {f g : Nat → Nat} (h : Merges i s n as pg w d Q f) (hfg : ∀ j, f j = g j) : Merges i s n as pg w d Q g := funext hfg ▸ h

/-- A result of a format of the FLT map fits its element (R197). -/
theorem fltFmt_encode_lt (t : BitVec 3) (mode : RMode) (ieee ftz : Bool) (v : FVal) :
    (fltFmt t).encode mode ieee ftz v < 2 ^ (8 * (fltFmt t).bytes) :=
  fltFmt_width t ▸ encode_lt (fltFmt_wide t) mode ieee ftz v

section
variable {i : Instr} {s : State} {n : Nat} {pg : PReg} {t : BitVec 3} {d : VReg} {a b : VOp} {as : List VOp} {f : Nat → Nat}

/-- A floating instruction that merges codes of its format, with lane-wise poison (R197). -/
theorem flt_merges (hc : Clear s) (hh : HeadsReady s as) (hx : exec i s = s.vmerge n .lane false pg (fltFmt t).bytes d as [] f)
    (hf : ∀ j, f j < 2 ^ (fltFmt t).width) :
    Merges i s n as pg (fltFmt t).bytes d (LanePoison s pg (fltFmt t).bytes d as [] False) f :=
  merges_lane hc hh (width_fltFmt t) hx (by simp) (fltFmt_width t ▸ hf)

/-- A floating arithmetic instruction merges one rounding of what it computes of its operands (R197, R198). -/
theorem vflt_merges {whole : Bool} {P : Prop} {op : FVal → FVal → FVal → FVal} (hc : Clear s) (hh : HeadsReady s [a, b])
    (hx : exec i s = s.vflt n whole pg t d a b op) (hP : whole = true ↔ P) :
    Merges i s n [a, b] pg (fltFmt t).bytes d (LanePoison s pg (fltFmt t).bytes d [a, b] [] P) fun j =>
      (fltFmt t).encode s.rnd true s.ftz (op ((fltFmt t).operand s.ftz (s.el a (fltFmt t).bytes j))
        ((fltFmt t).operand s.ftz (s.el b (fltFmt t).bytes j))
        ((fltFmt t).operand s.ftz (elemOf (s.c.r.readV d.toNat).v (fltFmt t).bytes j))) :=
  merges_lane hc hh (width_fltFmt t) hx hP fun _ => fltFmt_encode_lt t _ _ _ _

end

/-- The test of FCMP.cc, condition by condition (R200). -/
theorem fcmpTest_eq (cc : BitVec 2) (f : FFmt) (ftz : Bool) (x y : Nat) : fcmpTest cc (f.operand ftz x) (f.operand ftz y) =
    if cc = 0#2 then (f.operand ftz x).eq (f.operand ftz y) else if cc = 1#2 then (f.operand ftz x).lt (f.operand ftz y)
    else if cc = 2#2 then (f.operand ftz x).lt (f.operand ftz y) || (f.operand ftz x).eq (f.operand ftz y)
    else f.isNan x || f.isNan y := by
  have hcc : cc = 0#2 ∨ cc = 1#2 ∨ cc = 2#2 ∨ cc = 3#2 := by revert cc; decide
  rcases hcc with rfl | rfl | rfl | rfl
  · rfl
  · rfl
  · rfl
  · have unordered (v w : FVal) : fcmpTest 3#2 v w = (decide (v = .nan) || decide (w = .nan)) := by
      cases v <;> cases w <;> rfl
    rw [unordered]
    simp [operand_eq_nan]

/-- A class has one of nine bits (R201). -/
theorem classBit_le (f : FFmt) (x : Nat) : f.classBit x ≤ 8 := by
  simp only [FFmt.classBit]
  repeat' split
  all_goals omega

theorem eight_lt_width (t : BitVec 3) : 8 < (fltFmt t).width := by revert t; decide

/-! ## Reductions -/

/-- The code that FRADD writes for the root of its tree: a NaN is canonical, an absent root is +0 (R209). -/
def rootCode (f : FFmt) : Option Nat → Nat
  | some x => if f.isNan x then f.qnan else x
  | none => 0

/-- The indices of the active elements of a format, in ascending order (R188). -/
def onOf (s : State) (f : FFmt) (pg : PReg) : List Nat := (List.range (256 / f.bytes)).filter (active (s.rp pg) f.bytes)

/-- The code of element `i` as a reduction reads it, under FTZ (R174). -/
def codeOf (s : State) (f : FFmt) (a : VOp) (i : Nat) : Nat := f.flush s.ftz (s.el a f.bytes i)

/-- A leaf of FRADD's tree: the element's code where it is active (R209). -/
def leafOf (s : State) (f : FFmt) (pg : PReg) (a : VOp) (i : Nat) : Option Nat :=
  if active (s.rp pg) f.bytes i then some (codeOf s f a i) else none

/-- One addition of FRADD's tree, rounded to the element's type (R209). -/
def addCodes (s : State) (f : FFmt) (x y : Nat) : Nat := f.encode s.rnd true s.ftz ((f.value x).add s.rnd (f.value y))

theorem codeOf_lt (s : State) (t : BitVec 3) (a : VOp) (i : Nat) : codeOf s (fltFmt t) a i < 2 ^ (fltFmt t).width :=
  flush_lt (fltFmt_width t ▸ el_lt s a _ i)

/-- The number of elements is a power of two of at most seven levels (R187). -/
theorem levels_of_fltFmt (t : BitVec 3) : ∃ k, k ≤ 7 ∧ 2 ^ k = 256 / (fltFmt t).bytes := by
  have h : (fltFmt t).bytes = 4 ∨ (fltFmt t).bytes = 2 := by revert t; decide
  rcases h with h | h <;> rw [h]
  · exact ⟨6, by decide, by decide⟩
  · exact ⟨7, by decide, by decide⟩

/-- FRADD writes the root of the pairwise tree over its leaves (R209). -/
theorem exec_fradd (s : State) (pg : PReg) (t : BitVec 3) (d : VReg) (a : VOp) {k : Nat} (hk : k ≤ 7)
    (hN : 2 ^ k = 256 / (fltFmt t).bytes) :
    exec (.fradd pg t d a) s = s.vreduce 8 pg (fltFmt t).bytes d a
      (rootCode (fltFmt t) (pairTree (addCodes s (fltFmt t)) (leafOf s (fltFmt t) pg a) 0 k)) := by
  rw [← treeSum_eq_pairTree _ hk, hN]
  change execFradd pg t d a s = _
  simp only [execFradd, rootCode]
  rfl

/-- FRADD's result fits its element. -/
theorem rootCode_lt (s : State) (t : BitVec 3) (pg : PReg) (a : VOp) (k : Nat) :
    rootCode (fltFmt t) (pairTree (addCodes s (fltFmt t)) (leafOf s (fltFmt t) pg a) 0 k) < 2 ^ (fltFmt t).width := by
  have root := pairTree_lt (add := addCodes s (fltFmt t)) (leaf := leafOf s (fltFmt t) pg a) (B := 2 ^ (fltFmt t).width)
    (fun _ _ => encode_lt (fltFmt_wide t) _ _ _ _) (fun j x hx => ?_) 0 k
  · cases h : pairTree (addCodes s (fltFmt t)) (leafOf s (fltFmt t) pg a) 0 k with
    | none => exact Nat.two_pow_pos _
    | some x =>
      simp only [rootCode]
      split
      · exact qnan_lt _
      · exact root x h
  · have hcode := codeOf_lt s t a j
    unfold leafOf at hx
    split at hx <;> simp_all

/-- Without an active element no leaf is present, those past the last element included. -/
theorem leafOf_none {s : State} {t : BitVec 3} {pg : PReg} (h : onOf s (fltFmt t) pg = []) (a : VOp) (j : Nat) :
    leafOf s (fltFmt t) pg a j = none := by
  refine if_neg fun hact => ?_
  by_cases hj : j < 256 / (fltFmt t).bytes
  · exact List.filter_eq_nil_iff.mp h j (List.mem_range.mpr hj) hact
  · have hbit : 256 ≤ (fltFmt t).bytes * j := by
      have full := (width_fltFmt t).full
      calc 256 = (fltFmt t).bytes * (256 / (fltFmt t).bytes) := by rw [Nat.mul_comm, full]
        _ ≤ _ := Nat.mul_le_mul_left _ (Nat.not_lt.mp hj)
    rw [active, BitVec.getLsbD_of_ge _ _ hbit] at hact
    exact Bool.false_ne_true hact

section
variable {s : State} {f : FFmt} {greater : Bool} {pg : PReg} {a : VOp}

/-- The codes that FRMIN and FRMAX fold. -/
theorem activeCodes_eq : (s.activeEls pg a f.bytes).map (f.flush s.ftz) = (onOf s f pg).map (codeOf s f a) := List.map_map

theorem frpick_nil (h : onOf s f pg = []) : s.frpick f greater pg a = f.signed greater (f.infCode.getD 0) := by
  rw [State.frpick, activeCodes_eq, h]; rfl

/-- FRMIN and FRMAX fold the codes of the active elements, the first with itself too (R210). -/
theorem frpick_cons {i : Nat} {r : List Nat} (h : onOf s f pg = i :: r) :
    s.frpick f greater pg a = ((i :: r).map (codeOf s f a)).foldl (f.pick greater) (codeOf s f a i) := by
  rw [State.frpick, activeCodes_eq, h]; rfl

/-- An active NaN gives the canonical one (R210). -/
theorem frpick_nan (hf : f.wide = true) (h : ∃ i ∈ onOf s f pg, f.isNan (s.el a f.bytes i) = true) :
    s.frpick f greater pg a = f.qnan := by
  obtain ⟨i, hi, hnan⟩ := h
  cases hon : onOf s f pg with
  | nil => simp [hon] at hi
  | cons j r =>
    rw [frpick_cons hon]
    exact foldl_pick_nan hf (.inr ⟨_, List.mem_map_of_mem (hon ▸ hi), (isNan_flush f _ _).trans hnan⟩)

/-- A number that stands before another is on its right side in the test of FVal.lt. -/
theorem lt_eq_false_of_before {x y : Nat} (hx : f.isNan x = false) (hy : f.isNan y = false) (h : Before f greater x y) :
    (if greater then (f.value x).lt (f.value y) else (f.value y).lt (f.value x)) = false := by
  have vx : f.value x ≠ .nan := fun h => by simp [(isNan_iff_value f x).mpr h] at hx
  have vy : f.value y ≠ .nan := fun h => by simp [(isNan_iff_value f y).mpr h] at hy
  cases greater
  · exact (lt_eq_false_iff_numOf vy vx).mpr h
  · exact (lt_eq_false_iff_numOf vx vy).mpr h

/-- Without an active NaN the result is the code of an active element that stands before each (R210). -/
theorem frpick_numbers (hon : onOf s f pg ≠ []) (hnum : ∀ i ∈ onOf s f pg, f.isNan (s.el a f.bytes i) = false) :
    (∃ i ∈ onOf s f pg, s.frpick f greater pg a = codeOf s f a i) ∧ ∀ i ∈ onOf s f pg,
      (if greater then (f.value (s.frpick f greater pg a)).lt (f.value (codeOf s f a i))
        else (f.value (codeOf s f a i)).lt (f.value (s.frpick f greater pg a))) = false := by
  have hcode (i : Nat) (hi : i ∈ onOf s f pg) : f.isNan (codeOf s f a i) = false := (isNan_flush f _ _).trans (hnum i hi)
  obtain ⟨j, r, h⟩ := List.exists_cons_of_ne_nil hon
  rw [h] at hcode ⊢
  obtain ⟨hmem, hbefore⟩ := foldl_pick_spec (greater := greater) (hcode j List.mem_cons_self) (l := (j :: r).map (codeOf s f a))
    (List.forall_mem_map.mpr hcode)
  rw [← frpick_cons h] at hmem hbefore
  have picked : ∃ i ∈ j :: r, s.frpick f greater pg a = codeOf s f a i := by
    rcases List.mem_cons.mp hmem with hj | hmap
    · exact ⟨j, List.mem_cons_self, hj⟩
    · obtain ⟨i, hi, hcodei⟩ := List.mem_map.mp hmap
      exact ⟨i, hi, hcodei.symm⟩
  obtain ⟨i, hi, heq⟩ := picked
  exact ⟨⟨i, hi, heq⟩, fun l hl => lt_eq_false_of_before (heq ▸ hcode i hi) (hcode l hl)
    (hbefore _ (List.mem_cons_of_mem _ (List.mem_map_of_mem hl)))⟩

end

theorem frpick_lt (s : State) (t : BitVec 3) (greater : Bool) (pg : PReg) (a : VOp) :
    s.frpick (fltFmt t) greater pg a < 2 ^ (fltFmt t).width := by
  cases h : onOf s (fltFmt t) pg with
  | nil => exact frpick_nil h ▸ signed_lt (infCode_lt _) _
  | cons i r =>
    rw [frpick_cons h]
    exact foldl_pick_lt (codeOf_lt s t a i) (List.forall_mem_map.mpr fun j _ => codeOf_lt s t a j)

/-- The infinities of a wide format (R164). -/
theorem some_signed_inf {f : FFmt} (hf : f.wide = true) (neg : Bool) :
    some (f.signed neg (f.infCode.getD 0)) = f.infCode.map (f.signed neg) := by
  revert hf; cases f <;> cases neg <;> decide

theorem map_signed_false (f : FFmt) (o : Option Nat) : o.map (f.signed false) = o := by
  have h : f.signed false = id := by funext mag; simp [FFmt.signed, boolNat]
  rw [h, Option.map_id, id]

theorem some_qnan {f : FFmt} (hf : f.wide = true) : some f.qnan = f.nanCode := by revert hf; cases f <;> decide

/-- Settles O15: elements by the shapes above, FRADD by its tree, FRMIN and FRMAX by the order of values. -/
theorem floatResults : Obligations.FloatResults := by
  constructor
  · intro s pg pd t d a b cc _ hc hh F w
    have hF : F = fltFmt t := fltFmt_eq t
    have hw : w = (fltFmt t).bytes := fltFmt_bytes t
    clear_value F w
    subst hF hw
    intro fcr mode ftz x y X Y Z rnd two one
    have ha := headsReady_fst hh
    have wd := fltFmt_width t
    have hx (j : Nat) : x j < 2 ^ (fltFmt t).width := wd ▸ el_lt s a _ j
    have hy (j : Nat) : y j < 2 ^ (fltFmt t).width := wd ▸ el_lt s b _ j
    have hrnd (v : FVal) : rnd v < 2 ^ (fltFmt t).width := wd ▸ fltFmt_encode_lt t _ _ _ v
    refine ⟨vflt_merges (op := fun x y _ => x.add s.rnd y) hc hh rfl (by simp),
      vflt_merges (op := fun x y _ => x.add s.rnd y.neg) hc hh rfl (by simp),
      vflt_merges (op := fun x y _ => x.mul y) hc hh rfl (by simp),
      vflt_merges (op := fun x y z => (x.mul y).add s.rnd z) hc hh rfl (by simp),
      vflt_merges (op := fun x y z => (x.mul y).add s.rnd z.neg) hc hh rfl (by simp),
      vflt_merges (op := fun x y z => (x.mul y).neg.add s.rnd z.neg) hc hh rfl (by simp),
      vflt_merges (op := fun x y z => (x.mul y).neg.add s.rnd z) hc hh rfl (by simp),
      flt_merges hc hh rfl fun j => pick_lt _ (flush_lt (hx j)) (flush_lt (hy j)),
      flt_merges hc hh rfl fun j => pick_lt _ (flush_lt (hx j)) (flush_lt (hy j)),
      ?fabs, ?fneg,
      flt_merges hc ha rfl fun j => ?fclass,
      flt_merges hc ha rfl fun j => hrnd _,
      flt_merges hc hh rfl fun j => hrnd _,
      tests_of_vpred hc hh (width_fltFmt t) rfl fun j => fcmpTest_eq cc _ _ _ _⟩
    case fabs =>
      have cleared (j : Nat) : x j % 2 ^ ((fltFmt t).width - 1) < 2 ^ (fltFmt t).width := lt_pow_width (Nat.mod_lt _ (Nat.two_pow_pos _))
      exact merges_congr (flt_merges hc ha rfl fun j => ite_lt_of_lt _ (qnan_lt _) (cleared j)) fun j => by rw [wd]; rfl
    case fneg =>
      have inverted (v : Nat) : v % 2 ^ (fltFmt t).width < 2 ^ (fltFmt t).width := Nat.mod_lt _ (Nat.two_pow_pos _)
      exact merges_congr (flt_merges hc ha rfl fun j => ite_lt_of_lt _ (qnan_lt _) (inverted _)) fun j => by rw [wd]; rfl
    case fclass =>
      exact Nat.pow_lt_pow_right one_lt_two ((classBit_le _ _).trans_lt (eight_lt_width t))
  · intro s pg t d a _ hc hh F w
    have hF : F = fltFmt t := fltFmt_eq t
    have hw : w = (fltFmt t).bytes := fltFmt_bytes t
    clear_value F w
    subst hF hw
    intro N mode ftz leaf plus join on red
    have hb {v : Nat} (h : v < 2 ^ (fltFmt t).width) : v < 2 ^ (8 * (fltFmt t).bytes) := fltFmt_width t ▸ h
    have hwide := fltFmt_wide t
    obtain ⟨k, hk, hN⟩ := levels_of_fltFmt t
    refine ⟨⟨_, reduces hc hh (width_fltFmt t) (exec_fradd s pg t d a hk hN) (hb (rootCode_lt s t pg a k)), fun hon => ?_, ?_⟩,
      ⟨_, reduces hc hh (width_fltFmt t) rfl (hb (frpick_lt s t false pg a)), fun hon => ?_, fun h => ?_, fun hon hnum => ?_⟩,
      ⟨_, reduces hc hh (width_fltFmt t) rfl (hb (frpick_lt s t true pg a)), fun hon => ?_, fun h => ?_, fun hon hnum => ?_⟩⟩
    · rw [pairTree_none (leafOf_none hon a)]; rfl
    · intro tree h0 hs k' hk' x hx
      obtain rfl : k' = k := Nat.pow_right_injective le_rfl (hk'.trans hN.symm)
      have root := eq_pairTree (add := addCodes s (fltFmt t)) (leaf := leafOf s (fltFmt t) pg a) h0 hs 0 k'
      exact congrArg (rootCode (fltFmt t)) (root.symm.trans hx)
    · exact (congrArg some (frpick_nil hon)).trans ((some_signed_inf hwide false).trans (map_signed_false _ _))
    · exact (congrArg some (frpick_nan hwide h)).trans (some_qnan hwide)
    · exact frpick_numbers (greater := false) hon hnum
    · exact (congrArg some (frpick_nil hon)).trans (some_signed_inf hwide true)
    · exact (congrArg some (frpick_nan hwide h)).trans (some_qnan hwide)
    · exact frpick_numbers (greater := true) hon hnum

end Sys2Proof.Scope
end

section
/-! Bit fields of a vector that is laid out in blocks (R170, R217). -/

namespace Sys2Proof.Scope

open Sys2Proof.Machine Sys2Proof.Safety Sys2Proof.Laws

/-! ## Bit fields -/

theorem testBit_natBits (v lo n i : Nat) : (natBits v lo n).testBit i = (decide (i < n) && v.testBit (lo + i)) := by
  rw [natBits, Nat.testBit_mod_two_pow, Nat.testBit_div_two_pow, Nat.add_comm]

/-- A field depends on its own bits only. -/
theorem natBits_congr {v u lo n : Nat} (h : ∀ i, i < n → v.testBit (lo + i) = u.testBit (lo + i)) :
    natBits v lo n = natBits u lo n := by
  refine Nat.eq_of_testBit_eq fun i => ?_
  rw [testBit_natBits, testBit_natBits]
  by_cases hi : i < n
  · rw [h i hi]
  · simp [hi]

theorem natBits_ofNat {lo n w : Nat} (h : lo + n ≤ w) (v : Nat) : natBits (BitVec.ofNat w v).toNat lo n = natBits v lo n :=
  natBits_congr fun i hi => by rw [BitVec.toNat_ofNat, Nat.testBit_mod_two_pow, decide_eq_true (by omega), Bool.true_and]

/-- A field within a field. -/
theorem natBits_natBits {lo n l m : Nat} (h : l + m ≤ n) (v : Nat) : natBits (natBits v lo n) l m = natBits v (lo + l) m := by
  refine Nat.eq_of_testBit_eq fun i => ?_
  simp only [testBit_natBits, Nat.add_assoc]
  by_cases hi : i < m
  · simp [show l + i < n by omega]
  · simp [hi]

/-- A field below bit `o` does not see what stands from bit `o` on. -/
theorem natBits_add_low {low high o lo n : Nat} (hlow : low < 2 ^ o) (h : lo + n ≤ o) :
    natBits (low + 2 ^ o * high) lo n = natBits low lo n :=
  natBits_congr fun i hi => by rw [Nat.add_comm, Nat.testBit_two_pow_mul_add _ hlow, if_pos (by omega)]

/-- A field from bit `o` on does not see what stands below. -/
theorem natBits_add_high {low high o : Nat} (hlow : low < 2 ^ o) (lo n : Nat) :
    natBits (low + 2 ^ o * high) (o + lo) n = natBits high lo n := by
  refine Nat.eq_of_testBit_eq fun i => ?_
  rw [testBit_natBits, testBit_natBits, Nat.add_comm low, Nat.testBit_two_pow_mul_add _ hlow, if_neg (by omega)]
  congr 2
  omega

/-- Digit `i` of a number given by its digits of `r` bits. -/
theorem natBits_ofDigits {r : Nat} {ds : List Nat} (h : ∀ x ∈ ds, x < 2 ^ r) (i : Nat) :
    natBits (Nat.ofDigits (2 ^ r) ds) (r * i) r = ds.getD i 0 := by
  induction ds generalizing i with
  | nil => simp [natBits]
  | cons x ds ih =>
    obtain ⟨hx, hds⟩ := List.forall_mem_cons.mp h
    rw [Nat.ofDigits_cons]
    cases i with
    | zero => rw [Nat.mul_zero, natBits_add_low hx (by omega), natBits, pow_zero, Nat.div_one, Nat.mod_eq_of_lt hx]; rfl
    | succ i => rw [Nat.mul_succ, Nat.add_comm (r * i), natBits_add_high hx, ih hds]; rfl

/-! ## Fields side by side -/

theorem packFields_eq_sum (fs : List (Nat × Nat)) : packFields fs = (fs.map fun f => f.2 * 2 ^ f.1).sum := by
  rw [packFields, List.sum_eq_foldl, List.foldl_map]

theorem packFields_append (fs gs : List (Nat × Nat)) : packFields (fs ++ gs) = packFields fs + packFields gs := by
  simp only [packFields_eq_sum, List.map_append, List.sum_append]

/-- Fields of `r` bits one after the other from bit `o` on are the digits of a number. -/
theorem packFields_zipIdx {α : Type} (o r : Nat) (l : List α) (v : α → Nat) :
    packFields (l.zipIdx.map fun b => (o + r * b.2, v b.1)) = 2 ^ o * Nat.ofDigits (2 ^ r) (l.map v) := by
  rw [packFields_eq_sum, Nat.ofDigits_eq_sum_mapIdx, List.mapIdx_eq_zipIdx_map, List.zipIdx_map, List.map_map, List.map_map,
    ← List.sum_map_mul_left]
  refine congrArg List.sum (List.map_congr_left fun b _ => ?_)
  simp only [Function.comp, Prod.map, id_eq]
  rw [pow_add, pow_mul]
  ring

/-! ## Runs and blocks -/

theorem packRun_eq (ty : ElTy) (cs : List Nat) : packRun ty cs = Nat.ofDigits (2 ^ ty.bitWidth) (cs.map (· % 2 ^ ty.bitWidth)) := by
  rw [Nat.ofDigits_eq_foldr, List.foldr_map, packRun]
  refine congrArg (fun f => cs.foldr f 0) (funext fun c => funext fun acc => ?_)
  rw [Nat.mul_comm acc]; rfl

/-- A code of a run (R170). -/
theorem packRun_code (ty : ElTy) (cs : List Nat) (k : Nat) :
    natBits (packRun ty cs) (ty.bitWidth * k) ty.bitWidth = cs.getD k 0 % 2 ^ ty.bitWidth := by
  rw [packRun_eq, natBits_ofDigits (List.forall_mem_map.mpr fun c _ => Nat.mod_lt _ (Nat.two_pow_pos _))]
  simp only [List.getD_eq_getElem?_getD, List.getElem?_map]
  cases cs[k]? <;> simp

theorem runBits (ty : ElTy) : 8 * ty.runBytes = ty.bitWidth * 32 := by cases ty <;> rfl

/-- A run of 32 codes fits its bytes (R170). -/
theorem packRun_lt (ty : ElTy) {cs : List Nat} (h : cs.length = 32) : packRun ty cs < 2 ^ (8 * ty.runBytes) := by
  have hb : 1 < 2 ^ ty.bitWidth := by cases ty <;> decide
  rw [packRun_eq, runBits, pow_mul, ← h, ← List.length_map (f := (· % 2 ^ ty.bitWidth))]
  exact Nat.ofDigits_lt_base_pow_length hb (List.forall_mem_map.mpr fun c _ => Nat.mod_lt _ (Nat.two_pow_pos _))

/-- Blocks that a layout takes: 32 codes and a byte of scale each, the runs below byte 248 (R217). -/
def Fits (ty : ElTy) (bs : List (Nat × List Nat)) : Prop :=
  8 * ty.runBytes * bs.length ≤ 8 * 248 ∧ bs.length ≤ 8 ∧ ∀ b ∈ bs, b.1 < 256 ∧ b.2.length = 32

/-- The runs of a layout and its scales, as one number (R217). -/
theorem blockLayout_eq (ty : ElTy) (bs : List (Nat × List Nat)) : blockLayout ty bs = BitVec.ofNat 2048
    (Nat.ofDigits (2 ^ (8 * ty.runBytes)) (bs.map fun b => packRun ty b.2)
      + 2 ^ (8 * 248) * Nat.ofDigits (2 ^ 8) (bs.map Prod.fst)) := by
  have runs := packFields_zipIdx 0 (8 * ty.runBytes) bs fun b => packRun ty b.2
  have scales := packFields_zipIdx (8 * 248) 8 bs Prod.fst
  simp only [Nat.zero_add, pow_zero, Nat.one_mul] at runs
  simp only [← Nat.mul_add] at scales
  rw [blockLayout, packFields_append, runs, scales]

/-- The runs of a layout end where its last run ends (R217). -/
theorem runs_lt {ty : ElTy} {bs : List (Nat × List Nat)} {n : Nat} (hruns : 8 * ty.runBytes * bs.length ≤ n)
    (hcodes : ∀ b ∈ bs, b.2.length = 32) : Nat.ofDigits (2 ^ (8 * ty.runBytes)) (bs.map fun b => packRun ty b.2) < 2 ^ n := by
  have hbase : 1 < 2 ^ (8 * ty.runBytes) := Nat.one_lt_two_pow (by cases ty <;> decide)
  refine (Nat.ofDigits_lt_base_pow_length hbase (List.forall_mem_map.mpr fun b hb => packRun_lt ty (hcodes b hb))).trans_le ?_
  rw [← pow_mul, List.length_map]
  exact Nat.pow_le_pow_right two_pos hruns

section
variable {ty : ElTy} {bs : List (Nat × List Nat)} (h : Fits ty bs) {b : Nat} (hb : b < bs.length)
include h hb

/-- Code `k` of block `b` of a layout (R217). -/
theorem blockLayout_code {k : Nat} (hk : k < 32) :
    natBits (blockLayout ty bs).toNat (8 * ty.runBytes * b + ty.bitWidth * k) ty.bitWidth = bs[b].2.getD k 0 % 2 ^ ty.bitWidth := by
  obtain ⟨hruns, hlen, hblocks⟩ := h
  have hbits := runBits ty
  have inRun : ty.bitWidth * k + ty.bitWidth ≤ 8 * ty.runBytes := by
    rw [hbits, ← Nat.mul_succ]; exact Nat.mul_le_mul_left _ hk
  have inRuns : 8 * ty.runBytes * b + 8 * ty.runBytes ≤ 8 * 248 := by
    rw [← Nat.mul_succ]; exact (Nat.mul_le_mul_left _ hb).trans hruns
  rw [blockLayout_eq, natBits_ofNat (by omega), natBits_add_low (runs_lt hruns fun c hc => (hblocks c hc).2) (by omega),
    ← natBits_natBits inRun,
    natBits_ofDigits (List.forall_mem_map.mpr fun c hc => packRun_lt ty (hblocks c hc).2), ← packRun_code]
  simp [List.getD_eq_getElem?_getD, hb]

/-- The scale of block `b` of a layout (R217). -/
theorem blockLayout_scale : elemOf (blockLayout ty bs) 1 (248 + b) = bs[b].1 := by
  obtain ⟨hruns, hlen, hblocks⟩ := h
  rw [elemOf, Nat.mul_one, Nat.mul_add, blockLayout_eq, natBits_ofNat (by omega),
    natBits_add_high (runs_lt hruns fun c hc => (hblocks c hc).2),
    natBits_ofDigits (List.forall_mem_map.mpr fun c hc => (hblocks c hc).1)]
  simp [List.getD_eq_getElem?_getD, hb]

end

/-- The scale of a block is a byte (R217). -/
theorem packBlock_scale_lt (ty : ElTy) (mode : RMode) (ieee : Bool) (xs : List FVal) : (packBlock ty mode ieee xs).1 < 256 := by
  unfold packBlock
  split
  · exact Nat.lt_succ_self 255
  · dsimp only
    split <;> omega

theorem packBlock_length (ty : ElTy) (mode : RMode) (ieee : Bool) (xs : List FVal) :
    (packBlock ty mode ieee xs).2.length = xs.length := by
  unfold packBlock
  split <;> simp

end Sys2Proof.Scope
end

section
/-! Conversions between formats (R215 to R219). -/

namespace Sys2Proof.Scope

open Sys2Proof.Machine Sys2Proof.Safety Sys2Proof.Laws

/-- What MXPACK and B16PACK issue: the blocks of the operand, laid out (R217, R219). -/
theorem packs_blocks {i : Instr} {s : State} {d : VReg} {a : VOp} {f : FFmt} {ty : ElTy} {mode : RMode} {ieee : Bool}
    (hc : Clear s) (hh : HeadsReady s [a]) (hx : exec i s = s.vwhole 5 .cross [] d [a] (s.packBlocks a f ty mode ieee))
    (hfit : 8 * ty.runBytes * (8 / f.bytes) ≤ 8 * 248) :
    let blk (b : Nat) : Nat × List Nat :=
      packBlock ty mode ieee ((List.range 32).map fun i => f.operand s.ftz (s.el a f.bytes (32 * b + i)))
    ∃ v q, exec i s = .next ((reading s [a]).holdV 5 d ⟨v, q⟩) ∧ CrossPoison s [] [] [a] [] q ∧
      (∀ b k, b < 8 / f.bytes → k < 32 →
        natBits v.toNat (8 * ty.runBytes * b + ty.bitWidth * k) ty.bitWidth = (blk b).2.getD k 0 % 2 ^ ty.bitWidth) ∧
      (∀ b, b < 8 / f.bytes → elemOf v 1 (248 + b) = (blk b).1) := by
  intro blk
  obtain ⟨q, hv, hq⟩ := vwhole_cross (n := 5) (gs := []) (d := d) (v := s.packBlocks a f ty mode ieee) hc hh
  have fits : Fits ty ((List.range (8 / f.bytes)).map blk) := by
    refine ⟨by simpa using hfit, by simpa using Nat.div_le_self 8 _,
      List.forall_mem_map.mpr fun b _ => ⟨packBlock_scale_lt .., ?_⟩⟩
    rw [packBlock_length, List.length_map, List.length_range]
  have hlen {b : Nat} (hb : b < 8 / f.bytes) : b < ((List.range (8 / f.bytes)).map blk).length := by simpa using hb
  have hget {b : Nat} (hb : b < 8 / f.bytes) : ((List.range (8 / f.bytes)).map blk)[b]'(hlen hb) = blk b := by simp
  refine ⟨_, q, hx.trans hv, hq, fun b k hb hk => ?_, fun b hb => ?_⟩
  · rw [State.packBlocks, blockLayout_code fits (hlen hb) hk, hget hb]
  · rw [State.packBlocks, blockLayout_scale fits (hlen hb), hget hb]

/-- The wide formats that blocks are packed from and unpacked to (R217, R218). -/
theorem blockFmt_spec (bf : Bool) : let f : FFmt := if bf then .bf16 else .f32
    Width f.bytes ∧ f.wide = true ∧ f.width = 8 * f.bytes ∧ 8 / f.bytes ≤ 4 := by
  revert bf; unfold Width; decide

/-- Four runs of any element but I16 end below the scales (R217). -/
theorem runBytes_le {ty : ElTy} (h : ty ≠ .i16) : ty.runBytes ≤ 32 := by
  revert h; cases ty <;> decide

/-- Settles O16: CVT and MXUNPACK by their elements, MXPACK and B16PACK by the layout of their blocks. -/
theorem conversionResults : Obligations.ConversionResults := by
  intro s d a dty sty et bf rm defer ov ty hc hh hty fcr mode ieee ftz ds ss Q F blk packs
  have hget : (ElTy.of et.toNat).getD .e4m3 = ty := by rw [hty]; rfl
  obtain ⟨hwidth, hwide, hbits, hblocks⟩ : Width F.bytes ∧ F.wide = true ∧ F.width = 8 * F.bytes ∧ 8 / F.bytes ≤ 4 :=
    blockFmt_spec bf
  have cvtFits : 256 / max ss ds * ds ≤ 256 := (Nat.mul_le_mul_left _ (le_max_right ss ds)).trans (Nat.div_mul_le_self 256 _)
  refine ⟨writes_cross hc hh cvtFits rfl fun _ _ => rfl, fun hi => packs_blocks (mode := mode) (ieee := ieee) hc hh ?mxpack ?fits,
    writes_cross hc hh hwidth.full.le ?mxunpack fun _ _ => Nat.mod_eq_of_lt (hbits ▸ encode_lt hwide _ _ _ _),
    packs_blocks (mode := mode) hc hh rfl (by decide)⟩
  case mxpack =>
    change execMxpack d a et bf rm defer ov s = _
    rw [execMxpack, hget]; rfl
  case fits =>
    have runs := Nat.mul_le_mul (Nat.mul_le_mul_left 8 (runBytes_le hi)) hblocks
    exact runs.trans (by decide)
  case mxunpack =>
    change execMxunpack d a et bf rm defer s = _
    rw [execMxunpack, hget]; rfl

end Sys2Proof.Scope
end
